-- ==== Sys2Proof/Word.lean ====
section
/-! DEFINITION. The word types of the PX9: bytes, words and doublewords (R3). -/

namespace Sys2Proof

/-- A 32-bit word: a register, a latch, one word of a block (R3, R9). -/
abbrev W := BitVec 32
/-- A byte of memory (R3). -/
abbrev Byte := BitVec 8
/-- A 64-bit doubleword: an address, a block header, a pair (R3, R12). -/
abbrev D64 := BitVec 64

end Sys2Proof
end

