-- ==== Sys2Proof/Machine/Sparse.lean ====
section
/-! DEFINITION. Sparse maps: lists of (key, value) pairs with strictly rising keys. Used for registers, memory and every
other large store of the machine; what an unlisted key reads as is said where the map is read. -/

namespace Sys2Proof.Machine

/-- The value listed at a key. -/
def mapGet? {β : Type} : List (Nat × β) → Nat → Option β
  | [], _ => none
  | (k, v) :: rest, x => if k = x then some v else mapGet? rest x

/-- The value listed at a key, or the given default. -/
def mapGet {β : Type} (m : List (Nat × β)) (x : Nat) (dflt : β) : β := (mapGet? m x).getD dflt

/-- List a value at a key, in key order. -/
def mapSet {β : Type} : List (Nat × β) → Nat → β → List (Nat × β)
  | [], x, b => [(x, b)]
  | (k, v) :: rest, x, b =>
    if x < k then (x, b) :: (k, v) :: rest else if x = k then (x, b) :: rest else (k, v) :: mapSet rest x b

/-- Remove a key. -/
def mapErase {β : Type} : List (Nat × β) → Nat → List (Nat × β)
  | [], _ => []
  | (k, v) :: rest, x => if k = x then mapErase rest x else (k, v) :: mapErase rest x

/-- List a value, or remove the key when the value is what an unlisted key reads as: the canonical form. -/
def mapPut {β : Type} [DecidableEq β] (m : List (Nat × β)) (x : Nat) (b dflt : β) : List (Nat × β) :=
  if b = dflt then mapErase m x else mapSet m x b

/-- Change the value at a key; an unlisted key is taken as the default and is listed afterwards. -/
def mapMod {β : Type} (m : List (Nat × β)) (x : Nat) (dflt : β) (f : β → β) : List (Nat × β) :=
  mapSet m x (f (mapGet m x dflt))

/-- Keys strictly rising. -/
def mapSorted {β : Type} : List (Nat × β) → Bool
  | [] => true
  | [_] => true
  | (k, _) :: (k2, v2) :: rest => decide (k < k2) && mapSorted ((k2, v2) :: rest)

/-- The canonical form: keys strictly rising and no value equal to the default. -/
def mapCanon {β : Type} [DecidableEq β] (m : List (Nat × β)) (dflt : β) : Bool :=
  mapSorted m && m.all (fun e => decide (e.2 ≠ dflt))

end Sys2Proof.Machine
end

