-- ==== Sys2Proof/Syntax.lean ====
section
/-! DEFINITION. The instruction set: one constructor of `Instr` per row of the opcode table, and the operand fields of the
five formats (R48, R49, R51, R55). Rows of the table that name an event, not a word of a program, are constructors too,
with what the event brings as their arguments. -/

namespace Sys2Proof

/-- The fields of an L64 word, and its LIT word when it is an L96 word (R49, R51). -/
structure Fields where
  pn : Bool
  pk : BitVec 3
  d : BitVec 10
  a : BitVec 10
  b : BitVec 10
  pa : BitVec 3
  pb : BitVec 3
  dist : BitVec 5
  dS : Bool
  aS : Bool
  bS : Bool
  modx : BitVec 4
  lit : Option W
  deriving DecidableEq, Repr

/-- The fields of an S32 word (R48). -/
structure ShortFields where
  d : BitVec 10
  a : BitVec 10
  dS : Bool
  aS : Bool
  deriving DecidableEq, Repr

/-- The fields of a T64 word (R55). -/
structure TermFields where
  cond : BitVec 4
  ta : BitVec 24
  tb : BitVec 24
  deriving DecidableEq, Repr

/-- The words of a reserved opcode, kept as they stand (R68, R69): an S32 word with its OP8, or an L64/L96 word with its
OP10. -/
inductive ReservedWord where
  | short (op8 : BitVec 8) (f : ShortFields)
  | long (op10 : BitVec 10) (f : Fields)
  deriving DecidableEq, Repr

/-- An agent that issues instructions: the column core of a column, or the deal in a slot of an array core (R32, R39). -/
inductive Issuer where
  | col (c : Nat)
  | deal (core slot : Nat)
  deriving DecidableEq, Repr

/-- The operations a fabric atomic carries (R187, R188, R372): the MODX of `atom`, or a compare and swap. -/
inductive AtomKind where
  | rmw (modx : Nat)
  | cas (bytes : Nat)
  deriving DecidableEq, Repr

/-- One transaction-layer message's content (R366, R372, R373, R385). Bytes are in ascending address order; a write carries none for a
byte it leaves alone; data and writes list the offsets of their bytes that are poisoned (R409); an atomic carries the operand and compare value of each lane that names its address, in lane order (R190); `bulk`
marks `frdb` and `fwrb` (R368). -/
inductive Payload where
  | read (pa len : Nat) (order scope : Nat) (bulk : Bool)
  | write (pa : Nat) (bytes : List (Option Byte)) (order scope : Nat) (bulk : Bool) (bad : List Nat)
  | atomic (kind : AtomKind) (pa : Nat) (ops : List (D64 × D64)) (order scope : Nat)
  | data (bytes : List Byte) (bulk : Bool) (bad : List Nat)
  | poisoned
  | error
  | ack
  | retire (tags : List Nat)
  | other (kind : Nat)
  deriving DecidableEq, Repr

/-- A message of the fabric: who sent it first, who performs it, its transaction tag and its content. -/
structure Msg where
  src : Nat
  dst : Nat
  tag : Nat
  body : Payload
  deriving DecidableEq, Repr

/-- A data flit as the receiver sees it (R363, R365): its 256 bytes, and the messages that end in it. The transaction layer's own byte
format is not part of the spec, so messages are structured (log 20). -/
structure Flit where
  bytes : List Byte
  msgs : List Msg
  deriving DecidableEq, Repr

/-- What the power arbiter decides at the start of an epoch (R397), with what it measured over the past one: a set point per die, a grant
per column in mW, the package power, the power of near memory, optics, column cores and die links in mW, and whether the budget limited a
grant. -/
structure PowerPlan where
  setPoints : List Nat
  grants : List Nat
  packageMw : Nat
  otherMw : Nat
  limited : Bool
  deriving DecidableEq, Repr

/-- Where an uncorrectable error strikes a sector (R409). Sector indices are physical addresses divided by 32; in a relay buffer the
message in order of arrival and the sector of its data. -/
inductive PoisonPlace where
  | slice (col sector : Nat)
  | home (sector : Nat)
  | relay (index sector : Nat)
  deriving DecidableEq, Repr

/-- A firmware stage of bring-up (R413, R416): its image, its version, and whether its signature verifies. -/
structure Stage where
  image : List Byte
  version : Nat
  verified : Bool
  deriving DecidableEq, Repr

/-- What a column's governor reads at an interval (R399, R404): its power in mW, and whether inlet and flow are within the cooling loop's terms. -/
structure GovReading where
  mw : Nat
  coolant : Bool
  deriving DecidableEq, Repr

/-- A beat that failed its check code (R406): its segment, and whether a beat of that segment has passed since the last failure. -/
structure BeatFailure where
  seg : Nat
  passed : Bool
  deriving DecidableEq, Repr

/-- One constructor per row of the opcode table. -/
inductive Instr where
  /-- IADD (R113). L64 form: adds two 32-bit sources with wrap, signed saturation or unsigned saturation. -/
  | iadd (f : Fields)
  /-- IADD_LIT (R113). L96 literal form of iadd, with LIT replacing source B. -/
  | iaddLit (f : Fields)
  /-- ISUB (R113). L64 form: subtracts B from A with wrap or saturation. -/
  | isub (f : Fields)
  /-- ISUB_LIT (R113). L96 literal form of isub. -/
  | isubLit (f : Fields)
  /-- IMUL (R114). L64 form: writes the low 32 bits of the product. -/
  | imul (f : Fields)
  /-- IMUL_LIT (R114). L96 literal form of imul. -/
  | imulLit (f : Fields)
  /-- IMULHI (R114). L64 form: writes the high 32 bits of the signed or unsigned 64-bit product. -/
  | imulhi (f : Fields)
  /-- IMULHI_LIT (R114). L96 literal form of imulhi. -/
  | imulhiLit (f : Fields)
  /-- IMAD (R113). Ternary multiply-add A × B + C with one exact result, then wrap or saturation. -/
  | imad (f : Fields)
  /-- IADD64 (R113). L64 form: 64-bit pair addition with wrap or saturation. -/
  | iadd64 (f : Fields)
  /-- IADD64_LIT (R113). L96 literal form of iadd64, with the literal sign-extended to 64 bits. -/
  | iadd64Lit (f : Fields)
  /-- ISUB64 (R113). L64 form: 64-bit pair subtraction with wrap or saturation. -/
  | isub64 (f : Fields)
  /-- ISUB64_LIT (R113). L96 literal form of isub64. -/
  | isub64Lit (f : Fields)
  /-- IMULW (R114). L64 form: writes the full signed or unsigned 64-bit product to a pair. -/
  | imulw (f : Fields)
  /-- IMULW_LIT (R114). L96 literal form of imulw. -/
  | imulwLit (f : Fields)
  /-- IMIN (R115). L64 form: signed or unsigned minimum. -/
  | imin (f : Fields)
  /-- IMIN_LIT (R115). L96 literal form of imin. -/
  | iminLit (f : Fields)
  /-- IMAX (R115). L64 form: signed or unsigned maximum. -/
  | imax (f : Fields)
  /-- IMAX_LIT (R115). L96 literal form of imax. -/
  | imaxLit (f : Fields)
  /-- IABS (R115). Absolute value with wrap or signed saturation. -/
  | iabs (f : Fields)
  /-- INEG (R115). Negation with wrap or signed saturation. -/
  | ineg (f : Fields)
  /-- AND (R118). L64 form: bitwise and. -/
  | iand (f : Fields)
  /-- AND_LIT (R118). L96 literal form of and. -/
  | iandLit (f : Fields)
  /-- OR (R118). L64 form: bitwise or. -/
  | ior (f : Fields)
  /-- OR_LIT (R118). L96 literal form of or. -/
  | iorLit (f : Fields)
  /-- XOR (R118). L64 form: bitwise exclusive or. -/
  | ixor (f : Fields)
  /-- XOR_LIT (R118). L96 literal form of xor. -/
  | ixorLit (f : Fields)
  /-- ANDN (R118). L64 form: A and not B. -/
  | iandn (f : Fields)
  /-- ANDN_LIT (R118). L96 literal form of andn. -/
  | iandnLit (f : Fields)
  /-- SHL (R118). L64 form: left shift, giving 0 for counts of 32 or more. -/
  | shl (f : Fields)
  /-- SHL_LIT (R118). L96 literal form of shl. -/
  | shlLit (f : Fields)
  /-- SHR (R118). L64 form: logical right shift, giving 0 for counts of 32 or more. -/
  | shr (f : Fields)
  /-- SHR_LIT (R118). L96 literal form of shr. -/
  | shrLit (f : Fields)
  /-- SAR (R118). L64 form: arithmetic right shift, with the count capped at 31. -/
  | sar (f : Fields)
  /-- SAR_LIT (R118). L96 literal form of sar. -/
  | sarLit (f : Fields)
  /-- ROTL (R118). L64 form: left rotate by B[4:0]. -/
  | rotl (f : Fields)
  /-- ROTL_LIT (R118). L96 literal form of rotl. -/
  | rotlLit (f : Fields)
  /-- SHF (R119). Left or right funnel shift of (A, B) by C[4:0]. -/
  | shf (f : Fields)
  /-- CLZ (R120). Counts the leading zero bits of A. -/
  | clz (f : Fields)
  /-- POPC (R120). Counts the 1 bits of A. -/
  | popc (f : Fields)
  /-- BREV (R120). Reverses the bit order of A. -/
  | brev (f : Fields)
  /-- BFE (R121). Extracts a bit field, zero- or sign-extended, with POS and WIDTH taken from LIT. -/
  | bfe (f : Fields)
  /-- BFI (R121). Inserts the low bits of A into a field of B. -/
  | bfi (f : Fields)
  /-- ICMP (R123). L64 form: compares A and B and writes the result to a predicate. -/
  | icmp (f : Fields)
  /-- ICMP_LIT (R123). L96 literal form of icmp. -/
  | icmpLit (f : Fields)
  /-- SEL (R124). L64 form: selects A or B by predicate kN. -/
  | sel (f : Fields)
  /-- SEL_LIT (R124). L96 literal form of sel. -/
  | selLit (f : Fields)
  /-- LEA (R125). L64 form: forms a 64-bit address from a pair plus a shifted, extended index. -/
  | lea (f : Fields)
  /-- LEA_LIT (R125). L96 literal form of lea. -/
  | leaLit (f : Fields)
  /-- MOVI (R126). Moves the LIT value into a register, or sign- or zero-extends it into a pair. -/
  | movi (f : Fields)
  /-- ICSUB (R116). L64 form: subtracts B from A only when A ≥ B. -/
  | icsub (f : Fields)
  /-- ICSUB_LIT (R116). L96 literal form of icsub. -/
  | icsubLit (f : Fields)
  /-- IDIV (R117). L64 form: quotient rounded toward zero, with defined results for division by zero and overflow. -/
  | idiv (f : Fields)
  /-- IDIV_LIT (R117). L96 literal form of idiv. -/
  | idivLit (f : Fields)
  /-- IREM (R117). L64 form: remainder carrying the sign of A. -/
  | irem (f : Fields)
  /-- IREM_LIT (R117). L96 literal form of irem. -/
  | iremLit (f : Fields)
  /-- BPERM (R122). Builds each result byte from a selected byte of A or B, or from zero. -/
  | bperm (f : Fields)
  /-- ICVT (R127). Clamps a signed value to a narrow integer range and extends it. -/
  | icvt (f : Fields)
  /-- VIRD (R128). Reads the v register that each lane selects, faulting with register-window beyond the holding. -/
  | vird (f : Fields)
  /-- VIWR (R128). Writes the v register that each lane selects, faulting with register-window beyond the holding. -/
  | viwr (f : Fields)
  /-- KAND (R131). Predicate and. -/
  | kand (f : Fields)
  /-- KOR (R131). Predicate or. -/
  | kor (f : Fields)
  /-- KXOR (R131). Predicate exclusive or. -/
  | kxor (f : Fields)
  /-- KANDN (R131). Predicate kA and not kB. -/
  | kandn (f : Fields)
  /-- KMOV (R131). Copies predicate kA into kD (MODX 0). -/
  | kmov (f : Fields)
  /-- KMOV_REG (R131). Sets kD to whether register A is nonzero (MODX 1). -/
  | kmovReg (f : Fields)
  /-- KTOV (R131). Writes a predicate to a register as 0/1 or as 0/all ones. -/
  | ktov (f : Fields)
  /-- FADD (R142). L64 form: floating-point addition, rounded by fres. -/
  | fadd (f : Fields)
  /-- FADD_LIT (R142). L96 literal form of fadd. -/
  | faddLit (f : Fields)
  /-- FSUB (R142). L64 form: floating-point subtraction. -/
  | fsub (f : Fields)
  /-- FSUB_LIT (R142). L96 literal form of fsub. -/
  | fsubLit (f : Fields)
  /-- FMUL (R142). L64 form: floating-point multiplication. -/
  | fmul (f : Fields)
  /-- FMUL_LIT (R142). L96 literal form of fmul. -/
  | fmulLit (f : Fields)
  /-- FFMA (R142). Fused multiply-add a × b + c with a single rounding. -/
  | ffma (f : Fields)
  /-- FMIN (R143). L64 form: minimum with −0 below +0, preferring a number over a quiet NaN. -/
  | fmin (f : Fields)
  /-- FMIN_LIT (R143). L96 literal form of fmin. -/
  | fminLit (f : Fields)
  /-- FMAX (R143). L64 form: maximum with −0 below +0, preferring a number over a quiet NaN. -/
  | fmax (f : Fields)
  /-- FMAX_LIT (R143). L96 literal form of fmax. -/
  | fmaxLit (f : Fields)
  /-- FCMP (R147). L64 form: floating-point compare that writes a predicate. -/
  | fcmp (f : Fields)
  /-- FCMP_LIT (R147). L96 literal form of fcmp. -/
  | fcmpLit (f : Fields)
  /-- FCLS (R148). Writes a one-hot class mask for A. -/
  | fcls (f : Fields)
  /-- FSCALE (R144). L64 form: multiplies A by 2^n with one rounding. -/
  | fscale (f : Fields)
  /-- FSCALE_LIT (R144). L96 literal form of fscale. -/
  | fscaleLit (f : Fields)
  /-- FRND (R145). Rounds A to an integral value in the mode that MODX selects. -/
  | frnd (f : Fields)
  /-- FRCP (R146). Correctly rounded reciprocal. -/
  | frcp (f : Fields)
  /-- FSQRT (R146). Correctly rounded square root. -/
  | fsqrt (f : Fields)
  /-- FRSQRT (R146). Correctly rounded reciprocal square root. -/
  | frsqrt (f : Fields)
  /-- FEXP2 (R146). Correctly rounded base-2 exponential. -/
  | fexp2 (f : Fields)
  /-- FLOG2 (R146). Correctly rounded base-2 logarithm. -/
  | flog2 (f : Fields)
  /-- CVT (R149). Scalar conversion selected by the conversion code in MODX. -/
  | cvt (f : Fields)
  /-- PCVT (R150). Converts one source pair into one packed 16-bit or FP8 lane. -/
  | pcvt (f : Fields)
  /-- UPK (R151). Widens packed elements exactly. -/
  | upk (f : Fields)
  /-- PADD4 (R152). L64 form: adds four FP8 elements, each independently. -/
  | padd4 (f : Fields)
  /-- PADD4_LIT (R152). L96 literal form of padd4. -/
  | padd4Lit (f : Fields)
  /-- PMUL4 (R152). L64 form: multiplies four FP8 elements, each independently. -/
  | pmul4 (f : Fields)
  /-- PMUL4_LIT (R152). L96 literal form of pmul4. -/
  | pmul4Lit (f : Fields)
  /-- HFMA2 (R153). Fused multiply-add on each of two 16-bit elements. -/
  | hfma2 (f : Fields)
  /-- DOT2 (R154). Two-element FP16 or BF16 dot product plus C, with one rounding to FP32. -/
  | dot2 (f : Fields)
  /-- DOT4 (R154). Four-element FP8 or 8-bit integer dot product plus C. -/
  | dot4 (f : Fields)
  /-- DOT8 (R154). Eight-element 4-bit integer dot product plus C, with wrap. -/
  | dot8 (f : Fields)
  /-- XMOV (R161). Predicated move of the crossbar output of A. -/
  | xmov (f : Fields)
  /-- QSWZ (R162). Rearranges values within each quad by four 2-bit selectors. -/
  | qswz (f : Fields)
  /-- VOTE (R163). Ballot, all or any over the contributing lanes of a crew. -/
  | vote (f : Fields)
  /-- CRED (R164). Crew reduction in the fixed butterfly order. -/
  | cred (f : Fields)
  /-- CSCAN (R164). Inclusive crew scan in the fixed Hillis–Steele order. -/
  | cscan (f : Fields)
  /-- CSEGRED (R164). Segmented crew reduction, with segments taken from the mask in the lowest occupied lane. -/
  | csegred (f : Fields)
  /-- CFIRST (R166). Delivers the value held in the lowest contributing lane. -/
  | cfirst (f : Fields)
  /-- XSEL (R167). Gathers A from the lane that each lane's index names. -/
  | xsel (f : Fields)
  /-- CPERM (R167). Scatters A to indexed lanes; the highest sender wins. -/
  | cperm (f : Fields)
  /-- LD (R181). L64 global load of 1, 2, 4 or 8 bytes. -/
  | ld (f : Fields)
  /-- LD_MEM (R181). L96 memory form of ld, with scope, order, hint and offset. -/
  | ldMem (f : Fields)
  /-- ST (R181). L64 global store. -/
  | st (f : Fields)
  /-- ST_MEM (R181). L96 memory form of st. -/
  | stMem (f : Fields)
  /-- LDS (R181). L64 load from group scratch. -/
  | lds (f : Fields)
  /-- LDS_MEM (R181). L96 memory form of lds. -/
  | ldsMem (f : Fields)
  /-- STS (R181). L64 store to group scratch. -/
  | sts (f : Fields)
  /-- STS_MEM (R181). L96 memory form of sts. -/
  | stsMem (f : Fields)
  /-- LDC (R181). L64 load from the scratch of the gang member of a given rank. -/
  | ldc (f : Fields)
  /-- LDC_MEM (R181). L96 memory form of ldc. -/
  | ldcMem (f : Fields)
  /-- STC (R181). L64 store to the scratch of the gang member of a given rank. -/
  | stc (f : Fields)
  /-- STC_MEM (R181). L96 memory form of stc. -/
  | stcMem (f : Fields)
  /-- LDA (R185). Load with acquire or sequentially consistent order at a scope. -/
  | lda (f : Fields)
  /-- STRL (R185). Store with release or sequentially consistent order at a scope. -/
  | strl (f : Fields)
  /-- ATOM (R187). Indivisible read-modify-write on global memory that returns the old value. -/
  | atom (f : Fields)
  /-- ATOMC (R188). 32- or 64-bit compare and swap. -/
  | atomc (f : Fields)
  /-- ATOMS (R189). Atomic on group scratch, or on gang scratch at scope 3. -/
  | atoms (f : Fields)
  /-- MELD (R191). Combines a crew's same-address atomics into one atomic per address, with lane-order prefixes. -/
  | meld (f : Fields)
  /-- FENCE (R193). Orders the agent's accesses at a scope with acquire, release or sequentially consistent actions. -/
  | fence (f : Fields)
  /-- CWB (R195). Writes a range back to the coherence point of the scope. -/
  | cwb (f : Fields)
  /-- CINV (R196). Invalidates a range in caches narrower than the scope, and in the block caches. -/
  | cinv (f : Fields)
  /-- PREF (R197). L64 prefetch of a sector into the L1 or the column slice; never faults. -/
  | pref (f : Fields)
  /-- PREF_MEM (R197). L96 memory form of pref. -/
  | prefMem (f : Fields)
  /-- MACQ (R213). Requests ownership of the matrix engine; the group becomes owner or joins the queue. -/
  | macq (f : Fields)
  /-- MREL (R213). Gives up ownership of the matrix engine once the group's matrix commands have completed, or leaves the queue. -/
  | mrel (f : Fields)
  /-- MRES (R214). L64 form: writes an operand-buffer reservation record. -/
  | mres (f : Fields)
  /-- MRES_LIT (R214). L96 literal form of mres. -/
  | mresLit (f : Fields)
  /-- MSTG (R215). Engine command that stages bytes from global memory or scratch into a reservation. -/
  | mstg (f : Fields)
  /-- MMA (R215). Engine command that adds a tile product to accumulator tile Z. -/
  | mma (f : Fields)
  /-- MZRO (R215). Engine command that zeroes accumulator tile Z. -/
  | mzro (f : Fields)
  /-- MRD (R216). Reads one accumulator row into the crew's registers, with optional conversion. -/
  | mrd (f : Fields)
  /-- CPY (R210). L64 form: engine command that copies LEN contiguous bytes. -/
  | cpy (f : Fields)
  /-- CPY_LIT (R210). L96 literal form of cpy. -/
  | cpyLit (f : Fields)
  /-- CPY2 (R210). L64 form: strided two-dimensional copy. -/
  | cpy2 (f : Fields)
  /-- CPY2_LIT (R210). L96 literal form of cpy2. -/
  | cpy2Lit (f : Fields)
  /-- CPYG (R210). L64 form: gathers rows through an index list held in scratch. -/
  | cpyg (f : Fields)
  /-- CPYG_LIT (R210). L96 literal form of cpyg. -/
  | cpygLit (f : Fields)
  /-- CPYR (R211). L64 form: packs ragged rows end to end and writes segment-start masks. -/
  | cpyr (f : Fields)
  /-- CPYR_LIT (R211). L96 literal form of cpyr. -/
  | cpyrLit (f : Fields)
  /-- POTARM (R202). L64 form: binds a pot to a flag and adds to its remainder. -/
  | potarm (f : Fields)
  /-- POTARM_LIT (R202). L96 literal form of potarm. -/
  | potarmLit (f : Fields)
  /-- FWRB (R212). L64 form: fabric command that writes local bytes to another package. -/
  | fwrb (f : Fields)
  /-- FWRB_LIT (R212). L96 literal form of fwrb. -/
  | fwrbLit (f : Fields)
  /-- FRDB (R212). L64 form: fabric command that reads remote bytes into local memory. -/
  | frdb (f : Fields)
  /-- FRDB_LIT (R212). L96 literal form of frdb. -/
  | frdbLit (f : Fields)
  /-- SPAWN (R217). Queues one task in the group's shoe and returns a status. -/
  | spawn (f : Fields)
  /-- TSTAT (R218). Reads the shoe count and the TASKS and QUIET bits. -/
  | tstat (f : Fields)
  /-- GBAR_GANG (R219). Group arrives, with a cluster-scope release, at its gang's barrier and waits. -/
  | gbarGang (f : Fields)
  /-- GBAR_GRID (R219). Group arrives, with a package-scope release, at its grid's barrier and waits. -/
  | gbarGrid (f : Fields)
  /-- RXACQ (R220). Acquires the extended register block, or refuses, or waits. -/
  | rxacq (f : Fields)
  /-- RXREL (R220). Releases the extended register block. -/
  | rxrel (f : Fields)
  /-- ZACQ (R220). Acquires n accumulator tiles, or refuses, or waits. -/
  | zacq (f : Fields)
  /-- ZREL (R220). Releases the highest-numbered tiles after their matrix commands have completed. -/
  | zrel (f : Fields)
  /-- SETFM (R221). L64 form: writes the context's fmode and may clear fstat. -/
  | setfm (f : Fields)
  /-- SETFM_LIT (R221). L96 literal form of setfm. -/
  | setfmLit (f : Fields)
  /-- GETSR (R222). Reads trap-record, flag, matrix-ownership or pot state by selector. -/
  | getsr (f : Fields)
  /-- TICK (R223). Reads the 64-bit reference timer. -/
  | tick (f : Fields)
  /-- CYC (R223). Reads the master-cycle count of the executing die. -/
  | cyc (f : Fields)
  /-- FSET_SET (R203). L64 form: sets the soft bits of the named flags. -/
  | fsetSet (f : Fields)
  /-- FSET_SET_LIT (R203). L96 literal form of fset.set. -/
  | fsetSetLit (f : Fields)
  /-- FSET_CLR (R203). L64 form: clears the soft bits of the named flags. -/
  | fsetClr (f : Fields)
  /-- FSET_CLR_LIT (R203). L96 literal form of fset.clr. -/
  | fsetClrLit (f : Fields)
  /-- SYSRD (R232). L64 form: reads a system register into a pair. -/
  | sysrd (f : Fields)
  /-- SYSRD_LIT (R232). L96 literal form of sysrd. -/
  | sysrdLit (f : Fields)
  /-- SYSWR (R232). L64 form: writes a system register that has no behaviour of its own. -/
  | syswr (f : Fields)
  /-- SYSWR_LIT (R232). L96 literal form of syswr. -/
  | syswrLit (f : Fields)
  /-- TRET (R227). Returns from a trap, restoring privilege and possibly the q latches. -/
  | tret (f : Fields)
  /-- ECALL (R229). Traps with cause 25 to the next privilege level. -/
  | ecall (f : Fields)
  /-- WFE (R228). Completes when a pending event is unmasked. -/
  | wfe (f : Fields)
  /-- TLBI_ALL (R235). Releases at package scope and drops every cached translation. -/
  | tlbiAll (f : Fields)
  /-- TLBI_ASID (R235). L64 form: drops every translation of one ASID. -/
  | tlbiAsid (f : Fields)
  /-- TLBI_ASID_LIT (R235). L96 literal form of tlbi.asid. -/
  | tlbiAsidLit (f : Fields)
  /-- TLBI_PAGE (R235). L64 form: drops the translations of one ASID that cover an address. -/
  | tlbiPage (f : Fields)
  /-- TLBI_PAGE_LIT (R235). L96 literal form of tlbi.page. -/
  | tlbiPageLit (f : Fields)
  /-- SWPG_MV (R236). Hands a move descriptor to the swap engine and returns accepted, full or invalid. -/
  | swpgMv (f : Fields)
  /-- SWPG_XCH (R236). Hands an exchange descriptor to the swap engine. -/
  | swpgXch (f : Fields)
  /-- MSCF_WB (R237). Writes back every dirty line of the selected memory-side caches. -/
  | mscfWb (f : Fields)
  /-- MSCF_WBI (R237). Writes back and invalidates the selected memory-side caches. -/
  | mscfWbi (f : Fields)
  /-- GSAVE (R242). Saves a group or gang to a save area and frees its granules. -/
  | gsave (f : Fields)
  /-- GREST (R243). Restores a saved group or gang onto its cores if resources are free. -/
  | grest (f : Fields)
  /-- FQPOP (R240). Removes the head fault record and stores it to memory. -/
  | fqpop (f : Fields)
  /-- KRES_RETRY (R241). Resumes the record's threads, command or scalar context at PC. -/
  | kresRetry (f : Fields)
  /-- BRK (R229). Traps with cause 26. -/
  | brk (f : Fields)
  /-- HALT (R229). Completes outstanding accesses and stops fetching. -/
  | halt (f : Fields)
  /-- RSM_GO_WRITE (R230). A write of rsm_go resumes the column core of the named column from rsm_addr. -/
  | rsmGoWrite (f : Fields)
  /-- CAL_DATA_READ (R233). A read of cal_data returns the calendar entry and advances cal_idx. -/
  | calDataRead (f : Fields)
  /-- SWALLOW_COL_WRITE (R233). Sets REQ if the value has at least 4 ones, and otherwise is ignored. -/
  | swallowColWrite (f : Fields)
  /-- THR_EVENTS_WRITE (R233). Clears the throttle-event COUNT and leaves LAST. -/
  | thrEventsWrite (f : Fields)
  /-- EVPEND_WRITE (R234). Clears latched event bits written as 1. -/
  | evpendWrite (f : Fields)
  /-- POL_DEAL_WRITE (R233). Sets the dealing policy and AGE of the column's dealers, unless POLICY or AGE is invalid. -/
  | polDealWrite (f : Fields)
  /-- KRES_CONTINUE (R241). Frees the record's threads into the hand of NEXT. -/
  | kresContinue (f : Fields)
  /-- KRES_RETIRE (R241). Retires the record's threads or group, or stops the suspended command. -/
  | kresRetire (f : Fields)
  /-- BR (R133). Terminator: each thread enters the hand of the target block. -/
  | br (f : TermFields)
  /-- BRC (R133). Terminator: each thread enters target A or target B according to a predicate. -/
  | brc (f : TermFields)
  /-- BRX (R133). Terminator: each thread enters the hand of the address held in a pair. -/
  | brx (f : TermFields)
  /-- CALL (R133). Terminator: writes the return address to a pair, then enters the callee. -/
  | call (f : TermFields)
  /-- EXIT (R133). Terminator: retires the thread; in a group-scalar block, the whole group; on a column core, traps with cause exit. -/
  | exit (f : TermFields)
  /-- PARK (R136). Terminator: enters the target hand, held until the masked flags are clear. -/
  | park (f : TermFields)
  /-- TRAP (R137). Terminator: faults with cause user-trap, code c and continuation t. -/
  | trap (f : TermFields)
  /-- NOP (R130). Does nothing. -/
  | nop (f : ShortFields)
  /-- MOV (R130). Copies 32 bits from A to D. -/
  | mov (f : ShortFields)
  /-- NOT (R130). Writes the bitwise complement of A. -/
  | inot (f : ShortFields)
  /-- MOVSI (R130). Writes a sign-extended 10-bit immediate. -/
  | movsi (f : ShortFields)
  /-- RESERVED_OPCODE (R69). An issued word with a reserved OP10 or OP8 value faults its active threads with illegal-instruction, reason 1, or is a no-op when fully predicated off. -/
  | reservedOpcode (w : ReservedWord)
  /-- PAGE_WALK_COMPLETE (R350). A table walk ends in a leaf or a fault, and the threads waiting on it proceed or park. -/
  | pageWalkComplete (col : Nat)
  /-- LOAD_COMPLETE (R33). Returned load, vird or matrix-read data is written and clears the pending mark on its destination registers. -/
  | loadComplete (iss : Issuer)
  /-- GBAR_CLUSTER_RELEASE (R219). At t0 + offset × gbar_gap the waiting groups of one cluster are released, receive the episode number and acquire. -/
  | gbarClusterRelease (n : Nat)
  /-- ENGINE_COMMAND_BEGIN (R205). The engine begins a command once its WMASK is clear and its range locks are granted, acquiring at column scope. -/
  | engineCommandBegin (core id : Nat)
  /-- ENGINE_COMMAND_COMPLETE (R200). A command's last byte is performed; its hold ends, its flag may clear and its lock entries are released. -/
  | engineCommandComplete (core id : Nat)
  /-- ENGINE_COMMAND_SUSPEND (R207). A command meets a page that is not present or is far, releases its locks and posts a system record. -/
  | engineCommandSuspend (core id : Nat)
  /-- ENGINE_ERROR (R207). An error found during execution stops the command, drops its hold and stops the group. -/
  | engineError (core id : Nat)
  /-- MATRIX_OWNERSHIP_GRANT (R213). The next queued group becomes owner, the operand buffer is zeroed and the group's flag hold ends. -/
  | matrixOwnershipGrant (core : Nat)
  /-- EVENT_TRAP (R228). At a block boundary with EIE set and an unmasked pending event, takes an event trap. -/
  | eventTrap (col : Nat)
  /-- SWAP_TAKE_UP (R236). The swap engine takes up a queued command, reads the tables and takes system locks, or fails with DONE 2. -/
  | swapTakeUp (col : Nat)
  /-- SWAP_DONE (R357). Copy finished, PTE rewritten, translations dropped, locks released and DONE written as a package release. -/
  | swapDone (col : Nat)
  /-- FAULT_RECORD_POST (R238). A fault record enters the column fault queue, after waiting if the queue was full. -/
  | faultRecordPost (col : Nat)
  /-- DEAL (R256). With a deal slot free, the dealer chooses a dealable hand, snapshots fmode and fstat, and streams its units through the block. -/
  | deal (core : Nat)
  /-- RETURN_DEAL (R266). A return hand is dealt as a partial-block deal from the faulting instruction, with its q latches restored. -/
  | returnDeal (core : Nat)
  /-- DEAL_END (R264). A deal ends; its flags are ORed into fstat and its parked threads move into the kitty. -/
  | dealEnd (core slot : Nat)
  /-- DECK_RESCAN (R253). On the 4,096-cycle beat, or when an entry frees, owed threads receive deck entries. -/
  | deckRescan (core : Nat)
  /-- SCALAR_CONTEXT_RESUME (R258). A scalar context whose wait has ended takes the next free deal slot ahead of step 1. -/
  | scalarContextResume (core : Nat)
  /-- GROUP_RETIRE (R251). A group with no live thread, task, deal or command retires, releases at CSCOPE and frees its resources. -/
  | groupRetire (core grp : Nat)
  /-- TASK_FORMER (R267). Forms a crew of task threads from the shoe when a crew index and the registers fit. -/
  | taskFormer (core grp : Nat)
  /-- QUIET_REPORT (R268). The termination detector sets the grid's QUIET after every shoe is empty and every task thread has retired. -/
  | quietReport (inst : Nat)
  /-- CHAINED_GO (R332). When an instance is fully admitted and SUCC is valid, a GO is made on the successor line. -/
  | chainedGo (inst : Nat)
  /-- ACTIVE_SET_IDLE_SWAP (R259). An active group idle for 2,048 cycles is swapped for the oldest pending group that can be dealt. -/
  | activeSetIdleSwap (core : Nat)
  /-- ACTIVE_SET_STARVATION_SWAP (R259). A pending group not dealt for 3,000 ticks displaces the earliest-entered active group. -/
  | activeSetStarvationSwap (core : Nat)
  /-- ANTE_DUE (R261). After 3,000 ticks without a deal, a group's ante falls due and takes step 1 of the deal choice. -/
  | anteDue (core grp : Nat)
  /-- GROUP_ADMISSION (R335). The launch arbiter admits the next eligible group or gang onto a core with room and thermal headroom. -/
  | groupAdmission
  /-- GROUP_RESTORE (R339). The launch engine restores a saved group once its resources are free. -/
  | groupRestore
  /-- INSTANCE_COMPLETE (R340). When every group has retired, STATUS and CTICK are updated with a release at CSCOPE. -/
  | instanceComplete (inst : Nat)
  /-- REMOTE_REQUEST (R374). A home performs an arriving read, write or atomic by physical address, or answers an error or resends a duplicate's response. -/
  | remoteRequest
  /-- REMOTE_RESPONSE (R373). A response or write acknowledgement arrives at the requester and completes its access. -/
  | remoteResponse
  /-- PATTERN_BOUNDARY (R391). At each 16-cycle boundary EFF is recomputed from REQ, kg and kd. -/
  | patternBoundary (col : Nat)
  /-- SAVE_COMPLETE (R355). A pre-emption save started by the launch engine finishes writing the save area, frees the group's granules, slots and index, and hands them to the waiting head group. -/
  | saveComplete
  /-- LAUNCH_GO (R326). A store piece with GO bit 0 set reads RADDR, acquires, copies and checks the record, and accepts, refuses or faults it. -/
  | launchGo (col ctx : Nat)
  /-- HOLDING_GRANT (R220). A waiting rxacq or zacq is granted, in admission order, once enough granules are free. -/
  | holdingGrant (core : Nat)
  /-- ENGINE_ROUTE_TIMEOUT (R374). An engine command with no route for 10,000,000 ticks fails with engine-error, code 5. -/
  | engineRouteTimeout (core id : Nat)
  /-- TICKCMP_MATCH (R234). tick reaches tickcmp and raises evpend bit 3. -/
  | tickcmpMatch (col : Nat)
  /-- PREEMPT (R338). The launch engine saves lower-priority groups to make room for a blocked head group. -/
  | preempt
  /-- OWED_WORD_ARRIVAL (R355). A response owed to a withdrawn thread is written into the save area, and OWED is decremented. -/
  | owedWordArrival (tag : Nat)
  /-- HOST_READ (R419). A PCIe read is performed at the home at system scope, or answered with an error. -/
  | hostRead (pa len : Nat)
  /-- HOST_WRITE (R419). A PCIe posted write is performed at the home, or discarded and reported. -/
  | hostWrite (pa : Nat) (bytes : List Byte)
  /-- ABAVO_RESUME (R230). An Abavo resume command starts a halted column core. -/
  | abavoResume (col : Nat) (start : D64)
  /-- ABAVO_MESSAGE (R234). An Abavo message for a column sets its evpend bit 5. -/
  | abavoMessage (col : Nat)
  /-- ABAVO_ATTESTATION_REQUEST (R415). Answers a nonce with a signed quote of the measurements. -/
  | abavoAttestationRequest (nonce : List Byte)
  /-- ABAVO_CALENDAR_REWRITE (R361). Fabric firmware names a new calendar at an EPOCH; it is accepted or refused. -/
  | abavoCalendarRewrite (epoch : Nat) (entries : List (Nat × BitVec 16))
  /-- CALENDAR_SWITCH (R361). At the named EPOCH the new calendar takes effect and sets evpend bit 6. -/
  | calendarSwitch
  /-- ABAVO_PKG_ID_WRITE (R362). Sets pkg_id once per reset; a second write is refused. -/
  | abavoPkgIdWrite (v : Nat)
  /-- ABAVO_TREC_WRITE (R403). Board firmware names or disables the telemetry record address. -/
  | abavoTrecWrite (a : Nat)
  /-- SLOT_BOUNDARY (R358). A new rotor slot begins with the guard; messages not acknowledged in the ending slot return to their queues. -/
  | slotBoundary
  /-- OPENING_FLIT (R364). An opening flit is checked against CRC, EPOCH and calendar, and credit and HOLD state are taken from it. -/
  | openingFlit (port : Nat) (bytes : List Byte)
  /-- PLANE_LOST (R412). A port failing its opening flits for 8 consecutive slots marks its plane lost. -/
  | planeLost (port : Nat)
  /-- DATA_FLIT (R365). A data flit is accepted in SEQ order or discarded, and its messages are delivered or held for relay. -/
  | dataFlit (port : Nat) (flit : Flit)
  /-- TAG_RETIREMENT (R366). A destination drops its record of a retired (source, tag). -/
  | tagRetirement (src tag : Nat)
  /-- TAG_RETIRE_TIMEOUT (R366). With no traffic to carry it, a retirement message is sent within 200 µs. -/
  | tagRetireTimeout (dst : Nat)
  /-- POWER_EPOCH (R397). Every 100,000 ticks the arbiter sets master set points and grants column power. -/
  | powerEpoch (p : PowerPlan)
  /-- PLL_RELOCK_DONE (R394). The relocked PLL switches the die to its new set point and logs a step record. -/
  | pllRelockDone (die : Nat)
  /-- GOVERNOR_INTERVAL (R399). Every 10,000 ticks the governor adjusts kg by power and temperature; `coolant`: inlet and flow are within R404. -/
  | governorInterval (col : Nat) (read : GovReading)
  /-- TEMPERATURE_SAMPLE (R402). Every 10,000 ticks each column and stack sensor is sampled. -/
  | temperatureSample (cols stackTemps : List Int)
  /-- THERMAL_TRIP (R399). A reading of 115 °C stops every clock, halts the column cores and stops the ports. -/
  | thermalTrip
  /-- DROOP_DETECT (R392). A droop seen by one of the column's detectors sets kd to 8, records the issue signature and abandons a hop in relock. -/
  | droopDetect (col detector : Nat)
  /-- DROOP_HOLD_EXPIRY (R392). 64 master cycles after the last droop, the droop removals end. -/
  | droopHoldExpiry (col : Nat)
  /-- SIGNATURE_CHECK (R393). At 64-cycle boundary w, master cycle 64w, a matching signature sets kd to 2 for 256 cycles. -/
  | signatureCheck (col w : Nat)
  /-- SIGNATURE_HOLD_EXPIRY (R393). The 256-cycle signature removal period ends. -/
  | signatureHoldExpiry (col : Nat)
  /-- VOLTAGE_STEP (R401). The die voltage moves one step, of so many mV and at most 10, toward its set point. -/
  | voltageStep (die mv : Nat)
  /-- VBUS_RETRAIN_DUE (R406). Retraining falls due by age or temperature and starts when no transfer is outstanding. -/
  | vbusRetrainDue (col : Nat)
  /-- VBUS_RETRAIN_FORCE (R406). After 200,000 ticks without a gap, new transfers are held and retraining is forced. -/
  | vbusRetrainForce (col : Nat)
  /-- VBUS_RETRAIN_END (R405). Training ends, spares are assigned and vbus_slow is updated. -/
  | vbusRetrainEnd (col : Nat) (failed : List Nat)
  /-- VBUS_BEAT_FAIL (R406). A beat failing its check code is resent; a second failure forces retraining; `passed`: a beat of the segment has passed since its last failure. -/
  | vbusBeatFail (col : Nat) (beat : BeatFailure)
  /-- MATRIX_SELF_TEST (R407). An idle engine self-tests its sub-arrays and fences any that fail. -/
  | matrixSelfTest (core : Nat) (failing : BitVec 4)
  /-- POOL_UNCORRECTABLE_ERROR (R409). An uncorrectable pool error stops the owning group with engine-error, code 10. -/
  | poolUncorrectableError (core grp : Nat)
  /-- SECTOR_POISON (R409). An uncorrectable error in a slice, cache, buffer or memory poisons the sector. -/
  | sectorPoison (place : PoisonPlace)
  /-- CHANNEL_RETIRE (R411). Firmware retires a near-memory channel and starts its copy to a spare. -/
  | channelRetire (stack ch : Nat)
  /-- SPARE_COPY_DONE (R411). The copy of a retired channel to its spare completes. -/
  | spareCopyDone (stack ch : Nat)
  /-- POWER_ON (R416). Rails come up at the fallback clock and column core 0 starts in the boot ROM; with what the sensors first read, the failed bonds found at training and the firmware stages. -/
  | powerOn (temps stackTemps : List Int) (bonds : List (List Nat)) (stages : List Stage)
  deriving DecidableEq, Repr

end Sys2Proof
end

