-- ==== Sys2Proof/Machine/State.lean ====
section
/-! DEFINITION. The state of one PX9 package: plain data, holding every piece of state the spec gives the machine, and the
state after reset. Maps are lists of (key, value) pairs with rising keys. -/

namespace Sys2Proof.Machine

/-- Why the machine itself stops. -/
inductive Fault where
  /-- raised by every step after a package trip: nothing further is performed and only a reset restarts the package (R399).
  Safe: the hardware performs nothing either. -/
  | tripped
  deriving DecidableEq, Repr

/-- Why an instruction has no meaning. -/
inductive Refusal where
  /-- raised by an arm of `exec` whose meaning is not written. Safe: the machine stops. -/
  | notModelled (mnemonic : String)
  deriving DecidableEq, Repr

/-- What a meaning answers. -/
abbrev Out (σ : Type) := Host.Outcome σ Fault Refusal

/-- Registers by index; an unlisted register reads 0. -/
abbrev Regs := List (Nat × W)

/-! ### Threads and deals -/

/-- The State field of a thread (R14). -/
inductive TState where | waiting | dealt | parked | retired
  deriving DecidableEq, Repr

/-- A fault record (R263, R239): cause and code of R231, the faulting instruction, the data address, POS, the FP flags and
the continuation of `trap`. -/
structure FaultInfo where
  cause : Nat
  code : Nat
  pc : D64
  vaddr : D64
  pos : Nat
  flags : BitVec 5
  next : D64
  deriving DecidableEq, Repr

/-- Why a thread is parked: its own fault, a system lock (R198), crew-hold or quad-hold (R168, R169), or a withdrawal by a
save (R355). -/
inductive ParkKind where | own | sysLock (asid : Nat) | crewHold | quadHold | withdrawn
  deriving DecidableEq, Repr

/-- A parked thread: why, its record, how many threads its unit has (1, 4 or 32), and whether it has been resolved in place
and waits for its unit or for the end of its deal (R170, R264). -/
structure Park where
  kind : ParkKind
  info : FaultInfo
  unitSize : Nat
  resolved : Bool
  deriving DecidableEq, Repr

/-- What has been found of the header at TRAPENT (R137): it has not been read, it could not be read when a thread was delivered, or it
is a trap-entry block or none. -/
inductive TrapCheck where | unread | unreadable | good | bad
  deriving DecidableEq, Repr

/-- A thread of a group (R13 to R17, R137). `next` is its next block, or the block it is in while dealt or parked; `ret` the
instruction a resumed thread restarts at; `entry` whether it holds a kitty entry; `owed` whether its bit is owed (R252);
`fence` the scope of a release fence that its next strong store or atomic completes (R286); `lane` the lane it last parked in (R170); `entering` the cause with which it was delivered to a trap-entry block whose header
could not be read then (R137; log 34). -/
structure Thread where
  st : TState
  next : D64
  ret : Option D64
  v : Regs
  k : BitVec 8
  q : Regs
  parkMask : BitVec 12
  isTask : Bool
  trap : Option FaultInfo
  park : Option Park
  entry : Bool
  owed : Bool
  fence : Option Nat
  lane : Nat
  entering : Option FaultInfo
  deriving DecidableEq, Repr

/-- The registers of a helper thread (R35). -/
structure HelperRegs where
  v : Regs
  k : BitVec 8
  q : Regs
  deriving DecidableEq, Repr

/-- One occupied lane of a trick (R31): its position, the thread, its registers if it is a helper, and whether its thread
has left the deal by parking. -/
structure Lane where
  pos : Nat
  tidx : Nat
  helper : Option HelperRegs
  gone : Bool
  deriving DecidableEq, Repr

/-- What the response to a part of a remote access brought (R374, R409): bytes and the offsets of those that are poisoned, or none. -/
inductive RData where
  | bytes (bs : List Byte) (bad : List Nat)
  | poisoned
  | failed
  deriving DecidableEq, Repr

/-- One part of an access that waits for another package (R373): the request's tag, the offset and number of its bytes in the
data that comes back, the line it fills on a cacheable-remote page, and what has arrived. A local part has arrived at once. -/
structure RPart where
  tag : Nat
  off : Nat
  len : Nat
  line : Option Nat
  got : Option RData
  deriving DecidableEq, Repr

/-- What is done with the bytes of such an access: a load of a size code (R174), the old value of an atomic of n bytes, or
the old value of a `meld`, to be combined with the lane's prefix (R191), or a swap descriptor (R236). -/
inductive RUse where
  | load (code : Nat)
  | fetched (n : Nat)
  | meld (modx : Nat) (pre : Option D64)
  | descriptor (xch : Bool)
  deriving DecidableEq, Repr

/-- An atomic that is performed after others of its instruction have been answered: one of a unit another member of which may still fault
(R168, R169), one that follows such an atomic at its address (R190), or one of a `meld` at a higher address (R191). -/
structure LateAtom where
  kind : AtomKind
  operand : D64
  compare : D64
  order : Nat
  scope : Nat
  release : Option Nat
  deriving DecidableEq, Repr

/-- One lane's outstanding access (R373), by the lane's position. -/
structure RAccess where
  lane : Nat
  dX : Bool
  dIdx : Nat
  use : RUse
  vaddr : D64
  parts : List RPart
  late : Option LateAtom
  deriving DecidableEq, Repr

/-- The remote accesses an instruction waits for, and the scope of the acquire that follows them. -/
structure RWait where
  accs : List RAccess
  acquire : Option Nat
  deriving DecidableEq, Repr

/-- The registers of one lane as they stand when a load of its trick issues; the scalar context's own in `s`. -/
structure LaneSave where
  tidx : Nat
  v : Regs
  s : Regs
  q : Regs
  k : BitVec 8
  deriving DecidableEq, Repr

/-- An instruction of a trick whose registers are pending (R33): the trick, its position in the body, what it waits for, and the
registers of its lanes as it issued, to which a lane that faults returns (log 31), and the flags that later instructions raised, by thread,
which count once no earlier instruction can fault (R38). -/
structure Pend where
  trick : Nat
  pos : Nat
  wait : RWait
  saves : List LaneSave
  flags : List (Nat × BitVec 5)
  deriving DecidableEq, Repr

/-- A deal in flight (R31, R32, R257, R264): its group, the header address and the words fetched, the position in words of
the next instruction, the trick it issues for next and those it has still to issue for after that one, the `fmode` and `fstat`
snapshots, the flag accumulator, whether it is a return deal, the instructions whose registers are pending in order of issue,
whether every instruction has issued, and whether it has ended and holds its slot for kitty entries (R264). -/
structure Deal where
  grp : Nat
  addr : D64
  hdr : D64
  body : List W
  pos : Nat
  tricks : List (List Lane)
  trick : Nat
  todo : List Nat
  fmode : W
  fstat : W
  acc : BitVec 5
  isReturn : Bool
  pend : List Pend
  done : Bool
  held : Bool
  deriving DecidableEq, Repr

/-! ### Groups -/

/-- What a scalar context waits for (R258, R198). -/
inductive ScalarWait where
  | gbar (grid : Bool) (episode : Nat)
  | mrel
  | rxacq
  | zacq (n : Nat)
  | sysLock (va : D64) (asid : Nat)
  deriving DecidableEq, Repr

/-- The scalar context of a group: not executing, in a deal slot, waiting outside a slot, ready for the next free slot,
stopped by a fault (R11), or to be restarted by a `kres` retry. -/
inductive ScalarSt where
  | idle
  | running
  | waiting (w : ScalarWait) (d : Deal)
  | ready (d : Deal) (result : Option W)
  | stopped (info : FaultInfo) (addr : D64)
  | restart (addr pc : D64)
  deriving DecidableEq, Repr

/-- A pot (R201): its remainder and its bound flag. -/
structure Pot where
  rem : Int
  flag : Nat
  deriving DecidableEq, Repr

/-- A resident group (R18, R22 to R26, R250, R251, R259, R278). `asid` and `pkg` are what the special registers of that
name read for its whole life (R21); `disposed`: the column core has disposed of the stopped group (R241, R259); `anteFrom`: the tick from
which its ante counts, moved on by the time that does not count (R261). -/
structure Group where
  inst : Nat
  gflat : Nat
  slotBase : Nat
  threads : List (Nat × Thread)
  s : Regs
  q : Regs
  k : BitVec 8
  scalar : ScalarSt
  fmode : W
  fstat : W
  soft : BitVec 12
  pots : List (Nat × Pot)
  scratch : List Host.Cell
  xheld : Bool
  tiles : List Regs
  shoe : List (D64 × D64)
  skip : Nat
  stopped : Bool
  disposed : Bool
  trapCheck : TrapCheck
  active : Bool
  activeSince : Nat
  admitSeq : Nat
  lastDeal : Option Nat
  anteFrom : Option Nat
  anteDue : Bool
  idleSince : Option Nat
  flush : List Nat
  flushFull : Bool
  saving : Bool
  fence : Option Nat
  asid : Nat
  pkg : Nat
  deriving DecidableEq, Repr

/-- A deck entry (R252, R265): group, key address (a block, or the instruction of a return hand), the header address of a
return hand, BITS by thread index, PASS, HELD as counted so far, since when it has been blocked on flags, and the header the dealer holds
for its block (R273). -/
structure Hand where
  grp : Nat
  addr : D64
  ret : Option D64
  bits : List Nat
  pass : Nat
  held : Nat
  heldFrom : Option Nat
  hdr : Option D64
  deriving DecidableEq, Repr

/-! ### Engines of an array core -/

/-- A reservation of the operand buffer (R214). -/
structure Rsv where
  base : Nat
  sizeM1 : Nat
  fmt : Nat
  bl : Nat
  soff : Nat
  deriving DecidableEq, Repr

/-- How far an engine command has come (R205, R207). -/
inductive CmdPhase where | accepted | waitingLock | begun | suspended
  deriving DecidableEq, Repr

/-- An outstanding fabric request of an engine command (R212): its tag, the byte offset it serves, its bytes, and the local place
a read's bytes go to, none for group or cluster scratch. -/
structure CmdTag where
  tag : Nat
  off : Nat
  len : Nat
  place : Option Nat
  deriving DecidableEq, Repr

/-- An accepted engine command (R204 to R212, R215). `started`: it has begun once, so its wait mask is not tested again; `prog`:
the bytes moved, or requested of another package, in the command's own order; `tags`: its outstanding fabric requests; `redo`:
ranges a save left unacknowledged (R355); `err`: an error found outside its own turn; `noRoute`: since when it has had no route. -/
structure Cmd where
  id : Nat
  grp : Nat
  op : Nat
  pc : D64
  flag : Option Nat
  wmask : BitVec 12
  pot : Nat
  pen : Bool
  d : D64
  a : D64
  len : W
  rows : W
  sstride : W
  dstride : W
  aux1 : W
  aux2 : W
  dsp : Nat
  ssp : Nat
  rsvA : Option Rsv
  rsvB : Option Rsv
  z : Nat
  phase : CmdPhase
  started : Bool
  lists : List W
  prog : Nat
  tags : List CmdTag
  redo : List (Nat × Nat)
  err : Option Nat
  noRoute : Option Nat
  deriving DecidableEq, Repr

/-- The matrix engine (R213, R214, R407, R408). `fenced`: the sub-arrays out of service. -/
structure Matrix where
  owner : Option Nat
  queue : List (Nat × Option Nat)
  rsv : List (Nat × Rsv)
  buf : List Host.Cell
  cmds : List Cmd
  fenced : BitVec 4
  lastTest : Nat
  deriving DecidableEq, Repr

/-- A cached translation (R349): ASID, virtual page number in 64 KiB units, page size code and the leaf. -/
structure TlbEntry where
  asid : Nat
  vpn : Nat
  size : Nat
  leaf : D64
  deriving DecidableEq, Repr

/-- A sector in an L1: its bytes and its written-byte mask (R276). -/
structure L1Sector where
  data : BitVec 256
  mask : BitVec 32
  deriving DecidableEq, Repr

/-- An array core (R31, R204, R213, R252, R253, R264, R273, R276, R349, R408). `blocks` holds the sectors of its block cache; `orphans` holds the
scratch of retired members of gangs not yet wholly retired (R186). `lastRescan`: the effective cycle of the last beat of the rescan,
`rescanDue`: a rescan is due since; `looked`: the tick up to which the dealer has observed the core, `antePaused`: ante time has not counted
since (R261). -/
structure ACore where
  groups : List (Nat × Group)
  deck : List Hand
  deal0 : Option Deal
  deal1 : Option Deal
  rescanPtr : Nat
  lastRescan : Nat
  rescanDue : Bool
  looked : Nat
  antePaused : Bool
  l1 : List (Nat × L1Sector)
  blocks : List (Nat × BitVec 256)
  dtlb : List TlbEntry
  ftlb : List TlbEntry
  copyq : List Cmd
  matrix : Matrix
  outOfService : Bool
  orphans : List (Nat × Nat × List Host.Cell)
  deriving DecidableEq, Repr

/-! ### Columns -/

/-- The run state of a column core (R230, R226, R399). -/
inductive RunState where | running | haltedReset | haltedVector | haltedByHalt | haltedByTrip
  deriving DecidableEq, Repr

/-- The trap registers of one level (R226, R232). -/
structure TrapRegs where
  vec : D64
  cause : D64
  blk : D64
  next : D64
  info : D64
  q0 : D64
  q1 : D64
  q2 : D64
  q3 : D64
  scr : D64
  deriving DecidableEq, Repr

/-- What a column core fetches next: a block; the handler of a trap just taken (R226); the block of a start from reset or after a vector
failure (R230). -/
inductive FetchKind where | block | handler | start
  deriving DecidableEq, Repr

/-- A column core (R39, R225 to R232). `addr` is the header of the block in execution, or of the block about to be fetched
when `body` is none, which is fetched as `fetch` says; `tlbi`: the accesses a `tlbi` in execution still waits for, by tag (R235). -/
structure ColCore where
  run : RunState
  fetch : FetchKind
  addr : D64
  hdr : D64
  body : Option (List W)
  pos : Nat
  s : Regs
  q : Regs
  k : BitVec 8
  fmode : W
  fstat : W
  snapMode : W
  snapStat : W
  acc : BitVec 5
  priv : Nat
  trapS : TrapRegs
  trapM : TrapRegs
  eie : Bool
  ptbase : D64
  asid : W
  rsmAddr : D64
  wait : Option RWait
  tlbi : Option (List Nat)
  l1 : List (Nat × L1Sector)
  tlb : List TlbEntry
  flush : List Nat
  flushFull : Bool
  fence : Option Nat
  deriving DecidableEq, Repr

/-- A sector in a column slice (R276, R277, R409): bytes, which are valid, which are dirty, which of the dirty ones a strong access or a
release at cluster scope or wider has made known to the cluster (R281, R290), the core whose L1 may hold it fully written, and poison that
arose in the slice. -/
structure SliceSector where
  data : BitVec 256
  valid : BitVec 32
  dirty : BitVec 32
  wide : BitVec 32
  owner : Option Nat
  poison : Bool
  deriving DecidableEq, Repr

/-- A walk in flight or ended in a fault (R349, R350): what is looked up, who waits (an issuer and a trick of its deal), and the CODE of
a fault. The first 32 unfinished walks of a column are in flight, the others queue. -/
structure Walk where
  asid : Nat
  root : Nat
  va : D64
  waiters : List (Issuer × Nat)
  failed : Option Nat
  deriving DecidableEq, Repr

/-- Who holds or asks for range locks (R304). -/
inductive LockOwner where
  | cmd (core id : Nat)
  | swap (col id : Nat)
  deriving DecidableEq, Repr

/-- An entry of the range-lock table (R304). `sys`: a system entry; `dst`: a destination. -/
structure LockEntry where
  sys : Bool
  dst : Bool
  asid : Nat
  first : Nat
  last : Nat
  frames : List (Nat × Nat)
  owner : LockOwner
  deriving DecidableEq, Repr

/-- A waiting lock request (R306). -/
structure LockReq where
  owner : LockOwner
  entries : List LockEntry
  deriving DecidableEq, Repr

/-- A command of the swap engine (R236, R357). `doneAt` is the place of DONE; `root` the page-table root read at take-up; `active`:
its locks are held. -/
structure Swap where
  id : Nat
  xch : Bool
  first : D64
  second : D64
  size : Nat
  asid : Nat
  doneAt : Nat
  root : Nat
  taken : Bool
  active : Bool
  deriving DecidableEq, Repr

/-- A record of the column fault queue (R239), with the threads or the engine command attached; `attached`: the group it is of has not been
retired since. -/
structure Rec where
  cause : Nat
  code : Nat
  recid : Nat
  flags : BitVec 5
  pos : Nat
  pc : D64
  next : D64
  vaddr : D64
  nthr : Nat
  slot : Nat
  core : Nat
  ctx : Nat
  grp : Nat
  src : Nat
  tick : Nat
  threads : List Nat
  cmd : Nat
  attached : Bool
  deriving DecidableEq, Repr

/-- A launch line (R325, R327). -/
structure Line where
  raddr : D64
  ctick : D64
  dseq : Nat
  reason : Nat
  gseq : Nat
  live : Nat
  st : Nat
  deriving DecidableEq, Repr

/-- An instance copy (R331): its 256 bytes and whether it is in use. -/
structure InstCopy where
  bytes : List Byte
  used : Bool
  deriving DecidableEq, Repr

/-- A launch window (R323): its lines, WINVA, its instance copies, and the GOs not yet taken with the RADDR each reads. -/
structure Window where
  lines : List (Nat × Line)
  winva : D64
  copies : List (Nat × InstCopy)
  gos : List (Nat × D64)
  deriving DecidableEq, Repr

/-- Power and clock control of a column (R390 to R393, R397 to R400, R405, R406). `req`/`eff` as `swallow_col`; `patAt`: the master cycle, a
multiple of 16, at which the latest changes of `req`, `kg` and `kd` make a new `eff`; `recent`: when matrix commands began (0), tricks issued
(1) and bursts were copied (2), over the last two windows of 64 cycles, `sigAt`: the last window compared (R392, R393); temperatures in 1/16 °C, powers in mW (`addPrev`, `addMw`: PDENS
admitted in the interval `measMw` covers and since, R400); `govAt`: the next interval; `retrainDue`, `retrainFrom`: since when a
retraining is due, or runs; `ecycBase`, `cycAt`: effective
cycles at the last change of the rate, and the `cyc` it was taken at; `lastBeatFail`: the segments whose last beat failed. -/
structure Governor where
  req : BitVec 16
  eff : BitVec 16
  patAt : Option Nat
  kg : Nat
  kd : Nat
  recent : List (Nat × Nat)
  sigAt : Nat
  droopUntil : Option Nat
  sigUntil : Option Nat
  sigTable : List (BitVec 12)
  thrLast : Nat
  thrCount : Nat
  temp : Int
  measMw : Nat
  refMw : Nat
  addPrev : Nat
  addMw : Nat
  grantMw : Nat
  kgHigh : Bool
  govAt : Nat
  vbusSlow : BitVec 32
  trainTick : Nat
  trainTemp : Int
  retrainDue : Option Nat
  retrainFrom : Option Nat
  failedBonds : List (Nat × Nat)
  lastBeatFail : List Nat
  eccCorr : Nat
  eccUncorr : Nat
  ecycBase : Nat
  cycAt : Nat
  deriving DecidableEq, Repr

/-- A column: column core, event registers, slice, walker, lock table, fault queue, swap engine, windows, governor. -/
structure Column where
  core : ColCore
  policy : Nat
  age : Nat
  calIdx : Nat
  evLatched : BitVec 64
  evmask : D64
  tickcmp : D64
  slice : List (Nat × SliceSector)
  wtlb : List TlbEntry
  walks : List Walk
  locks : List LockEntry
  lockWait : List LockReq
  fq : List Rec
  fqWait : List Rec
  popped : List Rec
  nextRecid : Nat
  swaps : List Swap
  windows : List (Nat × Window)
  gov : Governor
  deriving DecidableEq, Repr

/-! ### Dies and the package -/

/-- A record of `step_log` (R396). -/
structure StepRec where
  tick : Nat
  cyc : Nat
  mhz : Nat
  seq : Nat
  deriving DecidableEq, Repr

/-- A die: its master clock (R389, R394, R396), its voltage (R401), its memory-side cache as the lines it holds, each with whether it is
dirty (R274, R279), and the counters of that cache (R232). -/
structure Die where
  mhz : Nat
  setPoint : Nat
  hop : Option Nat
  abandoned : Bool
  retryAt : Nat
  retryTo : Option Nat
  cycBase : Nat
  tickBase : Nat
  log : List StepRec
  logCount : Nat
  volt : Nat
  msc : List (Nat × Bool)
  mscHit : BitVec 64
  mscMiss : BitVec 64
  mscWb : BitVec 64
  deriving DecidableEq, Repr

/-- A launch record (R329). -/
structure LaunchRec where
  entry : D64
  trapEnt : D64
  crews : Nat
  tdimx : Nat
  tdimy : Nat
  base : Nat
  part : W
  argbytes : Nat
  gdimx : Nat
  gdimy : Nat
  gdimz : Nat
  gang : Nat
  pdens : Nat
  flags : W
  prio : Nat
  pscope : Nat
  cscope : Nat
  succ : Nat
  pmask : W
  deriving DecidableEq, Repr

/-- A barrier (R219): its episode, who has arrived, and when each cluster is released once all have. -/
structure Barrier where
  ep : Nat
  arrived : List Nat
  release : List (Nat × Nat)
  deriving DecidableEq, Repr

/-- An accepted instance (R331 to R340): its line, its copy, its record, how many groups have been admitted, which have
retired, whether it may be admitted, its successor link and its barriers; `quietSeen`: its grid has been quiet (R268); `heatAt`: the count
`heatCount` stood at when thermal headroom last refused it (R337). -/
structure Inst where
  col : Nat
  ctx : Nat
  line : Nat
  copy : Nat
  winva : D64
  lrec : LaunchRec
  order : Nat
  isNewest : Bool
  chainedFrom : Option Nat
  admitted : Nat
  retired : List Nat
  chainDone : Bool
  gridBar : Barrier
  gangBars : List (Nat × Barrier)
  quietSeen : Bool
  quiet : Bool
  heatAt : Option Nat
  deriving DecidableEq, Repr

/-- An access still owed to a withdrawn thread of a group being saved or saved (R355): the group's core and index, the thread, the
threads of its unit, the access, the address of its instruction and the registers of the unit as it issued, and the scope of the acquire
that follows it. -/
structure Owed where
  core : Nat
  grp : Nat
  tidx : Nat
  unitSize : Nat
  acc : RAccess
  retry : D64
  regs : List LaneSave
  acquire : Option Nat
  deriving DecidableEq, Repr

/-- A saved group (R354, R356): where it was resident, its state, its hands, its unfinished engine commands, the ASID of its context, the
records that stopped it, the acquires its withdrawn threads still owe, and its area: places and lengths, and the offsets of the owed
words in it. -/
structure SavedGroup where
  core : Nat
  idx : Nat
  grp : Group
  hands : List Hand
  cmds : List Cmd
  asid : Nat
  stops : List Rec
  acquires : List Nat
  places : List (Nat × Nat)
  owedAt : List Nat
  deriving DecidableEq, Repr

/-- A saved group or gang (R242, R338, R354): its context, the place of its first area, the size of one area, whether the launch engine
saved it, by which decision and with which slots, its members and the accesses still owed. -/
structure Save where
  id : Nat
  ctx : Nat
  area : Nat
  size : Nat
  byEngine : Bool
  slots : Nat
  decision : Nat
  members : List SavedGroup
  owed : List Owed
  deriving DecidableEq, Repr

/-- A save in progress (R242, R355): the groups by core and index, the tick of its decision, the column core or the launch engine it is
for, and for the engine its area and slots and the decision it belongs to; and the accesses owed to threads withdrawn so far. -/
structure Saving where
  col : Nat
  groups : List (Nat × Nat)
  start : Nat
  byEngine : Bool
  area : Nat
  slots : Nat
  decision : Nat
  owed : List Owed
  deriving DecidableEq, Repr

/-- An agent of the fabric and of flush sets: a group by core and resident index, or a column core (R280). -/
inductive Agent where
  | grp (core idx : Nat)
  | col (c : Nat)
  deriving DecidableEq, Repr

/-- A live transaction tag (R366, R376): its request, the agent and sector it belongs to, and whether it is a posted write. -/
structure LiveTag where
  tag : Nat
  agent : Agent
  pkg : Nat
  first : Nat
  last : Nat
  posted : Bool
  deriving DecidableEq, Repr

/-- A message sent on a port and not yet acknowledged (R365): the last flit it went in, and the die whose relay buffer it came from. -/
structure Sent where
  seq : Nat
  fromDie : Option Nat
  msg : Msg
  deriving DecidableEq, Repr

/-- A data flit this package has sent: its ACKSEQ, SEQ and FILL, and its number among all it ever sent (R363). -/
structure OutFlit where
  ack : Nat
  seq : Nat
  fill : Nat
  num : Nat
  deriving DecidableEq, Repr

/-- A fabric port (R363 to R365, R412). `txFree`: the time of the slot at which its last flit has passed (R358); `out`: the flits sent in the
slot. -/
structure Port where
  isOpen : Bool
  peer : Nat
  dcred : Nat
  rcred : Nat
  rfree : Nat
  txSeq : Nat
  txFree : Nat
  rxSeq : Nat
  rxBad : Bool
  sent : List Sent
  out : List OutFlit
  failed : Nat
  lost : Bool
  deriving DecidableEq, Repr

/-- The fabric side of the package (R358 to R380): the slot clock and calendars; the ports; own messages waiting to leave, requests and
responses that have arrived, messages held for relay with their die; what has been performed for other packages and the answers, live tags
of its own; its own HOLD bit, the HOLD bits heard in slot `heardAt` by sender, and the packages last heard directly with their own bit;
retirements to send (destination, since when, tags) and
retirements received (source, tag); and how many data flits it has sent. -/
structure Fabric where
  epoch : Nat
  loaded : Bool
  slotStart : Nat
  cal : List (Nat × BitVec 16)
  calNext : List (Nat × List (Nat × BitVec 16))
  ports : List (Nat × Port)
  outq : List Msg
  inq : List Msg
  respq : List Msg
  relay : List (Nat × Msg)
  done : List Msg
  live : List LiveTag
  nextTag : Nat
  hold : Bool
  heard : List (Nat × List Nat)
  heardAt : Nat
  direct : List (Nat × Bool)
  retire : List (Nat × Nat × List Nat)
  retiring : List (Nat × Nat)
  discarded : Nat
  flits : Nat
  deriving DecidableEq, Repr

/-- What the package has answered or reported to the outside (R230, R234, R364, R399, R404, R405, R415, R419). -/
inductive Report where
  | hostData (pa : Nat) (bytes : List Byte)
  | hostUnsupported (pa : Nat)
  | hostPoisoned (pa : Nat)
  | hostWriteDropped (pa : Nat)
  | vectorFailure (col : Nat)
  | calendarRefused (epoch : Nat)
  | pkgIdRefused (v : Nat)
  | quote (bytes : List Byte)
  | openingFailed (port : Nat)
  | planeLost (port : Nat)
  | postedError (tag : Nat)
  | kindDiscarded (kind : Nat)
  | coolingFault (col : Nat)
  | trip
  | segmentOut (col seg : Nat)
  | subArrayFenced (core sub : Nat)
  deriving DecidableEq, Repr

/-- Hidden activity of caches and counters that no row of the opcode table names and the spec lets happen at any time
(R273, R276, R279, R349, R410; logs 9, 10). -/
inductive Hidden where
  | dropL1 (core sector : Nat)
  | holdBlock (core sector : Nat)
  | dropBlock (core sector : Nat)
  | dropColL1 (col sector : Nat)
  | evictSlice (col sector : Nat)
  | dropTlb (core n : Nat)
  | dropColTlb (col n : Nat)
  | dropWalkerTlb (col n : Nat)
  | mscClean (die line : Nat)
  | mscDrop (die line : Nat)
  | eccCorrected (col : Nat)
  deriving DecidableEq, Repr

/-- What one step does: an agent issues, an event occurs, or hidden activity happens. -/
inductive Act where
  | issue (who : Issuer)
  | event (e : Instr)
  | hidden (h : Hidden)
  deriving DecidableEq, Repr

/-- One turn of the agenda: how many ticks pass, and what then happens. -/
structure Turn where
  dt : Nat
  act : Act
  deriving DecidableEq, Repr

/-- An access of the host that a system lock holds (R308, R419). -/
inductive HostAcc where
  | read (pa len : Nat)
  | write (pa : Nat) (bytes : List Byte)
  deriving DecidableEq, Repr

/-- The package. `hostq`: accesses of the host that system locks hold, in order of arrival; `packageMw`: the package power last measured
(R397), `coolFaults`: events counted as faults of the cooling loop (R404); `heatCount`: how often a group that thermal headroom refused may
have been tested again (R337); `restored`: saves that have been put back, whose areas may still stand. -/
structure State where
  agenda : List Turn
  rot : Nat
  cur : Issuer
  tick : Nat
  tripped : Bool
  mem : List Host.Cell
  poison : List Nat
  marks : List (Nat × Nat)
  cols : List (Nat × Column)
  cores : List (Nat × ACore)
  dies : List (Nat × Die)
  ctxroots : List (Nat × D64)
  pkgId : Nat
  pkgIdWritten : Bool
  gbarGap : Nat
  insts : List (Nat × Inst)
  nextInst : Nat
  nextOrder : Nat
  nextId : Nat
  saves : List Save
  restored : List Save
  savings : List Saving
  fabric : Fabric
  meas : List (List Byte)
  trec : Nat
  telemetry : Nat
  packageMw : Nat
  coolFaults : Nat
  heatCount : Nat
  hostq : List HostAcc
  nextEpoch : Nat
  sampleAt : Nat
  tstk : List Int
  spares : List (Nat × List Nat)
  retiredCh : List (Nat × Nat)
  copyingCh : List (Nat × Nat)
  reports : List Report
  deriving DecidableEq, Repr

/-! ### Reset -/

/-- The trap registers after reset (R232). -/
def TrapRegs.zero : TrapRegs := ⟨0, 0, 0, 0, 0, 0, 0, 0, 0, 0⟩

/-- A column core halted from reset (R230, R232, R416; log 7). -/
def ColCore.reset : ColCore :=
  { run := .haltedReset, fetch := .block, addr := 0, hdr := 0, body := none, pos := 0, s := [], q := [], k := 0, fmode := 0x10, fstat := 0,
    snapMode := 0x10, snapStat := 0, acc := 0, priv := 3, trapS := .zero, trapM := .zero, eie := false, ptbase := 0, asid := 0,
    rsmAddr := 0, wait := none, tlbi := none, l1 := [], tlb := [], flush := [], flushFull := false, fence := none }

/-- A column governor after reset (R232, R405; log 8). -/
def Governor.reset : Governor :=
  { req := 0xFFFF, eff := 0xFFFF, patAt := none, kg := 0, kd := 0, recent := [], sigAt := 0, droopUntil := none,
    sigUntil := none, sigTable := [], thrLast := 0, thrCount := 0, temp := 0, measMw := 0, refMw := 0, addPrev := 0, addMw := 0,
    grantMw := 0, kgHigh := false, govAt := 0, vbusSlow := 0, trainTick := 0, trainTemp := 0, retrainDue := none, retrainFrom := none,
    failedBonds := [],
    lastBeatFail := [], eccCorr := 0, eccUncorr := 0, ecycBase := 0, cycAt := 0 }

/-- A column after reset (R232). -/
def Column.reset : Column :=
  { core := .reset, policy := 0, age := 16, calIdx := 0, evLatched := 0, evmask := 0, tickcmp := 0xFFFFFFFFFFFFFFFF,
    slice := [], wtlb := [], walks := [], locks := [], lockWait := [], fq := [], fqWait := [], popped := [], nextRecid := 0,
    swaps := [], windows := [], gov := .reset }

/-- The block the column core of column 0 fetches first: the boot ROM at machine privilege (R416; log 5, the address is a
design choice). -/
def bootAddr : D64 := 0x1000

/-- The column of the boot core: running, about to fetch the boot block (R416). -/
def Column.boot : Column := { Column.reset with core := { ColCore.reset with run := .running, addr := bootAddr } }

/-- A matrix engine after reset (log 7). -/
def Matrix.reset : Matrix :=
  { owner := none, queue := [], rsv := [], buf := [], cmds := [], fenced := 0, lastTest := 0 }

/-- An array core after reset. -/
def ACore.reset : ACore :=
  { groups := [], deck := [], deal0 := none, deal1 := none, rescanPtr := 0, lastRescan := 0, rescanDue := false, looked := 0,
    antePaused := false, l1 := [], blocks := [], dtlb := [], ftlb := [],
    copyq := [], matrix := .reset, outOfService := false, orphans := [] }

/-- A die after reset: the 800 MHz fallback (R389, R416). -/
def Die.reset : Die :=
  { mhz := 800, setPoint := 800, hop := none, abandoned := false, retryAt := 0, retryTo := none, cycBase := 0, tickBase := 0,
    log := [], logCount := 0, volt := 0, msc := [], mscHit := 0, mscMiss := 0, mscWb := 0 }

/-- A port that carries nothing. -/
def Port.reset : Port :=
  { isOpen := false, peer := 0, dcred := 0, rcred := 0, rfree := 0, txSeq := 0, txFree := 0, rxSeq := 0, rxBad := false, sent := [],
    out := [], failed := 0, lost := false }

/-- The fabric before any calendar is loaded (R362; log 20). -/
def Fabric.reset : Fabric :=
  { epoch := 0, loaded := false, slotStart := 0, cal := [], calNext := [], ports := [], outq := [], inq := [], respq := [],
    relay := [], done := [], live := [], nextTag := 0, hold := false, heard := [], heardAt := 0, direct := [], retire := [], retiring := [],
    discarded := 0, flits := 0 }

/-- The package right after reset (R416): column core 0 about to fetch its first block at machine privilege, every other
column core halted, every clock at the 800 MHz fallback, memory with nothing listed. -/
def State.reset : State :=
  { agenda := [], rot := 0, cur := .col 0, tick := 0, tripped := false, mem := [], poison := [], marks := [],
    cols := [(0, Column.boot)], cores := [], dies := [], ctxroots := [], pkgId := 0, pkgIdWritten := false, gbarGap := 0,
    insts := [], nextInst := 0, nextOrder := 0, nextId := 0, saves := [], restored := [], savings := [], fabric := .reset,
    meas := List.replicate 8 (List.replicate 32 0), trec := 0, telemetry := 0, packageMw := 0, coolFaults := 0, heatCount := 0, hostq := [], nextEpoch := 0, sampleAt := 0,
    tstk := List.replicate 8 0, spares := [], retiredCh := [], copyingCh := [], reports := [] }

end Sys2Proof.Machine
end

