-- ==== Sys2Proof/Machine/Access.lean ====
section
/-! DEFINITION. Reading and changing the parts of the state: columns, cores, groups, threads, dies; bytes and words; time. -/

namespace Sys2Proof.Machine

/-! ### Bits and bytes -/

/-- Value of a little-endian byte list (R3). -/
def leNat : List Byte → Nat
  | [] => 0
  | b :: rest => b.toNat + 256 * leNat rest

/-- The n little-endian bytes of a value (R3). -/
def leBytes : Nat → Nat → List Byte
  | 0, _ => []
  | n + 1, v => BitVec.ofNat 8 v :: leBytes n (v / 256)

/-- Number of 1 bits among the n lowest of a value (R7). -/
def popNat : Nat → Nat → Nat
  | 0, _ => 0
  | n + 1, v => v % 2 + popNat n (v / 2)

/-- Bit i of a natural number. -/
def bitOf (v i : Nat) : Bool := v.testBit i

/-- v[hi:lo] of a natural number (R6). -/
def fieldOf (v hi lo : Nat) : Nat := v / 2 ^ lo % 2 ^ (hi - lo + 1)

/-- The pair of words as one doubleword: the even register holds bits [31:0] (R12). -/
def pairOf (even odd : W) : D64 := odd ++ even

/-- Low word of a doubleword. -/
def loWord (v : D64) : W := v.extractLsb' 0 32
/-- High word of a doubleword. -/
def hiWord (v : D64) : W := v.extractLsb' 32 32

/-- Change an element of a list, if it is there. -/
def listMod {α : Type} (l : List α) (i : Nat) (f : α → α) : List α :=
  match l, i with
  | [], _ => []
  | a :: r, 0 => f a :: r
  | a :: r, n + 1 => a :: listMod r n f

/-- Insert into a rising list without repeats. -/
def insNat (x : Nat) : List Nat → List Nat
  | [] => [x]
  | y :: r => if x < y then x :: y :: r else if x = y then y :: r else y :: insNat x r

/-- The least value of a function over a list. -/
def minOf {α : Type} (f : α → Nat) : List α → Option Nat
  | [] => none
  | a :: r => match minOf f r with
    | none => some (f a)
    | some m => some (min (f a) m)

/-- The first element with the least value of a function. -/
def argMin {α : Type} (f : α → Nat) (l : List α) : Option α :=
  match minOf f l with
  | none => none
  | some m => l.find? (fun a => f a == m)

/-! ### Registers -/

/-- Read a register; an unlisted one reads 0 (R15, R17, R18). -/
def getReg (r : Regs) (n : Nat) : W := mapGet r n 0
/-- Write a register. -/
def setReg (r : Regs) (n : Nat) (v : W) : Regs := mapPut r n v 0
/-- Read predicate `n` of a predicate word; `k0` reads 1 (R16). -/
def getPred (k : BitVec 8) (n : Nat) : Bool := n == 0 || k.getLsbD n
/-- Write predicate `n`; a write to `k0` is discarded (R16). -/
def setPred (k : BitVec 8) (n : Nat) (v : Bool) : BitVec 8 :=
  if n = 0 then k
  else if v then k ||| (1#8 <<< n) else k &&& ~~~(1#8 <<< n)

/-! ### Geometry (R1, R20) -/

/-- The column of an array core. -/
def coreColumn (n : Nat) : Nat := n / 12
/-- The position of an array core in its column. -/
def coreInCol (n : Nat) : Nat := n % 12
/-- The cluster of a column. -/
def clusterOf (c : Nat) : Nat := c / 4
/-- The die of a column. -/
def dieOf (c : Nat) : Nat := c / 8
/-- The columns of a cluster. -/
def clusterCols (k : Nat) : List Nat := [4 * k, 4 * k + 1, 4 * k + 2, 4 * k + 3]
/-- The columns of a die. -/
def dieCols (d : Nat) : List Nat := clusterCols (2 * d) ++ clusterCols (2 * d + 1)
/-- Every column of the package. -/
def allCols : List Nat := List.range 32
/-- The array cores of a column. -/
def colCores (c : Nat) : List Nat := (List.range 12).map (12 * c + ·)

/-- The columns of a scope, or of a placement scope, that hold a column (R280, R334). -/
def scopeCols (scope c : Nat) : List Nat :=
  if scope = 2 then [c] else if scope = 3 then clusterCols (clusterOf c) else if scope = 4 then dieCols (dieOf c) else allCols

/-! ### Parts of the state -/

def State.col (s : State) (c : Nat) : Column := mapGet s.cols c Column.reset
def State.setCol (s : State) (c : Nat) (x : Column) : State := { s with cols := mapSet s.cols c x }
def State.modCol (s : State) (c : Nat) (f : Column → Column) : State := s.setCol c (f (s.col c))
def State.cc (s : State) (c : Nat) : ColCore := (s.col c).core
def State.setCc (s : State) (c : Nat) (x : ColCore) : State := s.modCol c (fun y => { y with core := x })
def State.modCc (s : State) (c : Nat) (f : ColCore → ColCore) : State := s.setCc c (f (s.cc c))
def State.gov (s : State) (c : Nat) : Governor := (s.col c).gov
def State.modGov (s : State) (c : Nat) (f : Governor → Governor) : State := s.modCol c (fun y => { y with gov := f y.gov })
def State.core (s : State) (n : Nat) : ACore := mapGet s.cores n ACore.reset
def State.setCore (s : State) (n : Nat) (x : ACore) : State := { s with cores := mapSet s.cores n x }
def State.modCore (s : State) (n : Nat) (f : ACore → ACore) : State := s.setCore n (f (s.core n))
def State.grp? (s : State) (n g : Nat) : Option Group := mapGet? (s.core n).groups g
def State.setGrp (s : State) (n g : Nat) (x : Group) : State := s.modCore n (fun y => { y with groups := mapSet y.groups g x })
def State.modGrp (s : State) (n g : Nat) (f : Group → Group) : State :=
  match s.grp? n g with
  | some x => s.setGrp n g (f x)
  | none => s
def State.die (s : State) (d : Nat) : Die := mapGet s.dies d Die.reset
def State.modDie (s : State) (d : Nat) (f : Die → Die) : State := { s with dies := mapSet s.dies d (f (s.die d)) }
def State.ctxroot (s : State) (n : Nat) : D64 := mapGet s.ctxroots n 0
def State.inst? (s : State) (i : Nat) : Option Inst := mapGet? s.insts i
def State.modInst (s : State) (i : Nat) (f : Inst → Inst) : State :=
  match s.inst? i with
  | some x => { s with insts := mapSet s.insts i (f x) }
  | none => s
def State.modFab (s : State) (f : Fabric → Fabric) : State := { s with fabric := f s.fabric }
def State.report (s : State) (r : Report) : State := { s with reports := s.reports ++ [r] }

/-- Change a thread of a group. -/
def Group.modThr (g : Group) (t : Nat) (f : Thread → Thread) : Group :=
  match mapGet? g.threads t with
  | some x => { g with threads := mapSet g.threads t (f x) }
  | none => g
def State.thr? (s : State) (n g t : Nat) : Option Thread := (s.grp? n g).bind (fun x => mapGet? x.threads t)
def State.modThr (s : State) (n g t : Nat) (f : Thread → Thread) : State := s.modGrp n g (fun x => x.modThr t f)

/-- The deal in a slot of a core. -/
def ACore.deal (x : ACore) (slot : Nat) : Option Deal := if slot = 0 then x.deal0 else x.deal1
def ACore.setDeal (x : ACore) (slot : Nat) (d : Option Deal) : ACore :=
  if slot = 0 then { x with deal0 := d } else { x with deal1 := d }
def State.deal? (s : State) (n slot : Nat) : Option Deal := (s.core n).deal slot
def State.setDeal (s : State) (n slot : Nat) (d : Option Deal) : State := s.modCore n (fun x => x.setDeal slot d)

/-- Set a latched bit of `evpend` (R234). -/
def State.latchEvent (s : State) (c bit : Nat) : State :=
  s.modCol c (fun y => { y with evLatched := y.evLatched ||| (1#64 <<< bit) })

/-! ### Time (R223, R390, R396) -/

/-- Master cycles of a die. -/
def State.cyc (s : State) (d : Nat) : Nat := (s.die d).cycBase + (s.tick - (s.die d).tickBase) * (s.die d).mhz / 1000

/-! ### Patterns (R390, R391) -/

/-- The order in which slots are cleared. -/
def swallowOrder : List Nat := [15, 7, 11, 3, 13, 5, 9, 1, 14, 6, 10, 2, 12, 4, 8, 0]

/-- A pattern with its first k ones cleared in that order. -/
def clearOnes (req : BitVec 16) (k : Nat) : BitVec 16 :=
  (swallowOrder.foldl (fun (acc : BitVec 16 × Nat) i =>
    if acc.2 != 0 && acc.1.getLsbD i then (acc.1 &&& ~~~(1#16 <<< i), acc.2 - 1) else acc) (req, k)).1

/-- EFF from REQ and the removals. -/
def effOf (req : BitVec 16) (kg kd : Nat) : BitVec 16 := clearOnes req (min (kg + kd) (popNat 16 req.toNat - 4))

/-- The pulses a pattern passes from one master cycle up to another: slot m mod 16 decides the pulse of cycle m (R390). -/
def pulses (eff : BitVec 16) (from_ till : Nat) : Nat :=
  let below := fun (m : Nat) => m / 16 * popNat 16 eff.toNat + popNat (m % 16) eff.toNat
  below till - below from_

/-- The pattern as it stands at a master cycle: a change whose boundary has come is in force from that boundary on. -/
def Governor.settled (g : Governor) (cyc : Nat) : Governor :=
  match g.patAt with
  | some m =>
    if m ≤ cyc then
      { g with patAt := none, eff := effOf g.req g.kg g.kd, ecycBase := g.ecycBase + pulses g.eff g.cycAt m, cycAt := m }
    else g
  | none => g

/-- A change of REQ, kg or kd takes effect at the next master cycle that is a multiple of 16. -/
def State.modPat (s : State) (c : Nat) (f : Governor → Governor) : State :=
  let cyc := s.cyc (dieOf c)
  s.modGov c (fun g =>
    let h := g.settled cyc
    { f h with patAt := some (h.patAt.getD (16 * (cyc / 16 + 1))) })

/-- Effective cycles of a column. -/
def State.ecyc (s : State) (c : Nat) : Nat :=
  let cyc := s.cyc (dieOf c)
  let g := (s.gov c).settled cyc
  g.ecycBase + pulses g.eff g.cycAt cyc

/-- Issues that count toward the signatures of a column (R392): matrix command starts (0), tricks (1), copy bursts (2). Those of the last
two windows are kept. -/
def State.noteIssue (s : State) (c kind n : Nat) : State :=
  let cyc := s.cyc (dieOf c)
  s.modGov c (fun g => { g with recent := g.recent.filter (fun e => decide (cyc < e.1 + 128)) ++ List.replicate n (cyc, kind) })

/-! ### What a group was launched with (R23 to R26, R329) -/

/-- A moment at which groups that thermal admission refused are tested again (R337). -/
def State.heatMoment (s : State) : State := { s with heatCount := s.heatCount + 1 }

/-- The record of no launch. -/
def LaunchRec.none : LaunchRec := ⟨0, 0, 0, 0, 0, 0, 0, 0, 0, 0, 0, 0, 0, 0, 0, 0, 0, 0, 0⟩
/-- A barrier nobody has reached. -/
def Barrier.fresh : Barrier := ⟨0, [], []⟩
/-- The instance of no launch. -/
def Inst.none : Inst := ⟨0, 0, 0, 0, 0, LaunchRec.none, 0, false, Option.none, 0, [], false, Barrier.fresh, [], false, false, Option.none⟩

def State.instOf (s : State) (g : Group) : Inst := (s.inst? g.inst).getD Inst.none
def State.recOf (s : State) (g : Group) : LaunchRec := (s.instOf g).lrec
/-- SCR, XREG and ZMAX of the partition word (R23). -/
def LaunchRec.scr (r : LaunchRec) : Nat := fieldOf r.part.toNat 7 0
def LaunchRec.xreg (r : LaunchRec) : Nat := fieldOf r.part.toNat 15 8
def LaunchRec.zmax (r : LaunchRec) : Nat := fieldOf r.part.toNat 23 16
/-- The holding H of a group (R25). -/
def State.holding (s : State) (g : Group) : Nat :=
  (s.recOf g).base + (if g.xheld then 16 * (s.recOf g).xreg else 0)
/-- Bytes of scratch of one group (R173). -/
def LaunchRec.scratchBytes (r : LaunchRec) : Nat := 16384 * r.scr
/-- Thread capacity (R24). -/
def LaunchRec.capacity (r : LaunchRec) : Nat := 32 * r.crews
/-- Thread count NT (R250). -/
def LaunchRec.nt (r : LaunchRec) : Nat := r.tdimx * r.tdimy
/-- Granules for n registers per thread (R24). -/
def LaunchRec.regGranules (r : LaunchRec) (n : Nat) : Nat := (r.capacity * n * 4 + 16383) / 16384
def LaunchRec.baseGranules (r : LaunchRec) : Nat := r.regGranules r.base
def LaunchRec.xGranules (r : LaunchRec) : Nat := r.regGranules (16 * r.xreg)
/-- Granules a group holds now (R24). A retired member of a gang keeps its scratch (R186). -/
def State.heldGranules (s : State) (g : Group) : Nat :=
  let r := s.recOf g
  r.baseGranules + r.scr + (if g.xheld then r.xGranules else 0) + g.tiles.length
/-- Free granules of a core (R22). -/
def State.freeGranules (s : State) (n : Nat) : Nat :=
  96 - (((s.core n).groups.map (fun e => s.heldGranules e.2)).sum
    + ((s.core n).orphans.map (fun e => ((s.inst? e.1).getD Inst.none).lrec.scr)).sum)

/-- The context of a group and its ASID (R343). -/
def State.ctxOf (s : State) (g : Group) : Nat := (s.instOf g).ctx
def State.ctxAsid (s : State) (ctx : Nat) : Nat := (s.ctxroot ctx).toNat % 65536
def State.asidOf (s : State) (g : Group) : Nat := s.ctxAsid (s.ctxOf g)
/-- The page-table root of a context (R343). -/
def State.rootOf (s : State) (ctx : Nat) : Nat := (s.ctxroot ctx).toNat / 65536 * 65536

/-! ### Flags of a group (R200) -/

/-- The bound flag held by an unfinished command of the group, in either queue of its core. -/
def ACore.cmdsOf (x : ACore) (g : Nat) : List Cmd := (x.copyq ++ x.matrix.cmds).filter (fun c => c.grp == g)

/-- Whether flag `i` of a group reads set. -/
def State.flagSet (s : State) (n g i : Nat) : Bool :=
  match s.grp? n g with
  | none => false
  | some x =>
    x.soft.getLsbD i || ((s.core n).cmdsOf g).any (fun c => c.flag == some i)
      || x.pots.any (fun p => p.2.flag == i && decide (p.2.rem > 0))
      || (s.core n).matrix.queue.any (fun e => e.1 == g && e.2 == some i)

/-- Whether every flag of a mask reads clear. -/
def State.flagsClear (s : State) (n g : Nat) (mask : BitVec 12) : Bool :=
  (List.range 12).all (fun i => !(mask.getLsbD i) || !(s.flagSet n g i))

/-- Flags f11 to f0 as a word (R222). -/
def State.flagWord (s : State) (n g : Nat) : Nat :=
  ((List.range 12).map (fun i => if s.flagSet n g i then 2 ^ i else 0)).sum

end Sys2Proof.Machine
end

