-- ==== Sys2Proof/Machine/Flags.lean ====
section
/-! DEFINITION. The mode word `fmode`, the status word `fstat` and the IEEE flags (R89, R90, R93, R94). -/

namespace Sys2Proof.Machine

/-- IEEE flags in the `fstat` layout (R90): NV 4, DZ 3, OF 2, UF 1, NX 0. -/
abbrev FFlags := BitVec 5
def flNX : FFlags := 1
def flUF : FFlags := 2
def flOF : FFlags := 4
def flDZ : FFlags := 8
def flNV : FFlags := 16

/-- A flag when a condition holds. -/
def flIf (c : Bool) (f : FFlags) : FFlags := if c then f else 0

/-- RND, FTZ, DAZ and SAT8 of `fmode` (R89). -/
def fmRnd (m : W) : Nat := m.toNat % 4
def fmFtz (m : W) : Bool := m.getLsbD 2
def fmDaz (m : W) : Bool := m.getLsbD 3
def fmSat8 (m : W) : Bool := m.getLsbD 4
/-- The enable bits, in the `fstat` layout (R89). -/
def fmEnables (m : W) : FFlags := m.extractLsb' 8 5
/-- Reserved bits of `fmode` read 0 (R5, R89). -/
def fmodeMask (m : W) : W := m &&& 0x1F1F

/-- Whether flags hold one whose enable bit is set: the instruction traps (R93). -/
def traps (m : W) (fl : FFlags) : Bool := fl &&& fmEnables m != 0

/-- Flags as an `fstat` word. -/
def flagsWord (fl : FFlags) : W := fl.zeroExtend 32

end Sys2Proof.Machine
end

