-- ==== Sys2Proof/Machine/Float.lean ====
section
/-! DEFINITION. Floating-point formats, exact values, rounding and the correctly rounded functions (R86, R87, R92, R94 to
R98, R141, R143, R145, R147, R148). An exact value is m × 2^e; `more` says that the true magnitude lies strictly between m
and m + 1 units. -/

namespace Sys2Proof.Machine

/-! ### Formats (R86, R87) -/

/-- A format: exponent and fraction widths, bias, and whether it is E4M3, which has no infinity. -/
structure Fmt where
  eb : Nat
  fb : Nat
  bias : Nat
  e4m3 : Bool
  deriving DecidableEq, Repr

def fmtF32 : Fmt := ⟨8, 23, 127, false⟩
def fmtF16 : Fmt := ⟨5, 10, 15, false⟩
def fmtBf16 : Fmt := ⟨8, 7, 127, false⟩
def fmtE4m3 : Fmt := ⟨4, 3, 7, true⟩
def fmtE5m2 : Fmt := ⟨5, 2, 15, false⟩

/-- The format of a "type" code (R63). -/
def fmtOf (t : Nat) : Fmt := if t = 0 then fmtF32 else if t = 1 then fmtF16 else fmtBf16

def Fmt.isFp8 (F : Fmt) : Bool := F.eb + F.fb == 7
/-- Bit of the sign. -/
def Fmt.signBit (F : Fmt) : Nat := F.eb + F.fb
/-- Exponent of the minimum normal. -/
def Fmt.emin (F : Fmt) : Int := 1 - (F.bias : Int)
/-- Exponent of the largest finite value. -/
def Fmt.emax (F : Fmt) : Int := if F.e4m3 then 8 else (2 ^ F.eb - 2 : Nat) - (F.bias : Int)
/-- Significand of the largest finite value, in units of its last place. -/
def Fmt.maxSig (F : Fmt) : Nat := if F.e4m3 then 14 else 2 ^ (F.fb + 1) - 1
/-- Bits of the largest finite value, of infinity and of the canonical NaN, without sign. -/
def Fmt.maxBits (F : Fmt) : Nat := if F.e4m3 then 0x7E else (2 ^ F.eb - 1) * 2 ^ F.fb - 1
def Fmt.infBits (F : Fmt) : Nat := (2 ^ F.eb - 1) * 2 ^ F.fb
def Fmt.canon (F : Fmt) : Nat :=
  if F.e4m3 then 0x7F else (2 ^ F.eb - 1) * 2 ^ F.fb + 2 ^ (F.fb - 1)
/-- A sign on bits. -/
def Fmt.withSign (F : Fmt) (neg : Bool) (b : Nat) : Nat := if neg then b + 2 ^ F.signBit else b

/-! ### Values -/

/-- A datum (R94): a NaN, an infinity, a zero, or the exact value ±(m × 2^e), m above 0, with `more` as said above. -/
inductive Datum where
  | qnan
  | snan
  | inf (neg : Bool)
  | zero (neg : Bool)
  | fin (neg : Bool) (m : Nat) (e : Int) (more : Bool)
  deriving DecidableEq, Repr

def Datum.isNan : Datum → Bool
  | .qnan | .snan => true
  | _ => false
def Datum.isSnan : Datum → Bool
  | .snan => true
  | _ => false
def Datum.isInf : Datum → Bool
  | .inf _ => true
  | _ => false
def Datum.isZero : Datum → Bool
  | .zero _ => true
  | _ => false
def Datum.neg : Datum → Bool
  | .inf n | .zero n | .fin n _ _ _ => n
  | _ => false

/-- The datum bits encode (R94). -/
def fdec (F : Fmt) (bits : Nat) (daz : Bool) : Datum :=
  let b := bits % 2 ^ (F.signBit + 1)
  let neg := bitOf b F.signBit
  let ex := b / 2 ^ F.fb % 2 ^ F.eb
  let fr := b % 2 ^ F.fb
  if ex = 0 then
    if fr = 0 || (daz && !F.isFp8) then .zero neg else .fin neg fr (F.emin - F.fb) false
  else if F.e4m3 then (if ex = 15 && fr = 7 then .qnan else .fin neg (8 + fr) ((ex : Int) - F.bias - F.fb) false)
  else if ex = 2 ^ F.eb - 1 then
    (if fr = 0 then .inf neg else if F.isFp8 || 2 ^ (F.fb - 1) ≤ fr then .qnan else .snan)
  else .fin neg (2 ^ F.fb + fr) ((ex : Int) - F.bias - F.fb) false

/-- Whether a remainder rounds the magnitude up (R95 rint): `cmp` compares it with one half (0 below, 1 equal, 2 above). -/
def roundUp (mode : Nat) (neg odd inexact : Bool) (cmp : Nat) : Bool :=
  if mode = 0 then cmp = 2 || (cmp = 1 && odd)
  else if mode = 1 then false
  else if mode = 2 then !neg && inexact
  else neg && inexact

/-- m × 2^(−s) to an integer by a mode: the integer and whether it differs. -/
def rintShift (mode : Nat) (neg : Bool) (m : Nat) (s : Int) (more : Bool) : Nat × Bool :=
  if s ≤ 0 then
    (let n := m * 2 ^ s.natAbs; if roundUp mode neg (n % 2 == 1) more 0 then n + 1 else n, more)
  else if (Nat.log2 m : Int) + 2 < s then (if roundUp mode neg false true 0 then 1 else 0, true)
  else
    let k := s.natAbs
    let n := m / 2 ^ k
    let r := m % 2 ^ k
    let half := 2 ^ (k - 1)
    let cmp := if r < half then 0 else if half < r || more then 2 else 1
    let inexact := r != 0 || more
    (if roundUp mode neg (n % 2 == 1) inexact cmp then n + 1 else n, inexact)

/-- What overflow delivers, without sign (R95). -/
def overflowBits (F : Fmt) (neg : Bool) (mode : Nat) (sat : Bool) : Nat :=
  if F.isFp8 then (if sat then F.withSign neg F.maxBits else if F.e4m3 then F.canon else F.withSign neg F.infBits)
  else
    let toInf := mode = 0 || (mode = 2 && !neg) || (mode = 3 && neg)
    F.withSign neg (if toInf then F.infBits else F.maxBits)

/-- `fround` (R95). -/
def fround (F : Fmt) (v : Datum) (mode : Nat) (sat ftz : Bool) : Nat × FFlags :=
  match v with
  | .qnan | .snan => (F.canon, 0)
  | .inf neg => if F.e4m3 then (F.canon, flNV) else (F.withSign neg F.infBits, 0)
  | .zero neg => (F.withSign neg 0, 0)
  | .fin neg m e more =>
    let e0 : Int := (Nat.log2 m : Int) + e
    if F.emax < e0 then (overflowBits F neg mode sat, flOF ||| flNX)
    else
      let ex := if e0 < F.emin then F.emin else e0
      let r := rintShift mode neg m (ex - F.fb - e) more
      let n := r.1
      if (ex = F.emax && F.maxSig < n) then (overflowBits F neg mode sat, flOF ||| flNX)
      else
        let bits := (ex - F.emin).natAbs * 2 ^ F.fb + n
        let fl := flIf r.2 flNX ||| flIf (r.2 && decide (e0 < F.emin)) flUF
        if ftz && n != 0 && bits < 2 ^ F.fb then (F.withSign neg 0, fl ||| flUF ||| flNX)
        else (F.withSign neg bits, fl)

/-- The rounding a deal uses for a format (R94). -/
def rmode (F : Fmt) (fm : W) : Nat := if F = fmtF32 || F = fmtF16 then fmRnd fm else 0

/-- `fres` (R94). -/
def fres (F : Fmt) (fm : W) (v : Datum) : Nat × FFlags :=
  fround F v (rmode F fm) (fmSat8 fm) (fmFtz fm && !F.isFp8)

/-- `deliver` (R141). -/
def deliver (F : Fmt) (fm : W) (v : Datum) (inv sn : Bool) : Nat × FFlags :=
  if inv then (F.canon, flNV)
  else if v.isNan then (F.canon, flIf sn flNV)
  else fres F fm v

/-- `rd` (R141). -/
def frd (F : Fmt) (fm : W) (x : Nat) : Datum := fdec F x (fmDaz fm)

/-! ### Exact arithmetic -/

/-- A signed significand and exponent as a datum; `z` is the sign a zero takes. -/
def ofSigned (m : Int) (e : Int) (z : Bool) : Datum :=
  if m = 0 then .zero z else .fin (decide (m < 0)) m.natAbs e false

/-- The signed significand. -/
def signedOf (neg : Bool) (m : Nat) : Int := if neg then -(m : Int) else m

/-- Exact product; NaN for a NaN or for 0 × ∞ (R96). -/
def dmul (a b : Datum) : Datum :=
  if a.isNan || b.isNan then .qnan
  else
    let s := a.neg != b.neg
    match a, b with
    | .inf _, .zero _ | .zero _, .inf _ => .qnan
    | .inf _, _ | _, .inf _ => .inf s
    | .zero _, _ | _, .zero _ => .zero s
    | .fin _ m e _, .fin _ n f _ => .fin s (m * n) (e + f) false
    | _, _ => .qnan

/-- The product is 0 × ∞. -/
def mulInvalid (a b : Datum) : Bool := (a.isInf && b.isZero) || (a.isZero && b.isInf)

/-- Exact sum; NaN for a NaN or for ∞ − ∞. `down`: an exact zero that is not made of zeros of one sign is −0 (R96). -/
def dadd (down : Bool) (a b : Datum) : Datum :=
  if a.isNan || b.isNan then .qnan
  else match a, b with
    | .inf x, .inf y => if x = y then .inf x else .qnan
    | .inf x, _ => .inf x
    | _, .inf y => .inf y
    | .zero x, .zero y => .zero (if x = y then x else down)
    | .zero _, d => d
    | d, .zero _ => d
    | .fin x m e _, .fin y n f _ =>
      let lo := min e f
      ofSigned (signedOf x m * 2 ^ (e - lo).natAbs + signedOf y n * 2 ^ (f - lo).natAbs) lo down
    | _, _ => .qnan

/-- Infinities of opposite sign meet in an addition. -/
def addInvalid (a b : Datum) : Bool := a.isInf && b.isInf && a.neg != b.neg

/-- Change the sign. -/
def dneg : Datum → Datum
  | .inf n => .inf (!n)
  | .zero n => .zero (!n)
  | .fin n m e k => .fin (!n) m e k
  | d => d

/-- Exact order of two data that are no NaN: whether a < b, reading −0 below +0 when `zeros` (R143) and equal otherwise. -/
def dlt (zeros : Bool) (a b : Datum) : Bool :=
  match a, b with
  | .inf x, .inf y => x && !y
  | .inf x, _ => x
  | _, .inf y => !y
  | .zero x, .zero y => zeros && x && !y
  | .zero _, .fin y _ _ _ => !y
  | .fin x _ _ _, .zero _ => x
  | .fin x m e _, .fin y n f _ =>
    let lo := min e f
    signedOf x m * 2 ^ (e - lo).natAbs < signedOf y n * 2 ^ (f - lo).natAbs
  | _, _ => false

/-- Exact equality of two data that are no NaN; −0 equals +0. -/
def deq (a b : Datum) : Bool := !(dlt false a b) && !(dlt false b a)

/-- The bits that encode a datum exactly, for a value the format holds. -/
def encodeExact (F : Fmt) (v : Datum) : Nat := (fround F v 0 true false).1

/-- Round to an integer by a mode (R145). -/
def drint (mode : Nat) (v : Datum) : Datum :=
  match v with
  | .fin neg m e more =>
    if 0 ≤ e then v
    else let n := (rintShift mode neg m (-e) more).1; if n = 0 then .zero neg else .fin neg n 0 false
  | d => d

/-! ### Correctly rounded functions (R98) -/

/-- Square root rounded down, bit by bit. -/
def isqrtAux (n : Nat) : Nat → Nat → Nat
  | 0, r => r
  | i + 1, r => let t := r + 2 ^ i; isqrtAux n i (if t * t ≤ n then t else r)
def isqrt (n : Nat) : Nat := isqrtAux n (Nat.log2 n / 2 + 1) 0

/-- 1 / (m × 2^e), to 80 bits and more. -/
def recipPos (m : Nat) (e : Int) : Datum :=
  let p := Nat.log2 m + 80
  .fin false (2 ^ p / m) (-(p : Int) - e) (2 ^ p % m != 0)

/-- √(m × 2^e). -/
def sqrtPos (m : Nat) (e : Int) : Datum :=
  let k : Nat := if e % 2 = 0 then 160 else 161
  let n := m * 2 ^ k
  let r := isqrt n
  .fin false r ((e - k) / 2) (r * r != n)

/-- 1 / √(m × 2^e). -/
def rsqrtPos (m : Nat) (e : Int) : Datum :=
  let k : Nat := Nat.log2 m + (if ((Nat.log2 m : Int) + e) % 2 = 0 then 160 else 161)
  let r := isqrt (2 ^ k / m)
  .fin false r (-((k : Int) + e) / 2) (r * r * m != 2 ^ k)

/-- Bits after the point of the fixed-point series. -/
def seriesBits : Nat := 256
/-- ln 2 × 2^256, rounded down. -/
def ln2Fixed : Nat := 80260960185991308862233904206310070533990667611589946606122867505419956976171

/-- The exponential series: Σ y^k / k! in fixed point, from term `t` with index k. -/
def expSeries (y : Nat) : Nat → Nat → Nat → Nat
  | 0, _, _ => 0
  | n + 1, k, t => t + expSeries y n (k + 1) (t * y / 2 ^ seriesBits / (k + 1))

/-- 2^x of a finite nonzero x: exact for an integer, otherwise irrational and never a tie (log 11). -/
def exp2Fin (neg : Bool) (m : Nat) (e : Int) : Datum :=
  let top : Int := (Nat.log2 m : Int) + e
  if top < -100 then (if neg then .fin false (2 ^ 100 - 1) (-100) true else .fin false (2 ^ 100) (-100) true)
  else if 0 ≤ e then
    (if 40 < top then .fin false 1 (if neg then -(2 ^ 40) else 2 ^ 40) false
     else .fin false 1 (signedOf neg m * 2 ^ e.natAbs) false)
  else
    let d : Nat := 2 ^ e.natAbs
    let x : Int := signedOf neg m
    let n : Int := x / d
    let f : Nat := (x % d).natAbs
    if f = 0 then .fin false 1 n false
    else
      let y := f * ln2Fixed / d
      .fin false (expSeries y 90 0 (2 ^ seriesBits) / 2 ^ 60) (n - (seriesBits - 60 : Nat)) true

/-- The series of the inverse hyperbolic tangent: Σ z^(2k+1) / (2k + 1). -/
def atanhSeries (z2 : Nat) : Nat → Nat → Nat → Nat
  | 0, _, _ => 0
  | n + 1, k, t => t / (2 * k + 1) + atanhSeries z2 n (k + 1) (t * z2 / 2 ^ seriesBits)

/-- log2 of m × 2^e: exact for a power of two, otherwise irrational (log 11). -/
def log2Pos (m : Nat) (e : Int) : Datum :=
  let k := Nat.log2 m
  let n : Int := (k : Int) + e
  if m = 2 ^ k then ofSigned n 0 false
  else
    let one := 2 ^ seriesBits
    let x := m * one / 2 ^ k
    let z := (x - one) * one / (x + one)
    let l := 2 * atanhSeries (z * z / one) 100 0 z
    let v : Int := n * one + (l * one / ln2Fixed : Nat)
    .fin (decide (v < 0)) (if v < 0 then v.natAbs - 1 else v.natAbs) (-(seriesBits : Int)) true

/-- The result of a special function on a datum, its own flags, before rounding (R98): `fn` is 0 rcp, 1 sqrt, 2 rsqrt,
3 exp2, 4 log2. -/
def special (fn : Nat) (a : Datum) : Datum × FFlags :=
  match a with
  | .snan => (.qnan, flNV)
  | .qnan => (.qnan, 0)
  | .inf neg =>
    if fn = 0 then (.zero neg, 0)
    else if fn = 3 then (if neg then .zero false else .inf false, 0)
    else if neg then (.qnan, flNV)
    else if fn = 2 then (.zero false, 0) else (.inf false, 0)
  | .zero neg =>
    if fn = 0 || fn = 2 then (.inf neg, flDZ)
    else if fn = 1 then (.zero neg, 0)
    else if fn = 3 then (.fin false 1 0 false, 0)
    else (.inf true, flDZ)
  | .fin neg m e _ =>
    if fn = 0 then ((if neg then dneg (recipPos m e) else recipPos m e), 0)
    else if fn = 3 then (exp2Fin neg m e, 0)
    else if neg then (.qnan, flNV)
    else if fn = 1 then (sqrtPos m e, 0)
    else if fn = 2 then (rsqrtPos m e, 0)
    else (log2Pos m e, 0)

/-- A special function delivered in a format (R98, R146). -/
def specialRes (F : Fmt) (fm : W) (fn : Nat) (x : Nat) : Nat × FFlags :=
  let r := special fn (frd F fm x)
  if r.1.isNan then (F.canon, r.2) else let o := fres F fm r.1; (o.1, o.2 ||| r.2)

/-! ### Operations on bits -/

/-- a + b (R142). -/
def faddBits (F : Fmt) (fm : W) (x y : Nat) : Nat × FFlags :=
  let a := frd F fm x
  let b := frd F fm y
  deliver F fm (dadd (rmode F fm = 3) a b) (!(a.isNan || b.isNan) && addInvalid a b) (a.isSnan || b.isSnan)

/-- a − b (R142). DESIGN CHOICE (log 30): it is a + (−b), so the zeros whose signs R96 compares are a and −b: −0 − (+0) is −0
and +0 − (−0) is +0 in every mode; R96 does not say whether it means b or −b. -/
def fsubBits (F : Fmt) (fm : W) (x y : Nat) : Nat × FFlags :=
  let a := frd F fm x
  let b := dneg (frd F fm y)
  deliver F fm (dadd (rmode F fm = 3) a b) (!(a.isNan || b.isNan) && addInvalid a b) (a.isSnan || b.isSnan)

/-- a × b (R142). -/
def fmulBits (F : Fmt) (fm : W) (x y : Nat) : Nat × FFlags :=
  let a := frd F fm x
  let b := frd F fm y
  deliver F fm (dmul a b) (mulInvalid a b) (a.isSnan || b.isSnan)

/-- a × b + c with one rounding (R142). -/
def ffmaBits (F : Fmt) (fm : W) (x y z : Nat) : Nat × FFlags :=
  let a := frd F fm x
  let b := frd F fm y
  let c := frd F fm z
  let p := dmul a b
  let nan := a.isNan || b.isNan || c.isNan
  deliver F fm (dadd (rmode F fm = 3) p c) (mulInvalid a b || (!nan && addInvalid p c)) (a.isSnan || b.isSnan || c.isSnan)

/-- The lesser or the greater (R143). -/
def fminmaxBits (F : Fmt) (fm : W) (isMax : Bool) (x y : Nat) : Nat × FFlags :=
  let a := frd F fm x
  let b := frd F fm y
  let fl := flIf (a.isSnan || b.isSnan) flNV
  if a.isNan && b.isNan then (F.canon, fl)
  else if a.isNan then (encodeExact F b, fl)
  else if b.isNan then (encodeExact F a, fl)
  else (encodeExact F (if isMax then (if dlt true a b then b else a) else (if dlt true b a then b else a)), fl)

/-- a × 2^n (R144). -/
def fscaleBits (F : Fmt) (fm : W) (x : Nat) (n : Int) : Nat × FFlags :=
  let a := frd F fm x
  let v := match a with
    | .fin s m e k => .fin s m (e + n) k
    | d => d
  deliver F fm v false a.isSnan

/-- Round to integral (R145). -/
def frndBits (F : Fmt) (fm : W) (mode x : Nat) : Nat × FFlags :=
  let a := frd F fm x
  if a.isNan then (F.canon, flIf a.isSnan flNV) else (encodeExact F (drint mode a), 0)

/-- Compare (R147): condition 0 eq, 1 lt, 2 le, 3 unordered. -/
def fcmpBits (F : Fmt) (fm : W) (cond x y : Nat) : Bool × FFlags :=
  let a := frd F fm x
  let b := frd F fm y
  let nan := a.isNan || b.isNan
  let sn := a.isSnan || b.isSnan
  if cond = 3 then (nan, flIf sn flNV)
  else if nan then (false, flIf (sn || cond != 0) flNV)
  else (if cond = 0 then deq a b else if cond = 1 then dlt false a b else !(dlt false b a), 0)

/-- Classify (R148). -/
def fclsBits (F : Fmt) (x : Nat) : Nat :=
  match fdec F x false with
  | .inf true => 1
  | .inf false => 128
  | .zero true => 8
  | .zero false => 16
  | .snan => 256
  | .qnan => 512
  | .fin neg _ _ _ =>
    let subn := x % 2 ^ F.signBit < 2 ^ F.fb
    if neg then (if subn then 4 else 2) else (if subn then 32 else 64)

/-- Float to float through `fres` (R97). -/
def fconv (src dst : Fmt) (fm : W) (x : Nat) : Nat × FFlags :=
  let a := frd src fm x
  deliver dst fm a false a.isSnan

/-- Exact widening (R97). -/
def fwiden (src dst : Fmt) (fm : W) (x : Nat) : Nat × FFlags :=
  let a := frd src fm x
  (encodeExact dst a, flIf a.isSnan flNV)

/-- FP32 to an integer (R97): `signed`, and the rounding mode. -/
def fToInt (fm : W) (signed : Bool) (mode x : Nat) : W × FFlags :=
  let hi : Int := if signed then 2 ^ 31 - 1 else 2 ^ 32 - 1
  let lo : Int := if signed then -(2 ^ 31) else 0
  match frd fmtF32 fm x with
  | .qnan | .snan => (0, flNV)
  | .inf neg => (BitVec.ofInt 32 (if neg then lo else hi), flNV)
  | .zero _ => (0, 0)
  | .fin neg m e more =>
    if (100 : Int) < e then (BitVec.ofInt 32 (if neg then lo else hi), flNV)
    else
      let r := rintShift mode neg m (-e) more
      let v := signedOf neg r.1
      if hi < v then (BitVec.ofInt 32 hi, flNV)
      else if v < lo then (BitVec.ofInt 32 lo, flNV)
      else (BitVec.ofInt 32 v, flIf r.2 flNX)

/-- An integer to FP32 (R97). -/
def intToF32 (fm : W) (v : Int) : Nat × FFlags := fres fmtF32 fm (ofSigned v 0 false)

/-- add.f32 of atomics and of the matrix engine: nearest even, subnormals kept, no flags (R91, R187). -/
def faddPlain (x y : W) : W :=
  let a := fdec fmtF32 x.toNat false
  let b := fdec fmtF32 y.toNat false
  BitVec.ofNat 32 (fround fmtF32 (dadd false a b) 0 false false).1

end Sys2Proof.Machine
end

