-- ==== Sys2Proof/Config.lean ====
section
/-! DEFINITION. What one part fixes, and the values the spec leaves open. Every constant here has no body: no proof can
see what it is, so a statement holds whatever it is (log 12). -/

namespace Sys2Proof.Config

/-- Byte `off` of a private section of the `n`-th save area (R354: the sections after HDR are private to the part; log 13). -/
opaque saveByte (n off : Nat) : Byte
/-- Which sector a full cache drops to take another in (R274; logs 9, 12). -/
opaque victim (sector : Nat) : Nat
/-- Byte `i` of the SLH-DSA signature of a quote over the given bytes (R413, R415; log 12). -/
opaque sigByte (msg : List Byte) (i : Nat) : Byte
/-- Byte `i` of the part's serial number (R415; log 12). -/
opaque serialByte (i : Nat) : Byte
/-- The fused rollback counter (R413, R415; log 12). -/
opaque fwver : D64
/-- The calibration datum behind `kcol`. -/
opaque kcolRaw (col : Nat) : Nat
/-- KCOL of a column in 1/1,024 °C per watt: fixed at calibration, between 0.10 and 0.60 °C/W (R400; log 8). -/
def kcol (col : Nat) : Nat := 103 + kcolRaw col % 512

/-- The slot in which two other packages meet on their direct position, 8 or more where they never do: what their calendars hold is not in
this package (R359, R368; logs 12, 20). -/
opaque meetSlot (w y : Nat) : Nat
/-- The time of flight of a port in ticks (R358; log 12). -/
opaque flight (port : Nat) : Nat

/-- Byte i of the payload of the n-th data flit sent: how the transaction layer packs its messages is not in the spec (R372; logs 12, 20). -/
opaque payloadByte (n i : Nat) : Byte

/-- The power in mW that running EFF with 4 ones takes a column at a set point (R397; log 12). -/
opaque fourOnesMw (setPoint col : Nat) : Nat
/-- The voltage set point of a die in mV for a master set point, its hottest column temperature and an ageing count (R401; log 12). -/
opaque voltSet (setPoint : Nat) (hottest : Int) (age : Nat) : Nat
/-- The ageing count of a die at a tick (R401; log 12). -/
opaque ageing (die tick : Nat) : Nat

/-- Bit b of `vbus_slow` for a segment out of service, which R405 does not state (log 12). -/
opaque segmentOutBit (col seg : Nat) : Bool

/-- The datum behind `privForTwo`. -/
opaque privRaw : Nat
/-- The privilege a `tret` restores from a PPRIV of 2, a code that is never held (R225, R227; log 12). -/
def privForTwo : Nat := if privRaw % 3 = 2 then 3 else privRaw % 3

end Sys2Proof.Config
end

