-- ==== Sys2Proof/Machine/OpcodeMap.lean ====
section
/-! DEFINITION. The opcode map (R60 to R67): for each row its OP, the lengths it takes, the use of LIT, the block kinds it
is legal in, its MODX rule, its operand shape, its memory class and its lowest privilege. -/

namespace Sys2Proof.Machine

/-- The lengths a row takes (R60 to R67). -/
inductive LenRule where | short | long | either
  deriving DecidableEq, Repr
/-- The use of LIT (R51). -/
inductive LitUse where | plain | lit | tern | mem | ctl
  deriving DecidableEq, Repr
/-- The Kinds column: all; Th; Th and G; Ga; G; G and C; C; Ga, and Th with QH set. -/
inductive Kinds where | all | th | thG | ga | g | gC | c | quad
  deriving DecidableEq, Repr
/-- The MODX column. `lt n`: 0 to n − 1; `eq n`: the row is the MODX value n of its opcode; the others by name. -/
inductive ModxRule where | lt (n : Nat) | eq (n : Nat) | lea | typ2 | cvt | upk | stsz | meld
  deriving DecidableEq, Repr
/-- Which operand fields a row uses and how; `shapeUses` says it field by field. -/
inductive Shape where
  | alu2 | alu2p | alu1 | tern | mulw | cmp | lea | movi | viwr | kkk | kk | kreg | ktov | pcvt | upk | qswz | vote | xsel
  | ld | st | lds | sts | atom | atomc | atoms | none0 | range | pref | ab | mstg | bonly | mrd | cpy | spawn | donly | aonly
  | dpair | sysrd | syswr | tlbip | fqpop | gsave
  deriving DecidableEq, Repr
/-- The row of R175 a memory opcode follows. -/
inductive MemClass where | none | ldst | scr | lda | strl | atom | atoms | fence | cache | pref
  deriving DecidableEq, Repr

/-- One row of the opcode map. `priv` is the lowest privilege code (0 U, 1 S, 3 M). -/
structure Row where
  op : Nat
  len : LenRule
  lit : LitUse
  kinds : Kinds
  modx : ModxRule
  shape : Shape
  mem : MemClass
  priv : Nat
  deriving DecidableEq, Repr

/-- The row of each instruction that has an L64 or L96 word; `none` for short forms, terminators, reserved words and events. -/
def rowOf (i : Instr) : Option Row :=
  match i with
  | .iadd _ => some ⟨0x000, .short, .lit, .all, (.lt 3), .alu2, .none, 0⟩
  | .iaddLit _ => some ⟨0x000, .long, .lit, .all, (.lt 3), .alu2, .none, 0⟩
  | .isub _ => some ⟨0x001, .short, .lit, .all, (.lt 3), .alu2, .none, 0⟩
  | .isubLit _ => some ⟨0x001, .long, .lit, .all, (.lt 3), .alu2, .none, 0⟩
  | .imul _ => some ⟨0x002, .short, .lit, .all, (.lt 1), .alu2, .none, 0⟩
  | .imulLit _ => some ⟨0x002, .long, .lit, .all, (.lt 1), .alu2, .none, 0⟩
  | .imulhi _ => some ⟨0x003, .short, .lit, .all, (.lt 2), .alu2, .none, 0⟩
  | .imulhiLit _ => some ⟨0x003, .long, .lit, .all, (.lt 2), .alu2, .none, 0⟩
  | .imad _ => some ⟨0x004, .long, .tern, .all, (.lt 3), .tern, .none, 0⟩
  | .iadd64 _ => some ⟨0x005, .short, .lit, .all, (.lt 3), .alu2p, .none, 0⟩
  | .iadd64Lit _ => some ⟨0x005, .long, .lit, .all, (.lt 3), .alu2p, .none, 0⟩
  | .isub64 _ => some ⟨0x006, .short, .lit, .all, (.lt 3), .alu2p, .none, 0⟩
  | .isub64Lit _ => some ⟨0x006, .long, .lit, .all, (.lt 3), .alu2p, .none, 0⟩
  | .imulw _ => some ⟨0x007, .short, .lit, .all, (.lt 2), .mulw, .none, 0⟩
  | .imulwLit _ => some ⟨0x007, .long, .lit, .all, (.lt 2), .mulw, .none, 0⟩
  | .imin _ => some ⟨0x008, .short, .lit, .all, (.lt 2), .alu2, .none, 0⟩
  | .iminLit _ => some ⟨0x008, .long, .lit, .all, (.lt 2), .alu2, .none, 0⟩
  | .imax _ => some ⟨0x009, .short, .lit, .all, (.lt 2), .alu2, .none, 0⟩
  | .imaxLit _ => some ⟨0x009, .long, .lit, .all, (.lt 2), .alu2, .none, 0⟩
  | .iabs _ => some ⟨0x00A, .short, .plain, .all, (.lt 2), .alu1, .none, 0⟩
  | .ineg _ => some ⟨0x00B, .short, .plain, .all, (.lt 2), .alu1, .none, 0⟩
  | .iand _ => some ⟨0x00C, .short, .lit, .all, (.lt 1), .alu2, .none, 0⟩
  | .iandLit _ => some ⟨0x00C, .long, .lit, .all, (.lt 1), .alu2, .none, 0⟩
  | .ior _ => some ⟨0x00D, .short, .lit, .all, (.lt 1), .alu2, .none, 0⟩
  | .iorLit _ => some ⟨0x00D, .long, .lit, .all, (.lt 1), .alu2, .none, 0⟩
  | .ixor _ => some ⟨0x00E, .short, .lit, .all, (.lt 1), .alu2, .none, 0⟩
  | .ixorLit _ => some ⟨0x00E, .long, .lit, .all, (.lt 1), .alu2, .none, 0⟩
  | .iandn _ => some ⟨0x00F, .short, .lit, .all, (.lt 1), .alu2, .none, 0⟩
  | .iandnLit _ => some ⟨0x00F, .long, .lit, .all, (.lt 1), .alu2, .none, 0⟩
  | .shl _ => some ⟨0x010, .short, .lit, .all, (.lt 1), .alu2, .none, 0⟩
  | .shlLit _ => some ⟨0x010, .long, .lit, .all, (.lt 1), .alu2, .none, 0⟩
  | .shr _ => some ⟨0x011, .short, .lit, .all, (.lt 1), .alu2, .none, 0⟩
  | .shrLit _ => some ⟨0x011, .long, .lit, .all, (.lt 1), .alu2, .none, 0⟩
  | .sar _ => some ⟨0x012, .short, .lit, .all, (.lt 1), .alu2, .none, 0⟩
  | .sarLit _ => some ⟨0x012, .long, .lit, .all, (.lt 1), .alu2, .none, 0⟩
  | .rotl _ => some ⟨0x013, .short, .lit, .all, (.lt 1), .alu2, .none, 0⟩
  | .rotlLit _ => some ⟨0x013, .long, .lit, .all, (.lt 1), .alu2, .none, 0⟩
  | .shf _ => some ⟨0x014, .long, .tern, .all, (.lt 2), .tern, .none, 0⟩
  | .clz _ => some ⟨0x015, .short, .plain, .all, (.lt 1), .alu1, .none, 0⟩
  | .popc _ => some ⟨0x016, .short, .plain, .all, (.lt 1), .alu1, .none, 0⟩
  | .brev _ => some ⟨0x017, .short, .plain, .all, (.lt 1), .alu1, .none, 0⟩
  | .bfe _ => some ⟨0x018, .long, .ctl, .all, (.lt 2), .alu1, .none, 0⟩
  | .bfi _ => some ⟨0x019, .long, .ctl, .all, (.lt 1), .alu2, .none, 0⟩
  | .icmp _ => some ⟨0x01A, .short, .lit, .all, (.lt 10), .cmp, .none, 0⟩
  | .icmpLit _ => some ⟨0x01A, .long, .lit, .all, (.lt 10), .cmp, .none, 0⟩
  | .sel _ => some ⟨0x01B, .short, .lit, .all, (.lt 8), .alu2, .none, 0⟩
  | .selLit _ => some ⟨0x01B, .long, .lit, .all, (.lt 8), .alu2, .none, 0⟩
  | .lea _ => some ⟨0x01C, .short, .lit, .all, .lea, .lea, .none, 0⟩
  | .leaLit _ => some ⟨0x01C, .long, .lit, .all, .lea, .lea, .none, 0⟩
  | .movi _ => some ⟨0x01D, .long, .ctl, .all, (.lt 3), .movi, .none, 0⟩
  | .icsub _ => some ⟨0x01E, .short, .lit, .all, (.lt 2), .alu2, .none, 0⟩
  | .icsubLit _ => some ⟨0x01E, .long, .lit, .all, (.lt 2), .alu2, .none, 0⟩
  | .idiv _ => some ⟨0x01F, .short, .lit, .all, (.lt 2), .alu2, .none, 0⟩
  | .idivLit _ => some ⟨0x01F, .long, .lit, .all, (.lt 2), .alu2, .none, 0⟩
  | .irem _ => some ⟨0x020, .short, .lit, .all, (.lt 2), .alu2, .none, 0⟩
  | .iremLit _ => some ⟨0x020, .long, .lit, .all, (.lt 2), .alu2, .none, 0⟩
  | .bperm _ => some ⟨0x021, .long, .ctl, .all, (.lt 1), .alu2, .none, 0⟩
  | .icvt _ => some ⟨0x022, .short, .plain, .all, (.lt 6), .alu1, .none, 0⟩
  | .vird _ => some ⟨0x023, .short, .plain, .th, (.lt 1), .alu1, .none, 0⟩
  | .viwr _ => some ⟨0x024, .short, .plain, .th, (.lt 1), .viwr, .none, 0⟩
  | .kand _ => some ⟨0x060, .short, .plain, .all, (.lt 1), .kkk, .none, 0⟩
  | .kor _ => some ⟨0x061, .short, .plain, .all, (.lt 1), .kkk, .none, 0⟩
  | .kxor _ => some ⟨0x062, .short, .plain, .all, (.lt 1), .kkk, .none, 0⟩
  | .kandn _ => some ⟨0x063, .short, .plain, .all, (.lt 1), .kkk, .none, 0⟩
  | .kmov _ => some ⟨0x064, .short, .plain, .all, (.eq 0), .kk, .none, 0⟩
  | .kmovReg _ => some ⟨0x064, .short, .plain, .all, (.eq 1), .kreg, .none, 0⟩
  | .ktov _ => some ⟨0x065, .short, .plain, .all, (.lt 2), .ktov, .none, 0⟩
  | .fadd _ => some ⟨0x080, .short, .lit, .all, (.lt 3), .alu2, .none, 0⟩
  | .faddLit _ => some ⟨0x080, .long, .lit, .all, (.lt 3), .alu2, .none, 0⟩
  | .fsub _ => some ⟨0x081, .short, .lit, .all, (.lt 3), .alu2, .none, 0⟩
  | .fsubLit _ => some ⟨0x081, .long, .lit, .all, (.lt 3), .alu2, .none, 0⟩
  | .fmul _ => some ⟨0x082, .short, .lit, .all, (.lt 3), .alu2, .none, 0⟩
  | .fmulLit _ => some ⟨0x082, .long, .lit, .all, (.lt 3), .alu2, .none, 0⟩
  | .ffma _ => some ⟨0x083, .long, .tern, .all, (.lt 3), .tern, .none, 0⟩
  | .fmin _ => some ⟨0x084, .short, .lit, .all, (.lt 3), .alu2, .none, 0⟩
  | .fminLit _ => some ⟨0x084, .long, .lit, .all, (.lt 3), .alu2, .none, 0⟩
  | .fmax _ => some ⟨0x085, .short, .lit, .all, (.lt 3), .alu2, .none, 0⟩
  | .fmaxLit _ => some ⟨0x085, .long, .lit, .all, (.lt 3), .alu2, .none, 0⟩
  | .fcmp _ => some ⟨0x086, .short, .lit, .all, .typ2, .cmp, .none, 0⟩
  | .fcmpLit _ => some ⟨0x086, .long, .lit, .all, .typ2, .cmp, .none, 0⟩
  | .fcls _ => some ⟨0x087, .short, .plain, .all, (.lt 3), .alu1, .none, 0⟩
  | .fscale _ => some ⟨0x088, .short, .lit, .all, (.lt 3), .alu2, .none, 0⟩
  | .fscaleLit _ => some ⟨0x088, .long, .lit, .all, (.lt 3), .alu2, .none, 0⟩
  | .frnd _ => some ⟨0x089, .short, .plain, .all, .typ2, .alu1, .none, 0⟩
  | .frcp _ => some ⟨0x08A, .short, .plain, .all, (.lt 3), .alu1, .none, 0⟩
  | .fsqrt _ => some ⟨0x08B, .short, .plain, .all, (.lt 3), .alu1, .none, 0⟩
  | .frsqrt _ => some ⟨0x08C, .short, .plain, .all, (.lt 3), .alu1, .none, 0⟩
  | .fexp2 _ => some ⟨0x08D, .short, .plain, .all, (.lt 3), .alu1, .none, 0⟩
  | .flog2 _ => some ⟨0x08E, .short, .plain, .all, (.lt 3), .alu1, .none, 0⟩
  | .cvt _ => some ⟨0x08F, .short, .plain, .all, .cvt, .alu1, .none, 0⟩
  | .pcvt _ => some ⟨0x090, .short, .plain, .thG, (.lt 6), .pcvt, .none, 0⟩
  | .upk _ => some ⟨0x091, .short, .plain, .thG, .upk, .upk, .none, 0⟩
  | .padd4 _ => some ⟨0x092, .short, .lit, .thG, (.lt 2), .alu2, .none, 0⟩
  | .padd4Lit _ => some ⟨0x092, .long, .lit, .thG, (.lt 2), .alu2, .none, 0⟩
  | .pmul4 _ => some ⟨0x093, .short, .lit, .thG, (.lt 2), .alu2, .none, 0⟩
  | .pmul4Lit _ => some ⟨0x093, .long, .lit, .thG, (.lt 2), .alu2, .none, 0⟩
  | .hfma2 _ => some ⟨0x094, .long, .tern, .thG, (.lt 2), .tern, .none, 0⟩
  | .dot2 _ => some ⟨0x095, .long, .tern, .thG, (.lt 2), .tern, .none, 0⟩
  | .dot4 _ => some ⟨0x096, .long, .tern, .thG, (.lt 4), .tern, .none, 0⟩
  | .dot8 _ => some ⟨0x097, .long, .tern, .thG, (.lt 2), .tern, .none, 0⟩
  | .xmov _ => some ⟨0x0E0, .short, .plain, .all, (.lt 1), .alu1, .none, 0⟩
  | .qswz _ => some ⟨0x0E1, .short, .plain, .quad, (.lt 1), .qswz, .none, 0⟩
  | .vote _ => some ⟨0x0E2, .short, .plain, .ga, (.lt 3), .vote, .none, 0⟩
  | .cred _ => some ⟨0x0E3, .short, .plain, .ga, (.lt 11), .alu1, .none, 0⟩
  | .cscan _ => some ⟨0x0E4, .short, .plain, .ga, (.lt 11), .alu1, .none, 0⟩
  | .csegred _ => some ⟨0x0E5, .short, .plain, .ga, (.lt 11), .alu2, .none, 0⟩
  | .cfirst _ => some ⟨0x0E6, .short, .plain, .ga, (.lt 1), .alu1, .none, 0⟩
  | .xsel _ => some ⟨0x0E7, .short, .plain, .ga, (.lt 1), .xsel, .none, 0⟩
  | .cperm _ => some ⟨0x0E8, .short, .plain, .ga, (.lt 1), .xsel, .none, 0⟩
  | .ld _ => some ⟨0x100, .short, .mem, .all, (.lt 6), .ld, .ldst, 0⟩
  | .ldMem _ => some ⟨0x100, .long, .mem, .all, (.lt 6), .ld, .ldst, 0⟩
  | .st _ => some ⟨0x101, .short, .mem, .all, .stsz, .st, .ldst, 0⟩
  | .stMem _ => some ⟨0x101, .long, .mem, .all, .stsz, .st, .ldst, 0⟩
  | .lds _ => some ⟨0x102, .short, .mem, .thG, (.lt 6), .lds, .scr, 0⟩
  | .ldsMem _ => some ⟨0x102, .long, .mem, .thG, (.lt 6), .lds, .scr, 0⟩
  | .sts _ => some ⟨0x103, .short, .mem, .thG, .stsz, .sts, .scr, 0⟩
  | .stsMem _ => some ⟨0x103, .long, .mem, .thG, .stsz, .sts, .scr, 0⟩
  | .ldc _ => some ⟨0x104, .short, .mem, .thG, (.lt 6), .lds, .scr, 0⟩
  | .ldcMem _ => some ⟨0x104, .long, .mem, .thG, (.lt 6), .lds, .scr, 0⟩
  | .stc _ => some ⟨0x105, .short, .mem, .thG, .stsz, .sts, .scr, 0⟩
  | .stcMem _ => some ⟨0x105, .long, .mem, .thG, .stsz, .sts, .scr, 0⟩
  | .lda _ => some ⟨0x106, .long, .mem, .all, (.lt 6), .ld, .lda, 0⟩
  | .strl _ => some ⟨0x107, .long, .mem, .all, .stsz, .st, .strl, 0⟩
  | .atom _ => some ⟨0x108, .long, .mem, .all, (.lt 12), .atom, .atom, 0⟩
  | .atomc _ => some ⟨0x109, .long, .mem, .all, (.lt 2), .atomc, .atom, 0⟩
  | .atoms _ => some ⟨0x10A, .long, .mem, .thG, (.lt 12), .atoms, .atoms, 0⟩
  | .meld _ => some ⟨0x10B, .long, .mem, .ga, .meld, .atom, .atom, 0⟩
  | .fence _ => some ⟨0x10C, .long, .mem, .all, (.lt 1), .none0, .fence, 0⟩
  | .cwb _ => some ⟨0x10D, .long, .mem, .all, (.lt 1), .range, .cache, 0⟩
  | .cinv _ => some ⟨0x10E, .long, .mem, .all, (.lt 1), .range, .cache, 0⟩
  | .pref _ => some ⟨0x10F, .short, .mem, .all, (.lt 2), .pref, .pref, 0⟩
  | .prefMem _ => some ⟨0x10F, .long, .mem, .all, (.lt 2), .pref, .pref, 0⟩
  | .macq _ => some ⟨0x160, .short, .plain, .g, (.lt 1), .alu1, .none, 0⟩
  | .mrel _ => some ⟨0x161, .short, .plain, .g, (.lt 1), .none0, .none, 0⟩
  | .mres _ => some ⟨0x162, .short, .lit, .g, (.lt 1), .ab, .none, 0⟩
  | .mresLit _ => some ⟨0x162, .long, .lit, .g, (.lt 1), .ab, .none, 0⟩
  | .mstg _ => some ⟨0x163, .short, .plain, .g, (.lt 1), .mstg, .none, 0⟩
  | .mma _ => some ⟨0x164, .short, .plain, .g, (.lt 1), .bonly, .none, 0⟩
  | .mzro _ => some ⟨0x165, .short, .plain, .g, (.lt 1), .bonly, .none, 0⟩
  | .mrd _ => some ⟨0x166, .short, .plain, .ga, (.lt 6), .mrd, .none, 0⟩
  | .cpy _ => some ⟨0x167, .short, .lit, .thG, (.lt 1), .cpy, .none, 0⟩
  | .cpyLit _ => some ⟨0x167, .long, .lit, .thG, (.lt 1), .cpy, .none, 0⟩
  | .cpy2 _ => some ⟨0x168, .short, .lit, .thG, (.lt 1), .cpy, .none, 0⟩
  | .cpy2Lit _ => some ⟨0x168, .long, .lit, .thG, (.lt 1), .cpy, .none, 0⟩
  | .cpyg _ => some ⟨0x169, .short, .lit, .thG, (.lt 1), .cpy, .none, 0⟩
  | .cpygLit _ => some ⟨0x169, .long, .lit, .thG, (.lt 1), .cpy, .none, 0⟩
  | .cpyr _ => some ⟨0x16A, .short, .lit, .thG, (.lt 1), .cpy, .none, 0⟩
  | .cpyrLit _ => some ⟨0x16A, .long, .lit, .thG, (.lt 1), .cpy, .none, 0⟩
  | .potarm _ => some ⟨0x16B, .short, .lit, .g, (.lt 1), .ab, .none, 0⟩
  | .potarmLit _ => some ⟨0x16B, .long, .lit, .g, (.lt 1), .ab, .none, 0⟩
  | .fwrb _ => some ⟨0x16C, .short, .lit, .thG, (.lt 1), .cpy, .none, 0⟩
  | .fwrbLit _ => some ⟨0x16C, .long, .lit, .thG, (.lt 1), .cpy, .none, 0⟩
  | .frdb _ => some ⟨0x16D, .short, .lit, .thG, (.lt 1), .cpy, .none, 0⟩
  | .frdbLit _ => some ⟨0x16D, .long, .lit, .thG, (.lt 1), .cpy, .none, 0⟩
  | .spawn _ => some ⟨0x16E, .short, .plain, .th, (.lt 1), .spawn, .none, 0⟩
  | .tstat _ => some ⟨0x16F, .short, .plain, .thG, (.lt 1), .donly, .none, 0⟩
  | .gbarGang _ => some ⟨0x170, .short, .plain, .g, (.eq 0), .donly, .none, 0⟩
  | .gbarGrid _ => some ⟨0x170, .short, .plain, .g, (.eq 1), .donly, .none, 0⟩
  | .rxacq _ => some ⟨0x171, .short, .plain, .g, (.lt 1), .donly, .none, 0⟩
  | .rxrel _ => some ⟨0x172, .short, .plain, .g, (.lt 1), .none0, .none, 0⟩
  | .zacq _ => some ⟨0x173, .short, .plain, .g, (.lt 1), .alu1, .none, 0⟩
  | .zrel _ => some ⟨0x174, .short, .plain, .g, (.lt 1), .aonly, .none, 0⟩
  | .setfm _ => some ⟨0x175, .short, .lit, .gC, (.lt 2), .bonly, .none, 0⟩
  | .setfmLit _ => some ⟨0x175, .long, .lit, .gC, (.lt 2), .bonly, .none, 0⟩
  | .getsr _ => some ⟨0x176, .short, .plain, .all, (.lt 1), .alu1, .none, 0⟩
  | .tick _ => some ⟨0x177, .short, .plain, .all, (.lt 1), .dpair, .none, 0⟩
  | .cyc _ => some ⟨0x178, .short, .plain, .all, (.lt 1), .dpair, .none, 0⟩
  | .fsetSet _ => some ⟨0x179, .short, .lit, .thG, (.eq 0), .bonly, .none, 0⟩
  | .fsetSetLit _ => some ⟨0x179, .long, .lit, .thG, (.eq 0), .bonly, .none, 0⟩
  | .fsetClr _ => some ⟨0x179, .short, .lit, .thG, (.eq 1), .bonly, .none, 0⟩
  | .fsetClrLit _ => some ⟨0x179, .long, .lit, .thG, (.eq 1), .bonly, .none, 0⟩
  | .sysrd _ => some ⟨0x1C0, .short, .lit, .c, (.lt 1), .sysrd, .none, 0⟩
  | .sysrdLit _ => some ⟨0x1C0, .long, .lit, .c, (.lt 1), .sysrd, .none, 0⟩
  | .syswr _ => some ⟨0x1C1, .short, .lit, .c, (.lt 1), .syswr, .none, 0⟩
  | .syswrLit _ => some ⟨0x1C1, .long, .lit, .c, (.lt 1), .syswr, .none, 0⟩
  | .tret _ => some ⟨0x1C2, .short, .plain, .c, (.lt 1), .none0, .none, 1⟩
  | .ecall _ => some ⟨0x1C3, .short, .plain, .c, (.lt 1), .none0, .none, 0⟩
  | .wfe _ => some ⟨0x1C4, .short, .plain, .c, (.lt 1), .none0, .none, 0⟩
  | .tlbiAll _ => some ⟨0x1C5, .either, .lit, .c, (.eq 0), .none0, .none, 1⟩
  | .tlbiAsid _ => some ⟨0x1C5, .short, .lit, .c, (.eq 1), .bonly, .none, 1⟩
  | .tlbiAsidLit _ => some ⟨0x1C5, .long, .lit, .c, (.eq 1), .bonly, .none, 1⟩
  | .tlbiPage _ => some ⟨0x1C5, .short, .lit, .c, (.eq 2), .tlbip, .none, 1⟩
  | .tlbiPageLit _ => some ⟨0x1C5, .long, .lit, .c, (.eq 2), .tlbip, .none, 1⟩
  | .swpgMv _ => some ⟨0x1C6, .short, .plain, .c, (.eq 0), .fqpop, .none, 1⟩
  | .swpgXch _ => some ⟨0x1C6, .short, .plain, .c, (.eq 1), .fqpop, .none, 1⟩
  | .mscfWb _ => some ⟨0x1C7, .short, .plain, .c, (.eq 0), .bonly, .none, 1⟩
  | .mscfWbi _ => some ⟨0x1C7, .short, .plain, .c, (.eq 1), .bonly, .none, 1⟩
  | .gsave _ => some ⟨0x1C8, .short, .plain, .c, (.lt 1), .gsave, .none, 1⟩
  | .grest _ => some ⟨0x1C9, .short, .plain, .c, (.lt 1), .fqpop, .none, 1⟩
  | .fqpop _ => some ⟨0x1CA, .short, .plain, .c, (.lt 1), .fqpop, .none, 1⟩
  | .kresRetry _ => some ⟨0x1CB, .short, .plain, .c, (.lt 1), .alu2, .none, 1⟩
  | .brk _ => some ⟨0x1CC, .short, .plain, .c, (.lt 1), .none0, .none, 0⟩
  | .halt _ => some ⟨0x1CD, .short, .plain, .c, (.lt 1), .none0, .none, 3⟩
  | .rsmGoWrite _ => some ⟨0x1C1, .either, .lit, .c, (.lt 1), .syswr, .none, 0⟩
  | .calDataRead _ => some ⟨0x1C0, .either, .lit, .c, (.lt 1), .sysrd, .none, 0⟩
  | .swallowColWrite _ => some ⟨0x1C1, .either, .lit, .c, (.lt 1), .syswr, .none, 0⟩
  | .thrEventsWrite _ => some ⟨0x1C1, .either, .lit, .c, (.lt 1), .syswr, .none, 0⟩
  | .evpendWrite _ => some ⟨0x1C1, .either, .lit, .c, (.lt 1), .syswr, .none, 0⟩
  | .polDealWrite _ => some ⟨0x1C1, .either, .lit, .c, (.lt 1), .syswr, .none, 0⟩
  | .kresContinue _ => some ⟨0x1CB, .short, .plain, .c, (.lt 1), .alu2, .none, 1⟩
  | .kresRetire _ => some ⟨0x1CB, .short, .plain, .c, (.lt 1), .alu2, .none, 1⟩
  | _ => none

/-- The operand fields of each instruction that has an L64 or L96 word. -/
def fieldsOf (i : Instr) : Option Fields :=
  match i with
  | .iadd f => some f
  | .iaddLit f => some f
  | .isub f => some f
  | .isubLit f => some f
  | .imul f => some f
  | .imulLit f => some f
  | .imulhi f => some f
  | .imulhiLit f => some f
  | .imad f => some f
  | .iadd64 f => some f
  | .iadd64Lit f => some f
  | .isub64 f => some f
  | .isub64Lit f => some f
  | .imulw f => some f
  | .imulwLit f => some f
  | .imin f => some f
  | .iminLit f => some f
  | .imax f => some f
  | .imaxLit f => some f
  | .iabs f => some f
  | .ineg f => some f
  | .iand f => some f
  | .iandLit f => some f
  | .ior f => some f
  | .iorLit f => some f
  | .ixor f => some f
  | .ixorLit f => some f
  | .iandn f => some f
  | .iandnLit f => some f
  | .shl f => some f
  | .shlLit f => some f
  | .shr f => some f
  | .shrLit f => some f
  | .sar f => some f
  | .sarLit f => some f
  | .rotl f => some f
  | .rotlLit f => some f
  | .shf f => some f
  | .clz f => some f
  | .popc f => some f
  | .brev f => some f
  | .bfe f => some f
  | .bfi f => some f
  | .icmp f => some f
  | .icmpLit f => some f
  | .sel f => some f
  | .selLit f => some f
  | .lea f => some f
  | .leaLit f => some f
  | .movi f => some f
  | .icsub f => some f
  | .icsubLit f => some f
  | .idiv f => some f
  | .idivLit f => some f
  | .irem f => some f
  | .iremLit f => some f
  | .bperm f => some f
  | .icvt f => some f
  | .vird f => some f
  | .viwr f => some f
  | .kand f => some f
  | .kor f => some f
  | .kxor f => some f
  | .kandn f => some f
  | .kmov f => some f
  | .kmovReg f => some f
  | .ktov f => some f
  | .fadd f => some f
  | .faddLit f => some f
  | .fsub f => some f
  | .fsubLit f => some f
  | .fmul f => some f
  | .fmulLit f => some f
  | .ffma f => some f
  | .fmin f => some f
  | .fminLit f => some f
  | .fmax f => some f
  | .fmaxLit f => some f
  | .fcmp f => some f
  | .fcmpLit f => some f
  | .fcls f => some f
  | .fscale f => some f
  | .fscaleLit f => some f
  | .frnd f => some f
  | .frcp f => some f
  | .fsqrt f => some f
  | .frsqrt f => some f
  | .fexp2 f => some f
  | .flog2 f => some f
  | .cvt f => some f
  | .pcvt f => some f
  | .upk f => some f
  | .padd4 f => some f
  | .padd4Lit f => some f
  | .pmul4 f => some f
  | .pmul4Lit f => some f
  | .hfma2 f => some f
  | .dot2 f => some f
  | .dot4 f => some f
  | .dot8 f => some f
  | .xmov f => some f
  | .qswz f => some f
  | .vote f => some f
  | .cred f => some f
  | .cscan f => some f
  | .csegred f => some f
  | .cfirst f => some f
  | .xsel f => some f
  | .cperm f => some f
  | .ld f => some f
  | .ldMem f => some f
  | .st f => some f
  | .stMem f => some f
  | .lds f => some f
  | .ldsMem f => some f
  | .sts f => some f
  | .stsMem f => some f
  | .ldc f => some f
  | .ldcMem f => some f
  | .stc f => some f
  | .stcMem f => some f
  | .lda f => some f
  | .strl f => some f
  | .atom f => some f
  | .atomc f => some f
  | .atoms f => some f
  | .meld f => some f
  | .fence f => some f
  | .cwb f => some f
  | .cinv f => some f
  | .pref f => some f
  | .prefMem f => some f
  | .macq f => some f
  | .mrel f => some f
  | .mres f => some f
  | .mresLit f => some f
  | .mstg f => some f
  | .mma f => some f
  | .mzro f => some f
  | .mrd f => some f
  | .cpy f => some f
  | .cpyLit f => some f
  | .cpy2 f => some f
  | .cpy2Lit f => some f
  | .cpyg f => some f
  | .cpygLit f => some f
  | .cpyr f => some f
  | .cpyrLit f => some f
  | .potarm f => some f
  | .potarmLit f => some f
  | .fwrb f => some f
  | .fwrbLit f => some f
  | .frdb f => some f
  | .frdbLit f => some f
  | .spawn f => some f
  | .tstat f => some f
  | .gbarGang f => some f
  | .gbarGrid f => some f
  | .rxacq f => some f
  | .rxrel f => some f
  | .zacq f => some f
  | .zrel f => some f
  | .setfm f => some f
  | .setfmLit f => some f
  | .getsr f => some f
  | .tick f => some f
  | .cyc f => some f
  | .fsetSet f => some f
  | .fsetSetLit f => some f
  | .fsetClr f => some f
  | .fsetClrLit f => some f
  | .sysrd f => some f
  | .sysrdLit f => some f
  | .syswr f => some f
  | .syswrLit f => some f
  | .tret f => some f
  | .ecall f => some f
  | .wfe f => some f
  | .tlbiAll f => some f
  | .tlbiAsid f => some f
  | .tlbiAsidLit f => some f
  | .tlbiPage f => some f
  | .tlbiPageLit f => some f
  | .swpgMv f => some f
  | .swpgXch f => some f
  | .mscfWb f => some f
  | .mscfWbi f => some f
  | .gsave f => some f
  | .grest f => some f
  | .fqpop f => some f
  | .kresRetry f => some f
  | .brk f => some f
  | .halt f => some f
  | .rsmGoWrite f => some f
  | .calDataRead f => some f
  | .swallowColWrite f => some f
  | .thrEventsWrite f => some f
  | .evpendWrite f => some f
  | .polDealWrite f => some f
  | .kresContinue f => some f
  | .kresRetire f => some f
  | _ => none

/-- The OP of each terminator (R62), with its fields. -/
def termOf (i : Instr) : Option (Nat × TermFields) :=
  match i with
  | .br f => some (0x070, f)
  | .brc f => some (0x071, f)
  | .brx f => some (0x072, f)
  | .call f => some (0x073, f)
  | .exit f => some (0x074, f)
  | .park f => some (0x075, f)
  | .trap f => some (0x076, f)
  | _ => none

/-- The OP8 of each short form (R68), with its fields. -/
def shortOf (i : Instr) : Option (Nat × ShortFields) :=
  match i with
  | .nop f => some (0x00, f)
  | .mov f => some (0x01, f)
  | .inot f => some (0x02, f)
  | .movsi f => some (0x03, f)
  | _ => none

/-- The engine commands (R47). -/
def isEngineOp (op : Nat) : Bool :=
  (0x163 ≤ op && op ≤ 0x165) || (0x167 ≤ op && op ≤ 0x16A) || op == 0x16C || op == 0x16D

end Sys2Proof.Machine
end

