-- ==== Sys2Proof/Decode.lean ====
section
/-! DEFINITION. Decoding the words of a block body (R41, R48, R49, R55, R60 to R69), and the encoder written from the same
tables. Decoding is total: every word sequence is an instruction, or is rejected by name. -/

namespace Sys2Proof

/-- Why words are not an instruction of a block body (R43). -/
inductive DecodeError where
  /-- there is no word, or the instruction needs more words than there are -/
  | tooShort
  /-- a block header (length code 0b11) stands inside a body -/
  | headerInBody
  /-- a terminator opcode with the L96 length code -/
  | longTerminator
  deriving DecidableEq, Repr

/-- The fields of an L64 word (R49), and LIT when there is one. -/
def decodeFields (v : D64) (lit : Option W) : Fields :=
  ⟨v.getLsbD 51, v.extractLsb' 48 3, v.extractLsb' 38 10, v.extractLsb' 28 10, v.extractLsb' 18 10, v.extractLsb' 15 3,
    v.extractLsb' 12 3, v.extractLsb' 7 5, v.getLsbD 6, v.getLsbD 5, v.getLsbD 4, v.extractLsb' 0 4, lit⟩

/-- The fields of an S32 word (R48). -/
def decodeShortFields (w : W) : ShortFields := ⟨w.extractLsb' 12 10, w.extractLsb' 2 10, w.getLsbD 1, w.getLsbD 0⟩

/-- The fields of a T64 word (R55). -/
def decodeTermFields (v : D64) : TermFields := ⟨v.extractLsb' 48 4, v.extractLsb' 24 24, v.extractLsb' 0 24⟩

/-- The opcodes of the Integer rows: OP, and the instruction its fields make. -/
def opsInteger : List (Nat × (Fields → Instr)) := [
  (0x000, fun f => if f.lit.isSome then .iaddLit f else .iadd f),
  (0x001, fun f => if f.lit.isSome then .isubLit f else .isub f),
  (0x002, fun f => if f.lit.isSome then .imulLit f else .imul f),
  (0x003, fun f => if f.lit.isSome then .imulhiLit f else .imulhi f),
  (0x004, fun f => .imad f),
  (0x005, fun f => if f.lit.isSome then .iadd64Lit f else .iadd64 f),
  (0x006, fun f => if f.lit.isSome then .isub64Lit f else .isub64 f),
  (0x007, fun f => if f.lit.isSome then .imulwLit f else .imulw f),
  (0x008, fun f => if f.lit.isSome then .iminLit f else .imin f),
  (0x009, fun f => if f.lit.isSome then .imaxLit f else .imax f),
  (0x00A, fun f => .iabs f),
  (0x00B, fun f => .ineg f),
  (0x00C, fun f => if f.lit.isSome then .iandLit f else .iand f),
  (0x00D, fun f => if f.lit.isSome then .iorLit f else .ior f),
  (0x00E, fun f => if f.lit.isSome then .ixorLit f else .ixor f),
  (0x00F, fun f => if f.lit.isSome then .iandnLit f else .iandn f),
  (0x010, fun f => if f.lit.isSome then .shlLit f else .shl f),
  (0x011, fun f => if f.lit.isSome then .shrLit f else .shr f),
  (0x012, fun f => if f.lit.isSome then .sarLit f else .sar f),
  (0x013, fun f => if f.lit.isSome then .rotlLit f else .rotl f),
  (0x014, fun f => .shf f),
  (0x015, fun f => .clz f),
  (0x016, fun f => .popc f),
  (0x017, fun f => .brev f),
  (0x018, fun f => .bfe f),
  (0x019, fun f => .bfi f),
  (0x01A, fun f => if f.lit.isSome then .icmpLit f else .icmp f),
  (0x01B, fun f => if f.lit.isSome then .selLit f else .sel f),
  (0x01C, fun f => if f.lit.isSome then .leaLit f else .lea f),
  (0x01D, fun f => .movi f),
  (0x01E, fun f => if f.lit.isSome then .icsubLit f else .icsub f),
  (0x01F, fun f => if f.lit.isSome then .idivLit f else .idiv f),
  (0x020, fun f => if f.lit.isSome then .iremLit f else .irem f),
  (0x021, fun f => .bperm f),
  (0x022, fun f => .icvt f),
  (0x023, fun f => .vird f),
  (0x024, fun f => .viwr f)]

/-- The opcodes of the Predicate rows: OP, and the instruction its fields make. -/
def opsPredicate : List (Nat × (Fields → Instr)) := [
  (0x060, fun f => .kand f),
  (0x061, fun f => .kor f),
  (0x062, fun f => .kxor f),
  (0x063, fun f => .kandn f),
  (0x064, fun f => if f.modx = 1 then .kmovReg f else .kmov f),
  (0x065, fun f => .ktov f)]

/-- The opcodes of the FloatNarrow rows: OP, and the instruction its fields make. -/
def opsFloatNarrow : List (Nat × (Fields → Instr)) := [
  (0x080, fun f => if f.lit.isSome then .faddLit f else .fadd f),
  (0x081, fun f => if f.lit.isSome then .fsubLit f else .fsub f),
  (0x082, fun f => if f.lit.isSome then .fmulLit f else .fmul f),
  (0x083, fun f => .ffma f),
  (0x084, fun f => if f.lit.isSome then .fminLit f else .fmin f),
  (0x085, fun f => if f.lit.isSome then .fmaxLit f else .fmax f),
  (0x086, fun f => if f.lit.isSome then .fcmpLit f else .fcmp f),
  (0x087, fun f => .fcls f),
  (0x088, fun f => if f.lit.isSome then .fscaleLit f else .fscale f),
  (0x089, fun f => .frnd f),
  (0x08A, fun f => .frcp f),
  (0x08B, fun f => .fsqrt f),
  (0x08C, fun f => .frsqrt f),
  (0x08D, fun f => .fexp2 f),
  (0x08E, fun f => .flog2 f),
  (0x08F, fun f => .cvt f),
  (0x090, fun f => .pcvt f),
  (0x091, fun f => .upk f),
  (0x092, fun f => if f.lit.isSome then .padd4Lit f else .padd4 f),
  (0x093, fun f => if f.lit.isSome then .pmul4Lit f else .pmul4 f),
  (0x094, fun f => .hfma2 f),
  (0x095, fun f => .dot2 f),
  (0x096, fun f => .dot4 f),
  (0x097, fun f => .dot8 f)]

/-- The opcodes of the CrossLane rows: OP, and the instruction its fields make. -/
def opsCrossLane : List (Nat × (Fields → Instr)) := [
  (0x0E0, fun f => .xmov f),
  (0x0E1, fun f => .qswz f),
  (0x0E2, fun f => .vote f),
  (0x0E3, fun f => .cred f),
  (0x0E4, fun f => .cscan f),
  (0x0E5, fun f => .csegred f),
  (0x0E6, fun f => .cfirst f),
  (0x0E7, fun f => .xsel f),
  (0x0E8, fun f => .cperm f)]

/-- The opcodes of the MemoryInstr rows: OP, and the instruction its fields make. -/
def opsMemoryInstr : List (Nat × (Fields → Instr)) := [
  (0x100, fun f => if f.lit.isSome then .ldMem f else .ld f),
  (0x101, fun f => if f.lit.isSome then .stMem f else .st f),
  (0x102, fun f => if f.lit.isSome then .ldsMem f else .lds f),
  (0x103, fun f => if f.lit.isSome then .stsMem f else .sts f),
  (0x104, fun f => if f.lit.isSome then .ldcMem f else .ldc f),
  (0x105, fun f => if f.lit.isSome then .stcMem f else .stc f),
  (0x106, fun f => .lda f),
  (0x107, fun f => .strl f),
  (0x108, fun f => .atom f),
  (0x109, fun f => .atomc f),
  (0x10A, fun f => .atoms f),
  (0x10B, fun f => .meld f),
  (0x10C, fun f => .fence f),
  (0x10D, fun f => .cwb f),
  (0x10E, fun f => .cinv f),
  (0x10F, fun f => if f.lit.isSome then .prefMem f else .pref f)]

/-- The opcodes of the EngineInstr rows: OP, and the instruction its fields make. -/
def opsEngineInstr : List (Nat × (Fields → Instr)) := [
  (0x160, fun f => .macq f),
  (0x161, fun f => .mrel f),
  (0x162, fun f => if f.lit.isSome then .mresLit f else .mres f),
  (0x163, fun f => .mstg f),
  (0x164, fun f => .mma f),
  (0x165, fun f => .mzro f),
  (0x166, fun f => .mrd f),
  (0x167, fun f => if f.lit.isSome then .cpyLit f else .cpy f),
  (0x168, fun f => if f.lit.isSome then .cpy2Lit f else .cpy2 f),
  (0x169, fun f => if f.lit.isSome then .cpygLit f else .cpyg f),
  (0x16A, fun f => if f.lit.isSome then .cpyrLit f else .cpyr f),
  (0x16B, fun f => if f.lit.isSome then .potarmLit f else .potarm f),
  (0x16C, fun f => if f.lit.isSome then .fwrbLit f else .fwrb f),
  (0x16D, fun f => if f.lit.isSome then .frdbLit f else .frdb f)]

/-- The opcodes of the TaskGroup rows: OP, and the instruction its fields make. -/
def opsTaskGroup : List (Nat × (Fields → Instr)) := [
  (0x16E, fun f => .spawn f),
  (0x16F, fun f => .tstat f),
  (0x170, fun f => if f.modx = 1 then .gbarGrid f else .gbarGang f),
  (0x171, fun f => .rxacq f),
  (0x172, fun f => .rxrel f),
  (0x173, fun f => .zacq f),
  (0x174, fun f => .zrel f),
  (0x175, fun f => if f.lit.isSome then .setfmLit f else .setfm f),
  (0x176, fun f => .getsr f),
  (0x177, fun f => .tick f),
  (0x178, fun f => .cyc f),
  (0x179, fun f => if f.modx = 1 then if f.lit.isSome then .fsetClrLit f else .fsetClr f else if f.lit.isSome then .fsetSetLit f else .fsetSet f)]

/-- The opcodes of the System rows: OP, and the instruction its fields make. -/
def opsSystem : List (Nat × (Fields → Instr)) := [
  (0x1C0, fun f => if f.lit.isSome then .sysrdLit f else .sysrd f),
  (0x1C1, fun f => if f.lit.isSome then .syswrLit f else .syswr f),
  (0x1C2, fun f => .tret f),
  (0x1C3, fun f => .ecall f),
  (0x1C4, fun f => .wfe f),
  (0x1C5, fun f => if f.modx = 1 then if f.lit.isSome then .tlbiAsidLit f else .tlbiAsid f else if f.modx = 2 then if f.lit.isSome then .tlbiPageLit f else .tlbiPage f else .tlbiAll f),
  (0x1C6, fun f => if f.modx = 1 then .swpgXch f else .swpgMv f),
  (0x1C7, fun f => if f.modx = 1 then .mscfWbi f else .mscfWb f),
  (0x1C8, fun f => .gsave f),
  (0x1C9, fun f => .grest f),
  (0x1CA, fun f => .fqpop f),
  (0x1CB, fun f => .kresRetry f),
  (0x1CC, fun f => .brk f),
  (0x1CD, fun f => .halt f)]

/-- The opcode table of the long forms (R60 to R67). -/
def opTable : List (Nat × (Fields → Instr)) := opsInteger ++ opsPredicate ++ opsFloatNarrow ++ opsCrossLane ++ opsMemoryInstr ++ opsEngineInstr ++ opsTaskGroup ++ opsSystem

/-- The instruction an OP10 and its fields make; an OP the table does not list is reserved (R69). -/
def decodeLong (op : BitVec 10) (f : Fields) : Instr :=
  match opTable.find? (fun e => e.1 == op.toNat) with
  | some e => e.2 f
  | none => .reservedOpcode (.long op f)

/-- The instruction a terminator opcode makes (R62); none for an OP that is no terminator. -/
def decodeTerm (op : BitVec 10) (f : TermFields) : Option Instr :=
  match op.toNat with
  | 0x070 => some (.br f)
  | 0x071 => some (.brc f)
  | 0x072 => some (.brx f)
  | 0x073 => some (.call f)
  | 0x074 => some (.exit f)
  | 0x075 => some (.park f)
  | 0x076 => some (.trap f)
  | _ => none

/-- The instruction a short form makes (R68). -/
def decodeShort (op8 : BitVec 8) (f : ShortFields) : Instr :=
  match op8.toNat with
  | 0 => .nop f
  | 1 => .mov f
  | 2 => .inot f
  | 3 => .movsi f
  | _ => .reservedOpcode (.short op8 f)

/-- Decode the instruction that starts a list of words: the instruction and the words after it (R41). -/
def decode (ws : List W) : Except DecodeError (Instr × List W) :=
  match ws with
  | [] => .error .tooShort
  | w :: rest =>
    match (w.extractLsb' 30 2).toNat with
    | 0 => .ok (decodeShort (w.extractLsb' 22 8) (decodeShortFields w), rest)
    | 1 =>
      match rest with
      | [] => .error .tooShort
      | w2 :: rest2 =>
        let v : D64 := w ++ w2
        match decodeTerm (v.extractLsb' 52 10) (decodeTermFields v) with
        | some i => .ok (i, rest2)
        | none => .ok (decodeLong (v.extractLsb' 52 10) (decodeFields v none), rest2)
    | 2 =>
      match rest with
      | w2 :: l :: rest3 =>
        let v : D64 := w ++ w2
        match decodeTerm (v.extractLsb' 52 10) (decodeTermFields v) with
        | some _ => .error .longTerminator
        | none => .ok (decodeLong (v.extractLsb' 52 10) (decodeFields v (some l)), rest3)
      | _ => .error .tooShort
    | _ => .error .headerInBody

/-- The 64 bits of an L64 word, or of the first two words of an L96 (R49). -/
def encodeFields (op : BitVec 10) (f : Fields) : D64 :=
  (BitVec.ofNat 2 (if f.lit.isSome then 2 else 1)) ++ op ++ BitVec.ofBool f.pn ++ f.pk ++ f.d ++ f.a ++ f.b ++ f.pa ++ f.pb
    ++ f.dist ++ BitVec.ofBool f.dS ++ BitVec.ofBool f.aS ++ BitVec.ofBool f.bS ++ f.modx

/-- The words of a long form. -/
def encodeLong (op : BitVec 10) (f : Fields) : List W :=
  let v := encodeFields op f
  [v.extractLsb' 32 32, v.extractLsb' 0 32] ++ f.lit.toList

/-- The word of a short form (R48). -/
def encodeShort (op8 : BitVec 8) (f : ShortFields) : List W :=
  [0#2 ++ op8 ++ f.d ++ f.a ++ BitVec.ofBool f.dS ++ BitVec.ofBool f.aS]

/-- The words of a terminator (R55). -/
def encodeTerm (op : BitVec 10) (f : TermFields) : List W :=
  let v : D64 := 1#2 ++ op ++ f.cond ++ f.ta ++ f.tb
  [v.extractLsb' 32 32, v.extractLsb' 0 32]

/-- The words of an instruction; an event has none. -/
def encode (i : Instr) : List W :=
  match i with
  | .reservedOpcode (.short op8 f) => encodeShort op8 f
  | .reservedOpcode (.long op f) => encodeLong op f
  | _ =>
    match Machine.shortOf i, Machine.termOf i, Machine.rowOf i, Machine.fieldsOf i with
    | some (op, f), _, _, _ => encodeShort (BitVec.ofNat 8 op) f
    | none, some (op, f), _, _ => encodeTerm (BitVec.ofNat 10 op) f
    | none, none, some r, some f => encodeLong (BitVec.ofNat 10 r.op) f
    | _, _, _, _ => []

/-- The words of an instruction of `nbits` bits numbered as the opcode table numbers them: bit 0 is the least significant
bit of the first word (R4); two more words of zeros follow, for an operand word the table gives no bits. -/
def tableWords (nbits w : Nat) : List W :=
  let v := w % 2 ^ nbits
  [BitVec.ofNat 32 v, BitVec.ofNat 32 (v / 2 ^ 32), BitVec.ofNat 32 (v / 2 ^ 64)]

/-- The instruction the decoder reads from `nbits` bits of the opcode table's numbering. -/
def decodeTableWord (nbits w : Nat) : Option Instr :=
  match decode (tableWords nbits w) with
  | .ok (i, _) => some i
  | .error _ => none

end Sys2Proof
end

