-- ==== Sys2Proof/Machine/Operands.lean ====
section
/-! DEFINITION. Operands: which fields an opcode uses, the legality rules of R59, the crossbar, and reading and writing the
registers of a lane (R9 to R12, R16, R28 to R30, R50 to R59, R172, R175). -/

namespace Sys2Proof.Machine

/-! ### How fields are used -/

/-- The use of an operand field: not at all, as a source, a destination, both (a destination that is also read), a k index
(R57), or the selectors of `qswz`. `pair`: a 64-bit operand (R12). -/
inductive OpUse where
  | unused
  | src (pair : Bool)
  | dst (pair : Bool)
  | both (pair : Bool)
  | kfield
  | sel8
  deriving DecidableEq, Repr

/-- Size code 5 names a pair (R174). -/
def sizePair (m : Nat) : Bool := m == 5
/-- Atomic operations 10 and 11 use pairs (R172). -/
def atomPair (m : Nat) : Bool := m == 10 || m == 11

/-- The use of D, A and B by shape and MODX (R57, R113 to R131, R142 to R167, R172, R202 to R223, R227 to R243). DESIGN CHOICE
(log 23): what a field is for a reserved MODX the spec does not say; `movi` with MODX 3 to 15 counts D as a pair, `kmov` with
MODX 2 to 15 counts A as no register. -/
def shapeUses (sh : Shape) (m : Nat) : OpUse × OpUse × OpUse :=
  let s := OpUse.src false
  let p := OpUse.src true
  let d := OpUse.dst false
  let u := OpUse.unused
  match sh with
  | .alu2 | .tern => (d, s, s)
  | .alu2p => (.dst true, p, p)
  | .alu1 => (d, s, u)
  | .mulw => (.dst true, s, s)
  | .cmp => (.kfield, s, s)
  | .lea => (.dst true, p, s)
  | .movi => (.dst (m != 0), u, u)
  | .viwr => (u, s, s)
  | .kkk => (.kfield, .kfield, .kfield)
  | .kk => (.kfield, .kfield, u)
  | .kreg => (.kfield, s, u)
  | .ktov => (d, .kfield, u)
  | .pcvt => (d, p, u)
  | .upk => (.dst (m < 4), s, u)
  | .qswz => (d, s, .sel8)
  | .vote => (d, .kfield, u)
  | .xsel => (d, s, s)
  | .ld => (.dst (sizePair m), p, u)
  | .st => (u, p, .src (sizePair m))
  | .lds => (.dst (sizePair m), s, u)
  | .sts => (u, s, .src (sizePair m))
  | .atom => (.dst (atomPair m), p, .src (atomPair m))
  | .atomc => (.both (m == 1), p, .src (m == 1))
  | .atoms => (.dst (atomPair m), s, .src (atomPair m))
  | .none0 => (u, u, u)
  | .range => (u, p, s)
  | .pref => (u, p, u)
  | .ab => (u, s, s)
  | .mstg => (u, p, s)
  | .bonly => (u, u, s)
  | .mrd => (.dst (m == 0 || m == 5), s, u)
  | .cpy => (p, p, s)
  | .spawn => (d, p, p)
  | .donly => (d, u, u)
  | .aonly => (u, s, u)
  | .dpair => (.dst true, u, u)
  | .sysrd => (.dst true, u, s)
  | .syswr => (u, p, s)
  | .tlbip => (u, p, s)
  | .fqpop => (d, p, u)
  | .gsave => (d, p, s)

/-- The uses of a word's fields; LIT in the place of B leaves the B field unused (R51). -/
def rowUses (r : Row) (f : Fields) : OpUse × OpUse × OpUse :=
  let u := shapeUses r.shape f.modx.toNat
  if r.lit = .lit && f.lit.isSome then (u.1, u.2.1, .unused) else u

/-- Whether LIT replaces source B. -/
def litB (r : Row) (f : Fields) : Bool := r.lit = .lit && f.lit.isSome

/-- LIT as a number; an L64 memory form reads as LIT = 0 (R53). -/
def litNat (f : Fields) : Nat := (f.lit.getD 0).toNat

/-- Index and space of source C of a ternary form (R51). -/
def cIndex (f : Fields) : Nat := fieldOf (litNat f) 31 22
def cSpace (f : Fields) : Bool := bitOf (litNat f) 21

/-- The v register an operand reaches, the higher one of a pair (R12). -/
def vReach (use : OpUse) (x : Bool) (i : Nat) : Nat :=
  match use with
  | .src p | .dst p | .both p => if x then 0 else if p then i + 1 else i
  | _ => 0

/-- The highest v register the fields of an instruction name (R43, R55). DESIGN CHOICE (log 23): field A of `kmov` with a
reserved MODX (2 to 15) is no used v-space operand here. -/
def highestV (i : Instr) : Nat :=
  match shortOf i, termOf i, rowOf i, fieldsOf i with
  | some (op, f), _, _, _ =>
    if op = 0 then 0
    else max (if f.dS then 0 else f.d.toNat) (if op = 3 || f.aS then 0 else f.a.toNat)
  | none, some (op, f), _, _ =>
    if (op = 0x072 || op = 0x073) && !(f.tb.getLsbD 13) then (f.tb.extractLsb' 14 10).toNat + 1 else 0
  | none, none, some r, some f =>
    let u := rowUses r f
    max (max (vReach u.1 f.dS f.d.toNat) (vReach u.2.1 f.aS f.a.toNat))
      (max (vReach u.2.2 f.bS f.b.toNat) (if r.lit = .tern && !(cSpace f) then cIndex f else 0))
  | _, _, _, _ => 0

/-- The registers an operand names, by space and index (R12). -/
def useRegs (u : OpUse) (x : Bool) (i : Nat) : List (Bool × Nat) :=
  match u with
  | .src p | .dst p | .both p => if p then [(x, i), (x, i + 1)] else [(x, i)]
  | _ => []

/-- The registers the fields of an instruction name. -/
def namedRegs (i : Instr) : List (Bool × Nat) :=
  match shortOf i, rowOf i, fieldsOf i with
  | some (op, f), _, _ =>
    if op = 0 then [] else (f.dS, f.d.toNat) :: (if op = 3 then [] else [(f.aS, f.a.toNat)])
  | none, some r, some f =>
    let u := rowUses r f
    useRegs u.1 f.dS f.d.toNat ++ useRegs u.2.1 f.aS f.a.toNat ++ useRegs u.2.2 f.bS f.b.toNat
      ++ (if r.lit = .tern then [(cSpace f, cIndex f)] else [])
  | _, _, _ => []

/-- Whether an ORDER contains a release or an acquire (R286). -/
def isRelease (o : Nat) : Bool := o = 3 || o = 4 || o = 5
def isAcquire (o : Nat) : Bool := o = 2 || o = 4 || o = 5

/-! ### The environment of an instruction -/

/-- What every lane of an instruction shares: who issues it, the block's kind and QH, the header address and the
instruction's address, its words, the snapshots (R37) and the privilege of a column core. -/
structure Env where
  who : Issuer
  kind : Nat
  qh : Bool
  addr : D64
  pc : D64
  fmode : W
  fstat : W
  priv : Nat
  deriving DecidableEq, Repr

/-- A block of threads: kinds 0, 1 and 4 (R60, Th). -/
def Env.th (e : Env) : Bool := e.kind = 0 || e.kind = 1 || e.kind = 4
/-- A scalar block: kinds 2 and 3. -/
def Env.scalar (e : Env) : Bool := e.kind = 2 || e.kind = 3

/-- One occupied lane as an instruction sees it; `sp` gives the special registers (R20). -/
structure LaneView where
  pos : Nat
  tidx : Nat
  helper : Bool
  v : Regs
  s : Regs
  q : Regs
  k : BitVec 8
  sp : Nat → W

/-! ### Legality (R58, R59) -/

/-- The Kinds column (R60 to R67). -/
def kindOk (k : Kinds) (e : Env) : Bool :=
  match k with
  | .all => true
  | .th => e.th
  | .thG => e.th || e.kind = 2
  | .ga => e.kind = 1
  | .g => e.kind = 2
  | .gC => e.scalar
  | .c => e.kind = 3
  | .quad => e.kind = 1 || (e.th && e.qh)

/-- The MODX column. -/
def modxOk (m : ModxRule) (e : Env) (v : Nat) : Bool :=
  match m with
  | .lt n => v < n
  | .eq n => v = n
  | .lea => v % 8 < 5
  | .typ2 => v % 4 < 3
  | .cvt => v < 14 && (e.kind != 3 || v < 10)
  | .upk => v < 8 && (3 < v || v % 2 = 0)
  | .stsz => v = 0 || v = 2 || v = 4 || v = 5
  | .meld => v < 9 || v = 10

/-- The lengths a row takes. -/
def lenOk (l : LenRule) (f : Fields) : Bool :=
  match l with
  | .short => f.lit.isNone
  | .long => f.lit.isSome
  | .either => true

/-- Whether a special register may be read in a block kind (R20, R21). -/
def specialOk (e : Env) (i : Nat) : Bool :=
  if i ≤ 519 then 512 ≤ i && e.th
  else if i < 524 || i = 535 || 553 < i then false
  else if 538 ≤ i && i ≤ 545 then true
  else if 551 ≤ i then true
  else e.kind != 3

/-- Whether one register index may be read (R9, R11, R21). -/
def readable (e : Env) (x : Bool) (i : Nat) : Bool :=
  if x then i < 264 || specialOk e i else e.th
/-- Whether one register index may be written (R9, R11). -/
def writable (e : Env) (x : Bool) (i : Nat) : Bool :=
  if x then (i < 256 && e.scalar) || (256 ≤ i && i < 264) else e.th

/-- Both registers of a pair, or the one register, satisfy a test; a pair's lower index is even (R12). -/
def pairOk (p : Nat → Bool) (pair : Bool) (i : Nat) : Bool :=
  if pair then i % 2 = 0 && p i && p (i + 1) else p i

/-- Reason 4: the operand's space, index and pair. -/
def operandOk (e : Env) (use : OpUse) (x : Bool) (i : Nat) : Bool :=
  match use with
  | .src p => pairOk (readable e x) p i
  | .dst p => pairOk (writable e x) p i
  | .both p => pairOk (readable e x) p i && pairOk (writable e x) p i
  | _ => true

/-- Reason 5: one pattern and the shared DIST (R28, R29). -/
def patternOk (e : Env) (pat : Nat) (dist : Nat) (regX : Bool) : Bool :=
  if pat = 0 then true
  else
    pat < 6 && !regX && (pat != 4 || dist < 5) && (pat != 5 || dist < 4)
      && (e.kind = 1 || (pat = 5 && e.qh))

/-- A register source in x-space takes no pattern (R29). -/
def isReg (use : OpUse) : Bool :=
  match use with
  | .src _ | .both _ => true
  | _ => false

/-- Reason 6: a field that holds no register (R57). -/
def fieldOk (use : OpUse) (x : Bool) (i pat : Nat) : Bool :=
  match use with
  | .unused => i = 0 && !x && pat = 0
  | .kfield => i < 8 && !x && pat = 0
  | .sel8 => i < 256 && !x && pat = 0
  | .dst _ => pat = 0
  | _ => true

/-- Reason 6 of the LIT word: zero fields of ternary and control forms, reserved HINT, OFFSET of `fence` (R51 to R54, R175). -/
def litOk (r : Row) (f : Fields) : Bool :=
  let l := litNat f
  match r.lit with
  | .tern => fieldOf l 20 0 = 0
  | .ctl =>
    if r.op = 0x021 then fieldOf l 31 16 = 0
    else if r.op = 0x018 || r.op = 0x019 then fieldOf l 31 14 = 0 && fieldOf l 7 5 = 0 && fieldOf l 13 8 ≤ 32
    else true
  | .mem =>
    (match r.mem with
      | .ldst | .lda | .strl => fieldOf l 25 24 < 3
      | _ => fieldOf l 25 24 = 0) && (r.mem != .fence || fieldOf l 23 0 = 0)
  | _ => true

/-- SCOPE, ORDER and OFFSET of a memory form (R52, R53). -/
def memScope (f : Fields) : Nat := fieldOf (litNat f) 31 29
def memOrder (f : Fields) : Nat := fieldOf (litNat f) 28 26
def memHint (f : Fields) : Nat := fieldOf (litNat f) 25 24
def memOffset (f : Fields) : Int := (BitVec.ofNat 24 (litNat f)).toInt

/-- Whether an instruction waits until no register of its trick is pending: `vird` and `viwr` (R129); crew instructions (R159); a terminator
(R34); and whatever changes more than registers, since the result is the same as if every earlier instruction had completed (R33): stores,
atomics, fences, `cwb` and `cinv`, engine commands (R300), `spawn`, the group instructions and `fset` (R301). The last is the model's
reading of R33 (log 31). -/
def waitsAll (i : Instr) : Bool :=
  match rowOf i with
  | some r => [0x023, 0x024, 0x101, 0x103, 0x105, 0x179].contains r.op || decide (0x0E0 ≤ r.op ∧ r.op ≤ 0x0E8)
      || decide (0x107 ≤ r.op ∧ r.op ≤ 0x10E) || (decide (0x160 ≤ r.op ∧ r.op ≤ 0x175) && r.op != 0x166 && r.op != 0x16F)
  | none => (termOf i).isSome

/-- Reason 8: SCOPE and ORDER of a memory opcode (R65, R175). -/
def scopeOk (m : MemClass) (scope order : Nat) : Bool :=
  match m with
  | .none => true
  | .ldst => (order = 0 && scope = 0) || (order = 1 && scope < 7)
  | .scr => (order = 0 && scope = 0) || (order = 1 && (scope = 0 || scope = 3))
  | .lda => (order = 2 || order = 5) && scope < 7
  | .strl => (order = 3 || order = 5) && scope < 7
  | .atom => 1 ≤ order && order ≤ 5 && scope < 7
  | .atoms => 1 ≤ order && order ≤ 5 && (scope = 0 || scope = 3)
  | .fence => 2 ≤ order && order ≤ 5 && scope < 7
  | .cache => order = 0 && 2 ≤ scope && scope < 7
  | .pref => order = 0 && scope = 0

/-- The operands of a word satisfy reason 4. -/
def operandsOk (r : Row) (e : Env) (f : Fields) : Bool :=
  let u := rowUses r f
  operandOk e u.1 f.dS f.d.toNat && operandOk e u.2.1 f.aS f.a.toNat && operandOk e u.2.2 f.bS f.b.toNat
    && (r.lit != .tern || operandOk e (.src false) (cSpace f) (cIndex f))

/-- The rows that require the identity pattern on A (R160). -/
def identityA (r : Row) : Bool :=
  match r.shape with
  | .qswz | .vote | .xsel => true
  | _ => false

/-- The patterns of a word satisfy reason 5. -/
def patternsOk (r : Row) (e : Env) (f : Fields) : Bool :=
  let u := rowUses r f
  patternOk e f.pa.toNat f.dist.toNat (isReg u.2.1 && f.aS) && patternOk e f.pb.toNat f.dist.toNat (isReg u.2.2 && f.bS)
    && !(litB r f && f.pb != 0) && (!(identityA r) || f.pa = 0)

/-- The unused and reserved fields of a word satisfy reason 6. -/
def unusedOk (r : Row) (f : Fields) : Bool :=
  let u := rowUses r f
  fieldOk u.1 f.dS f.d.toNat 0 && fieldOk u.2.1 f.aS f.a.toNat f.pa.toNat && fieldOk u.2.2 f.bS f.b.toNat f.pb.toNat
    && litOk r f

/-- The lowest reason of R59 that applies to a word of a row, for an active thread. -/
def illegal (r : Row) (e : Env) (f : Fields) : Option Nat :=
  if !(kindOk r.kinds e) then some 2
  else if !(modxOk r.modx e f.modx.toNat) || !(lenOk r.len f) then some 3
  else if !(operandsOk r e f) then some 4
  else if !(patternsOk r e f) then some 5
  else if !(unusedOk r f) then some 6
  else if e.kind = 3 && e.priv < r.priv then some 7
  else if !(scopeOk r.mem (memScope f) (memOrder f)) then some 8
  else none

/-- The lowest reason that applies to an S32 word (R48, R68). -/
def illegalShort (op : Nat) (e : Env) (f : ShortFields) : Option Nat :=
  if op = 0 then (if f.d = 0 && f.a = 0 && !f.dS && !f.aS then none else some 6)
  else if !(operandOk e (.dst false) f.dS f.d.toNat) then some 4
  else if op = 3 then (if f.aS then some 6 else none)
  else if !(operandOk e (.src false) f.aS f.a.toNat) then some 4
  else none

/-! ### Predicate, crossbar, reading and writing -/

/-- Whether a lane is active under PK and PN (R50). -/
def laneActive (f : Fields) (lv : LaneView) : Bool := getPred lv.k f.pk.toNat != f.pn

/-- The lane whose value lane i receives (R28). -/
def crossLane (pat dist i : Nat) : Nat :=
  if pat = 1 then (i + dist) % 32
  else if pat = 2 then dist
  else if pat = 3 then i ^^^ dist
  else if pat = 4 then let w := 2 ^ (dist % 8 + 1); i / w * w + (w - 1 - i % w)
  else if pat = 5 then i / 4 * 4 + dist % 4
  else i

/-- Read a register of a lane by space and index (R9). -/
def LaneView.read (lv : LaneView) (x : Bool) (i : Nat) : W :=
  if !x then getReg lv.v i
  else if i < 256 then getReg lv.s i
  else if i < 264 then getReg lv.q (i - 256)
  else lv.sp i

/-- Write a register of a lane: a v register, an s register or a latch (R9, R11). -/
def LaneView.write (lv : LaneView) (x : Bool) (i : Nat) (w : W) : LaneView :=
  if !x then { lv with v := setReg lv.v i w }
  else if i < 256 then { lv with s := setReg lv.s i w }
  else { lv with q := setReg lv.q (i - 256) w }

/-- Read and write an even-aligned pair (R12). -/
def LaneView.read64 (lv : LaneView) (x : Bool) (i : Nat) : D64 := pairOf (lv.read x i) (lv.read x (i + 1))
def LaneView.write64 (lv : LaneView) (x : Bool) (i : Nat) (v : D64) : LaneView :=
  (lv.write x i (loWord v)).write x (i + 1) (hiWord v)

/-- The lane at a position, if it is occupied. -/
def laneAt (ls : List LaneView) (j : Nat) : Option LaneView := ls.find? (fun l => l.pos == j)

/-- The lane a source field reads: itself under the identity pattern (R28, R30). -/
def crossView (ls : List LaneView) (lv : LaneView) (pat dist : Nat) : Option LaneView :=
  if pat = 0 then some lv else laneAt ls (crossLane pat dist lv.pos)

/-- Source A, 32 bits; an empty lane gives 0 (R30). -/
def srcA (ls : List LaneView) (lv : LaneView) (f : Fields) : W :=
  match crossView ls lv f.pa.toNat f.dist.toNat with
  | some l => l.read f.aS f.a.toNat
  | none => 0
/-- Source A, a pair. -/
def srcA64 (ls : List LaneView) (lv : LaneView) (f : Fields) : D64 :=
  match crossView ls lv f.pa.toNat f.dist.toNat with
  | some l => l.read64 f.aS f.a.toNat
  | none => 0
/-- Source B, 32 bits, or the literal (R51). -/
def srcB (r : Row) (ls : List LaneView) (lv : LaneView) (f : Fields) : W :=
  match litB r f, f.lit with
  | true, some l => l
  | _, _ =>
    match crossView ls lv f.pb.toNat f.dist.toNat with
    | some l => l.read f.bS f.b.toNat
    | none => 0
/-- Source B, a pair, or the literal sign-extended (R51). -/
def srcB64 (r : Row) (ls : List LaneView) (lv : LaneView) (f : Fields) : D64 :=
  match litB r f, f.lit with
  | true, some l => l.signExtend 64
  | _, _ =>
    match crossView ls lv f.pb.toNat f.dist.toNat with
    | some l => l.read64 f.bS f.b.toNat
    | none => 0
/-- Source C of a ternary form: always identity (R28). -/
def srcC (lv : LaneView) (f : Fields) : W := lv.read (cSpace f) (cIndex f)

/-- Write the destination D. -/
def setD (lv : LaneView) (f : Fields) (w : W) : LaneView := lv.write f.dS f.d.toNat w
def setD64 (lv : LaneView) (f : Fields) (v : D64) : LaneView := lv.write64 f.dS f.d.toNat v
/-- Write the predicate D[2:0] names (R57). -/
def setK (lv : LaneView) (f : Fields) (b : Bool) : LaneView := { lv with k := setPred lv.k (f.d.toNat % 8) b }
/-- Read the predicate a field's [2:0] names. -/
def fieldPred (lv : LaneView) (i : BitVec 10) : Bool := getPred lv.k (i.toNat % 8)

/-- Write 0 to the destinations of a word: a fault or a suppressed result of a helper (R35, R180). -/
def zeroDest (r : Row) (lv : LaneView) (f : Fields) : LaneView :=
  match (rowUses r f).1 with
  | .dst false | .both false => setD lv f 0
  | .dst true | .both true => setD64 lv f 0
  | .kfield => setK lv f false
  | _ => lv

/-! ### The fused row sequence (R109, R157) -/

/-- A register of the chain: a v register or a q latch. -/
def chainReg (x : Bool) (i : BitVec 10) : Bool := !x || (256 ≤ i.toNat && i.toNat < 264)
/-- Destination, A and B of a binary word of the chain lie in v or q, with identity patterns. -/
def chainOk (f : Fields) : Bool :=
  chainReg f.dS f.d && chainReg f.aS f.a && (f.lit.isSome || chainReg f.bS f.b) && f.pa = 0 && f.pb = 0
/-- The destination of one word is a source of the next. -/
def feeds (p f : Fields) (two : Bool) : Bool :=
  (f.aS == p.dS && f.a == p.d) || (two && f.lit.isNone && f.bS == p.dS && f.b == p.d)
/-- Same MODX, PN and PK. -/
def sameGuard (p f : Fields) : Bool := p.modx == f.modx && p.pn == f.pn && p.pk == f.pk

/-- The three words after an `fmax` when the four fuse. -/
def fusedTail (f0 : Fields) (ws : List W) : Option (Fields × Fields × Fields) :=
  match decode ws with
  | .ok (i1, r1) =>
    match decode r1 with
    | .ok (i2, r2) =>
      match decode r2 with
      | .ok (i3, _) =>
        let f1? := match i1 with | .fsub f | .fsubLit f => some f | _ => none
        let f2? := match i2 with | .fexp2 f => if f.lit.isNone then some f else none | _ => none
        let f3? := match i3 with | .fadd f | .faddLit f => some f | _ => none
        match f1?, f2?, f3? with
        | some f1, some f2, some f3 =>
          if sameGuard f0 f1 && sameGuard f0 f2 && sameGuard f0 f3 && chainOk f0 && chainOk f1 && chainOk f2 && chainOk f3
            && feeds f0 f1 true && feeds f1 f2 false && feeds f2 f3 true then some (f1, f2, f3)
          else none
        | _, _, _ => none
      | .error _ => none
    | .error _ => none
  | .error _ => none

end Sys2Proof.Machine
end

