-- ==== Sys2Proof/Machine/Mem.lean ====
section
/-! DEFINITION. Memory: the homes, the column slices, the L1s, launch windows, scratch, and the actions that move bytes
between them (R274 to R291, R298, R323 to R328). A place is a physical address; a place of package p other than this one is
(p + 1) × 2^48 plus the address in that package. -/

namespace Sys2Proof.Machine

/-! ### Places -/

/-- The place of a physical address of another package. -/
def remotePlace (pkg pa : Nat) : Nat := (pkg + 1) * 2 ^ 48 + pa
/-- A place in another package. -/
def isRemote (k : Nat) : Bool := 2 ^ 48 ≤ k
/-- The package of a remote place, and the address in it. -/
def placePkg (k : Nat) : Nat := k / 2 ^ 48 - 1
def placeAddr (k : Nat) : Nat := k % 2 ^ 48
/-- Near memory, far memory and launch windows (R344). -/
def isNear (pa : Nat) : Bool := pa < 0x8000000000
def isFar (pa : Nat) : Bool := 0x10000000000 ≤ pa && pa < 0x30000000000
def isWindow (pa : Nat) : Bool := 0x7F0000000000 ≤ pa && pa < 0x7F0008000000
/-- Reserved physical addresses (R344). -/
def isReservedPa (pa : Nat) : Bool := !(isNear pa) && !(isFar pa) && !(isWindow pa)
/-- The die whose stack holds a near address (R344). -/
def homeDie (pa : Nat) : Nat := pa / 2 ^ 36 / 2
/-- A range made reserved by a retired channel without a spare (R411). -/
def State.channelGone (s : State) (pa : Nat) : Bool := isNear pa && s.retiredCh.contains (pa / 2 ^ 36, pa / 2 ^ 31 % 32)
/-- A line foreign to a die (R275). -/
def isForeign (die k : Nat) : Bool := !(isRemote k) && homeDie k != die

/-! ### Sectors -/

/-- Byte i of a sector. -/
def sectorByte (d : BitVec 256) (i : Nat) : Byte := d.extractLsb' (8 * i) 8
/-- The bytes from an offset of a sector. -/
def sectorBytes (d : BitVec 256) (off n : Nat) : List Byte := (List.range n).map (fun i => sectorByte d (off + i))
/-- Bytes placed at an offset of a sector, with their mask. -/
def placeBytes (off : Nat) (bs : List Byte) : BitVec 256 × BitVec 32 :=
  (BitVec.ofNat 256 (leNat bs * 256 ^ off), BitVec.ofNat 32 ((2 ^ bs.length - 1) * 2 ^ off))
/-- Every byte of a sector. -/
def fullMask : BitVec 32 := 0xFFFFFFFF
/-- Take the masked bytes from `new`, the others from `old`. -/
def mergeSector (old new : BitVec 256) (mask : BitVec 32) : BitVec 256 :=
  BitVec.ofNat 256 (leNat ((List.range 32).map (fun i => if mask.getLsbD i then sectorByte new i else sectorByte old i)))

/-- Cut bytes that start at an address into pieces of one sector each (R182): sector, offset, bytes. -/
def pieces (k : Nat) (bs : List Byte) : List (Nat × Nat × List Byte) :=
  let n := 32 - k % 32
  if bs.length ≤ n then [(k / 32, k % 32, bs)]
  else (k / 32, k % 32, bs.take n) ::
    (List.range ((bs.length - n + 31) / 32)).map (fun i => (k / 32 + 1 + i, 0, (bs.drop (n + 32 * i)).take 32))

/-! ### The home (R275) -/

/-- The bytes an unlisted address of memory reads as (log 6). -/
def unwritten : Byte := 0

/-- Read one byte of a home. -/
def State.homeByte (s : State) (a : Nat) : Byte := mapGet s.mem a unwritten

/-- Write one byte of a home, keeping the canonical form. -/
def State.setHomeByte (s : State) (a : Nat) (b : Byte) : State := { s with mem := mapPut s.mem a b unwritten }

/-- The form memory is held in. -/
def memCanon (m : List Host.Cell) : Bool := mapCanon m unwritten

/-- Write bytes at rising addresses of a home. -/
def State.setHomeBytes (s : State) (a : Nat) : List Byte → State
  | [] => s
  | b :: r => (s.setHomeByte a b).setHomeBytes (a + 1) r

/-- Lines a memory-side cache holds: 32 MiB. -/
def mscCapacity : Nat := 262144
/-- A line of a memory-side cache is written to memory, if it is dirty there, and is counted (R232, R237). -/
def Die.mscClean (d : Die) (line : Nat) : Die :=
  if mapGet d.msc line false then { d with msc := mapSet d.msc line false, mscWb := d.mscWb + 1 } else d
/-- A line leaves a memory-side cache, written to memory first where it is dirty. -/
def Die.mscDrop (d : Die) (line : Nat) : Die :=
  let e := d.mscClean line
  { e with msc := mapErase e.msc line }
/-- An access of the home to a line goes through its memory-side cache: a hit, or a miss that brings the line in, a full cache dropping one
of its own choice (R274, R279; log 44). -/
def Die.mscTouch (d : Die) (line : Nat) (write : Bool) : Die :=
  match mapGet? d.msc line with
  | some dirty => { d with msc := mapSet d.msc line (dirty || write), mscHit := d.mscHit + 1 }
  | none =>
    let e := if d.msc.length < mscCapacity then d
      else match d.msc[Config.victim line % mscCapacity]? with
        | some v => d.mscDrop v.1
        | none => d
    { e with msc := mapSet e.msc line write, mscMiss := e.mscMiss + 1 }
/-- The home of a sector reads or writes it. -/
def State.homeTouch (s : State) (sec : Nat) (write : Bool) : State :=
  if isNear (32 * sec) then s.modDie (homeDie (32 * sec)) (fun d => d.mscTouch (sec / 4) write) else s

/-- The bytes of a home sector. -/
def State.homeSector (s : State) (sec : Nat) : BitVec 256 :=
  BitVec.ofNat 256 (leNat ((List.range 32).map (fun i => s.homeByte (32 * sec + i))))

/-- Write the masked bytes of a sector at its home; a full mask clears poison (R275, R409). -/
def State.rawHomeWrite (s : State) (sec : Nat) (d : BitVec 256) (mask : BitVec 32) : State :=
  let s1 := (List.range 32).foldl
    (fun t i => if mask.getLsbD i then t.setHomeByte (32 * sec + i) (sectorByte d i) else t) (s.homeTouch sec true)
  if mask = fullMask then { s1 with poison := s1.poison.filter (· != sec) } else s1

/-- Poison that a copy carried stays with the sector at its home (R409). -/
def State.homePoison (s : State) (sec : Nat) (bad : Bool) : State := if bad then { s with poison := insNat sec s.poison } else s

/-! ### L1 and slices (R274) -/

/-- Sectors an L1 or a block cache holds: 64 KiB. -/
def l1Capacity : Nat := 2048
/-- Sectors a column slice holds: 8 MiB. -/
def sliceCapacity : Nat := 262144
/-- Remove element n of a list. -/
def listDrop {α : Type} (l : List α) (n : Nat) : List α := l.take n ++ l.drop (n + 1)
/-- Enter a sector in a write-through cache; a full one drops a sector of its own choice (R274; log 9). -/
def cachePut {β : Type} (m : List (Nat × β)) (sec : Nat) (x : β) : List (Nat × β) :=
  if m.length < l1Capacity || (mapGet? m sec).isSome then mapSet m sec x
  else mapSet (listDrop m (Config.victim sec % l1Capacity)) sec x

/-- The L1 of an array core (by its position 0 to 11 in column c) or of the column core (12). -/
def State.l1 (s : State) (c u : Nat) : List (Nat × L1Sector) := if u < 12 then (s.core (12 * c + u)).l1 else (s.cc c).l1
def State.setL1 (s : State) (c u : Nat) (m : List (Nat × L1Sector)) : State :=
  if u < 12 then s.modCore (12 * c + u) (fun x => { x with l1 := m }) else s.modCc c (fun x => { x with l1 := m })

/-- A sector enters an L1. -/
def State.fillL1 (s : State) (c u sec : Nat) (data : BitVec 256) : State := s.setL1 c u (cachePut (s.l1 c u) sec ⟨data, 0⟩)

def State.slice? (s : State) (c sec : Nat) : Option SliceSector := mapGet? (s.col c).slice sec
def State.setSlice (s : State) (c sec : Nat) (x : SliceSector) : State :=
  s.modCol c (fun y => { y with slice := mapSet y.slice sec x })
def State.dropSlice (s : State) (c sec : Nat) : State := s.modCol c (fun y => { y with slice := mapErase y.slice sec })

/-- Revoke a sector from the L1 that may hold it fully written (R276). -/
def State.revoke (s : State) (c sec : Nat) : State :=
  match s.slice? c sec with
  | some x =>
    match x.owner with
    | some u => (s.setL1 c u (mapErase (s.l1 c u) sec)).setSlice c sec { x with owner := none }
    | none => s
  | none => s

/-- A slice's copy of a sector is invalidated. Dirty bytes stay in it: they are no copy of the home's bytes and are written home in their
own time (R275, R284). -/
def State.invalidateCopy (s : State) (c sec : Nat) : State :=
  match s.slice? c sec with
  | some x => if x.dirty = 0 then ((s.revoke c sec).dropSlice c sec).homePoison sec x.poison
    else (s.revoke c sec).setSlice c sec { x with valid := x.dirty, owner := none }
  | none => s

/-- The home's directory: a write performed at the home invalidates the copies in the slices of its own die, but for the
slice the write comes from (R277). -/
def State.directory (s : State) (sec : Nat) (except : Option Nat) : State :=
  (dieCols (homeDie (32 * sec))).foldl (fun t c => if some c = except then t else t.invalidateCopy c sec) s

/-- A write performed at the home (R277, R284). -/
def State.homeWrite (s : State) (sec : Nat) (d : BitVec 256) (mask : BitVec 32) (except : Option Nat) : State :=
  (s.directory sec except).rawHomeWrite sec d mask

/-- Write the dirty bytes of a slice's sector that a mask takes to the home; the copy stays (R278, R282). A poisoned copy carries its
poison with it (R409). -/
def State.writeBackOf (s : State) (c sec : Nat) (mask : BitVec 32) : State :=
  match s.slice? c sec with
  | some x =>
    if x.dirty &&& mask = 0 then s
    else
      let left := x.dirty &&& ~~~mask
      ((s.homeWrite sec x.data (x.dirty &&& mask) (some c)).setSlice c sec { x with dirty := left, wide := x.wide &&& left }).homePoison sec x.poison
  | none => s

/-- Write all dirty bytes of a slice's sector to the home; the copy stays, clean. -/
def State.writeBack (s : State) (c sec : Nat) : State := s.writeBackOf c sec fullMask

/-- Evict a sector of a slice, its dirty bytes written to the home first (R276). A poisoned copy leaves its poison at the home (R409). -/
def State.evict (s : State) (c sec : Nat) : State :=
  match s.slice? c sec with
  | none => s
  | some x =>
    let t := if isRemote (32 * sec) then s else s.writeBack c sec
    ((t.revoke c sec).dropSlice c sec).homePoison sec (x.poison && !(isRemote (32 * sec)))

/-- A sector enters a slice, or changes there; a full slice first evicts a sector of its own choice (R274; log 9). -/
def State.putSlice (s : State) (c sec : Nat) (x : SliceSector) : State :=
  let m := (s.col c).slice
  if (mapGet? m sec).isSome || m.length < sliceCapacity then s.setSlice c sec x
  else match m[Config.victim sec % sliceCapacity]? with
    | some e => (s.evict c e.1).setSlice c sec x
    | none => s.setSlice c sec x

/-- Snooping: drop the copies of a sector in the other slices of the cluster (R277). -/
def State.snoop (s : State) (c sec : Nat) : State :=
  (clusterCols (clusterOf c)).foldl (fun t c2 => if c2 = c then t else t.evict c2 sec) s

/-- Before a slice fetches bytes from the home, dirty bytes of the sector in the other slices of the cluster reach it. -/
def State.snoopRead (s : State) (c sec : Nat) : State :=
  (clusterCols (clusterOf c)).foldl (fun t c2 => if c2 = c then t else t.writeBack c2 sec) s

/-- The slice holds every byte of a local sector afterwards; bytes it lacked are fetched from the home. Of a sector that is poisoned at the
home it takes none: the poison stays where it is (R409). -/
def State.fillSlice (s : State) (c sec : Nat) : State :=
  match s.slice? c sec with
  | some x =>
    if x.valid = fullMask then s
    else
      let t := (s.snoopRead c sec).homeTouch sec false
      if t.poison.contains sec then t
      else t.setSlice c sec { x with data := mergeSector (t.homeSector sec) x.data x.valid, valid := fullMask }
  | none =>
    let t := (s.snoopRead c sec).homeTouch sec false
    if t.poison.contains sec then t else t.putSlice c sec ⟨t.homeSector sec, fullMask, 0, 0, none, false⟩

/-- The slice's copy of a sector. -/
def State.sliceView (s : State) (c sec : Nat) : SliceSector := (s.slice? c sec).getD ⟨0, 0, 0, 0, none, false⟩

/-- Whether a read of column c at its slice meets poison: the slice's own, or the home's where the slice must fetch (R409). -/
def State.slicePoison (s : State) (c sec : Nat) : Bool :=
  match s.slice? c sec with
  | some x => x.poison || (x.valid != fullMask && (s.snoopRead c sec).poison.contains sec)
  | none => (s.snoopRead c sec).poison.contains sec

/-- The core whose L1 may come to hold a sector fully written: the one that stores to it, if its L1 has the sector (R276). -/
def State.writerOf (s : State) (c : Nat) (u : Option Nat) (sec : Nat) : Option Nat :=
  u.bind (fun n => (mapGet? (s.l1 c n) sec).map (fun _ => n))

/-- A store of an agent revokes the sector from the L1 of any other core that may hold it fully written (R276). -/
def State.revokeOthers (s : State) (c : Nat) (u : Option Nat) (sec : Nat) : State :=
  match s.slice? c sec with
  | some x => if x.owner.isSome && x.owner != u then s.revoke c sec else s
  | none => s

/-- A store piece registers at the slice (R276, R277). `u` is the L1 of the storing core, none for a store that comes from no
L1 (an engine command); `wide`: the store is in scope with the cluster. Local sectors only; `remoteCopyStore` is the one for remote lines. -/
def State.sliceStore (s : State) (c : Nat) (u : Option Nat) (sec : Nat) (d : BitVec 256) (mask : BitVec 32) (wide : Bool) : State :=
  let s1 := (s.snoop c sec).revokeOthers c u sec
  let x := s1.sliceView c sec
  s1.putSlice c sec
    { data := mergeSector x.data d mask, valid := x.valid ||| mask, dirty := x.dirty ||| mask, wide := if wide then x.wide ||| mask else x.wide,
      owner := s1.writerOf c u sec, poison := if mask = fullMask then false else x.poison }

/-- A store to a line of a cacheable-remote page: the other slices of the cluster drop their copy, the column's own copy takes
the bytes if there is one, and stays clean (R277, R373); an L1 may hold the sector only while the slice does (R276). -/
def State.remoteCopyStore (s : State) (c : Nat) (u : Option Nat) (sec : Nat) (d : BitVec 256) (mask : BitVec 32) : State :=
  let s1 := (s.snoop c sec).revokeOthers c u sec
  match s1.slice? c sec with
  | some x => s1.setSlice c sec { x with
      data := mergeSector x.data d mask, owner := s1.writerOf c u sec, poison := if mask = fullMask then false else x.poison }
  | none => match u with
    | some n => s1.setL1 c n (mapErase (s1.l1 c n) sec)
    | none => s1

/-- The storing core's own L1: a present sector takes the bytes and its written-byte mask (R276). -/
def State.l1Store (s : State) (c u sec : Nat) (d : BitVec 256) (mask : BitVec 32) : State :=
  match mapGet? (s.l1 c u) sec with
  | some x => s.setL1 c u (mapSet (s.l1 c u) sec ⟨mergeSector x.data d mask, x.mask ||| mask⟩)
  | none => s

/-! ### Flush sets (R278) -/

/-- Enter a line in a flush set; a full set is only marked. -/
def enterFlush (line : Nat) (set : List Nat) (full : Bool) : List Nat × Bool :=
  if set.contains line then (set, full)
  else if set.length ≥ 4096 then (set, true) else (insNat line set, full)

/-- Enter the line of a sector in the flush set of an agent. Remote writes enter none (R373). -/
def State.noteFlush (s : State) (who : Agent) (sec : Nat) : State :=
  if isRemote (32 * sec) then s
  else match who with
    | .grp n g => s.modGrp n g (fun x => let f := enterFlush (sec / 4) x.flush x.flushFull; { x with flush := f.1, flushFull := f.2 })
    | .col c => s.modCc c (fun x => let f := enterFlush (sec / 4) x.flush x.flushFull; { x with flush := f.1, flushFull := f.2 })

/-- A load that returns dirty bytes of the slice enters their line (R278). -/
def State.noteRead (s : State) (who : Agent) (c sec : Nat) (mask : BitVec 32) : State :=
  match s.slice? c sec with
  | some x => if x.dirty &&& mask = 0 then s else s.noteFlush who sec
  | none => s

/-- The same for a load served by the L1: of the bytes it returns, those that are dirty in the slice and still the slice's. -/
def State.noteHit (s : State) (who : Agent) (c sec : Nat) (data : BitVec 256) (mask : BitVec 32) : State :=
  match s.slice? c sec with
  | some x =>
    if (List.range 32).any (fun i => mask.getLsbD i && x.dirty.getLsbD i && sectorByte data i == sectorByte x.data i) then s.noteFlush who sec else s
  | none => s

/-! ### Pieces of loads and stores -/

/-- Where an access comes from: the column, the L1 unit (12 the column core), and the agent. -/
structure MemUnit where
  col : Nat
  unit : Nat
  who : Agent
  deriving DecidableEq, Repr

/-- What a read brought: bytes, or poison (R409). -/
inductive ReadRes where
  | bytes (bs : List Byte)
  | poisoned
  deriving DecidableEq, Repr

/-- A load of bytes of one local sector. `scope` none: weak (R282). `alloc`: allocate in the L1. -/
def State.loadPiece (s : State) (u : MemUnit) (sec off n : Nat) (scope : Option Nat) (alloc : Bool) : ReadRes × State :=
  let mask := (placeBytes off (List.replicate n (0 : Byte))).2
  let useL1 := match scope with | none => true | some x => x ≤ 1
  let hit := if useL1 then mapGet? (s.l1 u.col u.unit) sec else none
  match hit with
  | some l => (.bytes (sectorBytes l.data off n), s.noteHit u.who u.col sec l.data mask)
  | none =>
    let bypass := match scope with | none => false | some x => 4 ≤ x && isForeign (dieOf u.col) (32 * sec)
    if bypass then
      let s1 := ((s.snoopRead u.col sec).writeBack u.col sec).homeTouch sec false
      if s1.poison.contains sec then (.poisoned, s1) else (.bytes (sectorBytes (s1.homeSector sec) off n), s1)
    else
      let s1 := s.fillSlice u.col sec
      let x := s1.sliceView u.col sec
      if s1.slicePoison u.col sec then (.poisoned, s1)
      else
        let s2 := s1.noteRead u.who u.col sec mask
        let s3 := if useL1 && alloc then s2.fillL1 u.col u.unit sec x.data else s2
        (.bytes (sectorBytes x.data off n), s3)

/-- The mark rules of R289: a plain store clears the release mark of its line, a release at cluster scope or wider sets it. -/
def State.setMark (s : State) (line : Nat) (scope : Option Nat) : State :=
  match scope with
  | some x => if 3 ≤ x then { s with marks := mapSet s.marks line x } else { s with marks := mapErase s.marks line }
  | none => { s with marks := mapErase s.marks line }

/-- Whether a strong access of a scope is in scope with the agents of its cluster (R281). -/
def inCluster (scope : Option Nat) : Bool := scope.any (fun x => decide (3 ≤ x))

/-- A store to one local sector under a byte mask, performed at the coherence point of its scope (R182, R282). `release` is the
scope of a release store. -/
def State.storeSector (s : State) (u : MemUnit) (sec : Nat) (d : BitVec 256) (mask : BitVec 32) (scope release : Option Nat) : State :=
  let s1 := s.l1Store u.col u.unit sec d mask
  let s2 := (s1.sliceStore u.col (some u.unit) sec d mask (inCluster scope)).noteFlush u.who sec
  let s3 := s2.setMark (sec / 4) release
  match scope with
  | some x => if 4 ≤ x then s3.writeBack u.col sec else s3
  | none => s3

/-! ### Launch windows (R323 to R328) -/

/-- The column, context and offset of a window address. -/
def windowAt (pa : Nat) : Nat × Nat × Nat :=
  let o := pa - 0x7F0000000000
  (o / 0x400000, o / 0x10000 % 64, o % 0x10000)

def Line.idle : Line := ⟨0, 0, 0, 0, 0, 0, 0⟩
def Window.free : Window := ⟨[], 0, [], []⟩
/-- STATUS of a line (R327). -/
def Line.status (l : Line) : Nat :=
  l.dseq % 65536 * 2 ^ 48 + l.reason % 256 * 2 ^ 32 + l.gseq % 65536 * 2 ^ 16 + l.live % 256 * 2 ^ 8 + l.st % 8

def State.window (s : State) (c ctx : Nat) : Window := mapGet (s.col c).windows ctx Window.free
def State.modWindow (s : State) (c ctx : Nat) (f : Window → Window) : State :=
  s.modCol c (fun y => { y with windows := mapSet y.windows ctx (f (mapGet y.windows ctx Window.free)) })

/-- One byte of a window (R323, R325). -/
def Window.byte (w : Window) (off : Nat) : Byte :=
  if off < 0x400 then
    let l := mapGet w.lines (off / 64) Line.idle
    let o := off % 64
    if o < 8 then BitVec.ofNat 8 (l.raddr.toNat / 256 ^ o)
    else if o < 16 then 0
    else if o < 24 then BitVec.ofNat 8 (l.status / 256 ^ (o - 16))
    else if o < 32 then BitVec.ofNat 8 (l.ctick.toNat / 256 ^ (o - 24))
    else 0
  else if off < 0x408 then BitVec.ofNat 8 (w.winva.toNat / 256 ^ (off - 0x400))
  else if 0x1000 ≤ off && off < 0x5000 then
    ((mapGet w.copies ((off - 0x1000) / 256) ⟨[], false⟩).bytes)[(off - 0x1000) % 256]?.getD 0
  else 0

/-- The bytes of the instance copies, which no store may touch (R323). -/
def windowReadOnly (off n : Nat) : Bool := off < 0x5000 && 0x1000 < off + n

/-- Replace byte i of a doubleword. -/
def putByte (v : D64) (i : Nat) (b : Byte) : D64 :=
  BitVec.ofNat 64 (leNat ((List.range 8).map (fun j => if j = i then b else BitVec.ofNat 8 (v.toNat / 256 ^ j))))

/-- A store of one byte to a window: RADDR and WINVA take it, every other writable byte ignores it. -/
def Window.putByte (w : Window) (off : Nat) (b : Byte) : Window :=
  if off < 0x400 then
    if off % 64 < 8 then
      let l := mapGet w.lines (off / 64) Line.idle
      { w with lines := mapSet w.lines (off / 64) { l with raddr := Machine.putByte l.raddr (off % 64) b } }
    else w
  else if off < 0x408 then { w with winva := Machine.putByte w.winva (off - 0x400) b }
  else w

/-- A store piece to a sector of a window (R182, R324): each byte under the mask, in rising order; a piece that writes bit 0
of GO as 1 is one GO, with RADDR as it then stands (R326). `off` is the sector's offset. -/
def Window.storePiece (w : Window) (off : Nat) (d : BitVec 256) (mask : BitVec 32) : Window :=
  let w1 := (List.range 32).foldl (fun x i => if mask.getLsbD i then x.putByte (off + i) (sectorByte d i) else x) w
  if off < 0x400 && off % 64 = 0 && mask.getLsbD 8 && (sectorByte d 8).getLsbD 0 then
    { w1 with gos := w1.gos ++ [(off / 64, (mapGet w1.lines (off / 64) Line.idle).raddr)] }
  else w1

/-- Load bytes of a window at its slice (R324). -/
def State.windowLoad (s : State) (pa n : Nat) : List Byte :=
  let p := windowAt pa
  (List.range n).map (fun i => (s.window p.1 p.2.1).byte (p.2.2 + i))

/-- Store a piece to the window sector at a physical sector index. -/
def State.windowPiece (s : State) (sec : Nat) (d : BitVec 256) (mask : BitVec 32) : State :=
  let w := windowAt (32 * sec)
  s.modWindow w.1 w.2.1 (fun x => x.storePiece w.2.2 d mask)

/-! ### Whole accesses to local places -/

/-- Load n bytes at a local place. -/
def State.loadBytes (s : State) (u : MemUnit) (k n : Nat) (scope : Option Nat) (alloc : Bool) : ReadRes × State :=
  if isWindow k then (.bytes (s.windowLoad k n), s)
  else
    (pieces k (List.replicate n 0)).foldl (fun acc p =>
      match acc.1 with
      | .poisoned => acc
      | .bytes done =>
        match acc.2.loadPiece u p.1 p.2.1 p.2.2.length scope alloc with
        | (.bytes bs, t) => (.bytes (done ++ bs), t)
        | (.poisoned, t) => (.poisoned, t)) (.bytes [], s)

/-- Store a piece at a local place. -/
def State.storePlace (s : State) (u : MemUnit) (sec : Nat) (d : BitVec 256) (mask : BitVec 32) (scope release : Option Nat) : State :=
  if isWindow (32 * sec) then s.windowPiece sec d mask else s.storeSector u sec d mask scope release

/-- Store bytes at a local place, one piece a sector. -/
def State.storeBytes (s : State) (u : MemUnit) (k : Nat) (bs : List Byte) (scope release : Option Nat) : State :=
  (pieces k bs).foldl (fun t p => let q := placeBytes p.2.1 p.2.2; t.storePlace u p.1 q.1 q.2 scope release) s

/-- A byte that a slice of column c's cluster other than its own holds dirty (R277). -/
def State.peerByte (s : State) (c a : Nat) : Option Byte :=
  (clusterCols (clusterOf c)).findSome? (fun k =>
    if k = c then none else (s.slice? k (a / 32)).bind (fun x => if x.dirty.getLsbD (a % 32) then some (sectorByte x.data (a % 32)) else none))
/-- The byte column c's slice would fetch: the home's, once the slices of the cluster have been snooped. -/
def State.snoopedByte (s : State) (c a : Nat) : Byte := (s.peerByte c a).getD (s.homeByte a)

/-- The bytes a relaxed package-scope load of column c would return, without moving any (R282, R349): the slice's dirty bytes
over what it would fetch. -/
def State.peekByte (s : State) (c a : Nat) : Byte :=
  match s.slice? c (a / 32) with
  | some x => if x.dirty.getLsbD (a % 32) then sectorByte x.data (a % 32) else s.snoopedByte c a
  | none => s.snoopedByte c a
def State.peekBytes (s : State) (c a n : Nat) : List Byte := (List.range n).map (fun i => s.peekByte c (a + i))
/-- Whether a column-scope read of column c meets poison. -/
def State.viewPoison (s : State) (c a : Nat) : Bool := s.slicePoison c (a / 32)
/-- Whether a package-scope read does: of a foreign line the slice's dirty bytes go home first, and what counts is what the home then
holds. -/
def State.peekPoison (s : State) (c a : Nat) : Bool :=
  if isForeign (dieOf c) a then ((s.snoopRead c (a / 32)).writeBack c (a / 32)).poison.contains (a / 32) else s.viewPoison c a

/-- The bytes a column-scope load of column c returns, without moving any: the slice's valid bytes over what it would fetch. -/
def State.viewByte (s : State) (c a : Nat) : Byte :=
  match s.slice? c (a / 32) with
  | some x => if x.valid.getLsbD (a % 32) then sectorByte x.data (a % 32) else s.snoopedByte c a
  | none => s.snoopedByte c a
def State.viewBytes (s : State) (c a n : Nat) : List Byte := (List.range n).map (fun i => s.viewByte c (a + i))

/-! ### Release and acquire actions (R276, R278, R291) -/

/-- Flush lines of a slice to their homes. -/
def State.flushLines (s : State) (c : Nat) (lines : List Nat) : State :=
  lines.foldl (fun t l => (List.range 4).foldl (fun t2 i => t2.writeBack c (4 * l + i)) t) s

/-- Every dirty sector of a slice. -/
def State.dirtySectors (s : State) (c : Nat) : List Nat :=
  ((s.col c).slice.filter (fun e => e.2.dirty != 0)).map (·.1)

/-- Every dirty sector of the slices of a column's cluster reaches its home: what a flush set marked full stands for (R278, R290; log 45). -/
def State.flushAll (s : State) (c : Nat) : State :=
  (clusterCols (clusterOf c)).foldl (fun t k => (t.dirtySectors k).foldl (fun v sec => v.writeBack k sec) t) s

/-- The dirty bytes of some sectors of a slice are known to its cluster. -/
def State.publish (s : State) (c : Nat) (p : Nat → Bool) : State :=
  s.modCol c (fun y => { y with slice := y.slice.map (fun e => if p e.1 then (e.1, { e.2 with wide := e.2.dirty }) else e) })

/-- The flush set of an agent, and whether it is marked full. -/
def State.flushSet (s : State) : Agent → List Nat × Bool
  | .grp n g => match s.grp? n g with
    | some x => (x.flush, x.flushFull)
    | none => ([], false)
  | .col c => ((s.cc c).flush, (s.cc c).flushFull)
/-- The flush set of an agent is emptied. -/
def State.clearFlush (s : State) : Agent → State
  | .grp n g => s.modGrp n g (fun y => { y with flush := [], flushFull := false })
  | .col c => s.modCc c (fun y => { y with flush := [], flushFull := false })

/-- The release action: at die scope or wider the flush set is flushed and emptied; at cluster scope what it stands for is known to the
cluster from then on (R290, R291; log 32). Waiting for posted writes at system scope is the instruction's (R291, R377). -/
def State.releaseAct (s : State) (u : MemUnit) (scope : Nat) : State :=
  let set := s.flushSet u.who
  if scope < 3 then s
  else if scope < 4 then
    if set.2 then (clusterCols (clusterOf u.col)).foldl (fun t k => t.publish k (fun _ => true)) s
    else s.publish u.col (fun sec => set.1.contains (sec / 4))
  else (if set.2 then s.flushAll u.col else s.flushLines u.col set.1).clearFlush u.who

/-- L1 invalidation: only sectors whose mask shows all 32 bytes stay, and every mask is cleared (R276). -/
def State.acquireL1 (s : State) (c u : Nat) : State :=
  s.setL1 c u (((s.l1 c u).filter (fun e => e.2.mask == fullMask)).map (fun e => (e.1, { e.2 with mask := 0 })))

/-- After an acquire every write registered in the cluster may be covered by the agent's next release (R290, case 1; R278; log 45). -/
def State.markFull (s : State) : Agent → State
  | .grp n g => s.modGrp n g (fun x => { x with flushFull := true })
  | .col c => s.modCc c (fun x => { x with flushFull := true })

/-- Line fills in flight are not kept. -/
def RWait.spoilIf (w : RWait) (p : Nat → Bool) : RWait :=
  { w with accs := w.accs.map (fun a => { a with parts := a.parts.map (fun q => if q.line.any p then { q with line := none } else q) }) }
/-- The same for every instruction of a deal. -/
def Deal.spoilIf (d : Deal) (p : Nat → Bool) : Deal := { d with pend := d.pend.map (fun q => { q with wait := q.wait.spoilIf p }) }
/-- The fills of some lines in flight for the agents of some columns are not kept (R184, R277, R377). -/
def State.spoilFills (s : State) (cols : List Nat) (p : Nat → Bool) : State :=
  { s with
    cores := s.cores.map (fun e => if cols.contains (coreColumn e.1) then
      (e.1, { e.2 with deal0 := e.2.deal0.map (·.spoilIf p), deal1 := e.2.deal1.map (·.spoilIf p) }) else e)
    cols := s.cols.map (fun e => if cols.contains e.1 then
      (e.1, { e.2 with core := { e.2.core with wait := e.2.core.wait.map (·.spoilIf p) } }) else e) }

/-- The acquire action of a scope (R291, R377). -/
def State.acquireAct (s0 : State) (u : MemUnit) (scope : Nat) : State :=
  let s := if scope = 0 then s0 else s0.markFull u.who
  if scope < 2 then s
  else
    let s1 := s.acquireL1 u.col u.unit
    let s2 := if scope < 4 then s1
      else ((s1.col u.col).slice.filter (fun e => isForeign (dieOf u.col) (32 * e.1))).foldl (fun t e => t.evict u.col e.1) s1
    if scope < 6 then s2
    else
      let s3 := ((s2.col u.col).slice.filter (fun e => isRemote (32 * e.1))).foldl (fun t e => t.evict u.col e.1) s2
      (s3.setL1 u.col u.unit ((s3.l1 u.col u.unit).filter (fun e => !(isRemote (32 * e.1))))).spoilFills [u.col] (fun _ => true)

/-! ### Atomics at their coherence point (R284, R289) -/

/-- The scope an atomic on a line is performed at: its own, or the wider one a release mark promotes it to (R289). -/
def State.atomScope (s : State) (line scope : Nat) : Nat := max scope (mapGet s.marks line 0)

/-- Drop a sector from an L1. -/
def State.dropL1 (s : State) (c u sec : Nat) : State := s.setL1 c u (mapErase (s.l1 c u) sec)

/-- Before an atomic is performed at the home, the other slices of the cluster write there the bytes that are in scope with it, and drop
their copies; other dirty bytes they hold stay (R277, R281, R284; log 32). -/
def State.snoopAtom (s : State) (c sec : Nat) : State :=
  (clusterCols (clusterOf c)).foldl (fun t k =>
    if k = c then t else (t.writeBackOf k sec ((t.sliceView k sec).wide)).invalidateCopy k sec) s

/-- Bring the sector of a local atomic to the point it is performed at: the value there, or poison. -/
def State.atomOpen (s : State) (u : MemUnit) (sec scope : Nat) : State :=
  if scope < 3 then s.fillSlice u.col sec
  else if scope < 4 then (s.snoop u.col sec).fillSlice u.col sec
  else ((s.snoopAtom u.col sec).writeBack u.col sec).homeTouch sec false

/-- The sector's bytes at that point. -/
def State.atomView (s : State) (u : MemUnit) (sec scope : Nat) : BitVec 256 × Bool :=
  if scope < 4 then ((s.sliceView u.col sec).data, s.slicePoison u.col sec) else (s.homeSector sec, s.poison.contains sec)

/-- Write the result of a local atomic at that point. -/
def State.atomWrite (s : State) (u : MemUnit) (sec off : Nat) (bs : List Byte) (scope : Nat) : State :=
  let p := placeBytes off bs
  if scope < 4 then
    ((s.l1Store u.col u.unit sec p.1 p.2).sliceStore u.col (some u.unit) sec p.1 p.2 (decide (3 ≤ scope))).noteFlush u.who sec
  else ((s.dropL1 u.col u.unit sec).evict u.col sec).homeWrite sec p.1 p.2 none

end Sys2Proof.Machine
end

