-- ==== Sys2Proof/Machine/Translate.lean ====
section
/-! DEFINITION. Translation: page-table entries, walks, translation caches, and the page checks of an access
(R177, R225, R343 to R351). -/

namespace Sys2Proof.Machine

/-! ### Entries (R346) -/

def pteField (e : D64) (hi lo : Nat) : Nat := fieldOf e.toNat hi lo
def pteType (e : D64) : Nat := pteField e 1 0
def pteU (e : D64) : Bool := e.getLsbD 2
def pteX (e : D64) : Bool := e.getLsbD 3
def pteR (e : D64) : Bool := e.getLsbD 4
def pteW (e : D64) : Bool := e.getLsbD 5
def pteCR (e : D64) : Bool := e.getLsbD 53
def ptePkg (e : D64) : Nat := pteField e 63 54
/-- FRAME × 2^16. -/
def pteFrame (e : D64) : Nat := pteField e 47 16 * 2 ^ 16

/-- Bytes of a page of a size code: 64 KiB, 2 MiB, 1 GiB (R345). -/
def pageBytes (size : Nat) : Nat := if size = 0 then 2 ^ 16 else if size = 1 then 2 ^ 21 else 2 ^ 30

/-- A well-formed table pointer at level 1, 2 or 3: its zero fields are zero and it points into local near memory (R346,
R347). -/
def pointerOk (level : Nat) (e : D64) : Bool :=
  pteField e 63 48 = 0 && pteField e 7 2 = 0 && (level = 3 || pteField e 11 8 = 0)
    && isNear (pteField e 47 8 * 256)

/-- The table a pointer names. -/
def pointerTarget (e : D64) : Nat := pteField e 47 8 * 256

/-- The size code of a leaf at a level. -/
def leafSize (level : Nat) : Nat := 4 - level

/-- A well-formed leaf (R346, R347): zero fields, frame alignment, and a frame that exists. -/
def State.leafOk (s : State) (level : Nat) (e : D64) : Bool :=
  let f := pteFrame e
  let loc := ptePkg e = s.pkgId
  2 ≤ level && pteField e 52 48 = 0 && pteField e 15 8 = 0 && pteField e 7 6 = 0 && f % pageBytes (leafSize level) = 0
    && !(isReservedPa f) && !(isWindow f && level != 4) && !(isFar f && !loc) && !(loc && s.channelGone f)

/-- What a walk finds: the leaf and its size code, or the CODE of page-not-present (R347). -/
inductive WalkRes where
  | leaf (e : D64) (size : Nat)
  | fail (code : Nat)
  deriving DecidableEq, Repr

/-- The index of a level in a virtual address (R345). -/
def levelIndex (va level : Nat) : Nat :=
  if level = 1 then fieldOf va 47 39 else if level = 2 then fieldOf va 38 30 else if level = 3 then fieldOf va 29 21
  else fieldOf va 20 16

/-- One walk from a table at a level, with the levels that are left (R345 to R347). Entries are read at the home as relaxed
package-scope loads of column c (R349). -/
def State.walkFrom (s : State) (c va : Nat) : Nat → Nat → Nat → WalkRes
  | 0, _, _ => .fail 1
  | left + 1, level, table =>
    let a := table + 8 * levelIndex va level
    if s.peekPoison c a then .fail 3
    else
      let e : D64 := BitVec.ofNat 64 (leNat (s.peekBytes c a 8))
      if pteType e = 0 then .fail 0
      else if pteType e = 3 then .fail 1
      else if pteType e = 2 then (if s.leafOk level e then .leaf e (leafSize level) else .fail 1)
      else if level ≤ 3 && pointerOk level e && !(s.channelGone (pointerTarget e)) then s.walkFrom c va left (level + 1) (pointerTarget e)
      else .fail 1

/-- A walk of an address from a root (R345 to R347). -/
def State.walk (s : State) (c root va : Nat) : WalkRes :=
  if va / 2 ^ 48 ≠ 0 then .fail 2
  else if !(isNear root) || s.channelGone root then .fail 1
  else s.walkFrom c va 4 1 root

/-! ### Translation caches (R349) -/

/-- Whether an entry translates an address of an ASID. -/
def TlbEntry.covers (e : TlbEntry) (asid va : Nat) : Bool :=
  e.asid = asid && va / pageBytes e.size = e.vpn * 2 ^ 16 / pageBytes e.size

/-- The cached leaf of an address. -/
def tlbFind (t : List TlbEntry) (asid va : Nat) : Option TlbEntry := t.find? (fun e => e.covers asid va)

/-- Put an entry in a cache of a capacity; the oldest leaves (log 10). -/
def tlbPut (t : List TlbEntry) (cap : Nat) (e : TlbEntry) : List TlbEntry :=
  let t1 := t.filter (· != e)
  (if t1.length < cap then t1 else t1.drop (t1.length + 1 - cap)) ++ [e]

/-- The entry for a leaf. -/
def tlbOf (asid va : Nat) (e : D64) (size : Nat) : TlbEntry :=
  ⟨asid, va / pageBytes size * (pageBytes size / 2 ^ 16), size, e⟩

/-- The translation cache of an access: an array core's data or fetch TLB, the column core's, or the walker's own for an
engine. -/
inductive TlbUnit where
  | data (core : Nat)
  | fetch (core : Nat)
  | col (c : Nat)
  | walker (c : Nat)
  deriving DecidableEq, Repr

def State.tlb (s : State) : TlbUnit → List TlbEntry
  | .data n => (s.core n).dtlb
  | .fetch n => (s.core n).ftlb
  | .col c => (s.cc c).tlb
  | .walker c => (s.col c).wtlb
def State.tlbAdd (s : State) (u : TlbUnit) (e : TlbEntry) : State :=
  match u with
  | .data n => s.modCore n (fun x => { x with dtlb := tlbPut x.dtlb 96 e })
  | .fetch n => s.modCore n (fun x => { x with ftlb := tlbPut x.ftlb 16 e })
  | .col c => s.modCc c (fun x => { x with tlb := tlbPut x.tlb 64 e })
  | .walker _ => s
/-- The column a translation cache belongs to. -/
def TlbUnit.column : TlbUnit → Nat
  | .data n => coreColumn n
  | .fetch n => coreColumn n
  | .col c => c
  | .walker c => c

/-- The cached translation of an address: in the unit's own cache, or in the column walker's, from where the unit takes it. -/
def State.cached (s : State) (u : TlbUnit) (asid va : Nat) : Option TlbEntry :=
  match tlbFind (s.tlb u) asid va with
  | some e => some e
  | none => tlbFind (s.col u.column).wtlb asid va

/-- Keep a translation in the unit's cache and in the walker's. -/
def State.keepTlb (s : State) (u : TlbUnit) (e : TlbEntry) : State :=
  (s.tlbAdd u e).modCol u.column (fun y => { y with wtlb := tlbPut y.wtlb 2048 e })

/-- Translate for a block fetch or an engine: the cached leaf, or a walk made within the step (log 3). -/
def State.translateNow (s : State) (u : TlbUnit) (asid root va : Nat) : WalkRes :=
  if va / 2 ^ 48 ≠ 0 then .fail 2
  else match s.cached u asid va with
    | some e => .leaf e.leaf e.size
    | none => s.walk u.column root va

/-- The state after such a translation: a walk that ended in a leaf is cached. -/
def State.translateNote (s : State) (u : TlbUnit) (asid root va : Nat) : State :=
  match s.translateNow u asid root va with
  | .leaf e size => s.keepTlb u (tlbOf asid va e size)
  | .fail _ => s

/-- The place a leaf maps an address to (R345, R348). -/
def State.placeOf (s : State) (e : D64) (size va : Nat) : Nat :=
  let pa := pteFrame e + va % pageBytes size
  if ptePkg e = s.pkgId then pa else remotePlace (ptePkg e) pa

/-! ### Page checks of an access (R177 steps 3 to 5) -/

/-- What an access does, for permissions and locks. -/
inductive AccKind where | load | store | atomic | fetch
  deriving DecidableEq, Repr

/-- A failed check of an access: the cause and code of R231, or a hit of a system lock (step 6). -/
inductive AccFail where
  | cause (cause code : Nat)
  | sysLock
  deriving DecidableEq, Repr

/-- Whether the permissions of a leaf forbid an access (R347). `user`: array core or user privilege. -/
def permDenied (e : D64) (kind : AccKind) (user : Bool) : Bool :=
  (match kind with
    | .load => !(pteR e)
    | .store => !(pteW e)
    | .atomic => !(pteR e) || !(pteW e)
    | .fetch => !(pteX e)) || (user && !(pteU e))

/-- Steps 3 to 5 of R177 for one page whose leaf is known; `bad`: the access meets poison (CODE 3). -/
def State.pageFail (s : State) (e : D64) (kind : AccKind) (user bad : Bool) : Option AccFail :=
  if kind = .fetch && ptePkg e != s.pkgId then some (.cause 16 4)
  else if bad then some (.cause 16 3)
  else if isFar (pteFrame e) then some (.cause 17 0)
  else if permDenied e kind user then some (.cause 5 0)
  else none

/-- How an agent's accesses are translated: by page tables, or not at all at machine privilege (R225). -/
inductive Xlate where
  | tables (unit : TlbUnit) (asid root : Nat) (user : Bool)
  | physical (c : Nat)
  deriving DecidableEq, Repr

/-- What is known of one page of an access: its place, a failure, or that a walk must end first. -/
inductive PageRes where
  | place (k : Nat) (cr : Bool)
  | fail (f : AccFail)
  | walking
  deriving DecidableEq, Repr

/-- A finished walk of the column that ended in a fault and that this issuer waits for (R350). -/
def State.walkFailed (s : State) (who : Issuer × Nat) (c asid va : Nat) : Option Nat :=
  match (s.col c).walks.find? (fun w => w.asid == asid && w.va.toNat / 2 ^ 16 == va / 2 ^ 16 && w.waiters.contains who) with
  | some w => w.failed
  | none => none

/-- Translate and check one byte's page for a data access (R177 steps 3 to 5, R225). `poison`: whether the access at a place meets
poison. No window is cacheable (R324). -/
def State.pageOf (s : State) (who : Issuer × Nat) (x : Xlate) (va : Nat) (kind : AccKind) (poison : Nat → Bool) : PageRes :=
  match x with
  | .physical _ =>
    let pa := va
    if isReservedPa pa || s.channelGone pa then .fail (.cause 16 1) else if poison pa then .fail (.cause 16 3)
    else if isFar pa then .fail (.cause 17 0) else .place pa false
  | .tables u asid _ user =>
    if va / 2 ^ 48 ≠ 0 then .fail (.cause 16 2)
    else match s.cached u asid va with
      | some e =>
        let k := s.placeOf e.leaf e.size va
        match s.pageFail e.leaf kind user (poison k) with
        | some f => .fail f
        | none => .place k (pteCR e.leaf && !(isWindow (placeAddr k)))
      | none =>
        match s.walkFailed who u.column asid va with
        | some code => .fail (.cause 16 code)
        | none => .walking

/-- Ask the column's walker for a page, joining a walk in flight (R349). -/
def State.requestWalk (s : State) (who : Issuer × Nat) (x : Xlate) (va : Nat) : State :=
  match x with
  | .physical _ => s
  | .tables u asid root _ =>
    let same := fun (w : Walk) => w.asid == asid && w.va.toNat / 2 ^ 16 == va / 2 ^ 16 && w.failed == none
    s.modCol u.column (fun y =>
      if y.walks.any same then
        { y with walks := y.walks.map (fun w => if same w && !(w.waiters.contains who) then { w with waiters := w.waiters ++ [who] } else w) }
      else { y with walks := y.walks ++ [⟨asid, root, BitVec.ofNat 64 va, [who], none⟩] })

/-- Waiters leave the walks of a column; a walk nobody waits for goes (R350). -/
def State.leaveWalksIf (s : State) (p : Issuer × Nat → Bool) (c : Nat) : State :=
  s.modCol c (fun y => { y with walks :=
    (y.walks.map (fun w => { w with waiters := w.waiters.filter (fun x => !(p x)) })).filter (fun w => !(w.waiters.isEmpty)) })

/-- The trick an issuer issues for. -/
def State.trickOf (s : State) (who : Issuer) : Issuer × Nat :=
  match who with
  | .col _ => (who, 0)
  | .deal n slot => (who, match s.deal? n slot with | some d => d.trick | none => 0)

/-- The trick of an issuer no longer waits for any walk. -/
def State.leaveWalks (s : State) (who : Issuer) (c : Nat) : State := s.leaveWalksIf (· == s.trickOf who) c

/-- No trick of an issuer waits any longer. -/
def State.leaveAllWalks (s : State) (who : Issuer) (c : Nat) : State := s.leaveWalksIf (fun x => x.1 == who) c

/-- The translation caches a waiting issuer uses for data. -/
def issuerTlb : Issuer → TlbUnit
  | .col c => .col c
  | .deal n _ => .data n

/-- The oldest walk in flight of a column ends (R349, R350): a leaf is cached for the walker and every waiter, a fault is
kept for the waiters alone. -/
def State.completeWalk (s : State) (c : Nat) : State :=
  match (s.col c).walks.find? (fun w => w.failed == none) with
  | none => s
  | some w =>
    match s.walk c w.root w.va.toNat with
    | .leaf e size =>
      let entry := tlbOf w.asid w.va.toNat e size
      let s1 := w.waiters.foldl (fun t i => t.keepTlb (issuerTlb i.1) entry) s
      s1.modCol c (fun y => { y with walks := y.walks.filter (· != w) })
    | .fail code =>
      s.modCol c (fun y => { y with walks := y.walks.map (fun v => if v = w then { v with failed := some code } else v) })

/-! ### Invalidation (R235) -/

/-- Whether a walk could end in an entry of a kind. -/
def Walk.meets (w : Walk) (p : TlbEntry → Bool) : Bool := [0, 1, 2].any (fun size => p (tlbOf w.asid w.va.toNat 0 size))

/-- Drop the matching entries of every translation cache and walker of the package. Walks that could end in such an entry go too: a trick
that waits for one asks again, with the root its context then has. -/
def State.tlbDrop (s : State) (p : TlbEntry → Bool) : State :=
  { s with
    cores := s.cores.map (fun e => (e.1, { e.2 with dtlb := e.2.dtlb.filter (fun x => !(p x)), ftlb := e.2.ftlb.filter (fun x => !(p x)) }))
    cols := s.cols.map (fun e => (e.1, { e.2 with wtlb := e.2.wtlb.filter (fun x => !(p x)), walks := e.2.walks.filter (fun w => !(w.meets p)),
                                                  core := { e.2.core with tlb := e.2.core.tlb.filter (fun x => !(p x)) } })) }

end Sys2Proof.Machine
end

