-- ==== Sys2Proof/Machine/Fetch.lean ====
section
/-! DEFINITION. Fetching a block and checking it whole before any instruction of it issues (R41 to R47, R55, R225). -/

namespace Sys2Proof.Machine

/-! ### The header (R45) -/

def hdrLen (h : D64) : Nat := fieldOf h.toNat 61 55
def hdrKind (h : D64) : Nat := fieldOf h.toNat 54 52
def hdrWait (h : D64) : BitVec 12 := h.extractLsb' 40 12
def hdrSetA (h : D64) : Nat := fieldOf h.toNat 39 36
def hdrSetB (h : D64) : Nat := fieldOf h.toNat 35 32
def hdrQH (h : D64) : Bool := h.getLsbD 31
def hdrVhigh (h : D64) : Nat := fieldOf h.toNat 25 16

/-- The header checks of R46, on an array core or a column core. -/
def headerOk (h : D64) (onColumn : Bool) : Bool :=
  let k := hdrKind h
  let sets := fun n => n < 12 || n = 15
  fieldOf h.toNat 63 62 = 3 && hdrLen h != 0 && (if onColumn then k = 3 else k = 0 || k = 1 || k = 2 || k = 4)
    && sets (hdrSetA h) && sets (hdrSetB h)
    && !((k = 2 || k = 3) && (hdrQH h || hdrVhigh h != 0))
    && !(k = 3 && (hdrWait h != 0 || hdrSetA h != 15 || hdrSetB h != 15))
    && fieldOf h.toNat 30 26 = 0 && fieldOf h.toNat 15 0 = 0

/-- The fields of a terminator that must be zero (R55). -/
def termOk (op : Nat) (f : TermFields) : Bool :=
  (op = 0x071 || f.cond = 0)
    && (if op = 0x070 then f.tb = 0
        else if op = 0x072 then f.ta = 0 && f.tb.extractLsb' 0 13 = 0
        else if op = 0x073 then f.tb.extractLsb' 0 13 = 0
        else if op = 0x074 then f.ta = 0 && f.tb = 0
        else if op = 0x075 then f.tb.extractLsb' 0 12 = 0
        else if op = 0x076 then f.tb.extractLsb' 16 8 = 0
        else true)

/-- Walk a body instruction by instruction; the number of engine commands, or none when a check of R43 fails. `fuel` bounds the
number of instructions. -/
def checkBody (vhigh : Nat) : Nat → List W → Nat → Option Nat
  | 0, _, _ => none
  | fuel + 1, ws, ncmd =>
    match decode ws with
    | .error _ => none
    | .ok (i, rest) =>
      if highestV i > vhigh then none
      else match termOf i with
        | some (op, f) => if rest.isEmpty && termOk op f then some ncmd else none
        | none =>
          if rest.isEmpty then none
          else
            let cmd := match rowOf i with | some r => isEngineOp r.op | none => false
            checkBody vhigh fuel rest (if cmd then ncmd + 1 else ncmd)

/-- SETA and SETB against the number of engine commands (R47). -/
def setsOk (h : D64) (ncmd : Nat) : Bool :=
  ncmd ≤ 2 && (hdrSetA h = 15 || 1 ≤ ncmd) && (hdrSetB h = 15 || 2 ≤ ncmd)
    && (hdrSetA h = 15 || hdrSetA h != hdrSetB h)

/-- Every check of R43 on a header and its body. -/
def blockOk (h : D64) (body : List W) (onColumn : Bool) : Bool :=
  headerOk h onColumn &&
    (match checkBody (hdrVhigh h) (body.length + 1) body 0 with
      | some n => setsOk h n
      | none => false)

/-! ### Fetching -/

/-- What a fetch brings: the block, a block-format failure, a failed access with its address, or a wait on a system lock. -/
inductive FetchRes where
  | ok (hdr : D64) (body : List W)
  | badFormat
  | fail (cause code : Nat) (va : D64)
  | wait
  deriving DecidableEq, Repr

/-- Whether a physical byte lies in a frame under a system lock (R304, R308). -/
def State.frameLocked (s : State) (c pa : Nat) : Bool :=
  (s.col c).locks.any (fun e => e.sys && e.frames.any (fun f => f.1 ≤ pa && pa < f.1 + f.2))

/-- The sector of a place that the block cache of the array core of a fetch holds (R273; log 9). -/
def State.blockHeld (s : State) (x : Xlate) (sec : Nat) : Option (BitVec 256) :=
  match x with
  | .tables (.fetch n) _ _ _ => mapGet? (s.core n).blocks sec
  | _ => none

/-- Whether a fetch from a place meets poison: nothing that the block cache or a window serves does (R409). -/
def State.fetchPoison (s : State) (c : Nat) (x : Xlate) (k : Nat) : Bool :=
  !(isWindow k) && (s.blockHeld x (k / 32)).isNone && s.viewPoison c k

/-- One word of a block: as the block cache of an array core holds it, else as the column slice shows it. -/
def State.fetchWord (s : State) (c : Nat) (x : Xlate) (va : Nat) : Except FetchRes W :=
  let at_ : Except FetchRes Nat := match x with
    | .physical _ =>
      if isReservedPa va || s.channelGone va then .error (.fail 16 1 (BitVec.ofNat 64 va))
      else if s.fetchPoison c x va then .error (.fail 16 3 (BitVec.ofNat 64 va))
      else if isFar va then .error (.fail 17 0 (BitVec.ofNat 64 va))
      else if s.frameLocked c va then .error .wait
      else .ok va
    | .tables u asid root user =>
      match s.translateNow u asid root va with
      | .fail code => .error (.fail 16 code (BitVec.ofNat 64 va))
      | .leaf e size =>
        match s.pageFail e .fetch user (s.fetchPoison c x (s.placeOf e size va)) with
        | some (.cause cs cd) => .error (.fail cs cd (BitVec.ofNat 64 va))
        | some .sysLock => .error .wait
        | none => .ok (s.placeOf e size va)
  match at_ with
  | .error r => .error r
  | .ok k =>
    if isWindow k then .ok (BitVec.ofNat 32 (leNat (s.windowLoad k 4)))
    else match s.blockHeld x (k / 32) with
      | some d => .ok (BitVec.ofNat 32 (leNat (sectorBytes d (k % 32) 4)))
      | none => .ok (BitVec.ofNat 32 (leNat (s.viewBytes c k 4)))

/-- The words of a body. -/
def State.fetchWords (s : State) (c : Nat) (x : Xlate) : Nat → Nat → Except FetchRes (List W)
  | 0, _ => .ok []
  | n + 1, va =>
    match s.fetchWord c x (va % 2 ^ 64) with
    | .error r => .error r
    | .ok w => match s.fetchWords c x n (va + 4) with
      | .error r => .error r
      | .ok ws => .ok (w :: ws)

/-- Read a header alone. -/
def State.fetchHeader (s : State) (c : Nat) (x : Xlate) (addr : D64) : Except FetchRes D64 :=
  if addr.toNat % 4 ≠ 0 then .error .badFormat
  else match s.fetchWord c x addr.toNat with
    | .error r => .error r
    | .ok w1 => match s.fetchWord c x ((addr.toNat + 4) % 2 ^ 64) with
      | .error r => .error r
      | .ok w2 => .ok (w1 ++ w2)

/-- Fetch and check a block (R43). The header is checked before the body is fetched. -/
def State.fetchBlock (s : State) (c : Nat) (x : Xlate) (onColumn : Bool) (addr : D64) : FetchRes :=
  match s.fetchHeader c x addr with
  | .error r => r
  | .ok h =>
    if !(headerOk h onColumn) then .badFormat
    else match s.fetchWords c x (hdrLen h) (addr.toNat + 8) with
      | .error r => r
      | .ok body => if blockOk h body onColumn then .ok h body else .badFormat

/-- The translations a fetch leaves in the caches: those of the first and the last byte's pages. -/
def State.fetchNote (s : State) (x : Xlate) (addr : D64) (bytes : Nat) : State :=
  match x with
  | .physical _ => s
  | .tables u asid root _ =>
    (s.translateNote u asid root addr.toNat).translateNote u asid root ((addr.toNat + bytes - 1) % 2 ^ 64)

/-- How a group's fetches are translated (R343). -/
def State.fetchXlate (s : State) (n : Nat) (g : Group) : Xlate :=
  .tables (.fetch n) (s.asidOf g) (s.rootOf (s.ctxOf g)) true

/-- How a column core's fetches and accesses are translated at a privilege (R225). -/
def State.colXlate (s : State) (c priv : Nat) : Xlate :=
  if priv = 3 then .physical c
  else .tables (.col c) ((s.cc c).asid.toNat % 65536) ((s.cc c).ptbase.toNat / 65536 * 65536) (priv = 0)

/-- How a group's data accesses are translated. -/
def State.dataXlate (s : State) (n : Nat) (g : Group) : Xlate :=
  .tables (.data n) (s.asidOf g) (s.rootOf (s.ctxOf g)) true

/-- Whether an offset in words is an instruction boundary of a body. -/
def isBoundary : Nat → List W → Nat → Bool
  | 0, _, off => off = 0
  | fuel + 1, ws, off =>
    if off = 0 then !(ws.isEmpty)
    else match decode ws with
      | .error _ => false
      | .ok (_, rest) => let n := ws.length - rest.length; n ≤ off && isBoundary fuel rest (off - n)

end Sys2Proof.Machine
end

