-- ==== Sys2Proof/Machine/Hands.lean ====
section
/-! DEFINITION. Hands and the deck, fault records, stopping a group, crew splits, and the resumption of parked units
(R14, R44, R137, R168 to R170, R238, R239, R252 to R254, R262 to R266). -/

namespace Sys2Proof.Machine

/-! ### Records (R238, R239) -/

/-- A record joins those waiting for the queue of a column. -/
def State.postRec (s : State) (c : Nat) (r : Rec) : State := s.modCol c (fun y => { y with fqWait := y.fqWait ++ [r] })

/-- The record of a fault of a group's threads, command or scalar context. -/
def faultRec (n g ctx : Nat) (f : FaultInfo) (src nthr slot : Nat) (threads : List Nat) (cmd : Nat) : Rec :=
  { cause := f.cause, code := f.code, recid := 0, flags := f.flags, pos := f.pos, pc := f.pc, next := f.next, vaddr := f.vaddr,
    nthr := nthr, slot := slot, core := coreInCol n, ctx := ctx, grp := g, src := src, tick := 0, threads := threads, cmd := cmd, attached := true }

/-- A group has been retired: its records name no thread and no command any more (R241). -/
def State.detachRecs (s : State) (n g : Nat) : State :=
  let cut := fun (l : List Rec) => l.map (fun q => if q.core = coreInCol n && q.grp = g then { q with attached := false } else q)
  s.modCol (coreColumn n) (fun y => { y with fqWait := cut y.fqWait, fq := cut y.fq, popped := cut y.popped })

/-- A fault with nothing but a cause, a code and an address. -/
def plainFault (cause code : Nat) (pc : D64) : FaultInfo := ⟨cause, code, pc, 0, 0, 0, 0⟩

/-- Groups of the pending set, those stopped left out (R259). -/
def ACore.pending (y : ACore) : List (Nat × Group) := y.groups.filter (fun e => !e.2.active && !e.2.stopped)
/-- Groups of the active set. -/
def ACore.actives (y : ACore) : List (Nat × Group) := y.groups.filter (fun e => e.2.active)

/-- A group enters the active set. -/
def State.enterActive (s : State) (n g : Nat) : State :=
  s.modGrp n g (fun x => { x with active := true, activeSince := s.tick, idleSince := none })

/-- The oldest pending group takes a free place of the active set (R259). -/
def State.fillActive (s : State) (n : Nat) : State :=
  if 8 ≤ (s.core n).actives.length then s
  else match argMin (fun (e : Nat × Group) => e.2.admitSeq) (s.core n).pending with
    | some e => s.enterActive n e.1
    | none => s

/-- Stop a group: no further deal of it is made, it leaves both sets, and a record of SRC 1 is posted (R44, R259). `slot` is the
lowest thread concerned, 0 where the stop concerns none (log 15). -/
def State.stopGroup (s : State) (n g : Nat) (f : FaultInfo) (slot : Nat) : State :=
  match s.grp? n g with
  | none => s
  | some x =>
    let s1 := (s.modGrp n g (fun y => { y with stopped := true, active := false })).fillActive n
    s1.postRec (coreColumn n) (faultRec n g (s.ctxOf x) f 1 0 (x.slotBase + slot) [] 0)

/-! ### Threads of a group -/

/-- A fresh thread, waiting at a block (R15). -/
def Thread.fresh (addr : D64) : Thread :=
  { st := .waiting, next := addr, ret := none, v := [], k := 0, q := [], parkMask := 0, isTask := false, trap := none,
    park := none, entry := false, owed := false, fence := none, lane := 0, entering := none }

/-- Threads not retired, by rising index. -/
def Group.live (g : Group) : List (Nat × Thread) := g.threads.filter (fun e => e.2.st != .retired)
/-- The thread waits at the first instruction of its next block. -/
def Thread.atBlock (t : Thread) : Bool := t.st = .waiting && t.ret.isNone
/-- The thread waits at a block: at its first instruction, in a return hand too (R262, R266). -/
def Thread.waitsAt (t : Thread) : Bool := t.st = .waiting && (t.ret.isNone || t.ret = some t.next)
/-- Whether a deal of the group is in flight; a scalar context outside its slot counts (R254, R258). -/
def State.inFlight (s : State) (n g : Nat) : Bool :=
  (match (s.core n).deal0 with | some d => d.grp = g | none => false)
    || (match (s.core n).deal1 with | some d => d.grp = g | none => false)
    || (match s.grp? n g with
        | some x => (match x.scalar with | .idle => false | _ => true)
        | none => false)

/-- The header of a block of a group, if it can be fetched and is one an array core executes. -/
def State.headerAt (s : State) (n : Nat) (g : Group) (addr : D64) : Option D64 :=
  match s.fetchHeader (coreColumn n) (s.fetchXlate n g) addr with
  | .ok h => if headerOk h false then some h else none
  | .error _ => none

/-! ### Units (R254) -/

/-- Size of the unit a block deals: a thread, a quad, a crew (R254); a scalar block deals the group. -/
def unitSize (h : D64) : Nat := if hdrKind h = 1 then 32 else if hdrQH h then 4 else 1

/-- Whether a thread waits at a block and its `park` mask reads clear. -/
def State.threadReady (s : State) (n g : Nat) (noFlags : Bool) (addr : D64) (t : Thread) : Bool :=
  t.atBlock && t.next = addr && (noFlags || s.flagsClear n g t.parkMask)

/-- The threads of one unit. -/
def Group.unitOf (g : Group) (size u : Nat) : List (Nat × Thread) := g.live.filter (fun e => e.1 / size == u)

/-- The ready units of a block of a group, as lists of thread indices in rising order (R254). `among`: only threads for which
it holds may be dealt. -/
def State.readyUnits (s : State) (n g : Nat) (x : Group) (h addr : D64) (noFlags : Bool) (among : Nat → Bool) : List (List Nat) :=
  let ready := fun (e : Nat × Thread) => among e.1 && s.threadReady n g noFlags addr e.2
  if hdrKind h = 2 then
    (if !(x.live.isEmpty) && x.live.all ready && !(s.inFlight n g) then [x.live.map (·.1)] else [])
  else
    let size := unitSize h
    if size = 1 then (x.live.filter ready).map (fun e => [e.1])
    else
      ((List.range 1024).filter (fun u => u * size < 1024)).filterMap (fun u =>
        let m := x.unitOf size u
        if !(m.isEmpty) && m.all ready then some (m.map (·.1)) else none)

/-! ### The deck (R252, R265) -/

/-- Whether an entry is the one of a key. -/
def Hand.is (h : Hand) (g : Nat) (addr : D64) (ret : Option D64) : Bool := h.grp = g && h.addr = addr && h.ret = ret

/-- Set a thread's bit in the entry of its key; take a new entry if there is none and one is free. -/
def deckAdd (deck : List Hand) (g : Nat) (addr : D64) (ret : Option D64) (t : Nat) : Option (List Hand) :=
  if deck.any (fun h => h.is g addr ret) then
    some (deck.map (fun h => if h.is g addr ret then { h with bits := insNat t h.bits } else h))
  else if deck.length < 128 then some (deck ++ [⟨g, addr, ret, [t], 0, 0, none, none⟩])
  else none

/-- Clear bits of an entry; an entry whose BITS become zero frees. -/
def deckClear (deck : List Hand) (g : Nat) (addr : D64) (ret : Option D64) (ts : List Nat) : List Hand :=
  (deck.map (fun h => if h.is g addr ret then { h with bits := h.bits.filter (fun b => !(ts.contains b)) } else h)).filter
    (fun h => !(h.bits.isEmpty))

/-- The key of the entry a waiting thread belongs to: its block, or its return hand. -/
def Thread.key (t : Thread) : D64 × Option D64 :=
  match t.ret with
  | some a => (a, some t.next)
  | none => (t.next, none)

/-- Whether some thread of a core waits without an entry (R252). -/
def State.anyOwed (s : State) (n : Nat) : Bool :=
  (s.core n).groups.any (fun e => e.2.threads.any (fun t => t.2.owed && t.2.st = .waiting))

/-- Set the bit of a waiting thread, or leave it owed (R252). -/
def State.setBitNow (s : State) (n g t : Nat) : State :=
  match s.thr? n g t with
  | none => s
  | some x =>
    match deckAdd (s.core n).deck g x.key.1 x.key.2 t with
    | some d => (s.modCore n (fun y => { y with deck := d })).modThr n g t (fun y => { y with owed := false })
    | none => s.modThr n g t (fun y => { y with owed := true })

/-- The same for a thread that begins to wait: while other bits are owed, a free entry is theirs (R253). -/
def State.setBit (s : State) (n g t : Nat) : State :=
  match s.thr? n g t with
  | none => s
  | some x =>
    if s.anyOwed n && !((s.core n).deck.any (fun h => h.is g x.key.1 x.key.2)) then s.modThr n g t (fun y => { y with owed := true })
    else s.setBitNow n g t

/-- A thread enters the hand of a block (R132). -/
def State.enterHand (s : State) (n g t : Nat) (addr : D64) (mask : BitVec 12) : State :=
  (s.modThr n g t (fun x => { x with st := .waiting, next := addr, ret := none, parkMask := mask, park := none, entry := false,
                                     q := [] })).setBit n g t

/-- A resumed thread enters the return hand of an instruction of its block, keeping its entry and its latches (R265, R266). A
thread parked at a fetch restarts at the header with latches reading 0. -/
def State.enterReturn (s : State) (n g t : Nat) (pc : D64) : State :=
  (s.modThr n g t (fun x => { x with st := .waiting, ret := some pc, parkMask := 0, park := none,
                                     q := if pc = x.next then [] else x.q })).setBit n g t

/-- A thread retires (R14, R133): its registers, its trap record and its kitty entry go. -/
def State.retireThread (s : State) (n g t : Nat) : State :=
  s.modThr n g t (fun x => { x with st := .retired, ret := none, v := [], k := 0, q := [], parkMask := 0, trap := none, park := none,
                                    entry := false, owed := false, fence := none, entering := none })

/-! ### Crew splits (R262) -/

/-- A group as the tests for splits see it: a thread in the return hand of its block's first instruction waits at the block (R266). -/
def Group.settled (x : Group) : Group :=
  { x with threads := x.threads.map (fun e => (e.1, if e.2.waitsAt then { e.2 with ret := none } else e.2)) }

/-- The header of the block of a hand: the one the dealer holds (R273), or the one that stands there. -/
def Hand.header (h : Hand) (s : State) (n : Nat) (x : Group) : Option D64 :=
  match h.hdr with
  | some v => some v
  | none => s.headerAt n x (h.ret.getD h.addr)

/-- The header of a block as the block of a hand. -/
def State.blockHeader (s : State) (n g : Nat) (x : Group) (addr : D64) : Option D64 :=
  match (s.core n).deck.find? (fun h => h.grp == g && h.ret.getD h.addr == addr) with
  | some h => h.header s n x
  | none => s.headerAt n x addr

/-- Whether a unit of a size is split: every member waits at blocks of that unit size, not all at the same one. -/
def State.unitSplit (s : State) (n g : Nat) (x : Group) (size : Nat) (m : List (Nat × Thread)) : Bool :=
  m.all (fun e => e.2.atBlock && (match s.blockHeader n g x e.2.next with | some h => hdrKind h != 2 && unitSize h = size | none => false))
    && m.any (fun e => some e.2.next != (m.head?.map (fun f => f.2.next)))

/-- The first split unit of a size: CODE and the lowest thread concerned. -/
def State.splitOf (s : State) (n g : Nat) (x : Group) (size code : Nat) : Option (Nat × Nat) :=
  ((List.range (1024 / size)).filter (fun u => s.unitSplit n g x size (x.unitOf size u))).head?.bind
    (fun u => ((x.unitOf size u).head?).map (fun e => (code, e.1)))

/-- A group of which nothing would be dealable with every flag clear: CODE 2 and the lowest thread. -/
def State.splitGroup (s : State) (n g : Nat) (x : Group) : Option (Nat × Nat) :=
  if s.inFlight n g || x.live.isEmpty || !(x.live.all (fun e => e.2.atBlock)) then none
  else if x.live.any (fun e => match s.blockHeader n g x e.2.next with
      | none => true
      | some h => !((s.readyUnits n g x h e.2.next true (fun _ => true)).isEmpty)) then none
  else x.live.head?.map (fun e => (2, e.1))

/-- Stop a group that is split. -/
def State.stopSplit (s : State) (n g : Nat) (find : Group → Option (Nat × Nat)) : State :=
  match s.grp? n g with
  | none => s
  | some x =>
    if x.stopped then s
    else match find x.settled with
      | none => s
      | some (code, t) =>
        match mapGet? x.threads t with
        | none => s
        | some th => s.stopGroup n g (plainFault 20 code th.next) t

/-- Test a group for a split when a thread enters a hand or leaves the kitty, and stop it (R262). Where several splits stand at one test R262
does not say which is reported: the model takes CODE 0 before 1 before 2, and the lowest unit (DESIGN CHOICE, log 51). -/
def State.splitTest (s : State) (n g : Nat) : State :=
  s.stopSplit n g (fun x => (s.splitOf n g x 32 0).orElse (fun _ => (s.splitOf n g x 4 1).orElse (fun _ => s.splitGroup n g x)))

/-- The test when a deal of the group ends: of code 2 alone. -/
def State.splitEnd (s : State) (n g : Nat) : State := s.stopSplit n g (s.splitGroup n g)

/-! ### Parking and resumption (R137, R263 to R266, R168 to R170) -/

/-- User causes (R231). -/
def isUserCause (c : Nat) : Bool := 1 ≤ c && c ≤ 9

/-- Resume the unit of a parked thread, those parked with it at its instruction, once no member still holds a cause of its own and each has its kitty entry (R170,
R264, R265). -/
def State.resumeUnit (s : State) (n g t : Nat) : State :=
  match s.grp? n g with
  | none => s
  | some x =>
    match (mapGet? x.threads t).bind (·.park) with
    | none => s
    | some p =>
      let home := (mapGet? x.threads t).map (·.next)
      let members := x.threads.filter (fun e => e.1 / p.unitSize == t / p.unitSize && some e.2.next == home
        && e.2.park.any (fun q => q.unitSize == p.unitSize && q.info.pc == p.info.pc))
      let done := members.all (fun e => e.2.entry && (match e.2.park with
        | some q => q.resolved || q.kind = .crewHold || q.kind = .quadHold
        | none => true))
      if done then
        (members.foldl (fun s2 e => match e.2.park with
          | some q => s2.enterReturn n g e.1 q.info.pc
          | none => s2) s).splitTest n g
      else s

/-- Mark a parked thread resolved in place, and resume its unit if that completes it. -/
def State.resolveThread (s : State) (n g t : Nat) : State :=
  (s.modThr n g t (fun x => { x with park := x.park.map (fun p => { p with resolved := true }) })).resumeUnit n g t

/-- After a member has left the kitty another way, the members of its unit still held may resume (R170). -/
def State.resumeRest (s : State) (n g t size : Nat) : State :=
  if size = 1 then s
  else match s.grp? n g with
    | none => s
    | some x =>
      (x.threads.filter (fun e => e.1 / size == t / size && e.2.park.any (fun q => q.unitSize == size))).foldl (fun u e => u.resumeUnit n g e.1) s

/-- Whether a user fault in a block of a kind goes to the column core, not to the trap-entry block (R137). -/
def State.escalates (s : State) (x : Group) (kind : Nat) : Bool := (s.recOf x).trapEnt = 0 || kind = 4

/-- A user fault enters the fault queue with a record of its own (R137, R238). -/
def State.escalate (s : State) (n g : Nat) (x : Group) (t : Nat) (f : FaultInfo) : State :=
  s.postRec (coreColumn n) (faultRec n g (s.ctxOf x) f 0 1 (x.slotBase + t) [t] 0)

/-- Deliver a user cause to the trap-entry block: the entry frees and the thread enters its hand (R137, R265). The header at
TRAPENT is checked at the first delivery; one that is no trap-entry block stops the group, and the cause escalates. A header that cannot be
read then is checked when the hand is dealt (log 34). -/
def State.deliver (s : State) (n g t : Nat) (f : FaultInfo) (size : Nat) : State :=
  match s.grp? n g with
  | none => s
  | some x =>
    let te := (s.recOf x).trapEnt
    let found : TrapCheck := match x.trapCheck with
      | .good => .good
      | .bad => .bad
      | _ => match s.fetchHeader (coreColumn n) (s.fetchXlate n x) te with
        | .ok h => if headerOk h false && hdrKind h = 4 then .good else .bad
        | .error .badFormat => .bad
        | .error _ => .unreadable
    let s1 := s.modGrp n g (fun y => { y with trapCheck := found })
    if found = .bad then
      let s2 := s1.escalate n g x t f
      if x.trapCheck = .bad then s2 else s2.stopGroup n g (plainFault 18 0 te) 0
    else
      let s2 := (s1.enterHand n g t te 0).modThr n g t (fun y => { y with entering := if found = .unreadable then some f else none })
      (s2.resumeRest n g t size).splitTest n g

/-- Park a thread of a deal in its lane (R263). A fault of its own ends its trap record, and a user cause leaves a new one (R137). -/
def State.parkThread (s : State) (n g t : Nat) (kind : ParkKind) (f : FaultInfo) (size lane : Nat) : State :=
  s.modThr n g t (fun x => { x with
    st := .parked, park := some ⟨kind, f, size, false⟩, owed := false, lane := lane,
    trap := if kind = .own then (if isUserCause f.cause then some f else none) else x.trap })

/-- The page an address of a group lies on: that of its leaf, 64 KiB where no leaf is found (R238, R352). -/
def State.faultPage (s : State) (n : Nat) (x : Group) (va : Nat) : Nat × Nat :=
  match s.translateNow (.data n) (s.asidOf x) (s.rootOf (s.ctxOf x)) va with
  | .leaf _ size => (va / pageBytes size, size)
  | .fail _ => (va / 2 ^ 16, 0)

/-- Group the faults of one instruction of one trick into records: threads with the same system cause on the same page share one
(R238). -/
def State.postFaults (s : State) (n g : Nat) (x : Group) : List (Nat × FaultInfo) → State
  | [] => s
  | l =>
    let key := fun (e : Nat × FaultInfo) => (e.2.cause, s.faultPage n x e.2.vaddr.toNat)
    let keys := (l.map key).eraseDups
    keys.foldl (fun s2 k =>
      let m := l.filter (fun e => key e == k)
      match m.head? with
      | none => s2
      | some e =>
        let low := (minOf (fun (y : Nat × FaultInfo) => y.2.vaddr.toNat) m).getD 0
        let slot := (minOf (fun (y : Nat × FaultInfo) => y.1) m).getD 0
        s2.postRec (coreColumn n)
          (faultRec n g (s.ctxOf x) { e.2 with vaddr := BitVec.ofNat 64 low } 0 m.length (x.slotBase + slot) (m.map (·.1)) 0)) s

end Sys2Proof.Machine
end

