-- ==== Sys2Proof/Machine/Ops.lean ====
section
/-! DEFINITION. The shared operations of every meaning: taking a trap on a column core and returning from one (R225 to R228),
parking and stopping on an array core (R11, R168, R169, R263), the lanes an instruction sees (R20, R31), and committing the
results of its lanes (R32 to R38, R58). -/

namespace Sys2Proof.Machine

/-! ### Column core: events, traps and their return -/

/-- `evpend`: the latched bits and the two level bits (R234). -/
def State.evpend (s : State) (c : Nat) : BitVec 64 :=
  let y := s.col c
  (y.evLatched &&& 0x76) ||| (if y.fq.isEmpty then 0 else 1) ||| (if y.tickcmp.toNat ≤ s.tick then 8 else 0)

/-- The word `tcause` (R226, R232). -/
def causeWord (code priv cause : Nat) (eie : Bool) : D64 :=
  BitVec.ofNat 64 (code % 65536 * 65536 + (if eie then 4096 else 0) + priv % 4 * 1024 + cause % 256)

/-- The pair of latches 2i, 2i + 1 as a saved latch register (R226). -/
def latchPair (q : Regs) (i : Nat) : D64 := pairOf (getReg q (2 * i)) (getReg q (2 * i + 1))

/-- The latches of four saved latch registers. -/
def latchesOf (t : TrapRegs) : Regs :=
  [t.q0, t.q1, t.q2, t.q3].zipIdx.foldl (fun r e => setReg (setReg r (2 * e.2) (loWord e.1)) (2 * e.2 + 1) (hiWord e.1)) []

/-- The trap registers after a trap. -/
def TrapRegs.save (t : TrapRegs) (x : ColCore) (cause code : Nat) (blk next info : D64) : TrapRegs :=
  { t with cause := causeWord code x.priv cause x.eie, blk := blk, next := next, info := info,
           q0 := latchPair x.q 0, q1 := latchPair x.q 1, q2 := latchPair x.q 2, q3 := latchPair x.q 3 }

/-- The column core saves its state for a trap to M or S and turns to the handler: the first half of R226. The flags of the
instructions completed in the block join `fstat` (log 15). -/
def ColCore.enter (x : ColCore) (toM : Bool) (cause code : Nat) (blk next info : D64) : ColCore :=
  if toM then
    { x with trapM := x.trapM.save x cause code blk next info, fetch := .handler, priv := 3, addr := x.trapM.vec, body := none, pos := 0, q := [],
             fstat := x.fstat ||| flagsWord x.acc, acc := 0, wait := none }
  else
    { x with trapS := x.trapS.save x cause code blk next info, fetch := .handler, priv := 1, eie := false, addr := x.trapS.vec, body := none,
             pos := 0, q := [], fstat := x.fstat ||| flagsWord x.acc, acc := 0, wait := none }

/-- The column core begins a fetched block: latches read 0 and the snapshots are taken (R17, R37). -/
def ColCore.begin (x : ColCore) (h : D64) (body : List W) : ColCore :=
  { x with fetch := .block, hdr := h, body := some body, pos := 0, q := [], snapMode := x.fmode, snapStat := x.fstat, acc := 0 }

/-- The column core halts for a vector failure (R226). -/
def State.vectorFailure (s : State) (c : Nat) : State :=
  (s.modCc c (fun x => { x with run := .haltedVector, fetch := .block, body := none })).report (.vectorFailure c)

/-- Fetch the handler block within the trap (R226). A failure at S is a trap taken at S, which goes to M; a failure at M halts
the core. A fetch that meets a system lock is repeated, still as that of the handler. `depth` bounds the nesting. -/
def State.fetchHandler (s : State) (c : Nat) : Nat → State
  | 0 => s.vectorFailure c
  | depth + 1 =>
    let x := s.cc c
    let again := fun (cause code : Nat) (info : D64) =>
      if x.priv = 3 then s.vectorFailure c
      else (s.modCc c (fun y => y.enter true cause code x.addr x.addr info)).fetchHandler c depth
    match s.fetchBlock c (s.colXlate c x.priv) true x.addr with
    | .ok h body => (s.fetchNote (s.colXlate c x.priv) x.addr (8 + 4 * body.length)).modCc c (fun y => y.begin h body)
    | .wait => s
    | .badFormat => again 18 0 0
    | .fail cause code va => again cause code va

/-- TAKING A TRAP on a column core (R225, R226): traps taken at U go to S, those at S or M go to M; the state is saved, the
privilege changed and the handler block fetched in one step. -/
def State.takeTrap (s : State) (c cause code : Nat) (blk next info : D64) : State :=
  (s.modCc c (fun x => x.enter (x.priv != 0) cause code blk next info)).fetchHandler c 2

/-- PPRIV and PEIE of a `tcause` word; a PPRIV of 2 is a code never held (R225). -/
def restoredPriv (cause : D64) : Nat :=
  let p := fieldOf cause.toNat 11 10
  if p = 2 then Config.privForTwo else p
def restoredEie (cause : D64) : Bool := cause.getLsbD 12

/-- A block-format trap of a `tret` itself, always to M; PEIE keeps the value it held (R227). -/
def State.rejectReturn (s : State) (c : Nat) (pc addr : D64) : State :=
  (s.modCc c (fun x =>
    let y := x.enter true 18 0 x.addr pc addr
    { y with trapM := { y.trapM with cause := causeWord 0 x.priv 18 (restoredEie x.trapM.cause) } })).fetchHandler c 2

/-- Privilege and EIE restored, the block about to be fetched. -/
def ColCore.leave (x : ColCore) (t : TrapRegs) (addr : D64) : ColCore :=
  { x with priv := restoredPriv t.cause, eie := if x.priv = 1 then restoredEie t.cause else x.eie, addr := addr, body := none,
           pos := 0, q := [], fstat := x.fstat ||| flagsWord x.acc, acc := 0 }

/-- RETURNING FROM A TRAP (R227). `pc` is the address of the `tret`. Where the header at `tblk` cannot be read or is malformed, so that
"inside the block at tblk" cannot be decided, R227 does not say what `tret` does: the model takes `tnext` as the header of a new block
(DESIGN CHOICE, log 37). -/
def State.trapReturn (s : State) (c : Nat) (pc : D64) : State :=
  let x := s.cc c
  let t := if x.priv = 1 then x.trapS else x.trapM
  let next := t.next
  let xl := s.colXlate c (restoredPriv t.cause)
  if next = 0 || next.toNat % 4 != 0 then s.rejectReturn c pc next
  else if next = t.blk then s.modCc c (fun y => y.leave t next)
  else
    match s.fetchHeader c xl t.blk with
    | .ok h =>
      let off := next.toNat - t.blk.toNat
      if headerOk h true && t.blk.toNat < next.toNat && off < 8 + 4 * hdrLen h then
        match s.fetchBlock c xl true t.blk with
        | .ok h2 body =>
          if 8 ≤ off && isBoundary (body.length + 1) body ((off - 8) / 4) then
            (s.fetchNote xl t.blk (8 + 4 * body.length)).modCc c (fun y =>
              { (y.leave t t.blk).begin h2 body with pos := (off - 8) / 4, q := latchesOf t })
          else s.rejectReturn c pc next
        | .wait => s
        | .badFormat => (s.modCc c (fun y => y.leave t t.blk)).takeTrap c 18 0 t.blk t.blk 0
        | .fail cause code va => (s.modCc c (fun y => y.leave t t.blk)).takeTrap c cause code t.blk t.blk va
      else s.modCc c (fun y => y.leave t next)
    | .error .wait => s
    | .error _ => s.modCc c (fun y => y.leave t next)

/-! ### The environment and the lanes of the issuing agent -/

/-- The special registers (R20, R21): `x` the group, `inst` its instance. -/
def specialGroup (s : State) (n : Nat) (x : Group) (t pos : Nat) (helper : Bool) (fmode fstat : W) (i : Nat) : W :=
  let inst := s.instOf x
  let r := inst.lrec
  let c := coreColumn n
  let w := fun (v : Nat) => BitVec.ofNat 32 v
  match i with
  | 512 => w t
  | 513 => w (t % r.tdimx)
  | 514 => w (t / r.tdimx)
  | 515 => w pos
  | 516 => w (t / 32)
  | 517 => w (t % 4)
  | 518 => if helper then 1 else 0
  | 519 => w (x.slotBase + t)
  | 524 => w r.tdimx
  | 525 => w r.tdimy
  | 526 => w (x.gflat % r.gdimx)
  | 527 => w (x.gflat / r.gdimx % r.gdimy)
  | 528 => w (x.gflat / (r.gdimx * r.gdimy))
  | 529 => w r.gdimx
  | 530 => w r.gdimy
  | 531 => w r.gdimz
  | 532 => w x.gflat
  | 533 => w (x.gflat / r.gang)
  | 534 => w (x.gflat % r.gang)
  | 536 => w n
  | 537 => w (coreInCol n)
  | 538 => w c
  | 539 => w (clusterOf c)
  | 540 => w (dieOf c)
  | 541 => w x.pkg
  | 542 => w inst.ctx
  | 543 => w x.asid
  | 544 => fmode
  | 545 => fstat
  | 546 => loWord (inst.winva + BitVec.ofNat 64 (0x1080 + 256 * inst.copy))
  | 547 => hiWord (inst.winva + BitVec.ofNat 64 (0x1080 + 256 * inst.copy))
  | 548 => w r.base
  | 549 => w (s.holding x)
  | 550 => w x.tiles.length
  | 551 => w (s.fabric.epoch % 8)
  | 552 => w s.fabric.epoch
  | 553 => BitVec.ofInt 32 (s.gov c).temp
  | _ => 0

/-- The special registers of a column core (R20). -/
def specialCol (s : State) (c : Nat) (i : Nat) : W :=
  let x := s.cc c
  let w := fun (v : Nat) => BitVec.ofNat 32 v
  match i with
  | 538 => w c
  | 539 => w (clusterOf c)
  | 540 => w (dieOf c)
  | 541 => w s.pkgId
  | 542 => match (List.range 64).find? (fun n => s.ctxAsid n == x.asid.toNat % 65536) with
    | some n => w n
    | none => 0xFFFFFFFF
  | 543 => x.asid &&& 0xFFFF
  | 544 => x.snapMode
  | 545 => x.snapStat
  | 551 => w (s.fabric.epoch % 8)
  | 552 => w s.fabric.epoch
  | 553 => BitVec.ofInt 32 (s.gov c).temp
  | _ => 0

/-- The view of one lane of a deal. -/
def laneView (s : State) (n : Nat) (d : Deal) (x : Group) (l : Lane) : LaneView :=
  let sp := fun i => specialGroup s n x l.tidx l.pos l.helper.isSome d.fmode d.fstat i
  if hdrKind d.hdr = 2 then ⟨0, 0, false, [], x.s, x.q, x.k, sp⟩
  else match l.helper with
    | some h => ⟨l.pos, l.tidx, true, h.v, x.s, h.q, h.k, sp⟩
    | none =>
      match mapGet? x.threads l.tidx with
      | some t => ⟨l.pos, l.tidx, false, t.v, x.s, t.q, t.k, sp⟩
      | none => ⟨l.pos, l.tidx, true, [], x.s, [], 0, sp⟩

/-- A trick of a deal, without the lanes whose threads have parked. -/
def Deal.trickLanes (d : Deal) (t : Nat) : List Lane := (d.tricks[t]?.getD []).filter (fun l => !l.gone)
/-- The current trick of a deal. -/
def Deal.curLanes (d : Deal) : List Lane := d.trickLanes d.trick

/-- The instruction at a position of a body. -/
def bodyInstr (body : List W) (pos : Nat) : Option Instr :=
  match decode (body.drop pos) with
  | .ok (i, _) => some i
  | .error _ => none

/-- The environment of the instruction at a position of a deal. -/
def Deal.envAt (d : Deal) (n slot pos : Nat) : Env :=
  ⟨.deal n slot, hdrKind d.hdr, hdrQH d.hdr, d.addr, d.addr + BitVec.ofNat 64 (8 + 4 * pos), d.fmode, d.fstat, 0⟩

/-! ### Pending registers (R33) -/

/-- The pair or the one register an outstanding access writes. -/
def RAccess.regs (a : RAccess) : List (Bool × Nat) :=
  let wide := match a.use with
    | .load m => sizePair m
    | .fetched n => n == 8
    | .meld m _ => atomPair m
    | .descriptor _ => false
  useRegs (.dst wide) a.dX a.dIdx

/-- Whether an instruction of the trick waits for a pending one: it reads or writes a pending register, an acquire stands before it
(R185), or it waits for every register. -/
def Pend.blocks (p : Pend) (i : Instr) : Bool :=
  let w := p.wait
  waitsAll i || w.accs.any (fun a => a.late.isSome)
    || (w.acquire.isSome && (match rowOf i with | some r => decide (0x100 ≤ r.op) | none => false))
    || w.accs.any (fun a => a.regs.any (fun r => (namedRegs i).contains r))

/-- The pending instructions of the current trick. -/
def Deal.pending (d : Deal) : List Pend := d.pend.filter (fun p => p.trick == d.trick)

/-- The instructions that issue as one with the instruction at a position: the three words that fuse with an `fmax` (R157), else none. -/
def fusedInstrs (body : List W) (pos : Nat) : List Instr :=
  match decode (body.drop pos) with
  | .ok (i, rest) => match (match i with | .fmax f | .fmaxLit f => fusedTail f rest | _ => none) with
    | some (f1, f2, f3) => [i, .fsub f1, .fexp2 f2, .fadd f3]
    | none => [i]
  | .error _ => []

/-- Whether the current trick must wait before its next instruction. -/
def Deal.blocked (d : Deal) : Bool :=
  match d.pending with
  | [] => false
  | l => match fusedInstrs d.body d.pos with
    | [] => true
    | is => is.any (fun i => l.any (fun p => p.blocks i))

/-- The environment and lanes of the agent that issues, if it is in the middle of a block and waits for nothing. -/
def issueCtx (s : State) : Option (Env × List LaneView) :=
  match s.cur with
  | .col c =>
    let x := s.cc c
    match x.run, x.body, x.wait with
    | .running, some _, none =>
      some (⟨.col c, 3, false, x.addr, x.addr + BitVec.ofNat 64 (8 + 4 * x.pos), x.snapMode, x.snapStat, x.priv⟩,
        [⟨0, 0, false, [], x.s, x.q, x.k, specialCol s c⟩])
    | _, _, _ => none
  | .deal n slot =>
    match s.deal? n slot with
    | none => none
    | some d =>
      match s.grp? n d.grp with
      | none => none
      | some x =>
        if d.done || d.blocked then none
        else some (d.envAt n slot d.pos, d.curLanes.map (laneView s n d x))

/-! ### Results of lanes -/

/-- What an instruction does for one lane: nothing; new registers and flags; a fault of its own; or a hit of a system lock,
which parks a thread with no record and makes a scalar context wait (R198). -/
inductive LRes where
  | idle
  | ok (lv : LaneView) (fl : FFlags)
  | fail (f : FaultInfo)
  | held (f : FaultInfo)

def LRes.isFail : LRes → Bool
  | .fail _ | .held _ => true
  | _ => false

/-- A fault record of an instruction of a block. -/
def Env.fault (e : Env) (cause code : Nat) : FaultInfo := ⟨cause, code, e.pc, 0, 0, 0, 0⟩

/-- An illegal instruction with its reason (R59). -/
def Env.illegal (e : Env) (reason : Nat) : FaultInfo := e.fault 1 reason

/-- Results and flags as a lane's outcome: a trap on an enabled flag writes nothing (R93, R139); a helper raises none (R35). -/
def flagged (e : Env) (lv out : LaneView) (fl : FFlags) : LRes :=
  if lv.helper then .ok out 0
  else if traps e.fmode fl then .fail { e.fault 7 0 with flags := fl }
  else .ok out fl

/-- A fault of a helper writes 0 to the destinations instead (R35). -/
def helperRes (r : Row) (f : Fields) (lv : LaneView) (res : LRes) : LRes :=
  if lv.helper then
    match res with
    | .fail _ | .held _ => .ok (zeroDest r lv f) 0
    | .ok out _ => .ok out 0
    | .idle => .idle
  else res

/-! ### Advancing -/

/-- The next trick, or the next instruction for the first trick (R32). -/
def Deal.advance (d : Deal) (words : Nat) : Deal :=
  match d.todo with
  | t :: r => { d with trick := t, todo := r }
  | [] => { d with trick := 0, todo := (List.range d.tricks.length).tail, pos := d.pos + words }

/-- The trick waits at the instruction; one for which the instruction has still to issue goes first (R33, R350). -/
def Deal.passOver (d : Deal) : Deal :=
  match d.todo with
  | t :: r => { d with trick := t, todo := r ++ [d.trick] }
  | [] => d

/-- Whether no thread is left in a deal. -/
def Deal.empty (d : Deal) : Bool := d.tricks.all (fun t => t.all (fun l => l.gone || l.helper.isSome))

def State.advance (s : State) (who : Issuer) (words : Nat) : State :=
  match who with
  | .col c => s.modCc c (fun x => { x with pos := x.pos + words })
  | .deal n slot =>
    match s.deal? n slot with
    | none => s
    | some d =>
      if d.empty then s.setDeal n slot (some { d.advance words with done := true, pend := [] })
      else s.setDeal n slot (some (d.advance words))

/-- The trick of an issuer waits (R33, R350). -/
def State.passOver (s : State) (who : Issuer) : State :=
  match who with
  | .col _ => s
  | .deal n slot => match s.deal? n slot with
    | some d => s.setDeal n slot (some d.passOver)
    | none => s

/-- Whether a fault of an instruction must wait: registers of its trick are pending, and a fault among them comes first. -/
def State.mustSettle (s : State) (who : Issuer) : Bool :=
  match who with
  | .col _ => false
  | .deal n slot => match s.deal? n slot with
    | some d => !(d.pending.isEmpty)
    | none => false

/-! ### Committing -/

/-- A column core takes a fault of its instruction as a trap (R58, R226). -/
def State.colFault (s : State) (c : Nat) (e : Env) (f : FaultInfo) : State :=
  let info : D64 := if f.cause = 7 then BitVec.ofNat 64 f.flags.toNat else f.vaddr
  s.takeTrap c f.cause f.code e.addr e.pc info

/-- A deal slot is free, and none of its tricks waits for a walk (R350). -/
def State.vacate (s : State) (n slot : Nat) : State := (s.setDeal n slot none).leaveAllWalks (.deal n slot) (coreColumn n)

/-- The scalar context of a group stops with a record of SRC 3 and gives up its slot (R11, R17). -/
def State.stopScalar (s : State) (n slot : Nat) (d : Deal) (f : FaultInfo) : State :=
  match s.grp? n d.grp with
  | none => s
  | some x =>
    let s1 := (s.vacate n slot).modGrp n d.grp (fun y =>
      { y with scalar := .stopped f d.addr, fstat := y.fstat ||| flagsWord d.acc })
    s1.postRec (coreColumn n) (faultRec n d.grp (s.ctxOf x) f 3 0 x.slotBase [] 0)

/-- The scalar context waits and gives up its slot (R258). -/
def State.scalarWait (s : State) (n slot : Nat) (d : Deal) (w : ScalarWait) : State :=
  (s.vacate n slot).modGrp n d.grp (fun y => { y with scalar := .waiting w d })

/-- Write a lane's registers back: a thread's v, k and q, or a helper's own. -/
def State.writeLane (s : State) (n slot g : Nat) (lv : LaneView) : State :=
  if lv.helper then
    match s.deal? n slot with
    | none => s
    | some d => s.setDeal n slot (some { d with tricks := d.tricks.map (fun t => t.map (fun l =>
        if l.tidx = lv.tidx && l.helper.isSome then { l with helper := some ⟨lv.v, lv.k, lv.q⟩ } else l)) })
  else s.modThr n g lv.tidx (fun t => { t with v := lv.v, k := lv.k, q := lv.q })

/-- Flags of a thread go to the last pending instruction of a trick in a list; none where there is none. -/
def flagLast (trick tidx : Nat) (fl : BitVec 5) : List Pend → Option (List Pend)
  | [] => none
  | p :: r => match flagLast trick tidx fl r with
    | some l => some (p :: l)
    | none => if p.trick = trick then some ({ p with flags := p.flags ++ [(tidx, fl)] } :: r) else none

/-- Flags a thread raises join the accumulator of its deal (R38), unless an earlier instruction of its trick is pending: they then stay
with that one. -/
def Deal.addFlags (d : Deal) (trick tidx : Nat) (fl : BitVec 5) : Deal :=
  if fl = 0 then d
  else match flagLast trick tidx fl d.pend with
    | some l => { d with pend := l }
    | none => { d with acc := d.acc ||| fl }

/-- A thread of the current trick of a deal raises flags. -/
def State.addFlags (s : State) (n slot tidx : Nat) (fl : FFlags) : State :=
  match s.deal? n slot with
  | some d => s.setDeal n slot (some (d.addFlags d.trick tidx fl))
  | none => s

/-- Remove the lanes of units from every trick of a deal. -/
def Deal.dropUnits (d : Deal) (size : Nat) (units : List Nat) : Deal :=
  { d with tricks := d.tricks.map (fun t => t.map (fun l => if units.contains (l.tidx / size) then { l with gone := true } else l)) }

/-- The ASID under which a group's accesses translate now. -/
def State.asidAt (s : State) (n g : Nat) : Nat := match s.grp? n g with | some x => s.asidOf x | none => 0

/-- Park the faulted threads of a trick with the members of their units (R168, R169, R263) and post the records of causes that go
to the column core (R137, R238). A cause for the trap-entry block is delivered when the deal ends (R264, R265). -/
def State.parkLanes (s : State) (n slot g : Nat) (e : Env) (size : Nat) (res : List (LaneView × LRes)) : State :=
  let failed := res.filter (fun p => p.2.isFail && !p.1.helper)
  let units := (failed.map (fun p => p.1.tidx / size)).eraseDups
  if units.isEmpty then s
  else
    let hold : ParkKind := if size = 32 then .crewHold else .quadHold
    let hit := res.filter (fun p => !p.1.helper && units.contains (p.1.tidx / size))
    let s1 := hit.foldl (fun t p => match p.2 with
      | .fail f => t.parkThread n g p.1.tidx .own f size p.1.pos
      | .held f => t.parkThread n g p.1.tidx (.sysLock (t.asidAt n g)) f size p.1.pos
      | _ => t.parkThread n g p.1.tidx hold (e.fault 0 0) size p.1.pos) s
    let s2 := match s1.deal? n slot with
      | some d => s1.setDeal n slot (some (d.dropUnits size units))
      | none => s1
    let faults := failed.filterMap (fun p => match p.2 with | .fail f => some (p.1.tidx, f) | _ => none)
    let s3 := match s2.grp? n g with
      | some x => s2.postFaults n g x (faults.filter (fun p => !(isUserCause p.2.cause)))
      | none => s2
    match s3.grp? n g with
    | some x => if s3.escalates x e.kind then
        (faults.filter (fun p => isUserCause p.2.cause)).foldl (fun t p => t.escalate n g x p.1 p.2) s3 else s3
    | none => s3

/-- The size of the unit that faults and parks together in a block (R168, R169). -/
def Env.unit (e : Env) : Nat := if e.kind = 1 then 32 else if e.qh then 4 else 1

/-- Write the results of a trick of threads; units with a fault park with nothing written. -/
def State.commitThreads (s : State) (n slot : Nat) (d : Deal) (e : Env) (res : List (LaneView × LRes)) : State :=
  let size := e.unit
  let units := ((res.filter (fun p => p.2.isFail && !p.1.helper)).map (fun p => p.1.tidx / size)).eraseDups
  let s1 := res.foldl (fun t p =>
    if units.contains (p.1.tidx / size) then t
    else match p.2 with
      | .ok lv fl => (t.writeLane n slot d.grp lv).addFlags n slot lv.tidx (if lv.helper then 0 else fl)
      | _ => t) s
  s1.parkLanes n slot d.grp e size res

/-- Commit the results of the lanes of an instruction of `words` words, and go on to the next trick or instruction. A fault waits for
the pending registers of its trick. -/
def State.commit (s : State) (e : Env) (res : List (LaneView × LRes)) (words : Nat) : State :=
  match e.who with
  | .col c =>
    match res with
    | (_, .fail f) :: _ => s.colFault c e f
    | (_, .held _) :: _ => s
    | (_, .ok lv fl) :: _ =>
      s.modCc c (fun x => { x with s := lv.s, q := lv.q, k := lv.k, acc := x.acc ||| fl, pos := x.pos + words })
    | _ => s.advance (.col c) words
  | .deal n slot =>
    match s.deal? n slot with
    | none => s
    | some d =>
      if !(d.pending.isEmpty) && res.any (fun p => p.2.isFail && !p.1.helper) then s.passOver e.who
      else if e.kind = 2 then
        match res with
        | (_, .fail f) :: _ => s.stopScalar n slot d f
        | (_, .held f) :: _ => s.scalarWait n slot d (.sysLock f.vaddr (s.asidAt n d.grp))
        | (_, .ok lv fl) :: _ =>
          ((s.modGrp n d.grp (fun x => { x with s := lv.s, q := lv.q, k := lv.k })).addFlags n slot 0 fl).advance e.who words
        | _ => s.advance e.who words
      else (s.commitThreads n slot d e res).advance e.who words

/-- The words of a long form. -/
def wordsOf (f : Fields) : Nat := if f.lit.isSome then 3 else 2

/-- What a row means for one active lane, given every occupied lane of the trick. -/
abbrev LaneFn := Env → List LaneView → LaneView → LRes

/-- The results of every lane of a legal word: an inactive lane does nothing (R50). -/
def laneResults (r : Row) (f : Fields) (fn : LaneFn) (e : Env) (ls : List LaneView) : List (LaneView × LRes) :=
  ls.map (fun lv => (lv, if laneActive f lv then helperRes r f lv (fn e ls lv) else .idle))

/-- Run an instruction lane by lane: nothing when no lane is active (R58); the lowest reason for every active lane when the
word is illegal (R59); otherwise the meaning of each active lane. -/
def runLanes (r : Row) (f : Fields) (fn : LaneFn) (s : State) : State :=
  match issueCtx s with
  | none => s
  | some (e, ls) =>
    if !(ls.any (laneActive f)) then s.advance e.who (wordsOf f)
    else match illegal r e f with
      | some reason => s.commit e (laneResults r f (fun e _ _ => .fail (e.illegal reason)) e ls) (wordsOf f)
      | none => s.commit e (laneResults r f fn e ls) (wordsOf f)

/-- What an opcode means, given its row and its fields. -/
abbrev RowFn := Row → Fields → LaneFn

/-- Run an instruction that has a row and fields. -/
def runRow (i : Instr) (fn : RowFn) (s : State) : State :=
  match rowOf i, fieldsOf i with
  | some r, some f => runLanes r f (fn r f) s
  | _, _ => s

/-- Run a short form, which every dealt lane executes (R48). -/
def runShort (op : Nat) (f : ShortFields) (fn : LaneView → LaneView) (s : State) : State :=
  match issueCtx s with
  | none => s
  | some (e, ls) =>
    match illegalShort op e f with
    | some reason => s.commit e (ls.map (fun lv => (lv, if lv.helper then .ok (if op = 0 then lv else lv.write f.dS f.d.toNat 0) 0 else .fail (e.illegal reason)))) 1
    | none => s.commit e (ls.map (fun lv => (lv, .ok (fn lv) 0))) 1

end Sys2Proof.Machine
end

