-- ==== Sys2Proof/Machine/MemAccess.lean ====
section
/-! DEFINITION. One access of one lane: its address, the checks of R177, the sectors it reaches here or in another package, and
the result when every part has arrived (R172 to R186, R304, R307, R308, R373 to R376). -/

namespace Sys2Proof

/-- A request, not a response. -/
def Msg.isRequest (m : Msg) : Bool :=
  match m.body with
  | .read _ _ _ _ _ | .write _ _ _ _ _ _ | .atomic _ _ _ _ _ => true
  | _ => false

end Sys2Proof

namespace Sys2Proof.Machine

/-! ### The issuing agent's side of memory -/

/-- The column, L1 and agent of an issuer, and how its accesses are translated. -/
structure MemCtx where
  unit : MemUnit
  xl : Xlate
  asid : Nat
  deriving DecidableEq, Repr

/-- The memory side of the agent that issues. -/
def State.memCtx (s : State) (e : Env) : MemCtx :=
  match e.who with
  | .col c => ⟨⟨c, 12, .col c⟩, s.colXlate c e.priv, (s.cc c).asid.toNat % 65536⟩
  | .deal n slot =>
    match (s.deal? n slot).bind (fun d => (s.grp? n d.grp).map (fun x => (d.grp, x))) with
    | some (g, x) => ⟨⟨coreColumn n, coreInCol n, .grp n g⟩, s.dataXlate n x, s.asidOf x⟩
    | none => ⟨⟨coreColumn n, coreInCol n, .grp n 0⟩, .physical (coreColumn n), 0⟩

/-- The group that issues, with its core and index. -/
def State.issueGroup (s : State) (e : Env) : Option (Nat × Nat × Group) :=
  match e.who with
  | .col _ => none
  | .deal n slot => (s.deal? n slot).bind (fun d => (s.grp? n d.grp).map (fun x => (n, d.grp, x)))

/-! ### Addresses (R173) -/

/-- The effective address of a global form. -/
def globalEa (ls : List LaneView) (lv : LaneView) (f : Fields) : Nat :=
  (srcA64 ls lv f + BitVec.ofInt 64 (memOffset f)).toNat
/-- The effective address of a scratch form. -/
def scratchEa (ls : List LaneView) (lv : LaneView) (f : Fields) : Nat :=
  (srcA ls lv f + BitVec.ofInt 32 (memOffset f)).toNat

/-! ### Scratch (R173, R186, R189) -/

/-- Where the scratch of a member of a gang is: a resident group, or a retired member whose storage is kept. -/
inductive ScratchAt where
  | grp (core g : Nat)
  | orphan (core : Nat) (inst gflat : Nat)
  deriving DecidableEq, Repr

/-- The scratch of a group of an instance by its flat index. -/
def State.findScratch (s : State) (inst gflat : Nat) : Option ScratchAt :=
  s.cores.findSome? (fun e =>
    match e.2.groups.find? (fun x => x.2.inst == inst && x.2.gflat == gflat) with
    | some x => some (.grp e.1 x.1)
    | none => if e.2.orphans.any (fun o => o.1 == inst && o.2.1 == gflat) then some (.orphan e.1 inst gflat) else none)

/-- The scratch of a gang member of a group. -/
def State.gangScratch (s : State) (x : Group) (rank : Nat) : Option ScratchAt :=
  let r := s.recOf x
  if rank < r.gang then s.findScratch x.inst (x.gflat / r.gang * r.gang + rank) else none

/-- The scratch cells at a place. -/
def State.scratchCells (s : State) : ScratchAt → List Host.Cell
  | .grp n g => match s.grp? n g with | some x => x.scratch | none => []
  | .orphan n i f => match (s.core n).orphans.find? (fun o => o.1 == i && o.2.1 == f) with | some o => o.2.2 | none => []
/-- n bytes of scratch; a byte nothing has written reads 0 (log 6). -/
def State.scratchRead (s : State) (p : ScratchAt) (off n : Nat) : List Byte :=
  let m := s.scratchCells p
  (List.range n).map (fun i => mapGet m (off + i) unwritten)
/-- Bytes written into cells. -/
def putCells (m : List Host.Cell) (off : Nat) : List Byte → List Host.Cell
  | [] => m
  | b :: r => putCells (mapPut m off b unwritten) (off + 1) r
/-- Write scratch. -/
def State.scratchWrite (s : State) (p : ScratchAt) (off : Nat) (bs : List Byte) : State :=
  match p with
  | .grp n g => s.modGrp n g (fun x => { x with scratch := putCells x.scratch off bs })
  | .orphan n i f => s.modCore n (fun y => { y with orphans := y.orphans.map (fun o =>
      if o.1 = i && o.2.1 = f then (o.1, o.2.1, putCells o.2.2 off bs) else o) })

/-- The place and offset a scratch form reaches, none out of bounds (step 1). `cluster`: the address carries a rank. -/
def State.scratchTarget (s : State) (e : Env) (cluster : Bool) (ea n : Nat) : Option (ScratchAt × Nat) :=
  match s.issueGroup e with
  | none => none
  | some (c, g, x) =>
    let r := s.recOf x
    if cluster then
      let rank := ea / 2 ^ 24
      let off := ea % 2 ^ 24
      if rank < r.gang && off + n ≤ r.scratchBytes then
        (s.findScratch x.inst (x.gflat / r.gang * r.gang + rank)).map (fun p => (p, off))
      else none
    else if ea + n ≤ r.scratchBytes then some (.grp c g, ea) else none

/-! ### Checks (R177, R178) -/

/-- The part of an access on one page: its address, its bytes, the place it reaches, and whether the page is cacheable-remote. -/
structure Seg where
  va : Nat
  len : Nat
  place : Nat
  cr : Bool
  deriving DecidableEq, Repr

/-- What the checks of an access come to: its segments; a fault; a hit of a system lock; or walks it waits for. -/
inductive AccRes where
  | segs (l : List Seg)
  | fail (f : FaultInfo)
  | held (f : FaultInfo)
  | walking (vas : List Nat)
  deriving DecidableEq, Repr

/-- An access cut at 64 KiB boundaries. -/
def pageCuts (ea n : Nat) : List (Nat × Nat) :=
  let k := 2 ^ 16 - ea % 2 ^ 16
  if n ≤ k then [(ea, n)] else [(ea, k), ((ea + k) % 2 ^ 64, n - k)]

/-- A record of an access: its address and whether it writes (R239). -/
def accFault (e : Env) (cause code va : Nat) (wr : Bool) : FaultInfo :=
  { e.fault cause code with vaddr := BitVec.ofNat 64 va, pos := if wr then 128 else 0 }

/-- Whether an entry meets a range under an ASID (R304). -/
def LockEntry.meets (l : LockEntry) (asid first last : Nat) : Bool := l.asid = asid && l.first ≤ last && first ≤ l.last

/-- Steps 6 and 7: the range-lock table of the column (R198, R307, R308). -/
def State.lockHit (s : State) (m : MemCtx) (segs : List Seg) (ea n : Nat) (kind : AccKind) : Option AccFail :=
  let locks := (s.col m.unit.col).locks
  match m.xl with
  | .physical _ =>
    if segs.any (fun g => (List.range g.len).any (fun i => s.frameLocked m.unit.col (g.place + i))) then some .sysLock else none
  | .tables _ _ _ _ =>
    let hit := locks.filter (fun l => l.meets m.asid (ea / 32) ((ea + n - 1) / 32))
    if hit.any (fun l => l.sys) then some .sysLock
    else if hit.any (fun l => l.dst || kind != .load) then some (.cause 6 0)
    else none

/-- A store or atomic to the instance copies of a launch window, of whatever package, is forbidden (step 5, R323). -/
def copyStore (kind : AccKind) (k n : Nat) : Bool :=
  (kind = .store || kind = .atomic) && isWindow (placeAddr k) && windowReadOnly (windowAt (placeAddr k)).2.2 n

/-- Whether a local atomic would meet poison at the point it is performed (R409). -/
def State.atomPoisoned (s : State) (u : MemUnit) (k scope : Nat) : Bool :=
  if isWindow k then false
  else
    let sec := k / 32
    let sc := s.atomScope (sec / 4) scope
    ((s.atomOpen u sec sc).atomView u sec sc).2

/-- Whether an access to a local place meets poison (step 3, R347 CODE 3, R409); a remote one learns it from the answer. -/
def State.accPoison (s : State) (u : MemUnit) (scope : Option Nat) (kind : AccKind) (n k : Nat) : Bool :=
  if isRemote k then false
  else match kind with
    | .load => (match (s.loadBytes u k n scope true).1 with | .poisoned => true | .bytes _ => false)
    | .atomic => s.atomPoisoned u k (scope.getD 0)
    | .store | .fetch => false

/-- Steps 3 to 7 of a global access of a scope (R177, R178): pages by rising address, then locks. Of an access whose bytes run past
2^64 − 1, on which R178 does not say which page has the lower address, the model takes the page of the effective address first (DESIGN
CHOICE, log 46). -/
def State.checkGlobal (s : State) (m : MemCtx) (e : Env) (ea n : Nat) (kind : AccKind) (scope : Option Nat) : AccRes :=
  let wr := kind != .load
  let cuts := pageCuts ea n
  let pages := cuts.map (fun c => (c, s.pageOf (s.trickOf e.who) m.xl c.1 kind (s.accPoison m.unit scope kind c.2)))
  let walks := pages.filterMap (fun p => match p.2 with | .walking => some p.1.1 | _ => none)
  if !(walks.isEmpty) then .walking walks
  else
    let bad := pages.findSome? (fun p => match p.2 with
      | .fail (.cause c k) => some (accFault e c k p.1.1 wr)
      | .place k _ => if copyStore kind k p.1.2 then some (accFault e 5 0 p.1.1 wr) else none
      | _ => none)
    match bad with
    | some f => .fail f
    | none =>
      let segs := pages.filterMap (fun p => match p.2 with | .place k cr => some ⟨p.1.1, p.1.2, k, cr⟩ | _ => none)
      match s.lockHit m segs ea n kind with
      | some .sysLock => .held (accFault e 0 0 ea wr)
      | some (.cause c k) => .fail (accFault e c k ea wr)
      | none => .segs segs

/-- Steps 2 to 7 of a global form. -/
def State.checkForm (s : State) (m : MemCtx) (e : Env) (ea n : Nat) (kind : AccKind) (scope : Option Nat) (aligned : Bool) : AccRes :=
  if aligned && ea % n ≠ 0 then .fail (accFault e 4 0 ea (kind != .load)) else s.checkGlobal m e ea n kind scope

/-! ### Requests to another package (R366, R373) -/

/-- Whether an agent belongs to a cluster. -/
def Agent.cluster : Agent → Nat
  | .grp n _ => clusterOf (coreColumn n)
  | .col c => clusterOf c

/-- Send a request for bytes of a remote place: it waits in the package's queue until it may leave (R376). -/
def State.sendRequest (s : State) (ag : Agent) (k len : Nat) (body : Payload) (posted : Bool) : Nat × State :=
  let tag := s.fabric.nextTag
  (tag, s.modFab (fun f => { f with
    nextTag := tag + 1
    outq := f.outq ++ [⟨s.pkgId, placePkg k, tag, body⟩]
    live := f.live ++ [⟨tag, ag, placePkg k, placeAddr k / 32, (placeAddr k + len - 1) / 32, posted⟩] }))

/-- The tag is retired here: its retirement is to be sent, and no copy of its request that still waits to leave is sent (R366, R380). -/
def State.retireTag (s : State) (dst tag : Nat) : State :=
  s.modFab (fun f => { f with
    outq := f.outq.filter (fun m => !(m.isRequest && m.src == s.pkgId && m.tag == tag))
    live := f.live.filter (fun l => l.tag != tag)
    retire := if f.retire.any (fun r => r.1 == dst) then f.retire.map (fun r => if r.1 = dst then (r.1, r.2.1, r.2.2 ++ [tag]) else r)
      else f.retire ++ [(dst, s.tick, [tag])] })

/-- Requests that have not left are not made. -/
def State.unsend (s : State) (tags : List Nat) : State :=
  (s.fabric.outq.filter (fun m => m.isRequest && m.src == s.pkgId && tags.contains m.tag)).foldl (fun t m => t.retireTag m.dst m.tag) s

/-- An entry of the calendar in force: the peer of a port in a slot, if the position is valid and its plane is not lost (R360, R412). -/
def State.calPeer (s : State) (p slot : Nat) : Option Nat :=
  let e := (mapGet s.fabric.cal (8 * p + slot) 0).toNat
  let lost := match mapGet? s.fabric.ports p with | some x => x.lost | none => false
  if bitOf e 15 && !lost then some (e % 1024) else none

/-- Whether some valid position leads to a package, directly or through a relay (R374). Where two other packages meet stands in their
calendars, not in this one (log 20). -/
def State.hasRoute (s : State) (dst : Nat) : Bool :=
  s.fabric.loaded && (List.range 1024).any (fun i => match s.calPeer (i / 8) (i % 8) with
    | some w => w == dst || (w != s.pkgId && decide (Config.meetSlot w dst < 8))
    | none => false)

/-- Whether an agent has posted writes that are not yet acknowledged (R291, R377). -/
def State.postedPending (s : State) (ag : Agent) : Bool := s.fabric.live.any (fun l => l.posted && l.agent == ag)

/-- Whether a write or atomic of a cluster to a remote line is in flight. -/
def State.lineBusy (s : State) (cl pkg line : Nat) : Bool :=
  s.fabric.live.any (fun l => l.agent.cluster == cl && l.pkg == pkg && l.first / 4 ≤ line && line ≤ l.last / 4)

/-- Whether an earlier access of some lane of a pending instruction still waits for bytes of a segment's sectors. -/
def State.segAwaited (s : State) (l : List Pend) (lane : Nat) (g : Seg) : Bool :=
  l.any (fun p => p.wait.accs.any (fun a => a.lane == lane && a.parts.any (fun q => q.got.isNone && s.fabric.live.any (fun t =>
    t.tag == q.tag && t.pkg == placePkg g.place && decide (t.first ≤ (placeAddr g.place + g.len - 1) / 32) && decide (placeAddr g.place / 32 ≤ t.last)))))

/-- A write to a remote line is under way in a cluster: line fills in flight there are not kept (R277, R184). -/
def State.spoilLine (s : State) (cl line : Nat) : State := s.spoilFills (clusterCols cl) (· == line)

/-- Drop a remote line from the slices and L1 of a cluster. -/
def State.dropRemote (s : State) (c u line : Nat) : State :=
  (List.range 4).foldl (fun t i =>
    let sec := 4 * line + i
    (clusterCols (clusterOf c)).foldl (fun t2 c2 => (t2.revoke c2 sec).dropSlice c2 sec) (t.dropL1 c u sec)) s

/-! ### Reading -/

/-- Bytes cut at multiples of a block. -/
def blockCuts (b k n : Nat) : List (Nat × Nat) :=
  let first := b - k % b
  if n ≤ first then [(k, n)]
  else (k, first) :: (List.range ((n - first + b - 1) / b)).map (fun i => (k + first + b * i, min b (n - first - b * i)))

/-- The bytes of a cacheable-remote line that a load may take from a local copy, or poison met in the slice's (R277, R282, R409). -/
def State.remoteCopy (s : State) (u : MemUnit) (k n : Nat) (scope : Option Nat) : Option (ReadRes × State) :=
  let useL1 := match scope with | none => true | some x => x ≤ 1
  let useSlice := match scope with | none => true | some x => x < 6
  (pieces k (List.replicate n (0 : Byte))).foldl (fun acc p =>
    match acc with
    | some (.bytes done, t) =>
      match (if useL1 then mapGet? (t.l1 u.col u.unit) p.1 else none) with
      | some l => some (.bytes (done ++ sectorBytes l.data p.2.1 p.2.2.length), t)
      | none =>
        match (if useSlice then t.slice? u.col p.1 else none) with
        | some x =>
          if x.valid != fullMask then none
          else if x.poison then some (.poisoned, t)
          else some (.bytes (done ++ sectorBytes x.data p.2.1 p.2.2.length), if useL1 then t.fillL1 u.col u.unit p.1 x.data else t)
        | none => none
    | other => other) (some (.bytes [], s))

/-- A read request of one instruction of one trick: whether it reads a whole line, its first place, its tag. -/
structure ReadReq where
  line : Bool
  base : Nat
  tag : Nat
  deriving DecidableEq, Repr

/-- What the loads of an instruction have come to so far: the read requests made, and the state. -/
abbrev ReadAcc := List ReadReq × State

/-- The bytes of remote pages that are not cacheable which the lanes of an instruction read, by 256-byte block: first place and length. -/
def remoteSpans (segs : List Seg) : List (Nat × Nat) :=
  let cuts := (segs.filter (fun g => isRemote g.place && !g.cr)).flatMap (fun g => blockCuts 256 g.place g.len)
  ((cuts.map (fun c => c.1 / 256)).eraseDups).filterMap (fun b =>
    let mine := cuts.filter (fun c => c.1 / 256 == b)
    (minOf (fun c => c.1) mine).map (fun lo => (lo, (mine.map (fun c => c.1 + c.2)).foldl max 0 - lo)))

/-- One read request for all lanes: made once, then shared (R385). -/
def ReadAcc.ask (a : ReadAcc) (ag : Agent) (line : Bool) (base len order : Nat) (scope : Option Nat) : Nat × ReadAcc :=
  match a.1.find? (fun q => q.line == line && q.base == base) with
  | some q => (q.tag, a)
  | none =>
    let q := a.2.sendRequest ag base len (.read (placeAddr base) len order (scope.getD 0) false) false
    (q.1, (a.1 ++ [⟨line, base, q.1⟩], q.2))

/-- The parts of a load of one segment: bytes that are here, or that a request will bring. `spans`: what the instruction reads of other
packages. -/
def ReadAcc.loadSeg (a : ReadAcc) (u : MemUnit) (spans : List (Nat × Nat)) (g : Seg) (order : Nat) (scope : Option Nat) (alloc : Bool) :
    List RPart × ReadAcc :=
  if !(isRemote g.place) then
    match a.2.loadBytes u g.place g.len scope alloc with
    | (.bytes bs, t) => ([⟨0, 0, g.len, none, some (.bytes bs [])⟩], (a.1, t))
    | (.poisoned, t) => ([⟨0, 0, g.len, none, some .poisoned⟩], (a.1, t))
  else if g.cr then
    (blockCuts 128 g.place g.len).foldl (fun acc p =>
      match acc.2.2.remoteCopy u p.1 p.2 scope with
      | some (.bytes bs, t) => (acc.1 ++ [⟨0, 0, p.2, none, some (.bytes bs [])⟩], (acc.2.1, t))
      | some (.poisoned, t) => (acc.1 ++ [⟨0, 0, p.2, none, some .poisoned⟩], (acc.2.1, t))
      | none =>
        let line := p.1 / 128
        let busy := acc.2.2.lineBusy (clusterOf u.col) (placePkg p.1) (placeAddr p.1 / 128)
        let q := acc.2.ask u.who true (128 * line) 128 order scope
        (acc.1 ++ [⟨q.1, p.1 % 128, p.2, if busy then none else some line, none⟩], q.2)) ([], a)
  else
    (blockCuts 256 g.place g.len).foldl (fun acc p =>
      let sp := (spans.find? (fun x => x.1 / 256 == p.1 / 256)).getD p
      let q := acc.2.ask u.who false sp.1 sp.2 order scope
      (acc.1 ++ [⟨q.1, p.1 - sp.1, p.2, none, none⟩], q.2)) ([], a)

/-- The parts of a whole load of one lane. -/
def ReadAcc.loadSegs (a : ReadAcc) (u : MemUnit) (spans : List (Nat × Nat)) (segs : List Seg) (order : Nat) (scope : Option Nat) (alloc : Bool) :
    List RPart × ReadAcc :=
  segs.foldl (fun acc g => let r := acc.2.loadSeg u spans g order scope alloc; (acc.1 ++ r.1, r.2)) ([], a)

/-- The parts of a load that one lane makes by itself. -/
def State.loadSegs (s : State) (u : MemUnit) (segs : List Seg) (order : Nat) (scope : Option Nat) (alloc : Bool) : List RPart × State :=
  let r := ReadAcc.loadSegs ([], s) u (remoteSpans segs) segs order scope alloc
  (r.1, r.2.2)

/-! ### Writing -/

/-- Bytes to be written at places by one instruction of one trick: later lanes win (R183). -/
abbrev Writes := List (Nat × Byte)

/-- Add a lane's bytes. -/
def addWrite (w : Writes) (segs : List Seg) (bs : List Byte) : Writes :=
  (segs.foldl (fun acc g =>
    ((acc.2.take g.len).zipIdx.foldl (fun m b => mapSet m (g.place + b.2) b.1) acc.1, acc.2.drop g.len)) (w, bs)).1

/-- The sectors of the writes to local places: sector, bytes and mask. -/
def sectorsOf (w : Writes) : List (Nat × BitVec 256 × BitVec 32) :=
  (((w.map (fun e => e.1 / 32)).eraseDups)).map (fun sec =>
    let m := w.filter (fun e => e.1 / 32 == sec)
    let data : BitVec 256 := m.foldl (fun d e => d ||| ((e.2.zeroExtend 256 : BitVec 256) <<< (8 * (e.1 % 32)))) 0#256
    let mask : BitVec 32 := m.foldl (fun k e => k ||| (1#32 <<< (e.1 % 32))) 0#32
    (sec, data, mask))

/-- The writes by 256-byte block: the first place written, and from there on the byte or none where nothing is written (R385). -/
def writeBlocks (w : Writes) : List (Nat × List (Option Byte)) :=
  ((w.map (fun e => e.1 / 256)).eraseDups).filterMap (fun b =>
    let mine := w.filter (fun e => e.1 / 256 == b)
    (minOf (fun e => e.1) mine).map (fun lo =>
      (lo, (List.range ((mine.map (fun e => e.1 + 1)).foldl max 0 - lo)).map (fun i => mapGet? mine (lo + i)))))

/-- The order and the scope a write of another package carries: those of its release, where it is one (R289, R373). -/
def sentOrder (order : Nat) (scope release : Option Nat) : Nat × Nat :=
  match release with
  | some x => (max order 3, x)
  | none => (order, scope.getD 0)

/-- Send the posted writes of an instruction, one for a block; each goes out as a release when a byte of it is part of one. -/
def State.sendWrites (s : State) (ag : Agent) (w : Writes) (order : Nat) (scope : Option Nat) (release : Nat → Option Nat) (bulk : Bool) : State :=
  (writeBlocks w).foldl (fun t p =>
    let rel := (List.range ((p.2.length + 31 + p.1 % 32) / 32)).foldl (fun r i => match r, release (p.1 / 32 + i) with
      | some a, some b => some (max a b)
      | none, b => b
      | a, none => a) none
    let o := sentOrder order scope rel
    (t.sendRequest ag p.1 p.2.length (.write (placeAddr p.1) p.2 o.1 o.2 bulk []) true).2) s

/-- The bytes one instruction of one trick stores (R181 to R183, R373): pieces to local sectors, posted writes to remote ones. `release`:
the scope of the release that a store to a sector is. -/
def State.storeWrites (s : State) (u : MemUnit) (w : Writes) (order : Nat) (scope : Option Nat) (release : Nat → Option Nat) : State :=
  let s1 := (sectorsOf (w.filter (fun e => !(isRemote e.1)))).foldl (fun t p => t.storePlace u p.1 p.2.1 p.2.2 scope (release p.1)) s
  let far := w.filter (fun e => isRemote e.1)
  let s2 := (sectorsOf far).foldl (fun t p =>
    ((t.spoilLine (clusterOf u.col) (p.1 / 4)).l1Store u.col u.unit p.1 p.2.1 p.2.2).remoteCopyStore u.col (some u.unit) p.1 p.2.1 p.2.2) s1
  s2.sendWrites u.who far order scope release false

/-! ### Results of loads (R174) -/

/-- The bytes of parts, none while some have not arrived. -/
inductive Gathered where
  | waiting
  | bytes (bs : List Byte)
  | poisoned (at_ : Nat)
  | failed (at_ : Nat)
  deriving DecidableEq, Repr

/-- Put the parts of an access together; the first that failed decides, at its offset in the access. -/
def gather (off : Nat) : List RPart → Gathered
  | [] => .bytes []
  | p :: rest =>
    match p.got with
    | none => .waiting
    | some d =>
      match d, gather (off + p.len) rest with
      | _, .waiting => .waiting
      | .poisoned, _ => .poisoned off
      | .failed, _ => .failed off
      | .bytes bs bad, more =>
        if bad.any (fun i => decide (p.off ≤ i) && decide (i < p.off + p.len)) then .poisoned off
        else match more with
          | .bytes rest => .bytes ((bs.drop p.off).take p.len ++ rest)
          | other => other

/-- Bytes of a size code (R174). -/
def sizeBytes (m : Nat) : Nat := if m < 2 then 1 else if m < 4 then 2 else if m = 4 then 4 else 8
/-- The word a size code makes of a value. -/
def loadWord (m v : Nat) : W :=
  if m = 1 then (BitVec.ofNat 8 v).signExtend 32 else if m = 3 then (BitVec.ofNat 16 v).signExtend 32 else BitVec.ofNat 32 v

/-- Bytes an atomic operation takes (R187). -/
def atomBytes (m : Nat) : Nat := if m = 10 || m = 11 then 8 else 4
/-- What an atomic operation stores (R187). -/
def atomNew (m old b : Nat) : Nat :=
  let x := BitVec.ofNat 32 old
  let y := BitVec.ofNat 32 b
  match m with
  | 0 => (x + y).toNat
  | 1 => (faddPlain x y).toNat
  | 2 => (if x.toInt ≤ y.toInt then x else y).toNat
  | 3 => (if x.toInt ≤ y.toInt then y else x).toNat
  | 4 => (if x.toNat ≤ y.toNat then x else y).toNat
  | 5 => (if x.toNat ≤ y.toNat then y else x).toNat
  | 6 => (x &&& y).toNat
  | 7 => (x ||| y).toNat
  | 8 => (x ^^^ y).toNat
  | 9 => y.toNat
  | 10 => (old + b) % 2 ^ 64
  | _ => b % 2 ^ 64

/-- Write the value of a completed access into a lane. -/
def RAccess.deliver (a : RAccess) (bs : List Byte) (lv : LaneView) : LaneView :=
  let v := leNat bs
  let put := fun (n x : Nat) => if n = 8 then lv.write64 a.dX a.dIdx (BitVec.ofNat 64 x) else lv.write a.dX a.dIdx (BitVec.ofNat 32 x)
  match a.use with
  | .load m => if m = 5 then lv.write64 a.dX a.dIdx (BitVec.ofNat 64 v) else lv.write a.dX a.dIdx (loadWord m v)
  | .fetched n => put n v
  | .meld m pre => put (atomBytes m) (match pre with | some p => atomNew m v p.toNat | none => v)
  | .descriptor _ => lv

/-- Whether an access writes memory. -/
def RAccess.writes (a : RAccess) : Bool :=
  match a.use with
  | .load _ | .descriptor _ => false
  | _ => true

/-- The result of a completed access for its lane (R374, R409); none while it waits. -/
def RAccess.result (a : RAccess) (e : Env) (lv : LaneView) : Option LRes :=
  let bad := fun (cause code at_ : Nat) => LRes.fail (accFault e cause code (a.vaddr.toNat + at_) a.writes)
  match gather 0 a.parts with
  | .waiting => none
  | .bytes bs => some (.ok (a.deliver bs lv) 0)
  | .poisoned o => some (bad 16 3 o)
  | .failed o => some (bad 5 0 o)

/-- Bytes an atomic of a request takes (R372). -/
def atomWidth : AtomKind → Nat
  | .rmw m => atomBytes m
  | .cas n => n
/-- What an atomic of a kind stores for an old value, none where a comparison fails (R187, R188). -/
def atomResult (kind : AtomKind) (operand compare : D64) (old : Nat) : Option Nat :=
  match kind with
  | .rmw m => some (atomNew m old operand.toNat)
  | .cas _ => if old = compare.toNat then some operand.toNat else none

/-- Whether every part has arrived. -/
def RAccess.arrived (a : RAccess) : Bool := a.parts.all (fun p => p.got.isSome)

end Sys2Proof.Machine
end

