-- ==== Sys2Proof/Machine/Locks.lean ====
section
/-! DEFINITION. The range-lock tables (R198, R304 to R311): conflicts, requests, the waiting order, grants and releases. -/

namespace Sys2Proof.Machine

/-! ### Commands by identifier -/

/-- The unfinished command of a core with an identifier. -/
def State.cmd? (s : State) (n id : Nat) : Option Cmd :=
  ((s.core n).copyq ++ (s.core n).matrix.cmds).find? (fun c => c.id == id)

/-- Change a command in whichever queue holds it. -/
def State.modCmd (s : State) (n id : Nat) (f : Cmd → Cmd) : State :=
  let up := fun (l : List Cmd) => l.map (fun c => if c.id = id then f c else c)
  s.modCore n (fun x => { x with copyq := up x.copyq, matrix := { x.matrix with cmds := up x.matrix.cmds } })

/-- Remove a command: its queue entry and its hold end (R200, R204). -/
def State.dropCmd (s : State) (n id : Nat) : State :=
  let out := fun (l : List Cmd) => l.filter (fun c => c.id != id)
  s.modCore n (fun x => { x with copyq := out x.copyq, matrix := { x.matrix with cmds := out x.matrix.cmds } })

/-! ### Conflicts and the waiting order (R306) -/

/-- Two entries conflict: one ASID, intersecting ranges, and a destination or system entry among them. -/
def LockEntry.conflicts (a b : LockEntry) : Bool :=
  a.asid = b.asid && a.first ≤ b.last && b.first ≤ a.last && (a.dst || b.dst || a.sys || b.sys)

/-- Two lists of entries conflict. -/
def entriesConflict (a b : List LockEntry) : Bool := a.any (fun x => b.any (fun y => x.conflicts y))

/-- The columns whose tables an owner's entries stand in (R304). -/
def LockOwner.columns : LockOwner → List Nat
  | .cmd n _ => [coreColumn n]
  | .swap _ _ => allCols

/-- Lock entries of a column slice (R304). -/
def lockCapacity : Nat := 64

/-- Whether a table can grant a request, with the requests that wait there before it (R306). -/
def Column.grants (y : Column) (q : LockReq) : Bool :=
  let before := y.lockWait.takeWhile (fun r => r.owner != q.owner)
  decide (y.locks.length + q.entries.length ≤ lockCapacity) && !(entriesConflict q.entries y.locks)
    && before.all (fun r => !(entriesConflict q.entries r.entries) && decide (y.locks.length + r.entries.length ≤ lockCapacity))

/-- Whether every slice a request needs grants it. -/
def State.grantable (s : State) (q : LockReq) : Bool := q.owner.columns.all (fun c => (s.col c).grants q)

/-! ### Grants -/

/-- The physical frames of a locked page, read from its leaf when the lock is taken (R304). -/
def State.lockFrames (s : State) (c root : Nat) (e : LockEntry) : List (Nat × Nat) :=
  match s.walk c root (32 * e.first) with
  | .leaf p size => if ptePkg p = s.pkgId then [(pteFrame p, pageBytes size)] else []
  | .fail _ => []

/-- Enter a granted request in its tables, all at once. -/
def State.enterLocks (s : State) (q : LockReq) : State :=
  let es := match q.owner with
    | .cmd _ _ => q.entries
    | .swap c id =>
      let root := match (s.col c).swaps.find? (fun w => w.id == id) with | some w => w.root | none => 0
      q.entries.map (fun e => { e with frames := s.lockFrames c root e })
  q.owner.columns.foldl (fun t c => t.modCol c (fun y =>
    { y with locks := y.locks ++ es, lockWait := y.lockWait.filter (fun r => r.owner != q.owner) })) s

/-- The fabric commands and the commands of the matrix engine by their opcode (R204). -/
def isFabricOp (op : Nat) : Bool := op = 0x16C || op = 0x16D
def isMatrixOp (op : Nat) : Bool := 0x163 ≤ op && op ≤ 0x165

/-- What follows a grant: the command has begun, with an acquire at column scope (R300), a matrix command counting toward the signatures
(R392); the swap may move bytes. -/
def State.onGrant (s : State) (o : LockOwner) : State :=
  match o with
  | .cmd n id =>
    match s.cmd? n id with
    | some c =>
      let s1 := (s.modCmd n id (fun c => { c with phase := .begun })).acquireAct ⟨coreColumn n, coreInCol n, .grp n c.grp⟩ 2
      if isMatrixOp c.op then s1.noteIssue (coreColumn n) 0 1 else s1
    | none => s
  | .swap c id => s.modCol c (fun y => { y with swaps := y.swaps.map (fun w => if w.id = id then { w with active := true } else w) })

/-- Ask for locks: granted at once, or placed in the waiting order of every table needed. A request for nothing is granted. -/
def State.requestLocks (s : State) (q : LockReq) : State :=
  if q.entries.isEmpty then s.onGrant q.owner
  else if s.grantable q then (s.enterLocks q).onGrant q.owner
  else
    (q.owner.columns.foldl (fun t c => t.modCol c (fun y => { y with lockWait := y.lockWait ++ [q] })) s)

/-- The requests that wait in any of some columns, in the order of the tables. -/
def State.waitingLocks (s : State) (cols : List Nat) : List LockReq := cols.flatMap (fun c => (s.col c).lockWait)

/-- Grant what can be granted, in order, once over the waiting requests. -/
def State.grantPass (s : State) : State :=
  (s.waitingLocks allCols).foldl (fun t q =>
    if (t.waitingLocks [(q.owner.columns.head?).getD 0]).any (fun r => r.owner == q.owner) && t.grantable q then
      (t.enterLocks q).onGrant q.owner
    else t) s

/-- Grant until nothing more can be: one pass for each waiting request at most. -/
def State.grantAll (s : State) : Nat → State
  | 0 => s
  | n + 1 => s.grantPass.grantAll n

/-! ### Releases (R310) and what they wake (R198) -/

/-- Whether an access at an address waits on one of some entries. -/
def LockEntry.stops (l : LockEntry) (asid : Nat) (va : D64) : Bool := l.sys && l.meets asid (va.toNat / 32) ((va.toNat + 7) / 32)

/-- Threads and scalar contexts that wait on some system entries go on: they repeat the access (R311). Each waits under the ASID its access
had. -/
def State.wakeLocked (s : State) (es : List LockEntry) : State :=
  s.cores.foldl (fun t e => e.2.groups.foldl (fun u g =>
    let stops := fun (asid : Nat) (va : D64) => es.any (fun l => l.stops asid va)
    let u1 := g.2.threads.foldl (fun v th =>
      match th.2.park with
      | some p => (match p.kind with
        | .sysLock asid => if !p.resolved && stops asid p.info.vaddr then v.resolveThread e.1 g.1 th.1 else v
        | _ => v)
      | none => v) u
    match g.2.scalar with
    | .waiting (.sysLock va asid) d => if stops asid va then u1.modGrp e.1 g.1 (fun x => { x with scalar := .ready d none }) else u1
    | _ => u1) t) s

/-- Release every entry and every request of an owner; waiting requests are granted in the same arbiter step. -/
def State.releaseLocks (s : State) (o : LockOwner) : State :=
  let mine := o.columns.head?.map (fun c => (s.col c).locks.filter (fun l => l.owner == o))
  let s1 := o.columns.foldl (fun t c =>
    let y := t.col c
    if y.locks.any (fun l => l.owner == o) || y.lockWait.any (fun r => r.owner == o) then
      t.setCol c { y with locks := y.locks.filter (fun l => l.owner != o), lockWait := y.lockWait.filter (fun r => r.owner != o) }
    else t) s
  let s2 := s1.grantAll (s1.waitingLocks allCols).length
  match o with
  | .cmd _ _ => s2
  | .swap _ _ => s2.wakeLocked (mine.getD [])

end Sys2Proof.Machine
end

