-- ==== Sys2Proof/Machine/Engines.lean ====
section
/-! DEFINITION. What the engines beside an array core do with an accepted command: its moves, its ranges, its bytes, its pot, the
tile products, and how it ends (R100 to R103, R200 to R215, R300, R305, R407, R408). -/

namespace Sys2Proof.Machine

/-! ### Pots (R201, R202) -/

/-- REM of a pot as its 48-bit register holds it, and whether it saturated. -/
def potClamp (v : Int) : Int × Bool :=
  if v < -(2 ^ 47 : Int) then (-(2 ^ 47 : Int), true) else if (2 ^ 47 - 1 : Int) < v then ((2 ^ 47 - 1 : Int), true) else (v, false)

def Group.pot (x : Group) (p : Nat) : Pot := mapGet x.pots p ⟨0, 0⟩

/-- An engine-error stop of a group (R207). -/
def State.engineStop (s : State) (n g code : Nat) (pc : D64) : State := s.stopGroup n g (plainFault 19 code pc) 0

/-- Change REM of a pot, and whether it saturated. -/
def State.potPut (s : State) (n g p : Nat) (v : Int) : Bool × State :=
  match s.grp? n g with
  | none => (false, s)
  | some x =>
    let r := potClamp ((x.pot p).rem + v)
    (r.2, s.modGrp n g (fun y => { y with pots := mapSet y.pots p { x.pot p with rem := r.1 } }))

/-- Change REM of a pot; saturation stops the group with code 7. -/
def State.potAdd (s : State) (n g p : Nat) (v : Int) (pc : D64) : State :=
  let r := s.potPut n g p v
  if r.1 then r.2.engineStop n g 7 pc else r.2

/-- A command's written bytes count toward its pot (R206): whether REM saturated, by which the command fails with code 7 (R207), and the
state. -/
def State.potCount (s : State) (n : Nat) (c : Cmd) (bytes : Nat) : Bool × State :=
  if c.pen && bytes != 0 then s.potPut n c.grp c.pot (-(bytes : Int)) else (false, s)

/-! ### The two sides of a command (R209) -/

/-- Where a side points: global memory, the scratch of a gang member by rank, or nowhere. -/
inductive Side where
  | global (va : D64)
  | scratch (rank off : Nat)
  deriving DecidableEq, Repr

/-- A space code and the pair of a side. -/
def sideOf (rank sp : Nat) (v : D64) : Side :=
  if sp = 0 then .global v
  else if sp = 1 then .scratch rank (loWord v).toNat
  else .scratch ((loWord v).toNat / 2 ^ 24) ((loWord v).toNat % 2 ^ 24)

/-- The rank of a group in its gang. -/
def State.rankOf (s : State) (x : Group) : Nat := x.gflat % (s.recOf x).gang
def Cmd.src (c : Cmd) (rank : Nat) : Side := sideOf rank c.ssp c.a
def Cmd.dst (c : Cmd) (rank : Nat) : Side := sideOf rank c.dsp c.d

/-! ### Moves (R210, R211) -/

/-- One row: offsets from the source and destination addresses, and bytes. -/
structure Move where
  src : Int
  dst : Int
  len : Nat
  deriving DecidableEq, Repr

/-- The packed positions at which the rows of `cpyr` begin, with their lengths, and the total. -/
def raggedRows : Nat → Nat → List W → List (Nat × Nat × Nat) × Nat
  | _, pos, [] => ([], pos)
  | r, pos, w :: rest =>
    let n := w.toNat
    let t := raggedRows (r + 1) (pos + n) rest
    if n = 0 then t else ((r, pos, n) :: t.1, t.2)

/-- The moves of a command, those of no byte left out. Row strides are signed. -/
def Cmd.moves (c : Cmd) : List Move :=
  let n := c.len.toNat
  let ss := c.sstride.toInt
  let ds := c.dstride.toInt
  let rows := List.range c.rows.toNat
  let all : List Move :=
    if c.op = 0x168 then rows.map (fun (r : Nat) => ⟨(r : Int) * ss, (r : Int) * ds, n⟩)
    else if c.op = 0x169 then c.lists.zipIdx.map (fun e => ⟨(e.1.toNat : Int) * ss, (e.2 : Int) * ds, n⟩)
    else if c.op = 0x16A then (raggedRows 0 0 c.lists).1.map (fun e => ⟨(e.1 : Int) * ss, (e.2.1 * n : Nat), e.2.2 * n⟩)
    else if c.op = 0x163 then (match c.rsvA with | some r => [⟨0, 0, (r.sizeM1 + 1) * 256⟩] | none => [])
    else [⟨0, 0, n⟩]
  all.filter (fun m => m.len != 0)

/-- Total bytes of moves. -/
def movesBytes (l : List Move) : Nat := (l.map (·.len)).sum

/-- The mask words of `cpyr`, for its packed positions. -/
def Cmd.maskWords (c : Cmd) : List W :=
  if c.op = 0x16A then
    let t := raggedRows 0 0 c.lists
    (List.range ((t.2 + 31) / 32)).map (fun w =>
      (t.1.filter (fun e => e.2.1 / 32 == w)).foldl (fun m e => m ||| (1#32 <<< (e.2.1 % 32))) 0)
  else []

/-- Lowest and highest byte offset of one side of moves. -/
def sideSpan (l : List (Int × Nat)) : Option (Int × Int) :=
  l.foldl (fun acc e =>
    let lo := e.1
    let hi := e.1 + e.2 - 1
    match acc with
    | none => some (lo, hi)
    | some (a, b) => some (min a lo, max b hi)) none
def srcSpan (l : List Move) : Option (Int × Int) := sideSpan (l.map (fun m => (m.src, m.len)))
def dstSpan (l : List Move) : Option (Int × Int) := sideSpan (l.map (fun m => (m.dst, m.len)))

/-- A span of a side that lies outside the scratch. -/
def outOfScratch (bytes : Nat) (side : Side) (span : Option (Int × Int)) : Bool :=
  match side, span with
  | .scratch _ off, some (lo, hi) => decide ((off : Int) + lo < 0) || decide ((bytes : Int) ≤ off + hi)
  | _, _ => false

/-- Two spans of sides that share a byte; global addresses wrap at 64 bits (R210). -/
def sidesOverlap (a : Side) (sa : Option (Int × Int)) (b : Side) (sb : Option (Int × Int)) : Bool :=
  match a, b, sa, sb with
  | .global x, .global y, some (l1, h1), some (l2, h2) =>
    let p := (x + BitVec.ofInt 64 l1).toNat
    let q := (y + BitVec.ofInt 64 l2).toNat
    decide ((q + 2 ^ 64 - p) % 2 ^ 64 ≤ (h1 - l1).toNat) || decide ((p + 2 ^ 64 - q) % 2 ^ 64 ≤ (h2 - l2).toNat)
  | .scratch r x, .scratch q y, some (l1, h1), some (l2, h2) =>
    r = q && decide ((x : Int) + l1 ≤ y + h2) && decide ((y : Int) + l2 ≤ x + h1)
  | _, _, _, _ => false

/-! ### Lists and ranges at the beginning of a command (R205, R210, R211, R305) -/

/-- The words of an index or length list in group scratch; none when it leaves the scratch. -/
def State.readList (s : State) (x : Group) (off rows : Nat) : Option (List W) :=
  if (s.recOf x).scratchBytes < off + 4 * rows then none
  else some ((List.range rows).map (fun i =>
    BitVec.ofNat 32 (leNat ((List.range 4).map (fun j => mapGet x.scratch (off + 4 * i + j) unwritten)))))

/-- The command with its list read; or the engine-error code. One of no row or no length reads and writes nothing (R210). Whether an AUX2 past
the scratch is a mask range outside it where every row length is 0, so that no mask word is written, R211 does not say: the model answers
code 3 (DESIGN CHOICE, log 53). -/
def State.withLists (s : State) (x : Group) (c : Cmd) : Except Nat Cmd :=
  if (c.op = 0x169 || c.op = 0x16A) && c.rows != 0 && c.len != 0 then
    match s.readList x c.aux1.toNat c.rows.toNat with
    | none => .error 3
    | some l =>
      let d := { c with lists := l }
      if (s.recOf x).scratchBytes < c.aux2.toNat + 4 * d.maskWords.length then .error 3 else .ok d
  else .ok c

/-- The checks made once the moves are known: scratch bounds, then overlapping spans (R207). -/
def State.planError (s : State) (x : Group) (c : Cmd) : Option Nat :=
  let m := c.moves
  let k := s.rankOf x
  let bytes := (s.recOf x).scratchBytes
  if isMatrixOp c.op then
    (if outOfScratch bytes (c.src k) (srcSpan m) then some 4 else none)
  else if outOfScratch bytes (c.src k) (srcSpan m) || outOfScratch bytes (c.dst k) (dstSpan m) then some 4
  else if sidesOverlap (c.src k) (srcSpan m) (c.dst k) (dstSpan m) then some 2 else none

/-- The lock entries of one side: two where its span wraps at 2^64 (R210). -/
def sideEntry (asid : Nat) (dst : Bool) (o : LockOwner) (side : Side) (span : Option (Int × Int)) : List LockEntry :=
  match side, span with
  | .global va, some (lo, hi) =>
    let first := (va + BitVec.ofInt 64 lo).toNat
    let last := first + (hi - lo).toNat
    if last < 2 ^ 64 then [⟨false, dst, asid, first / 32, last / 32, [], o⟩]
    else [⟨false, dst, asid, first / 32, 2 ^ 59 - 1, [], o⟩, ⟨false, dst, asid, 0, min (2 ^ 59 - 1) ((last - 2 ^ 64) / 32), [], o⟩]
  | _, _ => []

/-- The entries a command registers (R305). -/
def State.cmdEntries (s : State) (n : Nat) (x : Group) (c : Cmd) : List LockEntry :=
  let m := c.moves
  let k := s.rankOf x
  let o := LockOwner.cmd n c.id
  let a := s.asidOf x
  (if c.op = 0x164 || c.op = 0x165 || c.op = 0x16D then [] else sideEntry a false o (c.src k) (srcSpan m))
    ++ (if isMatrixOp c.op || c.op = 0x16C then [] else sideEntry a true o (c.dst k) (dstSpan m))

/-! ### Bytes (R206, R212, R300) -/

/-- How the work of a command goes: done; an engine-error code; or a page it cannot use yet, with its cause and code, the
address, and whether it is written. -/
inductive RunEnd where
  | done
  | error (code : Nat)
  | suspend (cause code : Nat) (va : Nat) (wr : Bool)
  deriving DecidableEq, Repr

/-- What an engine's translation of an address comes to. -/
inductive EngPage where
  | place (k : Nat) (cr : Bool)
  | stop (e : RunEnd)
  deriving DecidableEq, Repr

/-- Translate for an engine: through the walker, at user privilege (R207, R212, R409). `remote`: a page of another package is
allowed. -/
def State.engPage (s : State) (n : Nat) (x : Group) (va len : Nat) (wr remote : Bool) : EngPage :=
  match s.translateNow (.walker (coreColumn n)) (s.asidOf x) (s.rootOf (s.ctxOf x)) va with
  | .fail code => if code = 3 then .stop (.error 8) else .stop (.suspend 16 code va wr)
  | .leaf e size =>
    let k := s.placeOf e size va
    if ptePkg e != s.pkgId && !remote then .stop (.error 11)
    else if isFar (pteFrame e) then .stop (.suspend 17 0 va wr)
    else if permDenied e (if wr then .store else .load) true then .stop (.error 1)
    else if wr && copyStore .store k len then .stop (.error 1)
    else .place k (pteCR e && !(isWindow (placeAddr k)))

/-- The state after that translation. -/
def State.engNote (s : State) (n : Nat) (x : Group) (va : Nat) : State :=
  s.translateNote (.walker (coreColumn n)) (s.asidOf x) (s.rootOf (s.ctxOf x)) va

/-- The unit an engine reads and writes as: through the column slice, never the L1 of a core (R300). -/
def engUnit (n g : Nat) : MemUnit := ⟨coreColumn n, coreInCol n, .grp n g⟩

/-- Read bytes of a global range within the local package, page by page. -/
def State.engLoad (s : State) (n : Nat) (x : Group) (g va len : Nat) : Except RunEnd (List Byte) × State :=
  (blockCuts 65536 va len).foldl (fun acc p =>
    match acc.1 with
    | .error _ => acc
    | .ok done =>
      match acc.2.engPage n x (p.1 % 2 ^ 64) p.2 false false with
      | .stop e => (.error e, acc.2)
      | .place k _ =>
        match (acc.2.engNote n x (p.1 % 2 ^ 64)).loadBytes (engUnit n g) k p.2 (some 2) false with
        | (.bytes bs, t) => (.ok (done ++ bs), t)
        | (.poisoned, t) => (.error (.error 8), t)) (.ok [], s)

/-- Read bytes of a side at an offset. -/
def State.sideLoad (s : State) (n : Nat) (x : Group) (g : Nat) (side : Side) (off : Int) (len : Nat) : Except RunEnd (List Byte) × State :=
  match side with
  | .global va => s.engLoad n x g (va + BitVec.ofInt 64 off).toNat len
  | .scratch rank o =>
    match s.gangScratch x rank with
    | some p => (.ok (s.scratchRead p (o + off).toNat len), s)
    | none => (.error (.error 4), s)

/-- Write bytes of one sector of a local place (R206, R300): performed at column scope, in the issuing group's flush set. -/
def State.engPut (s : State) (n g k : Nat) (bs : List Byte) : State :=
  (pieces k bs).foldl (fun t p =>
    let q := placeBytes p.2.1 p.2.2
    if isWindow (32 * p.1) then t.windowPiece p.1 q.1 q.2
    else ((t.sliceStore (coreColumn n) none p.1 q.1 q.2 false).noteFlush (.grp n g) p.1).setMark (p.1 / 4) none) s

/-- Write bytes of one destination sector of a side. -/
def State.sideStore (s : State) (n : Nat) (x : Group) (g : Nat) (side : Side) (off : Int) (bs : List Byte) : Except RunEnd State :=
  match side with
  | .global va =>
    let a := (va + BitVec.ofInt 64 off).toNat
    match s.engPage n x a bs.length true false with
    | .stop e => .error e
    | .place k _ => .ok ((s.engNote n x a).engPut n g k bs)
  | .scratch rank o =>
    match s.gangScratch x rank with
    | some p => .ok (s.scratchWrite p (o + off).toNat bs)
    | none => .error (.error 4)

/-- The address of a destination byte, for cutting rows at destination sectors. -/
def Side.addr (side : Side) (off : Int) : Nat :=
  match side with
  | .global va => (va + BitVec.ofInt 64 off).toNat
  | .scratch _ o => (o + off).toNat

/-- The pieces of a move: offset in the row and bytes, cut at destination sectors. -/
def movePieces (side : Side) (m : Move) : List (Nat × Nat) :=
  let a := side.addr m.dst
  (blockCuts 32 a m.len).map (fun p => (p.1 - a, p.2))

/-- The pieces of a command that are still to move, each with its move, in the command's own order. -/
def pendingPieces (side : Side) (l : List Move) (prog : Nat) : List (Move × Nat × Nat) :=
  (l.foldl (fun (acc : List (Move × Nat × Nat) × Nat) m =>
    if acc.2 ≥ m.len then (acc.1, acc.2 - m.len)
    else (acc.1 ++ ((movePieces side m).filter (fun p => decide (acc.2 ≤ p.1))).map (fun p => (m, p.1, p.2)), 0)) ([], prog)).1

/-- Move the pieces in order until one fails; each counts toward the pot and the progress. The order in which a command writes its bytes
is not defined (R210): that the model moves its rows, and the pieces of a row, by rising number is a DESIGN CHOICE (log 33). -/
def State.runMoves (s : State) (n : Nat) (x : Group) (c : Cmd) : List (Move × Nat × Nat) → RunEnd × State
  | [] => (.done, s)
  | (m, off, len) :: rest =>
    let k := s.rankOf x
    match s.sideLoad n x c.grp (c.src k) (m.src + off) len with
    | (.error e, t) => (e, t)
    | (.ok bs, t) =>
      match t.sideStore n x c.grp (c.dst k) (m.dst + off) bs with
      | .error e => (e, t)
      | .ok t1 =>
        let q := t1.potCount n c len
        let t2 := q.2.modCmd n c.id (fun d => { d with prog := d.prog + len })
        if q.1 then (.error 7, t2) else t2.runMoves n x c rest

/-- Work done whose bytes have been counted: whether the pot saturated, and the state. -/
def counted (r : Bool × State) : RunEnd × State := (if r.1 then .error 7 else .done, r.2)

/-- Write the mask words of `cpyr` (R210). -/
def State.writeMasks (s : State) (n : Nat) (c : Cmd) : RunEnd × State :=
  let bs := c.maskWords.flatMap (fun w => leBytes 4 w.toNat)
  counted ((s.scratchWrite (.grp n c.grp) c.aux2.toNat bs).potCount n c bs.length)

/-! ### The matrix engine (R100 to R102, R214, R215) -/

/-- Bits of an element of a FMT code. -/
def rsvBits (fmt : Nat) : Nat := if fmt = 2 || fmt = 3 then 16 else if fmt = 6 || fmt = 7 then 4 else 8
/-- K of a reservation. -/
def Rsv.k (r : Rsv) : Nat := (r.sizeM1 + 1) * 2048 / (64 * rsvBits r.fmt)
/-- Elements per scale of a BL code. -/
def scaleBlock (bl : Nat) : Nat := if bl = 1 then 32 else if bl = 2 then 64 else 128
/-- A floating-point FMT code. -/
def rsvFloat (fmt : Nat) : Bool := fmt < 4
/-- Compatible pairs of formats. -/
def fmtsMatch (a b : Nat) : Bool :=
  (a < 2 && b < 2) || (a = 2 && b = 2) || (a = 3 && b = 3) || ((a = 4 || a = 5) && (b = 4 || b = 5)) || (6 ≤ a && 6 ≤ b)

/-- Bits of element k of line m of a reservation, the buffer's bytes read little-endian. -/
def bufElement (buf : List Host.Cell) (r : Rsv) (m k : Nat) : Nat :=
  let w := rsvBits r.fmt
  let bit := (m * r.k + k) * w
  let a := r.base * 256 + bit / 8
  let lo := (mapGet buf a unwritten).toNat
  if w = 16 then lo + 256 * (mapGet buf (a + 1) unwritten).toNat else lo / 2 ^ (bit % 8) % 2 ^ w

/-- An integer element. -/
def elementInt (fmt v : Nat) : Int :=
  if fmt = 4 then (BitVec.ofNat 8 v).toInt else if fmt = 6 then (BitVec.ofNat 4 v).toInt else v
/-- A floating-point element. -/
def elementDatum (fmt v : Nat) : Datum :=
  fdec (if fmt = 0 then fmtE4m3 else if fmt = 1 then fmtE5m2 else if fmt = 2 then fmtBf16 else fmtF16) v false

/-- Floor of log2 of a nonzero exact value. -/
def datumExp : Datum → Int
  | .fin _ m e _ => (Nat.log2 m : Int) + e
  | _ => 0

/-- A product truncated toward zero to a multiple of 2^g, as a signed count. -/
def truncUnits (g : Int) : Datum → Int
  | .fin neg m e _ => signedOf neg (if g ≤ e then m * 2 ^ (e - g).natAbs else m / 2 ^ (g - e).natAbs)
  | _ => 0

/-- The aligned sum of the products of a chunk (R101). -/
def chunkSum (ps : List Datum) : Datum :=
  let nz := ps.filter (fun p => match p with | .fin _ _ _ _ => true | _ => false)
  match nz with
  | [] => .zero false
  | p :: rest =>
    let g := rest.foldl (fun a q => max a (datumExp q)) (datumExp p) - 60
    ofSigned ((nz.map (truncUnits g)).foldl (· + ·) 0) g false

/-- One chunk of the matrix sum (R101). -/
def chunkStep (acc : Nat) (ps : List Datum) (sa sb : Datum) : Nat :=
  let bad := fun (d : Datum) => d.isNan || d.isInf
  let f := fun (v : Datum) => (fround fmtF32 v 0 false false).1
  if (fdec fmtF32 acc false).isNan || ps.any bad || bad sa || bad sb then 0x7FC00000
  else
    let t1 := f (chunkSum ps)
    let t2 := f (dmul (dmul (fdec fmtF32 t1 false) sa) sb)
    f (dadd false (fdec fmtF32 acc false) (fdec fmtF32 t2 false))

/-- The scale 1.0. -/
def oneDatum : Datum := .fin false 1 0 false

/-- The scale of line m and chunk c of a reservation (R100); none where it lies outside the scratch. -/
def scaleOf (bytes : Nat) (scratch : List Host.Cell) (r : Rsv) (m c : Nat) : Option Datum :=
  if r.bl = 0 then some oneDatum
  else
    let bl := scaleBlock r.bl
    let a := r.soff + 2 * (m * (r.k / bl) + 32 * c / bl)
    if bytes < a + 2 then none
    else some (fdec fmtBf16 ((mapGet scratch a unwritten).toNat + 256 * (mapGet scratch (a + 1) unwritten).toNat) false)

/-- The elements of line m of a reservation. -/
def bufLine (buf : List Host.Cell) (r : Rsv) (m : Nat) : List Nat := (List.range r.k).map (bufElement buf r m)

/-- The scales of line m. -/
def lineScales (bytes : Nat) (scratch : List Host.Cell) (r : Rsv) (m : Nat) : List Datum :=
  (List.range (r.k / 32)).map (fun c => (scaleOf bytes scratch r m c).getD oneDatum)

/-- One floating-point element of a tile product: the chunks in ascending order. -/
def mmaFloat (acc : Nat) (a b : List Datum) (sa sb : List Datum) : Nat :=
  ((List.range (a.length / 32)).foldl (fun acc c =>
    chunkStep acc (List.zipWith dmul ((a.drop (32 * c)).take 32) ((b.drop (32 * c)).take 32))
      (sa[c]?.getD oneDatum) (sb[c]?.getD oneDatum)) acc)

/-- One integer element (R102). -/
def mmaInt (acc : W) (a b : List Int) : W := acc + BitVec.ofInt 32 ((List.zipWith (· * ·) a b).foldl (· + ·) 0)

/-- A tile after a product: element (i, j) is register 64 × i + j. -/
def mmaTile (buf scratch : List Host.Cell) (bytes : Nat) (ra rb : Rsv) (t : Regs) : Regs :=
  let rows := (List.range 64).map (fun m => (bufLine buf ra m, lineScales bytes scratch ra m))
  let cols := (List.range 64).map (fun m => (bufLine buf rb m, lineScales bytes scratch rb m))
  rows.zipIdx.foldl (fun t1 row => cols.zipIdx.foldl (fun t2 col =>
    let i := 64 * row.2 + col.2
    let v : W := if rsvFloat ra.fmt then
        BitVec.ofNat 32 (mmaFloat (getReg t i).toNat (row.1.1.map (elementDatum ra.fmt)) (col.1.1.map (elementDatum rb.fmt)) row.1.2 col.1.2)
      else mmaInt (getReg t i) (row.1.1.map (elementInt ra.fmt)) (col.1.1.map (elementInt rb.fmt))
    setReg t2 i v) t1) t

/-- Whether the scales of a reservation lie inside the scratch (R215). -/
def scalesInside (bytes : Nat) (r : Rsv) : Bool :=
  r.bl = 0 || decide (r.soff + 2 * (64 * (r.k / scaleBlock r.bl)) ≤ bytes)

/-- Execute `mma` (R215). -/
def State.runMma (s : State) (n : Nat) (x : Group) (c : Cmd) : RunEnd × State :=
  match c.rsvA, c.rsvB with
  | some ra, some rb =>
    let bytes := (s.recOf x).scratchBytes
    if !(scalesInside bytes ra) || !(scalesInside bytes rb) then (.error 4, s)
    else
      let buf := (s.core n).matrix.buf
      counted ((s.modGrp n c.grp (fun y => { y with tiles := listMod y.tiles c.z (mmaTile buf y.scratch bytes ra rb) })).potCount n c 16384)
  | _, _ => (.error 4, s)

/-- Execute `mzro` (R215). -/
def State.runMzro (s : State) (n : Nat) (c : Cmd) : RunEnd × State :=
  counted ((s.modGrp n c.grp (fun y => { y with tiles := listMod y.tiles c.z (fun _ => []) })).potCount n c 16384)

/-- Stage the pieces of `mstg` into the operand buffer (R215). -/
def State.runStage (s : State) (n : Nat) (x : Group) (c : Cmd) (base : Nat) : List (Move × Nat × Nat) → RunEnd × State
  | [] => (.done, s)
  | (m, off, len) :: rest =>
    match s.sideLoad n x c.grp (c.src (s.rankOf x)) (m.src + off) len with
    | (.error e, t) => (e, t)
    | (.ok bs, t) =>
      let q := (t.modCore n (fun y => { y with matrix := { y.matrix with buf := putCells y.matrix.buf (base + off) bs } })).potCount n c len
      let t2 := q.2.modCmd n c.id (fun d => { d with prog := d.prog + len })
      if q.1 then (.error 7, t2) else t2.runStage n x c base rest

/-! ### Fabric commands (R212, R373) -/

/-- The remote address of a fabric command. -/
def Cmd.remoteVa (c : Cmd) : D64 := if c.op = 0x16C then c.d else c.a

/-- The requests of a fabric command: byte offset and bytes, cut at 256-byte blocks of the remote address, and those of `frdb` at the
64 KiB pages of a global destination too. -/
def Cmd.chunks (c : Cmd) : List (Nat × Nat) :=
  let a := c.remoteVa.toNat
  (blockCuts 256 a c.len.toNat).flatMap (fun p =>
    let off := p.1 - a
    let d := (c.d + BitVec.ofNat 64 off).toNat
    if c.op = 0x16D && c.dsp = 0 then (blockCuts 65536 d p.2).map (fun q => (off + (q.1 - d), q.2)) else [(off, p.2)])

/-- Those it still has to make. -/
def Cmd.requests (c : Cmd) : List (Nat × Nat) :=
  c.redo ++ c.chunks.filterMap (fun p =>
    let lo := max p.1 c.prog
    let hi := p.1 + p.2
    if lo < hi then some (lo, hi - lo) else none)

/-- Note that a request has been made. -/
def Cmd.asked (c : Cmd) (off len : Nat) (t : Option CmdTag) : Cmd :=
  { c with tags := c.tags ++ t.toList,
           redo := c.redo.filter (fun p => p.1 != off),
           prog := if c.redo.any (fun p => p.1 == off) then c.prog else off + len }

/-- Note since when a command has had no route (R374). -/
def Cmd.routed (c : Cmd) (ok : Bool) (now : Nat) : Cmd := { c with noRoute := if ok then none else some (c.noRoute.getD now) }
/-- A command learns whether each of its outstanding requests has a route. -/
def State.routeCmd (s : State) (c : Cmd) : Cmd :=
  c.routed (c.tags.all (fun t => match s.fabric.live.find? (fun l => l.tag == t.tag) with | some l => s.hasRoute l.pkg | none => true)) s.tick

/-- Make one request of a fabric command, or move its bytes at once where the entry names this package (R212). -/
def State.fabricRequest (s : State) (n : Nat) (x : Group) (c : Cmd) (off len : Nat) : RunEnd × State :=
  let k := s.rankOf x
  let rva := (c.remoteVa + BitVec.ofNat 64 off).toNat
  let wr := c.op = 0x16C
  match s.engPage n x rva len wr true with
  | .stop e => (e, s)
  | .place p _ =>
    let s1 := s.engNote n x rva
    if !(isRemote p) then
      match s1.runMoves n x c ((movePieces (c.dst k) ⟨off, off, len⟩).map (fun q => (⟨off, off, len⟩, q.1, q.2))) with
      | (.done, t) => (.done, t.modCmd n c.id (fun _ => c.asked off len none))
      | (e, t) => (e, if c.redo.isEmpty then t else t.modCmd n c.id (fun d => { d with prog := c.prog }))
    else if wr then
      match s1.sideLoad n x c.grp (c.src k) off len with
      | (.error e, t) => (e, t)
      | (.ok bs, t) =>
        let t1 := (sectorsOf (bs.zipIdx.map (fun b => (p + b.2, b.1)))).foldl (fun u q =>
          ((u.spoilLine (clusterOf (coreColumn n)) (q.1 / 4)).remoteCopyStore (coreColumn n) none q.1 q.2.1 q.2.2)) t
        let q := t1.sendRequest (.grp n c.grp) p len (.write (placeAddr p) (bs.map some) 1 6 true []) true
        (.done, q.2.modCmd n c.id (fun d => q.2.routeCmd (d.asked off len (some ⟨q.1, off, len, none⟩))))
    else
      let local_ : EngPage := match c.dst k with
        | .global va => s1.engPage n x (va + BitVec.ofNat 64 off).toNat len true false
        | .scratch _ _ => .place 0 false
      match local_ with
      | .stop e => (e, s1)
      | .place dk _ =>
        let q := s1.sendRequest (.grp n c.grp) p len (.read (placeAddr p) len 1 6 true) false
        (.done, q.2.modCmd n c.id (fun d => q.2.routeCmd (d.asked off len (some ⟨q.1, off, len,
          match c.dst k with | .global _ => some dk | .scratch _ _ => none⟩))))

/-- Make the requests of a fabric command in order until one fails. -/
def State.fabricRun (s : State) (n : Nat) (x : Group) (c : Cmd) : List (Nat × Nat) → RunEnd × State
  | [] => (.done, s)
  | (off, len) :: rest =>
    match s.cmd? n c.id with
    | none => (.done, s)
    | some now =>
      match s.fabricRequest n x now off len with
      | (.done, t) => t.fabricRun n x c rest
      | (e, t) => (e, t)

/-- An error of a command that ends its work: requests that have not left are not made (R207). -/
def State.markErr (s : State) (n : Nat) (c : Cmd) (code : Nat) : State :=
  (s.unsend (c.tags.map (·.tag))).modCmd n c.id (fun q => { q with err := some (q.err.getD code) })

/-! ### Running a command -/

/-- The work of a begun command as far as it goes, and how it then stands. -/
def State.runCmd (s : State) (n : Nat) (c : Cmd) : RunEnd × State :=
  match s.grp? n c.grp with
  | none => (.done, s)
  | some x =>
    match c.err with
    | some e => (.error e, s)
    | none =>
      if isMatrixOp c.op && (s.core n).matrix.fenced = 0xF then (.error 9, s)
      else if c.op = 0x164 then s.runMma n x c
      else if c.op = 0x165 then s.runMzro n c
      else if c.op = 0x163 then
        match c.rsvA with
        | some r => s.runStage n x c (r.base * 256) (pendingPieces (.scratch 0 (r.base * 256)) c.moves c.prog)
        | none => (.error 4, s)
      else if isFabricOp c.op then s.fabricRun n x c c.requests
      else
        match s.runMoves n x c (pendingPieces (c.dst (s.rankOf x)) c.moves c.prog) with
        | (.done, t) => t.writeMasks n c
        | r => r

end Sys2Proof.Machine
end

