-- ==== Sys2Proof/Machine/FloatNarrow.lean ====
section
/-! DEFINITION. Floating-point, packed narrow and special-function instructions (R139 to R158) and the fused row sequence
(R109, R110, R157). -/

namespace Sys2Proof.Machine

/-! ### Shapes of meanings -/

/-- A binary operation of the type in MODX[1:0] (R142). -/
def fop2 (g : Fmt → W → Nat → Nat → Nat × FFlags) : RowFn := fun r f e ls lv =>
  let o := g (fmtOf (f.modx.toNat % 4)) e.fmode (srcA ls lv f).toNat (srcB r ls lv f).toNat
  flagged e lv (setD lv f (BitVec.ofNat 32 o.1)) o.2
/-- A unary operation of the type in MODX[1:0]; the operation is also given MODX[3:2]. -/
def fop1 (g : Nat → Fmt → W → Nat → Nat × FFlags) : RowFn := fun _ f e ls lv =>
  let o := g (f.modx.toNat / 4) (fmtOf (f.modx.toNat % 4)) e.fmode (srcA ls lv f).toNat
  flagged e lv (setD lv f (BitVec.ofNat 32 o.1)) o.2
/-- A result word and flags from MODX, `fmode`, A and B. -/
def fnarrow2 (g : Nat → W → Nat → Nat → Nat × FFlags) : RowFn := fun r f e ls lv =>
  let o := g f.modx.toNat e.fmode (srcA ls lv f).toNat (srcB r ls lv f).toNat
  flagged e lv (setD lv f (BitVec.ofNat 32 o.1)) o.2
/-- A result word and flags from MODX, `fmode`, A, B and C. -/
def fnarrow3 (g : Nat → W → Nat → Nat → Nat → Nat × FFlags) : RowFn := fun r f e ls lv =>
  let o := g f.modx.toNat e.fmode (srcA ls lv f).toNat (srcB r ls lv f).toNat (srcC lv f).toNat
  flagged e lv (setD lv f (BitVec.ofNat 32 o.1)) o.2

/-! ### Elements (R88) -/

/-- Element n of a word of elements of w bits. -/
def element (w x n : Nat) : Nat := x / 2 ^ (w * n) % 2 ^ w
/-- Elements packed lowest first, with the OR of their flags. -/
def packElems (w : Nat) : List (Nat × FFlags) → Nat × FFlags
  | [] => (0, 0)
  | (x, fl) :: rest => let o := packElems w rest; (x % 2 ^ w + 2 ^ w * o.1, fl ||| o.2)
/-- The FP8 format of a MODX bit. -/
def fmt8 (m : Nat) : Fmt := if m % 2 = 0 then fmtE4m3 else fmtE5m2
/-- The 16-bit format of a MODX bit. -/
def fmt16 (m : Nat) : Fmt := if m % 2 = 0 then fmtF16 else fmtBf16

/-! ### Conversions (R149 to R151) -/

/-- `cvt` by conversion code (R149). -/
def cvtBits (m : Nat) (fm : W) (x : Nat) : Nat × FFlags :=
  let int := fun (p : W × FFlags) => (p.1.toNat, p.2)
  match m with
  | 0 => fconv fmtF32 fmtF16 fm x
  | 1 => fconv fmtF32 fmtBf16 fm x
  | 2 => fwiden fmtF16 fmtF32 fm x
  | 3 => fwiden fmtBf16 fmtF32 fm x
  | 4 => int (fToInt fm true (fmRnd fm) x)
  | 5 => int (fToInt fm false (fmRnd fm) x)
  | 6 => intToF32 fm (BitVec.ofNat 32 x).toInt
  | 7 => intToF32 fm x
  | 8 => int (fToInt fm true 1 x)
  | 9 => int (fToInt fm false 1 x)
  | 10 => fconv fmtF32 fmtE4m3 fm x
  | 11 => fconv fmtF32 fmtE5m2 fm x
  | 12 => fwiden fmtE4m3 fmtF32 fm x
  | _ => fwiden fmtE5m2 fmtF32 fm x
/-- `pcvt` of a source pair (R150). -/
def pcvtBits (m : Nat) (fm : W) (x : Nat) : Nat × FFlags :=
  if m < 2 then packElems 16 ((List.range 2).map (fun n => fconv fmtF32 (fmt16 m) fm (element 32 x n)))
  else packElems 8 ((List.range 4).map (fun n => fconv (if m < 4 then fmtF16 else fmtBf16) (fmt8 m) fm (element 16 x n)))
/-- `upk`: one word, or two words for MODX 0 and 2 (R151). -/
def upkBits (m : Nat) (fm : W) (x : Nat) : Nat × FFlags :=
  if m < 4 then packElems 32 ((List.range 2).map (fun n => fwiden (if m = 0 then fmtF16 else fmtBf16) fmtF32 fm (element 16 x n)))
  else packElems 16 ((List.range 2).map (fun n => fwiden (if m < 6 then fmtE4m3 else fmtE5m2) fmtF16 fm (element 8 x (2 * (m % 2) + n))))

def cvtFn : RowFn := fun _ f e ls lv =>
  let o := cvtBits f.modx.toNat e.fmode (srcA ls lv f).toNat
  flagged e lv (setD lv f (BitVec.ofNat 32 o.1)) o.2
def pcvtFn : RowFn := fun _ f e ls lv =>
  let o := pcvtBits f.modx.toNat e.fmode (srcA64 ls lv f).toNat
  flagged e lv (setD lv f (BitVec.ofNat 32 o.1)) o.2
def upkFn : RowFn := fun _ f e ls lv =>
  let o := upkBits f.modx.toNat e.fmode (srcA ls lv f).toNat
  flagged e lv (if f.modx.toNat < 4 then setD64 lv f (BitVec.ofNat 64 o.1) else setD lv f (BitVec.ofNat 32 o.1)) o.2

/-! ### Packed arithmetic and dot products (R152 to R154) -/

/-- Four FP8 sums. -/
def padd4Bits (m : Nat) (fm : W) (x y : Nat) : Nat × FFlags :=
  packElems 8 ((List.range 4).map (fun n => faddBits (fmt8 m) fm (element 8 x n) (element 8 y n)))
/-- Four FP8 products. -/
def pmul4Bits (m : Nat) (fm : W) (x y : Nat) : Nat × FFlags :=
  packElems 8 ((List.range 4).map (fun n => fmulBits (fmt8 m) fm (element 8 x n) (element 8 y n)))
/-- Two 16-bit fused multiply-adds (R153). -/
def hfma2Bits (m : Nat) (fm : W) (x y z : Nat) : Nat × FFlags :=
  packElems 16 ((List.range 2).map (fun n => ffmaBits (fmt16 m) fm (element 16 x n) (element 16 y n) (element 16 z n)))
/-- The floating dot product of n elements of w bits (R154). -/
def dotBits (E : Fmt) (w n : Nat) (fm : W) (x y z : Nat) : Nat × FFlags :=
  let pairs := (List.range n).map (fun i => (frd E fm (element w x i), frd E fm (element w y i)))
  let c := frd fmtF32 fm z
  let terms := pairs.map (fun p => dmul p.1 p.2) ++ [c]
  let down : Bool := rmode fmtF32 fm = 3
  let sum := match terms with
    | [] => Datum.zero false
    | t :: rest => rest.foldl (dadd down) t
  let sn := c.isSnan || pairs.any (fun p => p.1.isSnan || p.2.isSnan)
  let inv := pairs.any (fun p => mulInvalid p.1 p.2)
    || (!(terms.any Datum.isNan) && terms.any (fun t => t == .inf false) && terms.any (fun t => t == .inf true))
  deliver fmtF32 fm sum inv sn
/-- The integer dot product of n elements of w bits, wrapped (R154). -/
def dotInt (signed : Bool) (w n x y z : Nat) : Nat :=
  let ext := fun (v : Nat) => if signed then (BitVec.ofNat w v).toInt else (v : Int)
  (BitVec.ofInt 32 (((List.range n).map (fun i => ext (element w x i) * ext (element w y i))).sum + (z : Int))).toNat
def dot2Bits (m : Nat) (fm : W) (x y z : Nat) : Nat × FFlags := dotBits (fmt16 m) 16 2 fm x y z
def dot4Bits (m : Nat) (fm : W) (x y z : Nat) : Nat × FFlags :=
  if m < 2 then dotBits (fmt8 m) 8 4 fm x y z else (dotInt (m = 2) 8 4 x y z, 0)
def dot8Bits (m : Nat) (_ : W) (x y z : Nat) : Nat × FFlags := (dotInt (m = 0) 4 8 x y z, 0)

/-! ### Scalars -/

def fmaxFn : RowFn := fop2 (fun F fm x y => fminmaxBits F fm true x y)
def fminFn : RowFn := fop2 (fun F fm x y => fminmaxBits F fm false x y)
/-- kD := the comparison (R147). -/
def fcmpFn : RowFn := fun r f e ls lv =>
  let o := fcmpBits (fmtOf (f.modx.toNat % 4)) e.fmode (f.modx.toNat / 4) (srcA ls lv f).toNat (srcB r ls lv f).toNat
  flagged e lv (setK lv f o.1) o.2
/-- B is an integer (R144). -/
def fscaleFn : RowFn := fun r f e ls lv =>
  let o := fscaleBits (fmtOf (f.modx.toNat % 4)) e.fmode (srcA ls lv f).toNat (srcB r ls lv f).toInt
  flagged e lv (setD lv f (BitVec.ofNat 32 o.1)) o.2
def specialFn (fn : Nat) : RowFn := fop1 (fun _ F fm x => specialRes F fm fn x)

/-! ### The fused row sequence (R109, R110, R157) -/

/-- The words after the instruction a deal issues. -/
def wordsAfter (s : State) (f : Fields) : List W :=
  match s.cur with
  | .deal n slot => match s.deal? n slot with
    | some d => d.body.drop (d.pos + wordsOf f)
    | none => []
  | .col _ => []

/-- One position of the chain, tried on a lane. A word that is illegal at issue ends the trial: it faults at its own address
after the positions before it have been written (R59), so the `fmax` completes. -/
def tryAt (p : Nat) (r : Row) (f : Fields) (fn : RowFn) (e : Env) (ls : List LaneView) (res : LRes) : LRes :=
  match res with
  | .ok lv _ =>
    if (illegal r e f).isSome then .idle
    else match fn r f e ls lv with
      | .fail info => .fail { info with pos := p }
      | other => other
  | other => other

/-- `fmax`, parking at itself when a later position of a fused sequence would fault; otherwise its own result (R110). -/
def fmaxFused (ws : List W) : RowFn := fun r f e ls lv =>
  let first := fmaxFn r f e ls lv
  match fusedTail f ws with
  | none => first
  | some (f1, f2, f3) =>
    let row := fun (i : Instr) => (rowOf i).getD r
    let r1 := tryAt 1 (row (if f1.lit.isSome then .fsubLit f1 else .fsub f1)) f1 (fop2 fsubBits) e ls first
    let r2 := tryAt 2 (row (.fexp2 f2)) f2 (specialFn 3) e ls r1
    let r3 := tryAt 3 (row (if f3.lit.isSome then .faddLit f3 else .fadd f3)) f3 (fop2 faddBits) e ls r2
    match r3 with
    | .fail info => .fail info
    | _ => first

/-! ### Meanings -/

def execFadd (f : Fields) (s : State) : Out State := .next (runRow (.fadd f) (fop2 faddBits) s)
def execFaddLit (f : Fields) (s : State) : Out State := .next (runRow (.faddLit f) (fop2 faddBits) s)
def execFsub (f : Fields) (s : State) : Out State := .next (runRow (.fsub f) (fop2 fsubBits) s)
def execFsubLit (f : Fields) (s : State) : Out State := .next (runRow (.fsubLit f) (fop2 fsubBits) s)
def execFmul (f : Fields) (s : State) : Out State := .next (runRow (.fmul f) (fop2 fmulBits) s)
def execFmulLit (f : Fields) (s : State) : Out State := .next (runRow (.fmulLit f) (fop2 fmulBits) s)
def execFfma (f : Fields) (s : State) : Out State :=
  .next (runRow (.ffma f) (fnarrow3 (fun m fm x y z => ffmaBits (fmtOf (m % 4)) fm x y z)) s)
def execFmin (f : Fields) (s : State) : Out State := .next (runRow (.fmin f) fminFn s)
def execFminLit (f : Fields) (s : State) : Out State := .next (runRow (.fminLit f) fminFn s)
def execFmax (f : Fields) (s : State) : Out State := .next (runRow (.fmax f) (fmaxFused (wordsAfter s f)) s)
def execFmaxLit (f : Fields) (s : State) : Out State := .next (runRow (.fmaxLit f) (fmaxFused (wordsAfter s f)) s)
def execFcmp (f : Fields) (s : State) : Out State := .next (runRow (.fcmp f) fcmpFn s)
def execFcmpLit (f : Fields) (s : State) : Out State := .next (runRow (.fcmpLit f) fcmpFn s)
def execFcls (f : Fields) (s : State) : Out State := .next (runRow (.fcls f) (fop1 (fun _ F _ x => (fclsBits F x, 0))) s)
def execFscale (f : Fields) (s : State) : Out State := .next (runRow (.fscale f) fscaleFn s)
def execFscaleLit (f : Fields) (s : State) : Out State := .next (runRow (.fscaleLit f) fscaleFn s)
def execFrnd (f : Fields) (s : State) : Out State := .next (runRow (.frnd f) (fop1 (fun m F fm x => frndBits F fm
  m x)) s)
def execFrcp (f : Fields) (s : State) : Out State := .next (runRow (.frcp f) (specialFn 0) s)
def execFsqrt (f : Fields) (s : State) : Out State := .next (runRow (.fsqrt f) (specialFn 1) s)
def execFrsqrt (f : Fields) (s : State) : Out State := .next (runRow (.frsqrt f) (specialFn 2) s)
def execFexp2 (f : Fields) (s : State) : Out State := .next (runRow (.fexp2 f) (specialFn 3) s)
def execFlog2 (f : Fields) (s : State) : Out State := .next (runRow (.flog2 f) (specialFn 4) s)
def execCvt (f : Fields) (s : State) : Out State := .next (runRow (.cvt f) cvtFn s)
def execPcvt (f : Fields) (s : State) : Out State := .next (runRow (.pcvt f) pcvtFn s)
def execUpk (f : Fields) (s : State) : Out State := .next (runRow (.upk f) upkFn s)
def execPadd4 (f : Fields) (s : State) : Out State := .next (runRow (.padd4 f) (fnarrow2 padd4Bits) s)
def execPadd4Lit (f : Fields) (s : State) : Out State := .next (runRow (.padd4Lit f) (fnarrow2 padd4Bits) s)
def execPmul4 (f : Fields) (s : State) : Out State := .next (runRow (.pmul4 f) (fnarrow2 pmul4Bits) s)
def execPmul4Lit (f : Fields) (s : State) : Out State := .next (runRow (.pmul4Lit f) (fnarrow2 pmul4Bits) s)
def execHfma2 (f : Fields) (s : State) : Out State := .next (runRow (.hfma2 f) (fnarrow3 hfma2Bits) s)
def execDot2 (f : Fields) (s : State) : Out State := .next (runRow (.dot2 f) (fnarrow3 dot2Bits) s)
def execDot4 (f : Fields) (s : State) : Out State := .next (runRow (.dot4 f) (fnarrow3 dot4Bits) s)
def execDot8 (f : Fields) (s : State) : Out State := .next (runRow (.dot8 f) (fnarrow3 dot8Bits) s)

end Sys2Proof.Machine
end

