-- ==== Sys2Proof/Machine/CrossLane.lean ====
section
/-! DEFINITION. Quad and crew instructions (R104 to R108, R159 to R171). -/

namespace Sys2Proof.Machine

/-- A contributing lane: occupied, no helper, active (R159). -/
def contributes (f : Fields) (lv : LaneView) : Bool := !lv.helper && laneActive f lv

/-! ### Combining (R104 to R108) -/

/-- Values of the 32 lanes; none is EMPTY. -/
abbrev CrewVals := List (Option W)

/-- Lane i of a value list. -/
def crewVal (v : CrewVals) (i : Nat) : Option W := (v[i]?).join

/-- The operation of a code of R64 on two values, with its flags. -/
def crewOp (m : Nat) (fm : W) (a b : W) : W × FFlags :=
  let flt := fun (p : Nat × FFlags) => (BitVec.ofNat 32 p.1, p.2)
  match m with
  | 0 => (a + b, 0)
  | 1 => flt (faddBits fmtF32 fm a.toNat b.toNat)
  | 2 => (if a.toInt ≤ b.toInt then a else b, 0)
  | 3 => (if a.toInt ≤ b.toInt then b else a, 0)
  | 4 => (if a.toNat ≤ b.toNat then a else b, 0)
  | 5 => (if a.toNat ≤ b.toNat then b else a, 0)
  | 6 => flt (fminmaxBits fmtF32 fm false a.toNat b.toNat)
  | 7 => flt (fminmaxBits fmtF32 fm true a.toNat b.toNat)
  | 8 => (a &&& b, 0)
  | 9 => (a ||| b, 0)
  | _ => (a ^^^ b, 0)

/-- The operation with EMPTY (R104). -/
def crewOpE (m : Nat) (fm : W) (a b : Option W) : Option W × FFlags :=
  match a, b with
  | some x, some y => let o := crewOp m fm x y; (some o.1, o.2)
  | some x, none => (some x, 0)
  | none, y => (y, 0)

/-- One step of a fixed order: the operands of each lane, none where the lane keeps its value. -/
def crewStep (m : Nat) (fm : W) (v : CrewVals) (pick : Nat → Option (Nat × Nat)) : CrewVals × FFlags :=
  let r := (List.range 32).map (fun i => match pick i with
    | some (x, y) => crewOpE m fm (crewVal v x) (crewVal v y)
    | none => (crewVal v i, 0))
  (r.map (·.1), r.foldl (fun a p => a ||| p.2) 0)

/-- The distances of R104 to R106. -/
def crewDists : List Nat := [1, 2, 4, 8, 16]

/-- The butterfly of R104. -/
def crewReduce (m : Nat) (fm : W) (v : CrewVals) : CrewVals × FFlags :=
  crewDists.foldl (fun acc d =>
    let r := crewStep m fm acc.1 (fun i => some (min i (i ^^^ d), max i (i ^^^ d)))
    (r.1, acc.2 ||| r.2)) (v, 0)

/-- The inclusive scan of R105. -/
def crewScan (m : Nat) (fm : W) (v : CrewVals) : CrewVals × FFlags :=
  crewDists.foldl (fun acc d =>
    let r := crewStep m fm acc.1 (fun i => if d ≤ i then some (i - d, i) else none)
    (r.1, acc.2 ||| r.2)) (v, 0)

/-- The segmented scan of R106, with the start flags of a mask. -/
def crewSegScan (m : Nat) (fm : W) (mask : Nat) (v : CrewVals) : CrewVals × FFlags :=
  let start := (List.range 32).map (fun i => i == 0 || mask.testBit i)
  let r := crewDists.foldl (fun (acc : CrewVals × FFlags × List Bool) d =>
    let at_ := fun (i : Nat) => (acc.2.2[i]?).getD true
    let o := crewStep m fm acc.1 (fun i => if d ≤ i && !(at_ i) then some (i - d, i) else none)
    (o.1, acc.2.1 ||| o.2, (List.range 32).map (fun i => at_ i || (decide (d ≤ i) && at_ (i - d))))) (v, 0, start)
  (r.1, r.2.1)

/-- The last lane of the segment of lane i. Segments are runs of the 32 lanes (R106), so the last one ends at lane 31, an empty lane or not;
the example of the chapter names only the lanes with values of it (DEDUCED, log 47). -/
def segEnd (mask : Nat) : Nat → Nat → Nat
  | 0, i => i
  | n + 1, i => if 31 ≤ i || mask.testBit (i + 1) then i else segEnd mask n (i + 1)

/-- The values the contributing lanes bring. -/
def crewGather (f : Fields) (ls : List LaneView) : CrewVals :=
  (List.range 32).map (fun i => (laneAt ls i).bind (fun l => if contributes f l then some (srcA ls l f) else none))

/-! ### Meanings of one lane -/

/-- D := A after PA (R161). -/
def xmovFn : RowFn := fun _ f _ ls lv => .ok (setD lv f (srcA ls lv f)) 0
/-- R162. -/
def qswzFn : RowFn := fun _ f _ ls lv =>
  let j := lv.pos / 4 * 4 + fieldOf f.b.toNat (2 * (lv.pos % 4) + 1) (2 * (lv.pos % 4))
  .ok (setD lv f (match laneAt ls j with | some l => l.read f.aS f.a.toNat | none => 0)) 0
/-- R163. -/
def voteFn : RowFn := fun _ f _ ls lv =>
  let c := ls.filter (contributes f)
  let yes := c.filter (fun l => fieldPred l f.a)
  let v : Nat := match f.modx.toNat with
    | 0 => (yes.map (fun l => 2 ^ l.pos)).sum
    | 1 => if yes.length = c.length then 1 else 0
    | _ => if yes.isEmpty then 0 else 1
  .ok (setD lv f (BitVec.ofNat 32 v)) 0
/-- R164, by what the whole crew computes and the lane whose value each lane takes. -/
def crewFn (run : Nat → W → CrewVals → CrewVals × FFlags) : RowFn := fun _ f e ls lv =>
  let o := run f.modx.toNat e.fmode (crewGather f ls)
  flagged e lv (setD lv f ((crewVal o.1 lv.pos).getD 0)) o.2
/-- The position of the highest occupied lane. -/
def lastLane (ls : List LaneView) : Nat := ls.foldl (fun m l => max m l.pos) 0
/-- The mask of `csegred`: what B holds in the lowest occupied lane (R165), without the bits above the last occupied lane (R171). -/
def segMask (r : Row) (f : Fields) (ls : List LaneView) : Nat :=
  match argMin (fun (l : LaneView) => l.pos) ls with
  | some l => (srcB r ls l f).toNat % 2 ^ (lastLane ls + 1)
  | none => 0
def csegredFn : RowFn := fun r f e ls lv =>
  let mask := segMask r f ls
  let o := crewSegScan f.modx.toNat e.fmode mask (crewGather f ls)
  flagged e lv (setD lv f ((crewVal o.1 (segEnd mask 32 lv.pos)).getD 0)) o.2
/-- R166. -/
def cfirstFn : RowFn := fun _ f _ ls lv =>
  let v := match argMin (fun (l : LaneView) => l.pos) (ls.filter (contributes f)) with
    | some l => srcA ls l f
    | none => 0
  .ok (setD lv f v) 0
/-- R167: A of the lane B names. -/
def xselFn : RowFn := fun r f _ ls lv =>
  .ok (setD lv f (match laneAt ls ((srcB r ls lv f).toNat % 32) with | some l => l.read f.aS f.a.toNat | none => 0)) 0
/-- R167: A of the highest active lane whose B names this one. -/
def cpermFn : RowFn := fun r f _ ls lv =>
  let senders := ls.filter (fun l => laneActive f l && (srcB r ls l f).toNat % 32 == lv.pos)
  let v := match argMin (fun (l : LaneView) => 31 - l.pos) senders with
    | some l => l.read f.aS f.a.toNat
    | none => 0
  .ok (setD lv f v) 0

/-! ### Meanings -/

def execXmov (f : Fields) (s : State) : Out State := .next (runRow (.xmov f) xmovFn s)
def execQswz (f : Fields) (s : State) : Out State := .next (runRow (.qswz f) qswzFn s)
def execVote (f : Fields) (s : State) : Out State := .next (runRow (.vote f) voteFn s)
def execCred (f : Fields) (s : State) : Out State := .next (runRow (.cred f) (crewFn crewReduce) s)
def execCscan (f : Fields) (s : State) : Out State := .next (runRow (.cscan f) (crewFn crewScan) s)
def execCsegred (f : Fields) (s : State) : Out State := .next (runRow (.csegred f) csegredFn s)
def execCfirst (f : Fields) (s : State) : Out State := .next (runRow (.cfirst f) cfirstFn s)
def execXsel (f : Fields) (s : State) : Out State := .next (runRow (.xsel f) xselFn s)
def execCperm (f : Fields) (s : State) : Out State := .next (runRow (.cperm f) cpermFn s)

end Sys2Proof.Machine
end

