-- ==== Sys2Proof/Machine/MemoryInstr.lean ====
section
/-! DEFINITION. Memory, atomic and fence instructions (R172 to R199, R282 to R291, R373 to R379). -/

namespace Sys2Proof.Machine

/-! ### A memory instruction over the lanes of a trick -/

/-- SCOPE of a strong access, none for a weak one (R175). -/
def strongScope (f : Fields) : Option Nat := if memOrder f = 0 then none else some (memScope f)
/-- The scope of the release or acquire of an instruction, if it is one. -/
def releaseOf (f : Fields) : Option Nat := if isRelease (memOrder f) then some (memScope f) else none
def acquireOf (f : Fields) : Option Nat := if isAcquire (memOrder f) then some (memScope f) else none

/-- Run a memory row: nothing for no active lane, the lowest reason for an illegal word, else its own effect on the active
lanes. -/
def runMem (i : Instr) (body : Row → Fields → Env → List LaneView → List LaneView → State → State) (s : State) : State :=
  match rowOf i, fieldsOf i, issueCtx s with
  | some r, some f, some (e, ls) =>
    let act := ls.filter (laneActive f)
    if act.isEmpty then s.advance e.who (wordsOf f)
    else match illegal r e f with
      | some reason => s.commit e (laneResults r f (fun e _ _ => .fail (e.illegal reason)) e ls) (wordsOf f)
      | none => body r f e ls act s
  | _, _, _ => s

/-- The checked lanes of an instruction: each with what its checks came to. -/
abbrev Checked := List (LaneView × AccRes)

/-- The result of a lane whose checks failed. -/
def failRes : AccRes → Option LRes
  | .fail f => some (.fail f)
  | .held f => some (.held f)
  | _ => none

/-- The units (R168, R169) whose members fault together. -/
def failUnits (e : Env) (c : Checked) : List Nat :=
  ((c.filter (fun p => !p.1.helper && (failRes p.2).isSome)).map (fun p => p.1.tidx / e.unit)).eraseDups

/-- The lanes that perform: their checks passed and no member of their unit faults. -/
def performing (e : Env) (c : Checked) : List (LaneView × List Seg) :=
  let u := failUnits e c
  c.filterMap (fun p => match p.2 with
    | .segs l => if !p.1.helper && u.contains (p.1.tidx / e.unit) then none else some (p.1, l)
    | _ => none)

/-- The pages that must be walked first. -/
def walksOf (c : Checked) : List Nat := c.flatMap (fun p => match p.2 with | .walking l => l | _ => [])

/-- Ask for walks; the trick waits at the instruction, and other tricks go on (R350). -/
def State.askWalks (s : State) (e : Env) (m : MemCtx) (vas : List Nat) : State :=
  (vas.foldl (fun t va => t.requestWalk (s.trickOf e.who) m.xl va) s).passOver e.who

/-- The trick of an instruction waits if one of its lanes has failed while registers of the trick are pending: the fault comes after
what is pending (R33). -/
def State.mustPass (s : State) (e : Env) (c : Checked) : Bool :=
  s.mustSettle e.who && c.any (fun p => !p.1.helper && (failRes p.2).isSome)

/-- Commit the results of the lanes given, the others idle. -/
def State.finishMem (s : State) (r : Row) (f : Fields) (e : Env) (ls : List LaneView) (res : Nat → Option LRes) : State :=
  s.commit e (ls.map (fun lv => (lv, match res lv.pos with
    | some x => helperRes r f lv x
    | none => .idle))) (wordsOf f)

/-- The result at a position. -/
def resAt (l : List (Nat × LRes)) (pos : Nat) : Option LRes := (l.find? (fun p => p.1 == pos)).map (·.2)

/-- The failed lanes as results by position. -/
def failList (c : Checked) : List (Nat × LRes) := c.filterMap (fun p => (failRes p.2).map (fun x => (p.1.pos, x)))

/-- The registers of the lanes of a trick. -/
def savesOf (ls : List LaneView) : List LaneSave := ls.map (fun lv => ⟨lv.tidx, lv.v, lv.s, lv.q, lv.k⟩)

/-- An access of the issuing trick waits for another package: its registers are pending, and the trick goes on to its next instruction
(R33, R373). The failed lanes park. A column core waits. -/
def State.holdMem (s : State) (r : Row) (f : Fields) (e : Env) (ls : List LaneView) (fails : List (Nat × LRes)) (w : RWait) : State :=
  match e.who with
  | .col c => s.modCc c (fun x => { x with wait := some w })
  | .deal n slot =>
    match s.deal? n slot with
    | none => s
    | some d =>
      let pos := d.pos
      let s0 := ls.foldl (fun (t : State) lv => if lv.helper && (resAt fails lv.pos).isSome then t.writeLane n slot d.grp (zeroDest r lv f) else t) s
      let s1 := if fails.isEmpty || e.kind = 2 then s0
        else s0.parkLanes n slot d.grp e e.unit (ls.map (fun lv => (lv, (resAt fails lv.pos).getD .idle)))
      match s1.deal? n slot with
      | some d1 => (s1.setDeal n slot (some { d1 with pend := d1.pend ++ [⟨d1.trick, pos, w, savesOf ls, []⟩] })).advance e.who (wordsOf f)
      | none => s1

/-- The acquire action that follows a load or atomic. -/
def State.acquireOpt (s : State) (u : MemUnit) (a : Option Nat) : State :=
  match a with
  | some x => s.acquireAct u x
  | none => s

/-- End a load or atomic: deliver at once when every part has arrived, else wait. -/
def State.endAccess (s : State) (r : Row) (f : Fields) (e : Env) (ls : List LaneView) (m : MemCtx) (fails : List (Nat × LRes))
    (accs : List RAccess) : State :=
  if accs.all (·.arrived) then
    let res := fails ++ accs.filterMap (fun a => (ls.find? (fun lv => lv.pos == a.lane)).bind (fun lv => (a.result e lv).map (fun x => (a.lane, x))))
    (s.acquireOpt m.unit (if accs.isEmpty then none else acquireOf f)).finishMem r f e ls (resAt res)
  else s.holdMem r f e ls fails ⟨accs, acquireOf f⟩

/-! ### Loads (R181, R185) -/

/-- Whether an access waits for the agent's own writes to other packages (R291, R292, R377): a release at system scope, or a
sequentially consistent access, which has no place in the total order of its scope before them. -/
def State.mustWait (s : State) (m : MemCtx) (f : Fields) : Bool := (releaseOf f = some 6 || memOrder f = 5) && s.postedPending m.unit.who

/-- Whether a strong load would come before an earlier access of its lane to the same remote bytes, which is still unanswered: two such loads
never return values in the reverse of the modification order (R283). -/
def State.awaited (s : State) (e : Env) (f : Fields) (c : Checked) : Bool :=
  match e.who with
  | .col _ => false
  | .deal n slot => match s.deal? n slot with
    | some d => memOrder f != 0 && c.any (fun p => match p.2 with
      | .segs l => l.any (fun g => isRemote g.place && s.segAwaited d.pending p.1.pos g)
      | _ => false)
    | none => false

/-- A global load. -/
def loadBody : Row → Fields → Env → List LaneView → List LaneView → State → State := fun r f e ls act s =>
  let m := s.memCtx e
  let n := sizeBytes f.modx.toNat
  let aligned := r.mem = .lda
  let checks : Checked := act.map (fun lv => (lv, s.checkForm m e (globalEa ls lv f) n .load (strongScope f) aligned))
  match walksOf checks with
  | _ :: _ => s.askWalks e m (walksOf checks)
  | [] =>
    if s.mustPass e checks || s.mustWait m f || s.awaited e f checks then s.passOver e.who
    else
      let s1 := s.leaveWalks e.who m.unit.col
      let helperFails := checks.filterMap (fun p => if p.1.helper then (failRes p.2).map (fun x => (p.1.pos, x)) else none)
      let fails := failList (checks.filter (fun p => !p.1.helper))
      let go := performing e checks
      let spans := remoteSpans (go.flatMap (fun p => p.2))
      let run := go.foldl (fun (acc : List RAccess × ReadAcc) p =>
        let q := acc.2.loadSegs m.unit spans p.2 (memOrder f) (strongScope f) (memHint f != 1)
        (acc.1 ++ [⟨p.1.pos, f.dS, f.d.toNat, .load f.modx.toNat, BitVec.ofNat 64 (globalEa ls p.1 f), q.1, none⟩], q.2)) ([], ([], s1))
      run.2.2.endAccess r f e ls m (fails ++ helperFails) run.1

/-- A scratch load: own scratch, or a gang member's. -/
def scratchLoadBody (cluster : Bool) : Row → Fields → Env → List LaneView → List LaneView → State → State := fun r f e ls act s =>
  let n := sizeBytes f.modx.toNat
  s.finishMem r f e ls (resAt (act.map (fun lv =>
    let ea := scratchEa ls lv f
    (lv.pos, match s.scratchTarget e cluster ea n with
      | none => .fail (accFault e 3 0 ea false)
      | some (p, off) =>
        let v := leNat (s.scratchRead p off n)
        LRes.ok (if f.modx = 5 then setD64 lv f (BitVec.ofNat 64 v) else setD lv f (loadWord f.modx.toNat v)) 0))))

/-! ### Stores (R181 to R183, R185) -/

/-- The bytes a lane stores. -/
def storeData (r : Row) (ls : List LaneView) (lv : LaneView) (f : Fields) : List Byte :=
  leBytes (sizeBytes f.modx.toNat) (if f.modx = 5 then (srcB64 r ls lv f).toNat else (srcB r ls lv f).toNat)

/-- The pending release fence of a lane (R286). -/
def State.pendingFence (s : State) (e : Env) (lv : LaneView) : Option Nat :=
  match e.who with
  | .col c => (s.cc c).fence
  | .deal n slot =>
    match (s.deal? n slot).bind (fun d => (s.grp? n d.grp)) with
    | none => none
    | some x => if e.kind = 2 then x.fence else (mapGet? x.threads lv.tidx).bind (·.fence)

/-- Set the pending release fence of lanes. -/
def State.setFence (s : State) (e : Env) (lanes : List LaneView) (v : Option Nat) : State :=
  match e.who with
  | .col c => s.modCc c (fun x => { x with fence := v })
  | .deal n slot =>
    match s.deal? n slot with
    | none => s
    | some d =>
      if e.kind = 2 then s.modGrp n d.grp (fun x => { x with fence := v })
      else lanes.foldl (fun t lv => if lv.helper then t else t.modThr n d.grp lv.tidx (fun x => { x with fence := v })) s

/-- The wider of two scopes. -/
def widest (a b : Option Nat) : Option Nat :=
  match a, b with
  | some x, some y => some (max x y)
  | some x, none => some x
  | none, y => y

/-- The scope of the release a strong store or atomic of a lane is: its own, or that of the lane's earlier release fence (R286). -/
def State.releaseScope (s : State) (e : Env) (f : Fields) (lv : LaneView) : Option Nat :=
  if memOrder f = 0 then none else widest (releaseOf f) (s.pendingFence e lv)

/-- The release action that precedes a store or atomic. -/
def State.releaseOpt (s : State) (u : MemUnit) (a : Option Nat) : State :=
  match a with
  | some x => s.releaseAct u x
  | none => s

/-- A strong store or atomic of lanes completes their release fences (R286). -/
def State.endFences (s : State) (e : Env) (f : Fields) (lanes : List LaneView) : State :=
  if memOrder f = 0 then s else s.setFence e lanes none

/-- The places of some lanes' segments that lie in a sector. -/
def inSector (l : List Seg) (sec : Nat) : Bool := l.any (fun g => decide (g.place / 32 ≤ sec) && decide (sec ≤ (g.place + g.len - 1) / 32))

/-- A global store. -/
def storeBody : Row → Fields → Env → List LaneView → List LaneView → State → State := fun r f e ls act s =>
  let m := s.memCtx e
  let n := sizeBytes f.modx.toNat
  let aligned := r.mem = .strl
  let lanes := act.filter (fun lv => !lv.helper)
  let checks : Checked := lanes.map (fun lv => (lv, s.checkForm m e (globalEa ls lv f) n .store (strongScope f) aligned))
  match walksOf checks with
  | _ :: _ => s.askWalks e m (walksOf checks)
  | [] =>
    let go := performing e checks
    if !(go.isEmpty) && s.mustWait m f then s.passOver e.who
    else
      let rel := fun (sec : Nat) => (go.filter (fun p => inSector p.2 sec)).foldl (fun a p => widest a (s.releaseScope e f p.1)) none
      let s1 := s.leaveWalks e.who m.unit.col
      let s2 := if go.isEmpty then s1 else s1.releaseOpt m.unit (releaseOf f)
      let w := go.foldl (fun acc p => addWrite acc p.2 (storeData r ls p.1 f)) []
      let s3 := s2.storeWrites m.unit w (memOrder f) (strongScope f) rel
      (s3.endFences e f (go.map (·.1))).finishMem r f e ls (resAt (failList checks ++ (go.map (fun p => (p.1.pos, LRes.ok p.1 0)))))

/-- A scratch store. -/
def scratchStoreBody (cluster : Bool) : Row → Fields → Env → List LaneView → List LaneView → State → State := fun r f e ls act s =>
  let n := sizeBytes f.modx.toNat
  let lanes := act.filter (fun lv => !lv.helper)
  let at_ := lanes.map (fun lv => (lv, scratchEa ls lv f, s.scratchTarget e cluster (scratchEa ls lv f) n))
  let checks : Checked := at_.map (fun p => (p.1, match p.2.2 with
    | none => .fail (accFault e 3 0 p.2.1 true)
    | some _ => .segs []))
  let go := (performing e checks).map (·.1)
  let s1 := at_.foldl (fun t p => match p.2.2 with
    | some q => if go.any (fun lv => lv.pos == p.1.pos) then t.scratchWrite q.1 q.2 (storeData r ls p.1 f) else t
    | none => t) s
  (s1.endFences e f go).finishMem r f e ls (resAt (failList checks ++ go.map (fun lv => (lv.pos, LRes.ok lv 0))))

/-! ### Atomics (R187 to R190, R284, R289) -/

/-- One local atomic: the old bytes, and the write if the operation writes. -/
def State.localAtomic (s : State) (u : MemUnit) (k n scope : Nat) (release : Option Nat) (op : Nat → Option Nat) : Nat × State :=
  if isWindow k then
    let old := leNat (s.windowLoad k n)
    match op old with
    | some v => let q := placeBytes (k % 32) (leBytes n v); (old, s.windowPiece (k / 32) q.1 q.2)
    | none => (old, s)
  else
    let sec := k / 32
    let sc := s.atomScope (sec / 4) scope
    let s1 := s.atomOpen u sec sc
    let old := leNat (sectorBytes (s1.atomView u sec sc).1 (k % 32) n)
    let s2 := if sc < 4 then s1.noteRead u.who u.col sec (placeBytes (k % 32) (List.replicate n (0 : Byte))).2 else s1
    match op old with
    | some v =>
      let s3 := s2.atomWrite u sec (k % 32) (leBytes n v) sc
      match release with
      | some x => (old, if 3 ≤ x then s3.setMark (sec / 4) (some (max x (mapGet s3.marks (sec / 4) 0))) else s3)
      | none => (old, s3)
    | none => (old, s2)

/-- A remote atomic for the lanes that name one address: one request with each lane's operands in lane order, and the copies of the line
dropped (R190, R199, R373, R379). -/
def State.remoteAtomic (s : State) (u : MemUnit) (k n : Nat) (kind : AtomKind) (ops : List (D64 × D64)) (order scope : Nat) : Nat × State :=
  let s1 := (s.spoilLine (clusterOf u.col) (k / 128)).dropRemote u.col u.unit (k / 128)
  s1.sendRequest u.who k n (.atomic kind (placeAddr k) ops order scope) false

/-- What an atomic does for a lane (R187, R188): its bytes, the operation with its operand and compare value. -/
structure AtomDo where
  n : Nat
  kind : AtomKind
  operand : D64
  compare : D64

/-- What an atomic stores for an old value. -/
def AtomDo.op (a : AtomDo) (old : Nat) : Option Nat := atomResult a.kind a.operand a.compare old

/-- One lane's atomic, ready to be performed: the lane's position and thread, the place, what it does, the scope of its release, the
register that takes the old value and how, and the address. -/
structure AtomJob where
  pos : Nat
  tidx : Nat
  place : Nat
  act : AtomDo
  release : Option Nat
  dX : Bool
  dIdx : Nat
  use : RUse
  va : D64

/-- The access of a job, not yet performed. -/
def AtomJob.access (j : AtomJob) (f : Fields) : RAccess :=
  ⟨j.pos, j.dX, j.dIdx, j.use, j.va, [], some ⟨j.act.kind, j.act.operand, j.act.compare, memOrder f, memScope f, j.release⟩⟩

/-- Whether every lane of an address shares the one atomic of the access: a `meld`'s. -/
def RAccess.melded (a : RAccess) : Bool := match a.use with | .meld _ _ => true | _ => false

/-- How far the atomics of an instruction have come: their accesses, the state, the requests made for remote places, and whether the rest
must wait for an answer. -/
structure AtomRun where
  accs : List RAccess
  st : State
  reqs : List (Nat × Nat)
  halt : Bool

/-- The next atomic of an instruction, with its place if it may be performed now. Lanes that name one remote place share a request, with
their operands in lane order; those of one address of a `meld` share the one atomic. `inTurn`: after a request the rest waits. -/
def AtomRun.next (run : AtomRun) (u : MemUnit) (inTurn : Bool) (all : List (RAccess × Option Nat)) (a : RAccess) (place : Option Nat) : AtomRun :=
  match a.late, place with
  | some l, some k =>
    let n := atomWidth l.kind
    let mine := if a.melded then [a] else (all.filter (fun p => p.2 == some k)).map (·.1)
    let i := if a.melded then 0 else (mine.takeWhile (fun x => x.lane != a.lane)).length
    match run.reqs.find? (fun q => q.1 == k), run.accs.find? (fun b => a.melded && b.vaddr == a.vaddr && b.late.isNone) with
    | some q, _ => { run with accs := run.accs ++ [{ a with late := none, parts := [⟨q.2, n * i, n, none, none⟩] }] }
    | none, some b => { run with accs := run.accs ++ [{ a with late := none, parts := b.parts }] }
    | none, none =>
      if run.halt then { run with accs := run.accs ++ [a] }
      else if isRemote k then
        let rel := mine.foldl (fun r x => widest r (x.late.bind (·.release))) none
        let o := sentOrder l.order (some l.scope) rel
        let q := run.st.remoteAtomic u k n l.kind (mine.filterMap (fun x => x.late.map (fun y => (y.operand, y.compare)))) o.1 o.2
        ⟨run.accs ++ [{ a with late := none, parts := [⟨q.1, n * i, n, none, none⟩] }], q.2, run.reqs ++ [(k, q.1)], inTurn⟩
      else
        let x := run.st.localAtomic u k n l.scope l.release (fun old => atomResult l.kind l.operand l.compare old)
        { run with accs := run.accs ++ [{ a with late := none, parts := [⟨0, 0, n, none, some (.bytes (leBytes n x.1) [])⟩] }], st := x.2 }
  | _, _ => { run with accs := run.accs ++ [a] }

/-- Perform the atomics of an instruction that have a place, in the order of the list (R190, R191). -/
def State.startAtoms (s : State) (u : MemUnit) (inTurn : Bool) (all : List (RAccess × Option Nat)) : List RAccess × State :=
  let run := all.foldl (fun (r : AtomRun) p => r.next u inTurn all p.1 p.2) ⟨[], s, [], false⟩
  (run.accs, run.st)

/-- A remote place at which no request is performed: its home answers with an error (R374). -/
def refusedAtHome (k : Nat) : Bool := isRemote k && (isReservedPa (placeAddr k) || isFar (placeAddr k))

/-- Whether a job waits for the answers of its unit: a local one for those of the unit's remote ones, and every other one for that of a place
whose home will refuse it (R168, R169). A `meld` waits for the latter alone, its addresses being taken in turn (R191). -/
def AtomJob.tied (e : Env) (jobs : List AtomJob) (meld : Bool) (j : AtomJob) : Bool :=
  let mine := jobs.filter (fun x => x.tidx / e.unit == j.tidx / e.unit)
  e.unit != 1 && !(refusedAtHome j.place)
    && (mine.any (fun x => refusedAtHome x.place) || (!meld && !(isRemote j.place) && mine.any (fun x => isRemote x.place)))

/-- The jobs that wait: those tied, and whatever follows one of them at an address (R190). -/
def laterJobs (e : Env) (jobs : List AtomJob) (meld : Bool) : List Nat :=
  (jobs.foldl (fun (acc : List Nat × List Nat) j =>
    if j.tied e jobs meld || acc.2.contains j.place then (acc.1 ++ [j.pos], acc.2 ++ [j.place]) else acc) ([], [])).1

/-- Perform the jobs of an instruction in lane order, or those of a `meld` in order of address, as far as they may be now. `share`: the
accesses of the lanes that take their values from a job's. -/
def State.runAtoms (s : State) (u : MemUnit) (e : Env) (f : Fields) (jobs : List AtomJob) (meld : Bool) (share : RAccess → List RAccess) :
    List RAccess × State :=
  let later := laterJobs e jobs meld
  s.startAtoms u meld (jobs.flatMap (fun j =>
    (share (j.access f)).map (fun a => (a, if later.contains j.pos then none else some j.place))))

/-- The results of the helpers among the active lanes of an atomic (R180). -/
def helperZeros (r : Row) (f : Fields) (act : List LaneView) : List (Nat × LRes) :=
  act.filterMap (fun lv => if lv.helper then some (lv.pos, LRes.ok (zeroDest r lv f) 0) else none)

/-- Run the atomics of an instruction once the lanes that perform are known. -/
def State.doAtoms (s : State) (r : Row) (f : Fields) (e : Env) (ls act : List LaneView) (m : MemCtx) (checks : Checked)
    (mk : State → List (LaneView × List Seg) → List AtomJob) (meld : Bool) (share : RAccess → List RAccess) : State :=
  let go := performing e checks
  if !(go.isEmpty) && s.mustWait m f then s.passOver e.who
  else
    let s1 := s.leaveWalks e.who m.unit.col
    let s2 := if go.isEmpty then s1 else s1.releaseOpt m.unit (releaseOf f)
    let run := s2.runAtoms m.unit e f (mk s go) meld share
    (run.2.endFences e f (go.map (·.1))).endAccess r f e ls m (failList checks ++ helperZeros r f act) run.1

/-- The place of a checked access. -/
def firstPlace (l : List Seg) : Nat := match l with | g :: _ => g.place | [] => 0

/-- A global atomic, lane after lane in rising order (R190). -/
def atomBody (mk : Row → Fields → List LaneView → LaneView → AtomDo) :
    Row → Fields → Env → List LaneView → List LaneView → State → State := fun r f e ls act s =>
  let m := s.memCtx e
  let lanes := act.filter (fun lv => !lv.helper)
  let checks : Checked := lanes.map (fun lv => (lv, s.checkForm m e (globalEa ls lv f) (mk r f ls lv).n .atomic (some (memScope f)) true))
  match walksOf checks with
  | _ :: _ => s.askWalks e m (walksOf checks)
  | [] =>
    s.doAtoms r f e ls act m checks (fun t go => go.map (fun p =>
      let a := mk r f ls p.1
      ⟨p.1.pos, p.1.tidx, firstPlace p.2, a, t.releaseScope e f p.1, f.dS, f.d.toNat, .fetched a.n, BitVec.ofNat 64 (globalEa ls p.1 f)⟩)) false (fun a => [a])

/-- `atom` (R187). -/
def atomDo : Row → Fields → List LaneView → LaneView → AtomDo := fun r f ls lv =>
  let m := f.modx.toNat
  let b := if m = 10 || m = 11 then srcB64 r ls lv f else (srcB r ls lv f).zeroExtend 64
  ⟨atomBytes m, .rmw m, b, 0⟩

/-- `atomc` (R188): D holds the compare value. -/
def atomcDo : Row → Fields → List LaneView → LaneView → AtomDo := fun r f ls lv =>
  let wide := f.modx = 1
  let b := if wide then srcB64 r ls lv f else (srcB r ls lv f).zeroExtend 64
  let cmp := if wide then lv.read64 f.dS f.d.toNat else (lv.read f.dS f.d.toNat).zeroExtend 64
  let n := if wide then 8 else 4
  ⟨n, .cas n, b, cmp⟩

/-- `atoms` (R189). -/
def atomsBody : Row → Fields → Env → List LaneView → List LaneView → State → State := fun r f e ls act s =>
  let m := f.modx.toNat
  let n := atomBytes m
  let cluster := memScope f = 3
  let lanes := act.filter (fun lv => !lv.helper)
  let at_ := lanes.map (fun lv => (lv, scratchEa ls lv f, s.scratchTarget e cluster (scratchEa ls lv f) n))
  let checks : Checked := at_.map (fun p => (p.1, match p.2.2 with
    | none => .fail (accFault e 3 0 p.2.1 true)
    | some q => if q.2 % n = 0 then .segs [] else .fail (accFault e 4 0 p.2.1 true)))
  let go := (performing e checks).map (·.1)
  let s0 := if go.isEmpty then s else s.releaseOpt (s.memCtx e).unit (releaseOf f)
  let run := at_.foldl (fun (acc : List (Nat × LRes) × State) p => match p.2.2 with
    | some q =>
      if go.any (fun lv => lv.pos == p.1.pos) then
        let old := leNat (acc.2.scratchRead q.1 q.2 n)
        let b := if n = 8 then (srcB64 r ls p.1 f).toNat else (srcB r ls p.1 f).toNat
        let out := if n = 8 then setD64 p.1 f (BitVec.ofNat 64 old) else setD p.1 f (BitVec.ofNat 32 old)
        (acc.1 ++ [(p.1.pos, .ok out 0)], acc.2.scratchWrite q.1 q.2 (leBytes n (atomNew m old b)))
      else acc
    | none => acc) ([], s0)
  ((run.2.endFences e f go).acquireOpt (s.memCtx e).unit (if go.isEmpty then none else acquireOf f)).finishMem r f e ls
    (resAt (failList checks ++ run.1 ++ helperZeros r f act))

/-! ### Meld (R191, R192, R379) -/

/-- One step of the scan of a `meld` over values by lane. -/
def meldStep (m d : Nat) (v : List (Option Nat)) : List (Option Nat) :=
  (List.range 32).map (fun i =>
    let x := (v[i]?).join
    if d ≤ i then match (v[i - d]?).join, x with
      | some a, some b => some (atomNew m a b)
      | some a, none => some a
      | none, b => b
    else x)
/-- The inclusive scan of R105 with the operation of `meld`. -/
def meldScan (m : Nat) (v : List (Option Nat)) : List (Option Nat) := crewDists.foldl (fun acc d => meldStep m d acc) v

/-- Insert into a rising list of addresses. -/
def meldAddrs (l : List Nat) : List Nat := l.foldl (fun acc x => insNat x acc) []

/-- The values the lanes of a `meld` that name one address bring, by lane. -/
def meldVals (r : Row) (ls : List LaneView) (f : Fields) (n : Nat) (mine : List LaneView) : List (Option Nat) :=
  (List.range 32).map (fun i => (laneAt mine i).map (fun lv => if n = 8 then (srcB64 r ls lv f).toNat else (srcB r ls lv f).toNat))

/-- The lowest lane of some lanes. -/
def lowLane (ls : List LaneView) : Nat := (minOf (fun (lv : LaneView) => lv.pos) ls).getD 0

/-- The one atomic of a `meld` for an address: `total` is the inclusive result of the highest lane that names it (R191). -/
def meldJob (s : State) (r : Row) (f : Fields) (e : Env) (ls : List LaneView) (go : List (LaneView × List Seg)) (a : Nat) : Option AtomJob :=
  let op := f.modx.toNat
  let n := atomBytes op
  let mine := go.filter (fun p => globalEa ls p.1 f == a)
  let lanes := mine.map (·.1)
  match mine with
  | [] => none
  | p :: _ =>
    let scan := meldScan op (meldVals r ls f n lanes)
    let total := ((scan[lastLane lanes]?).join).getD 0
    some ⟨lowLane lanes, p.1.tidx, firstPlace p.2, ⟨n, .rmw op, BitVec.ofNat 64 total, 0⟩,
      lanes.foldl (fun b lv => widest b (s.releaseScope e f lv)) none, f.dS, f.d.toNat, .meld op none, BitVec.ofNat 64 a⟩

/-- Every lane of an address takes its value from the one atomic, in lane order: the old value, or the old value with the lane's exclusive prefix. -/
def meldShare (r : Row) (f : Fields) (ls : List LaneView) (go : List LaneView) (acc : RAccess) : List RAccess :=
  let op := f.modx.toNat
  let mine := go.filter (fun lv => globalEa ls lv f == acc.vaddr.toNat)
  let scan := meldScan op (meldVals r ls f (atomBytes op) mine)
  mine.map (fun lv => { acc with
    lane := lv.pos
    use := .meld op (if lv.pos = lowLane mine then none else ((scan[lv.pos - 1]?).join).map (BitVec.ofNat 64)) })

def meldBody : Row → Fields → Env → List LaneView → List LaneView → State → State := fun r f e ls act s =>
  let m := s.memCtx e
  let lanes := act.filter (fun lv => !lv.helper)
  let checks : Checked := lanes.map (fun lv => (lv, s.checkForm m e (globalEa ls lv f) (atomBytes f.modx.toNat) .atomic (some (memScope f)) true))
  match walksOf checks with
  | _ :: _ => s.askWalks e m (walksOf checks)
  | [] =>
    let go := (performing e checks).map (·.1)
    s.doAtoms r f e ls act m checks
      (fun t g => (meldAddrs (g.map (fun p => globalEa ls p.1 f))).filterMap (meldJob t r f e ls g))
      true (meldShare r f ls go)

/-! ### Fences and cache maintenance (R193 to R197) -/

def fenceBody : Row → Fields → Env → List LaneView → List LaneView → State → State := fun r f e ls act s =>
  let m := s.memCtx e
  let lanes := act.filter (fun lv => !lv.helper)
  if lanes.isEmpty then s.advance e.who (wordsOf f)
  else if s.mustWait m f then s.passOver e.who
  else
    let s1 := s.releaseOpt m.unit (releaseOf f)
    let s2 := match releaseOf f with
      | some x => lanes.foldl (fun (t : State) lv => t.setFence e [lv] (some (max x ((t.pendingFence e lv).getD 0)))) s1
      | none => s1
    (s2.acquireOpt m.unit (acquireOf f)).finishMem r f e ls (fun _ => none)

/-- The address ranges in places of the pages a range of addresses touches; pages that cannot be translated are skipped (R196). -/
def State.rangePlaces (s : State) (m : MemCtx) (ea len : Nat) : List (Nat × Nat × Nat) :=
  let first := ea / 32 * 32
  let last := (ea + len - 1) / 32 * 32 + 31
  (List.range (last / 2 ^ 16 - first / 2 ^ 16 + 1)).filterMap (fun i =>
    let lo := max first ((first / 2 ^ 16 + i) * 2 ^ 16)
    let hi := min last ((first / 2 ^ 16 + i) * 2 ^ 16 + 65535)
    match m.xl with
    | .physical _ => if isReservedPa lo || isFar lo || s.channelGone lo then none else some (lo, lo, hi - lo + 1)
    | .tables u asid root _ =>
      match s.translateNow u asid root (lo % 2 ^ 64) with
      | .leaf p size => if isFar (pteFrame p) then none else some (lo, s.placeOf p size lo, hi - lo + 1)
      | .fail _ => none)

/-- Whether the sector at an address is under a system lock. -/
def State.sectorHeld (s : State) (m : MemCtx) (va place : Nat) : Bool :=
  match m.xl with
  | .physical _ => s.frameLocked m.unit.col place
  | .tables _ _ _ _ => (s.col m.unit.col).locks.any (fun l => l.sys && l.meets m.asid (va / 32) (va / 32))

/-- The sectors of a range that a cache of the column holds and no system lock covers. -/
def State.rangeSectors (s : State) (m : MemCtx) (held : List Nat) (ranges : List (Nat × Nat × Nat)) : List Nat :=
  held.filter (fun sec => ranges.any (fun r =>
    decide (r.2.1 ≤ 32 * sec) && decide (32 * sec < r.2.1 + r.2.2) && !(s.sectorHeld m (r.1 + (32 * sec - r.2.1)) (32 * sec))))

/-- The columns whose slices are narrower than a scope (R280): none below die scope. -/
def narrowSlices (scope c : Nat) : List Nat := if scope < 4 then [] else scopeCols scope c

/-- `cwb` for one range (R195): copies in the slices narrower than the scope are written back. -/
def State.rangeClean (s : State) (m : MemCtx) (scope ea len : Nat) : State :=
  if len = 0 then s
  else
    let ranges := s.rangePlaces m ea len
    (narrowSlices scope m.unit.col).foldl (fun t c =>
      (t.rangeSectors m ((t.col c).slice.map (·.1)) ranges).foldl (fun u sec => if isRemote (32 * sec) then u else u.writeBack c sec) t) s

/-- A range leaves the block caches of every array core of some columns (R273). -/
def State.dropBlocks (s : State) (m : MemCtx) (cols : List Nat) (ranges : List (Nat × Nat × Nat)) : State :=
  { s with cores := s.cores.map (fun e =>
      if cols.contains (coreColumn e.1) then
        let gone := s.rangeSectors m (e.2.blocks.map (·.1)) ranges
        (e.1, { e.2 with blocks := e.2.blocks.filter (fun b => !(gone.contains b.1)) })
      else e) }

/-- `cinv` for one range (R196, R273): copies in caches narrower than the scope go, dirty bytes written back first, line fills in flight are
not kept, and at column scope or wider the range leaves the block caches. -/
def State.rangeInval (s : State) (m : MemCtx) (scope ea len : Nat) : State :=
  if len = 0 then s
  else
    let ranges := s.rangePlaces m ea len
    let cols := scopeCols scope m.unit.col
    let s0 := s.dropBlocks m cols ranges
    let s1 := cols.foldl (fun t c => (List.range 13).foldl (fun v u =>
      (v.rangeSectors m ((v.l1 c u).map (·.1)) ranges).foldl (fun w sec => w.dropL1 c u sec) v) t) s0
    let s2 := s1.spoilFills cols (fun line => ranges.any (fun r => decide (r.2.1 / 128 ≤ line) && decide (line ≤ (r.2.1 + r.2.2 - 1) / 128)))
    (narrowSlices scope m.unit.col).foldl (fun t c =>
      (t.rangeSectors m ((t.col c).slice.map (·.1)) ranges).foldl (fun u sec => u.evict c sec) t) s2

/-- Whether an access of the agent to a range of places, a store or atomic of R195 among them, is not yet acknowledged or answered. -/
def State.rangePosted (s : State) (m : MemCtx) (ea len : Nat) : Bool :=
  len != 0 && (s.rangePlaces m ea len).any (fun r => isRemote r.2.1 && s.fabric.live.any (fun l =>
    l.agent == m.unit.who && l.pkg == placePkg r.2.1
      && decide (32 * l.first < placeAddr r.2.1 + r.2.2) && decide (placeAddr r.2.1 < 32 * (l.last + 1))))

/-- `cwb` and `cinv` over the active lanes. -/
def rangeBody (inval : Bool) : Row → Fields → Env → List LaneView → List LaneView → State → State := fun r f e ls act s =>
  let m := s.memCtx e
  let lanes := act.filter (fun lv => !lv.helper)
  let args := lanes.map (fun lv => (globalEa ls lv f, (srcB r ls lv f).toNat))
  if args.any (fun a => s.rangePosted m a.1 a.2) then s.passOver e.who
  else
    (args.foldl (fun t a => if inval then t.rangeInval m (memScope f) a.1 a.2 else t.rangeClean m (memScope f) a.1 a.2) s).finishMem r f e ls
      (fun _ => none)

/-- A prefetch of one address (R197). -/
def State.prefetch (s : State) (e : Env) (m : MemCtx) (ea : Nat) (toL1 : Bool) : State :=
  let s1 := match m.xl with
    | .tables u asid root _ => s.translateNote u asid root ea
    | .physical _ => s
  match s1.checkGlobal m e ea 1 .load none with
  | .segs [g] =>
    let locked := (s1.col m.unit.col).locks.any (fun l => l.meets m.asid (ea / 32) (ea / 32))
    if isRemote g.place || isWindow g.place || locked then s1
    else
      let sec := g.place / 32
      let s2 := s1.fillSlice m.unit.col sec
      let x := s2.sliceView m.unit.col sec
      if toL1 && !(s2.slicePoison m.unit.col sec) && (mapGet? (s2.l1 m.unit.col m.unit.unit) sec).isNone then
        s2.fillL1 m.unit.col m.unit.unit sec x.data
      else s2
  | _ => s1

def prefBody : Row → Fields → Env → List LaneView → List LaneView → State → State := fun r f e ls act s =>
  let m := s.memCtx e
  let lanes := act.filter (fun lv => !lv.helper)
  (lanes.foldl (fun t lv => t.prefetch e m (globalEa ls lv f) (f.modx = 0)) s).finishMem r f e ls (fun _ => none)

/-! ### Meanings -/

def execLd (f : Fields) (s : State) : Out State := .next (runMem (.ld f) loadBody s)
def execLdMem (f : Fields) (s : State) : Out State := .next (runMem (.ldMem f) loadBody s)
def execLda (f : Fields) (s : State) : Out State := .next (runMem (.lda f) loadBody s)
def execSt (f : Fields) (s : State) : Out State := .next (runMem (.st f) storeBody s)
def execStMem (f : Fields) (s : State) : Out State := .next (runMem (.stMem f) storeBody s)
def execStrl (f : Fields) (s : State) : Out State := .next (runMem (.strl f) storeBody s)
def execLds (f : Fields) (s : State) : Out State := .next (runMem (.lds f) (scratchLoadBody false) s)
def execLdsMem (f : Fields) (s : State) : Out State := .next (runMem (.ldsMem f) (scratchLoadBody false) s)
def execLdc (f : Fields) (s : State) : Out State := .next (runMem (.ldc f) (scratchLoadBody true) s)
def execLdcMem (f : Fields) (s : State) : Out State := .next (runMem (.ldcMem f) (scratchLoadBody true) s)
def execSts (f : Fields) (s : State) : Out State := .next (runMem (.sts f) (scratchStoreBody false) s)
def execStsMem (f : Fields) (s : State) : Out State := .next (runMem (.stsMem f) (scratchStoreBody false) s)
def execStc (f : Fields) (s : State) : Out State := .next (runMem (.stc f) (scratchStoreBody true) s)
def execStcMem (f : Fields) (s : State) : Out State := .next (runMem (.stcMem f) (scratchStoreBody true) s)
def execAtom (f : Fields) (s : State) : Out State := .next (runMem (.atom f) (atomBody atomDo) s)
def execAtomc (f : Fields) (s : State) : Out State := .next (runMem (.atomc f) (atomBody atomcDo) s)
def execAtoms (f : Fields) (s : State) : Out State := .next (runMem (.atoms f) atomsBody s)
def execMeld (f : Fields) (s : State) : Out State := .next (runMem (.meld f) meldBody s)
def execFence (f : Fields) (s : State) : Out State := .next (runMem (.fence f) fenceBody s)
def execCwb (f : Fields) (s : State) : Out State := .next (runMem (.cwb f) (rangeBody false) s)
def execCinv (f : Fields) (s : State) : Out State := .next (runMem (.cinv f) (rangeBody true) s)
def execPref (f : Fields) (s : State) : Out State := .next (runMem (.pref f) prefBody s)
def execPrefMem (f : Fields) (s : State) : Out State := .next (runMem (.prefMem f) prefBody s)

/-! ### Events: a walk ends, and what an issuer stands at (R33, R349, R350, R373) -/

/-- PAGE_WALK_COMPLETE. -/
def execPageWalkComplete (col : Nat) (s : State) : Out State := .next (s.completeWalk col)

/-- What the outstanding accesses of an issuer wait for. -/
def State.waitsOf (s : State) : Issuer → List RWait
  | .col c => (s.cc c).wait.toList
  | .deal n slot => match s.deal? n slot with
    | some d => d.pend.map (·.wait)
    | none => []
/-- Change the outstanding accesses of an issuer. -/
def State.modWaits (s : State) (who : Issuer) (f : RWait → RWait) : State :=
  match who with
  | .col c => s.modCc c (fun x => { x with wait := x.wait.map f })
  | .deal n slot => match s.deal? n slot with
    | some d => s.setDeal n slot (some { d with pend := d.pend.map (fun p => { p with wait := f p.wait }) })
    | none => s

/-- The row and the fields of the instruction at a position of a body. -/
def standsAt (body : List W) (pos : Nat) : Option (Row × Fields) :=
  match bodyInstr body pos with
  | some i => match rowOf i, fieldsOf i with
    | some r, some f => some (r, f)
    | _, _ => none
  | none => none

/-- What has come of the access of a lane, once it has arrived: a fault, or nothing to say yet. -/
def RAccess.fault (a : RAccess) (e : Env) (lv : LaneView) : Option (Nat × LRes) :=
  match a.result e lv with
  | some r => if r.isFail then some (a.lane, r) else none
  | none => none

/-- The checks of a late atomic as it is performed: its page is looked up again. -/
def State.lateCheck (s : State) (m : MemCtx) (e : Env) (a : RAccess) (l : LateAtom) : AccRes × State :=
  let va := a.vaddr.toNat
  match m.xl with
  | .physical _ => (s.checkForm m e va (atomWidth l.kind) .atomic (some l.scope) true, s)
  | .tables u asid root _ =>
    match s.translateNow u asid root va with
    | .fail code => (.fail (accFault e 16 code va true), s)
    | .leaf _ _ =>
      let t := s.translateNote u asid root va
      (t.checkForm m e va (atomWidth l.kind) .atomic (some l.scope) true, t)

/-- Perform the late atomics of the lanes for which `ok` holds, their pages looked up again; `inTurn`: after a request the rest waits. -/
def State.lateAtoms (s : State) (m : MemCtx) (e : Env) (ok : Nat → Bool) (inTurn : Bool) (accs : List RAccess) : List RAccess × State :=
  let look := accs.foldl (fun (acc : List (RAccess × Option Nat) × State) a =>
    match a.late with
    | some l =>
      if !(ok a.lane) then (acc.1 ++ [(a, none)], acc.2)
      else match acc.2.lateCheck m e a l with
        | (.segs (g :: _), t) => (acc.1 ++ [(a, some g.place)], t)
        | (_, t) => (acc.1 ++ [(a, none)], t)
    | none => (acc.1 ++ [(a, none)], acc.2)) ([], s)
  look.2.startAtoms m.unit inTurn look.1

/-- The faults among the arrived accesses of an instruction, those of its late atomics included. -/
def State.settleFaults (s : State) (m : MemCtx) (e : Env) (ls : List LaneView) (accs : List RAccess) : List (Nat × LRes) :=
  accs.filterMap (fun a => match a.late, ls.find? (fun lv => lv.pos == a.lane) with
    | none, some lv => a.fault e lv
    | some l, some _ => (failRes (s.lateCheck m e a l).1).map (fun x => (a.lane, x))
    | _, none => none)

/-- Put a lane's registers back as they were when an instruction issued. -/
def State.restoreLane (s : State) (n : Nat) (d : Deal) (v : LaneSave) : State :=
  if hdrKind d.hdr = 2 then s.modGrp n d.grp (fun x => { x with s := v.s, q := v.q, k := v.k })
  else match mapGet? ((s.grp? n d.grp).map (·.threads) |>.getD []) v.tidx with
    | some _ => s.modThr n d.grp v.tidx (fun t => { t with v := v.v, q := v.q, k := v.k })
    | none => s

/-- What a lane's registers at a later instruction take of an earlier one's result. -/
def LaneSave.note (v : LaneSave) (a : RAccess) (bs : List Byte) : LaneSave :=
  let lv := a.deliver bs ⟨a.lane, v.tidx, false, v.v, v.s, v.q, v.k, fun _ => 0⟩
  { v with v := lv.v, s := lv.s, q := lv.q, k := lv.k }

/-- What the later instructions of a trick keep once an earlier one has its answers: lanes whose units faulted have left, and the
registers saved for the others take their values. -/
def Pend.follow (p : Pend) (trick : Nat) (lanes : List Lane) (gone : Nat → Bool) (accs : List RAccess) : Option Pend :=
  if p.trick != trick then some p
  else
    let left := p.wait.accs.filter (fun a => !(gone a.lane))
    let at_ := fun (v : LaneSave) => (lanes.find? (fun l => l.tidx == v.tidx)).bind (fun l => accs.find? (fun a => a.lane == l.pos))
    if left.isEmpty then none
    else some { p with
      wait := { p.wait with accs := left }
      saves := p.saves.map (fun v => match at_ v with
        | some a => (match gather 0 a.parts with | .bytes bs => v.note a bs | _ => v)
        | none => v) }

/-- The pending instructions of a deal after a change of some: flags of those that go stay with the pending instruction of the trick before
them, or join the accumulator where there is none (R38). `drops`: the flags that are taken back. -/
def Deal.refile (d : Deal) (change : Pend → Option Pend) (drops : Pend → Nat → Bool) : Deal :=
  d.pend.foldl (fun (t : Deal) p =>
    let kept := p.flags.filter (fun x => !(drops p x.1))
    match change p with
    | some q => { t with pend := t.pend ++ [{ q with flags := kept }] }
    | none => kept.foldl (fun u x => u.addFlags p.trick x.1 x.2) t) { d with pend := [] }

/-- A pending instruction of a trick has its answers: the registers are written, units with a fault return to the instruction with the
registers and flags they had and park (log 31), an acquire takes its action (R33, R168, R169, R374). Atomics that waited for the answers are performed; while a
system lock covers one, or one brings a request of its own, the instruction goes on waiting. -/
def State.settle (s : State) (n slot : Nat) (d : Deal) (p : Pend) : State :=
  match s.grp? n d.grp, standsAt d.body p.pos with
  | some x, some (r, f) =>
    let e := d.envAt n slot p.pos
    let m := s.memCtx e
    let lanes := d.trickLanes p.trick
    let ls := lanes.map (laneView s n d x)
    let faults := s.settleFaults m e ls p.wait.accs
    if faults.any (fun q => match q.2 with | .held _ => true | _ => false) then s
    else
      let bad := faults.filter (fun q => (ls.find? (fun lv => lv.pos == q.1)).any (fun lv => !lv.helper))
      let unitOf := fun (pos : Nat) => (ls.find? (fun lv => lv.pos == pos)).map (fun lv => lv.tidx / e.unit)
      let gone := fun (pos : Nat) => bad.any (fun q => unitOf q.1 == unitOf pos)
      let run := s.lateAtoms m e (fun pos => !(gone pos)) true p.wait.accs
      if run.1.any (fun a => !a.arrived) then
        run.2.setDeal n slot (some { d with pend := d.pend.map (fun q => if q = p then { q with wait := { q.wait with accs := run.1 } } else q) })
      else
        let res := faults ++ run.1.filterMap (fun a => (ls.find? (fun lv => lv.pos == a.lane)).bind (fun lv => (a.result e lv).map (fun y => (a.lane, y))))
        let out := ls.map (fun lv => (lv, match resAt res lv.pos with
          | some y => helperRes r f lv y
          | none => .idle))
        let back := fun (tidx : Nat) => ls.any (fun lv => lv.tidx == tidx && gone lv.pos)
        let d1 := d.refile (fun q => if q = p then none else q.follow p.trick lanes gone run.1) (fun q tidx => q.trick == p.trick && back tidx)
        let s0 := if bad.isEmpty then run.2 else run.2.leaveWalksIf (· == (.deal n slot, p.trick)) (coreColumn n)
        let s1 := (s0.setDeal n slot (some d1)).acquireOpt m.unit p.wait.acquire
        let s2 := (p.saves.filter (fun v => back v.tidx)).foldl (fun t v => t.restoreLane n d v) s1
        if e.kind = 2 then
          match out with
          | (_, LRes.fail i) :: _ => s2.stopScalar n slot d1 i
          | (_, .ok lv _) :: _ => s2.modGrp n d.grp (fun y => { y with s := lv.s, q := lv.q, k := lv.k })
          | _ => s2
        else
          let s3 := s2.commitThreads n slot d e out
          match s3.deal? n slot with
          | some d3 => if d3.empty then s3.setDeal n slot (some { d3 with done := true, pend := [] }) else s3
          | none => s3
  | _, _ => s

/-- The pending instruction of a deal whose answers are taken next: the first in order of issue that has them all; one with a fault
follows those of its trick before it. -/
def Deal.answered (d : Deal) : Option Pend :=
  d.pend.find? (fun p =>
    let bad := p.wait.accs.any (fun a => a.late.isSome || (match gather 0 a.parts with | .poisoned _ | .failed _ => true | _ => false))
    p.wait.accs.all (·.arrived) && !(bad && (d.pend.takeWhile (fun q => q != p)).any (fun q => q.trick == p.trick)))

end Sys2Proof.Machine
end

