-- ==== Sys2Proof/Machine/EngineInstr.lean ====
section
/-! DEFINITION. Matrix, copy, fabric, task and group instructions, and the events of the engines (R200 to R224, R300 to R311,
R418). -/

namespace Sys2Proof.Machine

/-! ### Shared shapes -/

/-- An engine-argument fault (R222). -/
def Env.engineArg (e : Env) (code : Nat) : FaultInfo := e.fault 9 code

/-- The lowest code whose test holds (R418). -/
def lowestCode (l : List (Nat × Bool)) : Option Nat := (l.find? (·.2)).map (·.1)

/-- End an instruction of a scalar block with one result. -/
def State.finishOne (s : State) (f : Fields) (e : Env) (lv : LaneView) (res : LRes) : State := s.commit e [(lv, res)] (wordsOf f)

/-- The body of an instruction legal only in group-scalar blocks. -/
def groupBody (body : Row → Fields → Env → Nat → Nat → Group → LaneView → State → State) :
    Row → Fields → Env → List LaneView → List LaneView → State → State := fun r f e _ act s =>
  match s.issueGroup e, act with
  | some (n, g, x), lv :: _ => body r f e n g x lv s
  | _, _ => s

/-- The scalar context of the issuing deal waits outside its slot (R258). -/
def State.waitOut (s : State) (e : Env) (w : ScalarWait) : State :=
  match e.who with
  | .deal n slot => match s.deal? n slot with
    | some d => s.scalarWait n slot d w
    | none => s
  | .col _ => s

/-! ### Flags and pots (R202, R203) -/

def potarmBody : Row → Fields → Env → Nat → Nat → Group → LaneView → State → State := fun r f e n g x lv s =>
  let a := (srcA [lv] lv f).toNat
  let p := a % 16
  let fl := a / 16 % 16
  let amount := (srcB r [lv] lv f).toNat
  let pot := x.pot p
  match lowestCode [(1, a / 256 != 0 || 11 < fl), (2, decide (0 < pot.rem) && pot.flag != fl)] with
  | some code => s.finishOne f e lv (.fail (e.engineArg code))
  | none =>
    let s1 := s.modGrp n g (fun y => { y with pots := mapSet y.pots p { pot with flag := fl } })
    (s1.potAdd n g p amount e.pc).finishOne f e lv (.ok lv 0)

/-- `fset`: each active thread that is no helper applies the operation to its group's flags. -/
def fsetBody (clear : Bool) : Row → Fields → Env → List LaneView → List LaneView → State → State := fun r f e ls act s =>
  match s.issueGroup e with
  | none => s
  | some (n, g, _) =>
    let lanes := act.filter (fun lv => !lv.helper)
    let checks : Checked := lanes.map (fun lv => (lv,
      if (srcB r ls lv f).toNat / 2 ^ 12 != 0 then .fail (e.engineArg 1) else .segs []))
    let s1 := (performing e checks).foldl (fun t p =>
      let m : BitVec 12 := (srcB r ls p.1 f).setWidth 12
      t.modGrp n g (fun y => { y with soft := if clear then y.soft &&& ~~~m else y.soft ||| m })) s
    s1.finishMem r f e ls (resAt (failList checks))

/-! ### Accepting commands (R204, R208, R209, R418) -/

/-- How many engine commands of a body stand before a position (R47). -/
def cmdsBefore : Nat → List W → Nat → Nat
  | 0, _, _ => 0
  | fuel + 1, ws, pos =>
    if pos = 0 then 0
    else match decode ws with
      | .error _ => 0
      | .ok (i, rest) =>
        let n := ws.length - rest.length
        (match rowOf i with | some r => (if isEngineOp r.op then 1 else 0) | none => 0) + cmdsBefore fuel rest (pos - n)

/-- The flag SETA or SETB binds the command at the deal's position to. -/
def Deal.boundFlag (d : Deal) : Option Nat :=
  let k := cmdsBefore (d.body.length + 1) d.body d.pos
  let v := if k = 0 then hdrSetA d.hdr else hdrSetB d.hdr
  if v < 12 then some v else none

/-- A command with nothing but its operation, group and place of issue. -/
def Cmd.blank (op g : Nat) (pc : D64) (flag : Option Nat) : Cmd :=
  { id := 0, grp := g, op := op, pc := pc, flag := flag, wmask := 0, pot := 0, pen := false, d := 0, a := 0, len := 0, rows := 0,
    sstride := 0, dstride := 0, aux1 := 0, aux2 := 0, dsp := 0, ssp := 0, rsvA := none, rsvB := none, z := 0, phase := .accepted,
    started := false, lists := [], prog := 0, tags := [], redo := [], err := none, noRoute := none }

/-- The word at an offset of group scratch. -/
def Group.scratchWord (x : Group) (off : Nat) : W := BitVec.ofNat 32 (leNat ((List.range 4).map (fun j => mapGet x.scratch (off + j) unwritten)))

/-- The command of a 32-byte command record (R208). -/
def recordCmd (x : Group) (b : Nat) (c : Cmd) (d a : D64) : Cmd :=
  let w := fun (o : Nat) => x.scratchWord (b + o)
  let ctrl := (w 0x1C).toNat
  { c with wmask := BitVec.ofNat 12 (fieldOf ctrl 31 20), pot := fieldOf ctrl 19 16, pen := bitOf ctrl 15, dsp := fieldOf ctrl 11 10,
           ssp := fieldOf ctrl 9 8, aux2 := w 0x18, aux1 := w 0x14, dstride := w 0x10, sstride := w 0x0C, rows := w 0x08, len := w 0,
           d := d, a := a }

/-- Engine-argument, code 1, of a command record (R208, R209, R211). -/
def recordBad (c : Cmd) (reserved ctrl : W) : Bool :=
  let strided := c.op = 0x168 || c.op = 0x169 || c.op = 0x16A
  reserved != 0 || fieldOf ctrl.toNat 14 12 != 0 || fieldOf ctrl.toNat 7 0 != 0 || c.dsp = 3 || c.ssp = 3
    || (c.op != 0x16A && c.aux2 != 0)
    || (c.op != 0x169 && c.op != 0x16A && c.aux1 != 0)
    || (c.op != 0x168 && c.op != 0x169 && c.dstride != 0)
    || (!strided && (c.sstride != 0 || c.rows != 0)) || decide (2 ^ 24 < c.rows.toNat)
    || (c.op = 0x16A && (!([1, 2, 4, 8].contains c.len.toNat) || c.aux1.toNat % 4 != 0 || c.aux2.toNat % 4 != 0))
    || (c.op = 0x16C && c.dsp != 0) || (c.op = 0x16D && c.ssp != 0)
    || (c.dsp != 0 && hiWord c.d != 0) || (c.ssp != 0 && hiWord c.a != 0)

/-- A side in cluster scratch whose rank lies outside the gang (R173). -/
def outOfRank (gang : Nat) : Side → Bool
  | .global _ => false
  | .scratch rank _ => decide (gang ≤ rank)

/-- The spans fixed by LEN, ROWS and the strides: of the source and of the destination (R209). -/
def fixedSpans (c : Cmd) : Option (Int × Int) × Option (Int × Int) :=
  let m := { c with lists := List.replicate c.rows.toNat 0 }.moves
  if c.op = 0x16A then (none, none) else if c.op = 0x169 then (none, dstSpan m) else (srcSpan m, dstSpan m)

/-- Build a copy or fabric command for one thread, or its fault (R418). -/
def buildCopy (s : State) (x : Group) (c : Cmd) (e : Env) (b : Nat) (d a : D64) : Except FaultInfo Cmd :=
  let r := s.recOf x
  let k := s.rankOf x
  if b % 4 ≠ 0 then .error (accFault e 4 0 b false)
  else if r.scratchBytes < b + 32 then .error (accFault e 3 0 b false)
  else
    let q := recordCmd x b c d a
    let sp := fixedSpans q
    match lowestCode [(1, recordBad q (x.scratchWord (b + 4)) (x.scratchWord (b + 0x1C))),
        (3, q.op = 0x167 && sidesOverlap (q.src k) sp.1 (q.dst k) sp.2)] with
    | some code => .error (e.engineArg code)
    | none =>
      if outOfRank r.gang (q.src k) || outOfRank r.gang (q.dst k) || outOfScratch r.scratchBytes (q.src k) sp.1
          || outOfScratch r.scratchBytes (q.dst k) sp.2 then .error (e.fault 3 0)
      else .ok q

/-- Whether a queue has room for commands of a group (R204). -/
def State.queueRoom (s : State) (n g op k : Nat) : Bool :=
  if isMatrixOp op then decide (((s.core n).matrix.cmds.filter (fun c => c.grp == g)).length + k ≤ 32)
  else decide ((s.core n).copyq.length + k ≤ 256)

/-- Accept a command into its queue. -/
def State.acceptCmd (s : State) (n : Nat) (c : Cmd) : State :=
  let q := { c with id := s.nextId }
  let s1 := { s with nextId := s.nextId + 1 }
  s1.modCore n (fun y => if isMatrixOp c.op then { y with matrix := { y.matrix with cmds := y.matrix.cmds ++ [q] } }
    else { y with copyq := y.copyq ++ [q] })

/-- The lanes of an engine command: those in units with a fault issue nothing; the commands of the others are accepted in lane
order once they all find an entry. -/
def engineBody (build : State → Row → Fields → Env → List LaneView → Nat → Group → Cmd → LaneView → Except FaultInfo Cmd) :
    Row → Fields → Env → List LaneView → List LaneView → State → State := fun r f e ls act s =>
  match e.who, s.issueGroup e with
  | .deal n slot, some (_, g, x) =>
    match s.deal? n slot with
    | none => s
    | some d =>
      let c := Cmd.blank r.op g e.pc d.boundFlag
      let lanes := act.filter (fun lv => !lv.helper)
      let built := lanes.map (fun lv => (lv, build s r f e ls n x c lv))
      let checks : Checked := built.map (fun p => (p.1, match p.2 with | .error i => .fail i | .ok _ => .segs []))
      let go := performing e checks
      let cmds := built.filterMap (fun p => if go.any (fun q => q.1.pos == p.1.pos) then p.2.toOption else none)
      if !(s.queueRoom n g r.op cmds.length) then s
      else
        let s1 := cmds.foldl (fun t q => t.acceptCmd n q) s
        s1.finishMem r f e ls (resAt (failList checks))
  | _, _ => s

/-- `cpy` to `cpyr`, `fwrb`, `frdb`. -/
def copyBuild : State → Row → Fields → Env → List LaneView → Nat → Group → Cmd → LaneView → Except FaultInfo Cmd :=
  fun s r f e ls _ x c lv => buildCopy s x c e (srcB r ls lv f).toNat (lv.read64 f.dS f.d.toNat) (srcA64 ls lv f)

/-- The command word of a matrix command (R215). -/
def matrixWord (c : Cmd) (mw : Nat) : Cmd :=
  { c with wmask := BitVec.ofNat 12 (fieldOf mw 31 20), pot := fieldOf mw 19 16, pen := bitOf mw 15 }

def matrixBuild : State → Row → Fields → Env → List LaneView → Nat → Group → Cmd → LaneView → Except FaultInfo Cmd :=
  fun s r f e ls n x c lv =>
  let mw := (srcB r ls lv f).toNat
  let m := (s.core n).matrix
  let oba := mapGet? m.rsv (fieldOf mw 13 11)
  let obb := mapGet? m.rsv (fieldOf mw 10 8)
  let z := fieldOf mw 7 2
  let foreign := m.owner != some c.grp
  let pair := srcA64 ls lv f
  let base := matrixWord c mw
  let tests : List (Nat × Bool) :=
    if c.op = 0x163 then [(1, fieldOf mw 10 0 != 0 || (bitOf mw 14 && hiWord pair != 0)), (4, foreign || oba.isNone)]
    else if c.op = 0x164 then
      [(1, bitOf mw 14 || fieldOf mw 1 0 != 0), (4, foreign || oba.isNone || obb.isNone),
       (5, match oba, obb with | some a, some b => a.k != b.k || !(fmtsMatch a.fmt b.fmt) | _, _ => false),
       (6, decide (x.tiles.length ≤ z))]
    else [(1, fieldOf mw 14 8 != 0 || fieldOf mw 1 0 != 0), (4, foreign), (6, decide (x.tiles.length ≤ z))]
  match lowestCode tests with
  | some code => .error (e.engineArg code)
  | none =>
    .ok (if c.op = 0x163 then { base with a := pair, ssp := if bitOf mw 14 then 1 else 0, rsvA := oba }
      else if c.op = 0x164 then { base with rsvA := oba, rsvB := obb, z := z } else { base with z := z })

/-! ### The matrix engine's instructions (R213, R214, R216) -/

/-- A group becomes owner: the buffer reads zero and no reservation is valid. -/
def Matrix.give (m : Matrix) (g : Nat) : Matrix := { m with owner := some g, rsv := [], buf := [] }

def macqBody : Row → Fields → Env → Nat → Nat → Group → LaneView → State → State := fun _ f e n g _ lv s =>
  let a := (srcA [lv] lv f).toNat
  let fl := a % 16
  let m := (s.core n).matrix
  let answer := fun (t : State) (v : W) => t.finishOne f e lv (.ok (setD lv f v) 0)
  if a / 16 != 0 || (12 ≤ fl && fl != 15) then s.finishOne f e lv (.fail (e.engineArg 1))
  else if m.owner = some g || m.queue.any (fun q => q.1 == g) then answer s 2
  else if m.owner.isNone && m.queue.isEmpty then answer (s.modCore n (fun y => { y with matrix := y.matrix.give g })) 1
  else answer (s.modCore n (fun y => { y with matrix := { y.matrix with
    queue := y.matrix.queue ++ [(g, if fl = 15 then none else some fl)] } })) 0

/-- Give up ownership of the engine, or a place in its queue. -/
def State.leaveMatrix (s : State) (n g : Nat) : State :=
  s.modCore n (fun y => { y with matrix := { y.matrix with
    owner := if y.matrix.owner = some g then none else y.matrix.owner, queue := y.matrix.queue.filter (fun q => q.1 != g) } })

def mrelBody : Row → Fields → Env → Nat → Nat → Group → LaneView → State → State := fun _ f e n g _ lv s =>
  let m := (s.core n).matrix
  if m.owner = some g && m.cmds.any (fun c => c.grp == g) then s.waitOut e .mrel
  else (s.leaveMatrix n g).finishOne f e lv (.ok lv 0)

/-- A reservation from RESW0 and RESW1, with its index; none when a rule of R214 is broken. -/
def rsvOf (w0 w1 : Nat) : Option (Nat × Rsv) :=
  let r : Rsv := ⟨fieldOf w0 25 16, fieldOf w0 15 6, fieldOf w0 5 3, fieldOf w1 31 30, fieldOf w1 23 0⟩
  if r.base + r.sizeM1 + 1 > 1024 || r.k % 32 != 0 || (r.bl != 0 && 2 ≤ r.fmt) || (r.bl != 0 && r.k % scaleBlock r.bl != 0)
      || r.soff % 2 != 0 || fieldOf w0 31 26 != 0 || fieldOf w1 29 24 != 0 then none
  else some (w0 % 8, r)

def mresBody : Row → Fields → Env → Nat → Nat → Group → LaneView → State → State := fun r f e n g _ lv s =>
  let v := rsvOf (srcA [lv] lv f).toNat (srcB r [lv] lv f).toNat
  match lowestCode [(4, (s.core n).matrix.owner != some g), (5, v.isNone)], v with
  | none, some (i, q) =>
    (s.modCore n (fun y => { y with matrix := { y.matrix with rsv := mapSet y.matrix.rsv i q } })).finishOne f e lv (.ok lv 0)
  | some code, _ => s.finishOne f e lv (.fail (e.engineArg code))
  | none, none => s

/-- What `mrd` delivers to one lane (R216). -/
def mrdFn (x : Group) : RowFn := fun _ f e ls lv =>
  let a := (srcA ls lv f).toNat
  let z := fieldOf a 13 8
  let m := f.modx.toNat
  match lowestCode [(1, fieldOf a 31 14 != 0 || fieldOf a 7 6 != 0), (6, decide (x.tiles.length ≤ z))] with
  | some code => .fail (e.engineArg code)
  | none =>
    let t := x.tiles[z]?.getD []
    let i := 64 * (a % 64) + 2 * lv.pos
    let lo := getReg t i
    let hi := getReg t (i + 1)
    if m = 0 || m = 5 then .ok (setD64 lv f (pairOf lo hi)) 0
    else
      let dst := if m = 1 then fmtBf16 else if m = 2 then fmtF16 else if m = 3 then fmtE4m3 else fmtE5m2
      let p := fconv fmtF32 dst e.fmode lo.toNat
      let q := fconv fmtF32 dst e.fmode hi.toNat
      let w := if m ≤ 2 then 65536 else 256
      flagged e lv (setD lv f (BitVec.ofNat 32 (p.1 + w * q.1))) (p.2 ||| q.2)

/-- `mrd` waits for the commands that write the tiles its lanes name. Whether one accepted while it waits counts as accepted before it R216 does
not say: the model waits for it too (DESIGN CHOICE, log 54). -/
def mrdBody : Row → Fields → Env → List LaneView → List LaneView → State → State := fun r f e ls act s =>
  match s.issueGroup e with
  | none => s
  | some (n, g, x) =>
    let tiles := act.map (fun lv => fieldOf (srcA ls lv f).toNat 13 8)
    if (s.core n).matrix.cmds.any (fun c => c.grp == g && (c.op == 0x164 || c.op == 0x165) && tiles.contains c.z) then s
    else s.commit e (laneResults r f (mrdFn x r f) e ls) (wordsOf f)

/-! ### Tasks (R217, R218) -/

def spawnBody : Row → Fields → Env → List LaneView → List LaneView → State → State := fun r f e ls act s =>
  match s.issueGroup e with
  | none => s
  | some (n, g, _) =>
    let lanes := act.filter (fun lv => !lv.helper)
    let checks : Checked := lanes.map (fun lv => (lv, if (srcA64 ls lv f).toNat % 4 != 0 then .fail (e.illegal 9) else .segs []))
    let run := (performing e checks).foldl (fun (acc : List (Nat × LRes) × State) p =>
      match acc.2.grp? n g with
      | none => acc
      | some y =>
        if y.shoe.length < 1024 then
          (acc.1 ++ [(p.1.pos, .ok (setD p.1 f 1) 0)],
            acc.2.modGrp n g (fun z => { z with shoe := z.shoe ++ [(srcA64 ls p.1 f, srcB64 r ls p.1 f)] }))
        else (acc.1 ++ [(p.1.pos, .ok (setD p.1 f 0) 0)], acc.2)) ([], s)
    let helpers := act.filterMap (fun lv => if lv.helper then some (lv.pos, LRes.ok (setD lv f 0) 0) else none)
    run.2.finishMem r f e ls (resAt (failList checks ++ run.1 ++ helpers))

/-- TASKS of the launch record's FLAGS (R329). -/
def LaunchRec.tasks (r : LaunchRec) : Bool := r.flags.getLsbD 2
def LaunchRec.excl (r : LaunchRec) : Bool := r.flags.getLsbD 1
def LaunchRec.early (r : LaunchRec) : Bool := r.flags.getLsbD 0

/-- `tstat`. -/
def tstatWord (s : State) (x : Group) : W :=
  let i := s.instOf x
  BitVec.ofNat 32 (65536 * x.shoe.length + (if i.lrec.tasks then 2 else 0) + (if i.quiet then 1 else 0))

def tstatFn (s : State) : RowFn := fun _ f e _ lv =>
  match s.issueGroup e with
  | some (_, _, x) => .ok (setD lv f (tstatWord s x)) 0
  | none => .idle

/-! ### Barriers (R219) -/

/-- Groups of a grid. -/
def LaunchRec.groups (r : LaunchRec) : Nat := r.gdimx * r.gdimy * r.gdimz
/-- The flat indices of the members of a barrier: the grid, or one gang. -/
def barMembers (r : LaunchRec) (grid : Bool) (gang : Nat) : List Nat :=
  if grid then List.range r.groups else (List.range r.gang).map (fun i => gang * r.gang + i)

def Inst.bar (i : Inst) (grid : Bool) (gang : Nat) : Barrier := if grid then i.gridBar else mapGet i.gangBars gang Barrier.fresh
def Inst.setBar (i : Inst) (grid : Bool) (gang : Nat) (b : Barrier) : Inst :=
  if grid then { i with gridBar := b } else { i with gangBars := mapSet i.gangBars gang b }

/-- The resident groups of an instance: core, index, group. -/
def State.residents (s : State) (inst : Nat) : List (Nat × Nat × Group) :=
  s.cores.flatMap (fun e => (e.2.groups.filter (fun g => g.2.inst == inst)).map (fun g => (e.1, g.1, g.2)))

/-- Whether a group waits at a barrier for an episode. -/
def Group.atBar (x : Group) (grid : Bool) : Option Nat :=
  match x.scalar with
  | .waiting (.gbar k ep) _ => if k = grid then some ep else none
  | _ => none

/-- Once every member has arrived or retired, the episode ends: each cluster that holds waiting groups gets its release time. -/
def State.barrierTest (s : State) (inst : Nat) (grid : Bool) (gang : Nat) : State :=
  match s.inst? inst with
  | none => s
  | some i =>
    let b := i.bar grid gang
    let here := (barMembers i.lrec grid gang).all (fun m => b.arrived.contains m || i.retired.contains m)
    if !here || b.arrived.isEmpty then s
    else
      let waiting := (s.residents inst).filter (fun e => e.2.2.atBar grid == some b.ep && b.arrived.contains e.2.2.gflat)
      let cls := (waiting.map (fun e => clusterOf (coreColumn e.1))).foldl (fun l c => insNat c l) []
      let times := cls.zipIdx.map (fun c => (c.1, s.tick + (((c.2 : Int) - b.ep).emod cls.length).toNat * s.gbarGap))
      s.modInst inst (fun j => j.setBar grid gang ⟨b.ep + 1, [], times⟩)

/-- A retired group counts as arrived at every barrier it belongs to. -/
def State.barrierRetire (s : State) (inst gflat : Nat) : State :=
  match s.inst? inst with
  | none => s
  | some i => (s.barrierTest inst true 0).barrierTest inst false (gflat / i.lrec.gang)

def gbarBody (grid : Bool) : Row → Fields → Env → Nat → Nat → Group → LaneView → State → State := fun _ _ e n g x _ s =>
  let r := s.recOf x
  let gang := x.gflat / r.gang
  let s1 := s.releaseAct (engUnit n g) (if grid then 5 else 3)
  let ep := ((s.instOf x).bar grid gang).ep
  let s2 := s1.modInst x.inst (fun i => let b := i.bar grid gang; i.setBar grid gang { b with arrived := insNat x.gflat b.arrived })
  (s2.waitOut e (.gbar grid ep)).barrierTest x.inst grid gang

/-- GBAR_CLUSTER_RELEASE: the waiting groups of an instance whose cluster's release time has come receive the episode number and
acquire. -/
def State.releaseBarriers (s : State) (inst : Nat) : State :=
  (s.residents inst).foldl (fun t e =>
    let x := e.2.2
    match x.scalar, t.inst? inst with
    | .waiting (.gbar grid ep) d, some i =>
      let b := i.bar grid (x.gflat / i.lrec.gang)
      let cl := clusterOf (coreColumn e.1)
      let due := b.release.all (fun r => r.1 != cl || decide (r.2 ≤ t.tick))
      if ep < b.ep && due then
        (t.acquireAct (engUnit e.1 e.2.1) (if grid then 5 else 3)).modGrp e.1 e.2.1 (fun y =>
          { y with scalar := .ready d (some (BitVec.ofNat 32 ep)) })
      else t
    | _, _ => t) s

/-! ### Holdings (R220) -/

/-- A granted extended block or tiles: the registers read 0. -/
def Group.grantX (x : Group) : Group := { x with xheld := true }
def Group.grantTiles (x : Group) (n : Nat) : Group := { x with tiles := x.tiles ++ List.replicate n [] }

/-- Release the extended block: its registers read 0 when it is granted again. -/
def Group.dropX (x : Group) (base : Nat) : Group :=
  { x with xheld := false, threads := x.threads.map (fun t => (t.1, { t.2 with v := t.2.v.filter (fun r => decide (r.1 < base)) })) }

/-- What a holding request needs: granules. -/
def waitNeeds (r : LaunchRec) : ScalarWait → Option Nat
  | .rxacq => some r.xGranules
  | .zacq n => some n
  | _ => none

/-- The contexts of a core that wait for a holding, by admission. -/
def ACore.holdWaiters (y : ACore) : List (Nat × Group × ScalarWait × Deal) :=
  y.groups.filterMap (fun e => match e.2.scalar with
    | .waiting (.rxacq) d => some (e.1, e.2, .rxacq, d)
    | .waiting (.zacq n) d => some (e.1, e.2, .zacq n, d)
    | _ => none)

/-- Whether a group may take granules now: enough are free and no context admitted earlier waits. -/
def State.holdFree (s : State) (n : Nat) (x : Group) (need : Nat) : Bool :=
  decide (need ≤ s.freeGranules n) && (s.core n).holdWaiters.all (fun w => decide (x.admitSeq ≤ w.2.1.admitSeq))

def rxacqBody : Row → Fields → Env → Nat → Nat → Group → LaneView → State → State := fun _ f e n g x lv s =>
  let r := s.recOf x
  let answer := fun (t : State) (v : W) => t.finishOne f e lv (.ok (setD lv f v) 0)
  if r.xreg = 0 || x.xheld then answer s 2
  else if s.holdFree n x r.xGranules then answer (s.modGrp n g Group.grantX) 0
  else if x.xheld || !(x.tiles.isEmpty) then answer s 1
  else s.waitOut e .rxacq

def zacqBody : Row → Fields → Env → Nat → Nat → Group → LaneView → State → State := fun _ f e n g x lv s =>
  let r := s.recOf x
  let k := (srcA [lv] lv f).toNat
  let answer := fun (t : State) (v : W) => t.finishOne f e lv (.ok (setD lv f v) 0)
  if k = 0 || r.zmax < x.tiles.length + k then answer s 3
  else if s.holdFree n x k then answer (s.modGrp n g (fun y => y.grantTiles k)) 0
  else if x.xheld || !(x.tiles.isEmpty) then answer s 1
  else s.waitOut e (.zacq k)

def rxrelBody : Row → Fields → Env → Nat → Nat → Group → LaneView → State → State := fun _ f e n g x lv s =>
  (if x.xheld then s.modGrp n g (fun y => y.dropX (s.recOf x).base) else s).finishOne f e lv (.ok lv 0)

def zrelBody : Row → Fields → Env → Nat → Nat → Group → LaneView → State → State := fun _ f e n g x lv s =>
  let keep := x.tiles.length - (srcA [lv] lv f).toNat
  if (s.core n).matrix.cmds.any (fun c => c.grp == g && (c.op == 0x164 || c.op == 0x165) && decide (keep ≤ c.z)) then s
  else (s.modGrp n g (fun y => { y with tiles := y.tiles.take keep })).finishOne f e lv (.ok lv 0)

/-- HOLDING_GRANT: the waiting context admitted first, once its granules are free. -/
def State.grantHolding (s : State) (n : Nat) : State :=
  match argMin (fun (w : Nat × Group × ScalarWait × Deal) => w.2.1.admitSeq) (s.core n).holdWaiters with
  | none => s
  | some (g, x, w, d) =>
    match waitNeeds (s.recOf x) w with
    | none => s
    | some need =>
      if s.freeGranules n < need then s
      else s.modGrp n g (fun y =>
        let y1 := match w with
          | .zacq k => y.grantTiles k
          | _ => y.grantX
        { y1 with scalar := .ready d (some 0) })

/-! ### Modes, records and time (R221 to R223) -/

/-- `setfm`: the context's `fmode`, and with `.clr` its `fstat` and the accumulator of the executing block. -/
def setfmBody : Row → Fields → Env → List LaneView → List LaneView → State → State := fun r f e ls act s =>
  match act with
  | [] => s
  | lv :: _ =>
    let v := fmodeMask (srcB r ls lv f)
    let clr := f.modx = 1
    let s1 := match e.who with
      | .col c => s.modCc c (fun x => { x with fmode := v, fstat := if clr then 0 else x.fstat, acc := if clr then 0 else x.acc })
      | .deal n slot =>
        match s.deal? n slot with
        | none => s
        | some d =>
          (s.modGrp n d.grp (fun x => { x with fmode := v, fstat := if clr then 0 else x.fstat })).setDeal n slot
            (some { d with acc := if clr then 0 else d.acc })
    s1.finishOne f e lv (.ok lv 0)

/-- A field of a trap record (R222). -/
def trapField (t : FaultInfo) (sel : Nat) : W :=
  match sel with
  | 0 => BitVec.ofNat 32 t.cause
  | 1 => BitVec.ofNat 32 t.code
  | 2 => loWord t.pc
  | 3 => hiWord t.pc
  | 4 => loWord t.next
  | 5 => hiWord t.next
  | _ => BitVec.ofNat 32 (256 * (t.pos % 4) + t.flags.toNat)

/-- `getsr`. -/
def getsrFn (s : State) : RowFn := fun _ f e ls lv =>
  let a := (srcA ls lv f).toNat
  let sel := a % 256
  let v : W := match s.issueGroup e with
    | none => 0
    | some (n, g, x) =>
      if sel ≤ 6 then
        (if e.kind = 2 || lv.helper then 0
         else match (mapGet? x.threads lv.tidx).bind (·.trap) with
          | some t => trapField t sel
          | none => 0)
      else if sel = 0x10 then BitVec.ofNat 32 (s.flagWord n g)
      else if sel = 0x11 then
        (let m := (s.core n).matrix
         if m.owner = some g then 2 else if m.queue.any (fun q => q.1 == g) then 1 else 0)
      else if sel = 0x20 then BitVec.ofInt 32 (x.pot (a / 256 % 16)).rem
      else if sel = 0x21 then BitVec.ofInt 32 ((x.pot (a / 256 % 16)).rem / 2 ^ 32)
      else 0
  .ok (setD lv f v) 0

/-- The die of the issuing agent. -/
def Env.die (e : Env) : Nat := match e.who with | .col c => dieOf c | .deal n _ => dieOf (coreColumn n)

def tickFn (s : State) : RowFn := fun _ f _ _ lv => .ok (setD64 lv f (BitVec.ofNat 64 s.tick)) 0
def cycFn (s : State) : RowFn := fun _ f e _ lv => .ok (setD64 lv f (BitVec.ofNat 64 (s.cyc e.die))) 0

/-! ### Meanings of the instructions -/

def execMacq (f : Fields) (s : State) : Out State := .next (runMem (.macq f) (groupBody macqBody) s)
def execMrel (f : Fields) (s : State) : Out State := .next (runMem (.mrel f) (groupBody mrelBody) s)
def execMres (f : Fields) (s : State) : Out State := .next (runMem (.mres f) (groupBody mresBody) s)
def execMresLit (f : Fields) (s : State) : Out State := .next (runMem (.mresLit f) (groupBody mresBody) s)
def execMstg (f : Fields) (s : State) : Out State := .next (runMem (.mstg f) (engineBody matrixBuild) s)
def execMma (f : Fields) (s : State) : Out State := .next (runMem (.mma f) (engineBody matrixBuild) s)
def execMzro (f : Fields) (s : State) : Out State := .next (runMem (.mzro f) (engineBody matrixBuild) s)
def execMrd (f : Fields) (s : State) : Out State := .next (runMem (.mrd f) mrdBody s)
def execCpy (f : Fields) (s : State) : Out State := .next (runMem (.cpy f) (engineBody copyBuild) s)
def execCpyLit (f : Fields) (s : State) : Out State := .next (runMem (.cpyLit f) (engineBody copyBuild) s)
def execCpy2 (f : Fields) (s : State) : Out State := .next (runMem (.cpy2 f) (engineBody copyBuild) s)
def execCpy2Lit (f : Fields) (s : State) : Out State := .next (runMem (.cpy2Lit f) (engineBody copyBuild) s)
def execCpyg (f : Fields) (s : State) : Out State := .next (runMem (.cpyg f) (engineBody copyBuild) s)
def execCpygLit (f : Fields) (s : State) : Out State := .next (runMem (.cpygLit f) (engineBody copyBuild) s)
def execCpyr (f : Fields) (s : State) : Out State := .next (runMem (.cpyr f) (engineBody copyBuild) s)
def execCpyrLit (f : Fields) (s : State) : Out State := .next (runMem (.cpyrLit f) (engineBody copyBuild) s)
def execFwrb (f : Fields) (s : State) : Out State := .next (runMem (.fwrb f) (engineBody copyBuild) s)
def execFwrbLit (f : Fields) (s : State) : Out State := .next (runMem (.fwrbLit f) (engineBody copyBuild) s)
def execFrdb (f : Fields) (s : State) : Out State := .next (runMem (.frdb f) (engineBody copyBuild) s)
def execFrdbLit (f : Fields) (s : State) : Out State := .next (runMem (.frdbLit f) (engineBody copyBuild) s)
def execPotarm (f : Fields) (s : State) : Out State := .next (runMem (.potarm f) (groupBody potarmBody) s)
def execPotarmLit (f : Fields) (s : State) : Out State := .next (runMem (.potarmLit f) (groupBody potarmBody) s)
def execSpawn (f : Fields) (s : State) : Out State := .next (runMem (.spawn f) spawnBody s)
def execTstat (f : Fields) (s : State) : Out State := .next (runRow (.tstat f) (tstatFn s) s)
def execGbarGang (f : Fields) (s : State) : Out State := .next (runMem (.gbarGang f) (groupBody (gbarBody false)) s)
def execGbarGrid (f : Fields) (s : State) : Out State := .next (runMem (.gbarGrid f) (groupBody (gbarBody true)) s)
def execRxacq (f : Fields) (s : State) : Out State := .next (runMem (.rxacq f) (groupBody rxacqBody) s)
def execRxrel (f : Fields) (s : State) : Out State := .next (runMem (.rxrel f) (groupBody rxrelBody) s)
def execZacq (f : Fields) (s : State) : Out State := .next (runMem (.zacq f) (groupBody zacqBody) s)
def execZrel (f : Fields) (s : State) : Out State := .next (runMem (.zrel f) (groupBody zrelBody) s)
def execSetfm (f : Fields) (s : State) : Out State := .next (runMem (.setfm f) setfmBody s)
def execSetfmLit (f : Fields) (s : State) : Out State := .next (runMem (.setfmLit f) setfmBody s)
def execGetsr (f : Fields) (s : State) : Out State := .next (runRow (.getsr f) (getsrFn s) s)
def execTick (f : Fields) (s : State) : Out State := .next (runRow (.tick f) (tickFn s) s)
def execCyc (f : Fields) (s : State) : Out State := .next (runRow (.cyc f) (cycFn s) s)
def execFsetSet (f : Fields) (s : State) : Out State := .next (runMem (.fsetSet f) (fsetBody false) s)
def execFsetSetLit (f : Fields) (s : State) : Out State := .next (runMem (.fsetSetLit f) (fsetBody false) s)
def execFsetClr (f : Fields) (s : State) : Out State := .next (runMem (.fsetClr f) (fsetBody true) s)
def execFsetClrLit (f : Fields) (s : State) : Out State := .next (runMem (.fsetClrLit f) (fsetBody true) s)

/-! ### Events of the engines -/

/-- An error found at the beginning of a command waits for its ENGINE_ERROR turn. -/
def Cmd.failed (c : Cmd) (code : Nat) : Cmd := { c with phase := .begun, started := true, err := some code }

/-- A command ends: its entry, hold and locks go in one step (R200, R204, R310), and a context waiting in `mrel` goes on. -/
def State.endCmd (s : State) (n : Nat) (c : Cmd) : State :=
  let s1 := (s.dropCmd n c.id).releaseLocks (.cmd n c.id)
  match s1.grp? n c.grp with
  | some x =>
    match x.scalar with
    | .waiting .mrel d =>
      if (s1.core n).matrix.cmds.any (fun q => q.grp == c.grp) then s1 else s1.modGrp n c.grp (fun y => { y with scalar := .ready d none })
    | _ => s1
  | none => s1

/-- A command stops with an engine-error (R207). -/
def State.failCmd (s : State) (n : Nat) (c : Cmd) (code : Nat) : State :=
  ((s.unsend (c.tags.map (·.tag))).endCmd n c).engineStop n c.grp code c.pc

/-- ENGINE_COMMAND_BEGIN: the wait mask reads clear; lists are read, ranges checked and locks asked for. A begun fabric command
makes its requests. A copy command whose WMASK only commands accepted after it can clear: R205 says both that it never starts and that the
copy engine starts a command as soon as its WMASK allows; the model starts it once the flag reads clear (DESIGN CHOICE, log 52). -/
def State.beginCmd (s : State) (n id : Nat) : State :=
  match s.cmd? n id with
  | none => s
  | some c =>
    match s.grp? n c.grp with
    | none => s
    | some x =>
      let first := !(isMatrixOp c.op) || ((s.core n).matrix.cmds.head?).map (·.id) == some id
      let send := fun (t : State) => match t.cmd? n id with
        | some q =>
          if q.phase = .begun && isFabricOp q.op && q.err.isNone then
            match t.runCmd n q with
            | (.error code, u) => (match u.cmd? n id with | some w => u.markErr n w code | none => u)
            | (_, u) => u
          else t
        | none => t
      match c.phase with
      | .accepted =>
        if !first || !(c.started || s.flagsClear n c.grp c.wmask) then s
        else match (if c.started then .ok c else s.withLists x c) with
          | .error code => s.modCmd n id (fun q => q.failed code)
          | .ok c1 =>
            match s.planError x c1 with
            | some code => s.modCmd n id (fun q => q.failed code)
            | none => send ((s.modCmd n id (fun _ => { c1 with phase := .waitingLock, started := true })).requestLocks
                ⟨.cmd n id, s.cmdEntries n x c1⟩)
      | .begun => send s
      | _ => s

/-- Whether a command has bytes another package still owes. -/
def State.cmdOwed (s : State) (n id : Nat) : Bool := match s.cmd? n id with | some c => !(c.tags.isEmpty) | none => false

/-- ENGINE_COMMAND_COMPLETE. -/
def State.completeCmd (s : State) (n id : Nat) : State :=
  match s.cmd? n id with
  | none => s
  | some c =>
    if c.phase != .begun then s
    else match s.runCmd n c with
      | (.done, t) =>
        if t.cmdOwed n id then t
        else if isMatrixOp c.op then t.endCmd n c
        else (t.endCmd n c).noteIssue (coreColumn n) 2 (min 15 ((movesBytes c.moves + 255) / 256))
      | _ => s

/-- ENGINE_COMMAND_SUSPEND: the locks go and a record of SRC 2 is posted (R207, R310). What an `frdb` has asked for and not yet got is
asked for again: it writes nothing while it holds no lock. -/
def State.suspendCmd (s : State) (n id : Nat) : State :=
  match s.cmd? n id with
  | none => s
  | some c =>
    if c.phase != .begun then s
    else match s.runCmd n c with
      | (.suspend cause code va wr, t) =>
        let tags := match t.cmd? n id with | some q => if q.op = 0x16D then q.tags else [] | none => []
        let t1 := ((t.unsend (tags.map (·.tag))).modCmd n id (fun q => { q with
          phase := .suspended
          tags := if q.op = 0x16D then [] else q.tags
          redo := q.redo ++ tags.map (fun k => (k.off, k.len)) })).releaseLocks (.cmd n id)
        match t1.grp? n c.grp with
        | none => t1
        | some x => t1.postRec (coreColumn n) (faultRec n c.grp (t1.ctxOf x)
            ⟨cause, code, c.pc, BitVec.ofNat 64 va, if wr then 128 else 0, 0, 0⟩ 2 0 x.slotBase [] id)
      | _ => s

/-- ENGINE_ERROR. -/
def State.errorCmd (s : State) (n id : Nat) : State :=
  match s.cmd? n id with
  | none => s
  | some c =>
    if c.phase != .begun then s
    else match s.runCmd n c with
      | (.error code, t) => t.failCmd n c code
      | _ => s

/-- MATRIX_OWNERSHIP_GRANT. -/
def State.grantMatrix (s : State) (n : Nat) : State :=
  let m := (s.core n).matrix
  match m.owner, m.queue with
  | none, q :: rest => s.modCore n (fun y => { y with matrix := { (y.matrix.give q.1) with queue := rest } })
  | _, _ => s

def execGbarClusterRelease (n : Nat) (s : State) : Out State := .next (s.releaseBarriers n)
def execHoldingGrant (core : Nat) (s : State) : Out State := .next (s.grantHolding core)
def execEngineCommandBegin (core id : Nat) (s : State) : Out State := .next (s.beginCmd core id)
def execEngineCommandComplete (core id : Nat) (s : State) : Out State := .next (s.completeCmd core id)
def execEngineCommandSuspend (core id : Nat) (s : State) : Out State := .next (s.suspendCmd core id)
def execEngineError (core id : Nat) (s : State) : Out State := .next (s.errorCmd core id)
def execMatrixOwnershipGrant (core : Nat) (s : State) : Out State := .next (s.grantMatrix core)

end Sys2Proof.Machine
end

