-- ==== Sys2Proof/Machine/Dealer.lean ====
section
/-! DEFINITION. The dealer of an array core: dealable hands, the choice, making a deal, its end, the rescan, the active set, the
ante, tasks, the resumption of scalar contexts, and retirement (R31, R35, R43, R250 to R268). -/

namespace Sys2Proof.Machine

/-! ### Units of a hand (R254, R265) -/

/-- Ready units of a return hand: WAIT and `park` masks are ignored; gathered, QH and group-scalar threads return as units (R170, R265,
R266). `h.addr = hd` names the block's first instruction, whose units are those of a first deal: members in the block's plain hand join them,
ready as R254 says. `v`: the header, if it can be read. -/
def State.returnUnits (s : State) (n : Nat) (x : Group) (h : Hand) (hd : D64) (v : Option D64) : List (List Nat) :=
  let first := h.addr = hd
  let plain := fun (t : Nat) => (s.core n).deck.any (fun k => k.is h.grp hd none && k.bits.contains t)
  let here := fun (e : Nat × Thread) => (e.2.st = .waiting && e.2.next = hd && e.2.ret = some h.addr && h.bits.contains e.1)
    || (first && s.threadReady n h.grp false hd e.2 && plain e.1)
  let size := match v with | some w => unitSize w | none => 1
  if v.any (fun w => hdrKind w == 2) then
    (if !(x.live.isEmpty) && x.live.all here && !(s.inFlight n h.grp) then [x.live.map (·.1)] else [])
  else if size = 1 then h.bits.map (fun t => [t])
  else
    (((h.bits.map (· / size)).eraseDups).filterMap (fun u =>
      let m := x.unitOf size u
      if first then (if m.all here then some (m.map (·.1)) else none)
      else if m.any (fun e => e.2.st = .parked && e.2.next = hd) then none
      else some ((m.filter here).map (·.1)))).filter (fun u => !(u.isEmpty))

/-- Ready units of a hand, by the header the dealer holds for it. A hand whose header cannot be read or is none an array core executes counts
as a thread block: its deal finds the fault (R43, R255). -/
def State.handUnits (s : State) (n g : Nat) (x : Group) (h : Hand) (noFlags : Bool) : List (List Nat) :=
  let v := h.header s n x
  match h.ret with
  | some hd => s.returnUnits n x h hd v
  | none =>
    match v with
    | some v =>
      if !noFlags && !(s.flagsClear n g (hdrWait v)) then []
      else s.readyUnits n g x v h.addr noFlags (fun t => h.bits.contains t)
    | none => (x.live.filter (fun e => h.bits.contains e.1 && s.threadReady n g noFlags h.addr e.2)).map (fun e => [e.1])

/-- Whether a hand would be dealable but for the active set: its group is neither stopped nor being saved. -/
def State.handOpen (s : State) (n : Nat) (h : Hand) : Option Group :=
  match s.grp? n h.grp with
  | some x => if x.stopped || x.saving then none else some x
  | none => none

/-- The dealable hands of a core with their units, active set or not. -/
def State.openHands (s : State) (n : Nat) : List (Hand × Group × List (List Nat)) :=
  (s.core n).deck.filterMap (fun h =>
    match s.handOpen n h with
    | none => none
    | some x =>
      let u := s.handUnits n h.grp x h false
      if u.isEmpty then none else some (h, x, u))

/-! ### What the dealer observes over time (R252, R254, R259, R261) -/

/-- Kitty entries of a core in use (R264). -/
def State.kittyUsed (s : State) (n : Nat) : Nat :=
  ((s.core n).groups.map (fun e => (e.2.threads.filter (fun t => t.2.entry)).length)).sum

/-- A slot whose ended deal still holds parked threads without an entry (R264). -/
def State.slotHeld (s : State) (n slot : Nat) : Bool :=
  match s.deal? n slot with
  | some d => d.held
  | none => false

/-- A hand's HELD: it counts while the hand is blocked on flags, stands still otherwise, and is reset when a unit is ready. -/
def State.noteHeld (s : State) (n : Nat) (now : Nat) (h : Hand) : Hand :=
  match s.grp? n h.grp with
  | none => h
  | some x =>
    if !((s.handUnits n h.grp x h false).isEmpty) then { h with held := 0, heldFrom := none }
    else if !((s.handUnits n h.grp x h true).isEmpty) then { h with heldFrom := some (h.heldFrom.getD now) }
    else { h with held := h.held + (match h.heldFrom with | some t => now - t | none => 0), heldFrom := none }

/-- HELD at a moment. -/
def Hand.heldAt (h : Hand) (now : Nat) : Nat := h.held + (match h.heldFrom with | some t => now - t | none => 0)

/-- The dealer reads the header of the block of a hand it holds none for (R273). -/
def State.noteHeader (s : State) (n : Nat) (h : Hand) : Hand :=
  match s.grp? n h.grp with
  | some x => { h with hdr := h.header s n x }
  | none => h

/-- Whether a trick of a deal waits at its instruction for the agent's writes to other packages (R195, R291, R377). -/
def State.awaitsPosted (s : State) (n slot : Nat) (d : Deal) (t : Nat) : Bool :=
  match standsAt d.body d.pos, s.grp? n d.grp with
  | some (r, f), some x =>
    let e := d.envAt n slot d.pos
    let m := s.memCtx e
    let ls := (d.trickLanes t).map (laneView s n d x)
    let act := ls.filter (fun lv => laneActive f lv && !lv.helper)
    !(act.isEmpty) && (illegal r e f).isNone && (match r.mem with
      | .lda | .strl | .atom | .fence => s.mustWait m f
      | .cache => act.any (fun lv => s.rangePosted m (globalEa ls lv f) (srcB r ls lv f).toNat)
      | _ => false)
  | _, _ => false

/-- Whether a deal can go on with none of its tricks: each waits for another package. -/
def State.dealStuck (s : State) (n slot : Nat) (d : Deal) : Bool :=
  !d.done && (d.trick :: d.todo).all (fun t => { d with trick := t }.blocked || s.awaitsPosted n slot d t)

/-- Whether ante time does not count: both slots wait on other packages, a slot waits for kitty entries, or the core is saving a group; a
restore takes no time of its own here (R261). -/
def State.antePause (s : State) (n : Nat) : Bool :=
  let far := fun (slot : Nat) => match s.deal? n slot with | some d => s.dealStuck n slot d | none => false
  (far 0 && far 1) || s.slotHeld n 0 || s.slotHeld n 1 || s.savings.any (fun v => v.groups.any (fun g => g.1 == n))

/-- Slots with an owed bit, from the slot after the last one served, wrapping: slot, group, thread (R253). -/
def State.owedSlots (s : State) (n : Nat) : List (Nat × Nat × Nat) :=
  let l := (s.core n).groups.flatMap (fun e => (e.2.threads.filter (fun t => t.2.owed && t.2.st = .waiting)).map (fun t => (e.2.slotBase + t.1, e.1, t.1)))
  let key := fun (slot : Nat) => (slot + 4096 - ((s.core n).rescanPtr + 1) % 4096) % 4096
  l.foldl (fun acc e => insertBy key e acc) []
where
  insertBy (key : Nat → Nat) (e : Nat × Nat × Nat) : List (Nat × Nat × Nat) → List (Nat × Nat × Nat)
    | [] => [e]
    | f :: r => if key e.1 < key f.1 then e :: f :: r else f :: insertBy key e r

/-- The time that has passed since the last look moves the ante of every group on, where it does not count. -/
def Group.paused (x : Group) (ticks : Nat) : Group := { x with anteFrom := x.anteFrom.map (· + ticks) }

/-- The dealer looks at the core, as it does at every moment (`State.watch`): the headers of its hands and their HELD, since when each active
group has been idle, from when each group's ante counts, and the beat of the rescan. -/
def State.observe (s0 : State) (n : Nat) : State :=
  let y0 := s0.core n
  let late := if y0.antePaused then s0.tick - y0.looked else 0
  let s := s0.modCore n (fun y => { y with
    deck := y.deck.map (s0.noteHeader n)
    groups := y.groups.map (fun e => (e.1, e.2.paused late)) })
  let now := s.ecyc (coreColumn n)
  let openH := s.openHands n
  let has := fun (g : Nat) => openH.any (fun e => e.1.grp == g)
  let scalarWaits := fun (x : Group) => match x.scalar with | .waiting _ _ => true | _ => false
  let beat := decide (y0.lastRescan / 4096 < now / 4096)
  let owed := !((s.owedSlots n).isEmpty)
  let pause := s.antePause n
  s.modCore n (fun y => { y with
    deck := y.deck.map (s.noteHeld n now)
    groups := y.groups.map (fun e =>
      let idle := e.2.active && (scalarWaits e.2 || !(has e.1)) && !((match y.deal0 with | some d => d.grp = e.1 | none => false)
        || (match y.deal1 with | some d => d.grp = e.1 | none => false))
      (e.1, { e.2 with
        idleSince := if idle then some (e.2.idleSince.getD now) else none
        anteFrom := if has e.1 then some (e.2.anteFrom.getD s.tick) else e.2.anteFrom }))
    lastRescan := if beat then now else y.lastRescan
    rescanDue := y.rescanDue || (beat && owed)
    looked := s.tick
    antePaused := pause })

/-- Whether a group's ante is due (R261). -/
def State.anteDueNow (s : State) (n : Nat) (x : Group) : Bool :=
  let y := s.core n
  x.anteDue || (match x.anteFrom with | some t => decide (t + 3000 ≤ if y.antePaused then y.looked else s.tick) | none => false)

/-! ### Choosing (R256) -/

/-- Keep the elements with the least value of a function. -/
def keepMin {α : Type} (f : α → Nat) (l : List α) : List α :=
  match minOf f l with
  | none => []
  | some m => l.filter (fun a => f a == m)

/-- A candidate: its hand, its group and its ready units. -/
abbrev Cand := Hand × Group × List (List Nat)

/-- When a group was last dealt; never counts as earliest. -/
def dealAge (x : Group) : Nat := match x.lastDeal with | some t => t + 1 | none => 0

/-- The steps of R256. What it does not settle the model settles so (DESIGN CHOICE, log 36): in step 1, of due groups dealt last at one tick
or never dealt, the one whose hand stands first in the deck; a return hand ranks in POLICY 1 and in ties by its key, the address of its
instruction; of a return hand and a plain hand of one group and address, the first in the deck. -/
def State.chooseFrom (s : State) (n : Nat) (l : List Cand) : Option Cand :=
  let y := s.col (coreColumn n)
  let due := l.filter (fun c => s.anteDueNow n c.2.1)
  let p1 := if due.isEmpty then l else
    match keepMin (fun (c : Cand) => dealAge c.2.1) due with
    | c :: _ => due.filter (fun d => d.1.grp == c.1.grp)
    | [] => due
  let aged := p1.filter (fun c => decide (y.age ≤ c.1.pass))
  let p2 := if aged.isEmpty then p1 else keepMin (fun (c : Cand) => 255 - c.1.pass) aged
  let p3 := keepMin (fun (c : Cand) => 3 - (s.recOf c.2.1).prio) p2
  let p4 := if y.policy = 0 then keepMin (fun (c : Cand) => 1024 - c.2.2.length) p3 else keepMin (fun (c : Cand) => c.1.addr.toNat) p3
  (keepMin (fun (c : Cand) => c.1.grp) (keepMin (fun (c : Cand) => c.1.addr.toNat) p4)).head?

/-- The candidates of a decision: dealable hands of the active set; while a slot is held for kitty entries only return deals and
group-scalar deals (R264). -/
def State.candidatesOf (s : State) (n : Nat) : List Cand :=
  let tight := s.slotHeld n 0 || s.slotHeld n 1
  (s.openHands n).filter (fun c => c.2.1.active && (!tight || c.1.ret.isSome ||
    (match c.1.header s n c.2.1 with | some v => hdrKind v = 2 | none => false)))

/-- The hand a decision chooses. -/
def State.choice (s : State) (n : Nat) : Option Cand := s.chooseFrom n (s.candidatesOf n)

/-- PASS of every dealable hand after a decision (R256). -/
def State.countPasses (s : State) (n : Nat) (chosen : Hand) : State :=
  let others := (s.openHands n).filter (fun c => c.2.1.active)
  s.modCore n (fun y => { y with deck := y.deck.map (fun h =>
    if h.is chosen.grp chosen.addr chosen.ret then { h with pass := 0 }
    else if others.any (fun c => c.1.is h.grp h.addr h.ret) then { h with pass := min 255 (h.pass + 1) } else h) })

/-! ### Making a deal (R31, R35, R37, R43, R257, R266) -/

/-- A list in runs of k. -/
def chunks {α : Type} (k : Nat) (l : List α) : List (List α) :=
  if k = 0 then [] else (List.range ((l.length + k - 1) / k)).map (fun i => (l.drop (k * i)).take k)

/-- A lane with a thread. -/
def threadLane (pos t : Nat) : Lane := ⟨pos, t, none, false⟩
/-- The helpers of a quad: the indices at or above the thread count of the group's last quad that hold no thread (R35). -/
def helperLanes (x : Group) (nt q pos : Nat) : List Lane :=
  if nt = 0 || q ≠ (nt - 1) / 4 then []
  else (List.range 4).filterMap (fun j =>
    let t := 4 * q + j
    if nt ≤ t && !(x.live.any (fun e => e.1 == t)) then some ⟨pos + j, t, some ⟨[], 0, []⟩, false⟩ else none)

/-- Insert a lane by position. -/
def laneInsert (l : Lane) : List Lane → List Lane
  | [] => [l]
  | m :: r => if l.pos < m.pos then l :: m :: r else m :: laneInsert l r
def laneSort (l : List Lane) : List Lane := l.foldl (fun acc x => laneInsert x acc) []

/-- A quad joins the first trick in which its lanes are free. -/
def placeQuad (base : Nat) (ls : List Lane) : List (List (Nat × List Lane)) → List (List (Nat × List Lane))
  | [] => [[(base, ls)]]
  | t :: r => if t.any (fun e => e.1 == base) then t :: placeQuad base ls r else ((base, ls) :: t) :: r

/-- The lanes of a quad from a first lane on. -/
def quadLanes (x : Group) (nt base : Nat) (u : List Nat) : List Lane :=
  laneSort (u.map (fun t => threadLane (base + t % 4) t) ++ helperLanes x nt ((u.head?.getD 0) / 4) base)

/-- The quads of a return deal, each in the lanes in which it parked (R170). -/
def formerQuads (x : Group) (nt : Nat) (units : List (List Nat)) : List (List Lane) :=
  (units.foldl (fun ts u =>
    let base := match u.head?.bind (mapGet? x.threads) with | some t => t.lane / 4 * 4 | none => 0
    placeQuad base (quadLanes x nt base u) ts) []).map (fun t => laneSort (t.flatMap (·.2)))

/-- The tricks of a deal (R31). `former`: a partial-block deal, whose quads keep their lanes (R170). -/
def tricksOf (x : Group) (nt : Nat) (hdr : D64) (former : Bool) (units : List (List Nat)) : List (List Lane) :=
  if hdrKind hdr = 1 then
    units.map (fun u => laneSort (u.map (fun t => threadLane (t % 32) t) ++
      (if hdrQH hdr then (match u with | t :: _ => if t / 32 = (nt - 1) / 32 then helperLanes x nt ((nt - 1) / 4) ((nt - 1) % 32 / 4 * 4) else [] | [] => []) else [])))
  else if hdrQH hdr then
    (if former then formerQuads x nt units
    else (chunks 8 units).map (fun us => us.zipIdx.flatMap (fun u => quadLanes x nt (4 * u.2) u.1)))
  else (chunks 32 units.flatten).map (fun ts => ts.zipIdx.map (fun t => threadLane t.2 t.1))

/-- The units one deal takes: up to 1,024 threads, or 32 crews (R257). -/
def takeUnits (hdr : D64) (units : List (List Nat)) : List (List Nat) :=
  if hdrKind hdr = 1 then units.take 32 else if hdrQH hdr then units.take 256 else units.take 1024

/-- The threads leave the deck: their bits are cleared in the entries they stand in. -/
def State.leaveHands (s : State) (n : Nat) (h : Hand) (ts : List Nat) : State :=
  let d1 := deckClear (s.core n).deck h.grp h.addr h.ret ts
  let d2 := match h.ret with
    | some hd => if h.addr = hd then deckClear d1 h.grp hd none ts else d1
    | none => d1
  s.modCore n (fun y => { y with deck := d2 })

/-- The group has been dealt. -/
def State.noteDealt (s : State) (n g : Nat) : State :=
  s.modGrp n g (fun x => { x with lastDeal := some s.tick, anteFrom := some s.tick, anteDue := false, idleSince := none })

/-- Every thread of a hand parks at the header of its block: at a fetch fault or with register-window (R25, R43). The slot is held
like that of a deal that ends at once. A fault at a header at TRAPENT that cannot be read never enters that block again (R137). No deal has
formed tricks, so R238 does not say which threads share a record: the model takes the hand's threads 32 at a time in slot order, whatever the
block (DESIGN CHOICE, log 48). -/
def State.parkHand (s : State) (n slot : Nat) (h : Hand) (x : Group) (addr hdr : D64) (f : FaultInfo) : State :=
  let size := unitSize hdr
  let kind := if hdr = 0 && addr = (s.recOf x).trapEnt then 4 else hdrKind hdr
  let tricks := (chunks 32 h.bits).map (fun ts => ts.zipIdx.map (fun t => ({ threadLane t.2 t.1 with gone := true } : Lane)))
  let s1 := (s.leaveHands n h h.bits).setDeal n slot (some
    { grp := h.grp, addr := addr, hdr := hdr, body := [], pos := 0, tricks := tricks, trick := 0, todo := (List.range tricks.length).tail, fmode := x.fmode, fstat := x.fstat,
      acc := 0, isReturn := h.ret.isSome, pend := [], done := true, held := false })
  let s2 := h.bits.foldl (fun t i =>
    (t.modThr n h.grp i (fun th => { th with next := addr, ret := none, q := [] })).parkThread n h.grp i .own f size 0) s1
  if !(isUserCause f.cause) then
    tricks.foldl (fun t k => t.postFaults n h.grp x (k.map (fun l => (l.tidx, f)))) s2
  else if s2.escalates x kind then h.bits.foldl (fun t i => t.escalate n h.grp x i f) s2
  else s2

/-- The scalar context of a group stops before its block begins (R25, R43): the group's threads count as dealt. -/
def State.stopAtFetch (s : State) (n : Nat) (h : Hand) (x : Group) (addr : D64) (f : FaultInfo) : State :=
  let s1 := h.bits.foldl (fun t i => t.modThr n h.grp i (fun th => { th with st := .dealt, parkMask := 0 })) (s.leaveHands n h h.bits)
  (s1.modGrp n h.grp (fun y => { y with scalar := .stopped f addr })).postRec (coreColumn n)
    (faultRec n h.grp (s.ctxOf x) f 3 0 x.slotBase [] 0)

/-- A fault at the header of a hand's block: of its scalar context, or of all its threads. -/
def State.failHand (s : State) (n slot : Nat) (h : Hand) (x : Group) (addr hdr : D64) (f : FaultInfo) : State :=
  if hdrKind hdr = 2 then s.stopAtFetch n h x addr f else s.parkHand n slot h x addr hdr f

/-- Deal the units of a hand through a fetched block (R257). -/
def State.dealBlock (s : State) (n slot : Nat) (c : Cand) (addr hdr : D64) (body : List W) (pos : Nat) : State :=
  let h := c.1
  let x := c.2.1
  let units := takeUnits hdr c.2.2
  let ts := units.flatten
  let waited := h.ret.isNone && (hdrWait hdr != 0 || ts.any (fun t => match mapGet? x.threads t with | some th => th.parkMask != 0 | none => false))
  let s1 := if waited then s.acquireL1 (coreColumn n) (coreInCol n) else s
  let midway := h.ret.isSome && h.addr != addr
  let tricks := if hdrKind hdr = 2 then [[threadLane 0 0]] else tricksOf x (s.recOf x).nt hdr midway units
  let s2 := ts.foldl (fun t i => t.modThr n h.grp i (fun th =>
    { th with st := .dealt, ret := none, parkMask := 0, entering := none, q := if midway then th.q else [] })) (s1.leaveHands n h ts)
  let s3 := if hdrKind hdr = 2 then s2.modGrp n h.grp (fun y => { y with scalar := .running, q := if midway then y.q else [] }) else s2
  (s3.setDeal n slot (some
    { grp := h.grp, addr := addr, hdr := hdr, body := body, pos := pos, tricks := tricks, trick := 0, todo := (List.range tricks.length).tail, fmode := x.fmode,
      fstat := x.fstat, acc := 0, isReturn := h.ret.isSome, pend := [], done := false, held := false })).noteDealt n h.grp

/-- A record of a fetch fault: POS bit 6, PC the header (R43). -/
def fetchFault (cause code : Nat) (addr va : D64) : FaultInfo := ⟨cause, code, addr, va, 64, 0, 0⟩

/-- The block at TRAPENT, which could not be read when threads were delivered to it, turns out to be no trap-entry block: they park again
with their own causes, which escalate, and the group stops (R137; log 34). -/
def State.refuseEntry (s : State) (n : Nat) (h : Hand) (x : Group) : State :=
  let mine := h.bits.filterMap (fun t => ((mapGet? x.threads t).bind (·.entering)).map (fun f => (t, f)))
  let s1 := mine.foldl (fun t e =>
    ((t.parkThread n h.grp e.1 .own e.2 1 0).modThr n h.grp e.1 (fun y => { y with entry := true })).escalate n h.grp x e.1 e.2)
    (s.leaveHands n h (mine.map (·.1)))
  (s1.modGrp n h.grp (fun y => { y with trapCheck := .bad })).stopGroup n h.grp (plainFault 18 0 h.addr) 0

/-- Deal a fetched hand (R43, R255, R266). -/
def State.dealFetched (s : State) (n slot : Nat) (c : Cand) (addr hd : D64) (body : List W) : State :=
  let h := c.1
  let off := h.addr.toNat - addr.toNat
  if s.holding c.2.1 ≤ hdrVhigh hd then s.failHand n slot h c.2.1 addr hd (plainFault 2 0 addr)
  else if h.ret.isNone || h.addr = addr then s.dealBlock n slot c addr hd body 0
  else if addr.toNat < h.addr.toNat && 8 ≤ off && off % 4 = 0 && isBoundary (body.length + 1) body ((off - 8) / 4) then
    s.dealBlock n slot c addr hd body ((off - 8) / 4)
  else s.stopGroup n h.grp (plainFault 18 0 addr) 0

/-- Fetch, check and deal the chosen hand; or stop the group, or park the hand (R43, R44, R255, R266). Where the header fetched is not the one
the dealer holds for the hand, the deal is not made and the hand is tested again (R273). -/
def State.makeDeal (s : State) (n slot : Nat) (c : Cand) : State :=
  let h := c.1
  let x := c.2.1
  let addr := h.ret.getD h.addr
  let hdr := (h.header s n x).getD 0
  let s1 := (s.countPasses n h)
  let entry := addr = (s.recOf x).trapEnt && x.trapCheck = .unreadable
  match s1.fetchBlock (coreColumn n) (s1.fetchXlate n x) false addr with
  | .wait => s
  | .badFormat => if entry then s1.refuseEntry n h x else s1.stopGroup n h.grp (plainFault 18 0 addr) 0
  | .fail cause code va => s1.failHand n slot h x addr hdr (fetchFault cause code addr va)
  | .ok hd body =>
    let s2 := s1.fetchNote (s1.fetchXlate n x) addr (8 + 4 * body.length)
    if h.header s n x != some hd then
      (s.fetchNote (s.fetchXlate n x) addr 8).modCore n (fun y => { y with deck := y.deck.map (fun k =>
        if k.is h.grp h.addr h.ret then { k with hdr := some hd } else k) })
    else if entry && hdrKind hd != 4 then s2.refuseEntry n h x
    else (if entry then s2.modGrp n h.grp (fun y => { y with trapCheck := .good }) else s2).dealFetched n slot c addr hd body

/-- A free deal slot. -/
def State.freeSlot (s : State) (n : Nat) : Option Nat :=
  if (s.deal? n 0).isNone then some 0 else if (s.deal? n 1).isNone then some 1 else none

/-- Whether a scalar context waits for a slot, ahead of every hand (R258). Which of several takes the next free slot R258 does not say: the
model takes the one with the lowest resident index (DESIGN CHOICE, log 36). -/
def ACore.scalarReady (y : ACore) : Option (Nat × Group) :=
  y.groups.find? (fun e => match e.2.scalar with | .ready _ _ => !e.2.saving | .restart _ _ => !e.2.saving | _ => false)

/-- DEAL and RETURN_DEAL: a decision, when its choice is a plain hand or a return hand. -/
def State.decideDeal (s0 : State) (n : Nat) (isReturn : Bool) : State :=
  let s := s0.observe n
  match s.freeSlot n, (s.core n).scalarReady with
  | some slot, none =>
    (match s.choice n with
      | some c => if c.1.ret.isSome = isReturn then s.makeDeal n slot c else s
      | none => s)
  | _, _ => s

/-! ### The end of a deal (R38, R258, R262, R264) -/

/-- Parked threads of an ended deal that still stand in it, in slot order. -/
def Deal.parkedHere (d : Deal) : List Nat :=
  (d.tricks.flatMap (fun t => (t.filter (fun l => l.gone && l.helper.isNone)).map (·.tidx))).foldl (fun acc t => insNat t acc) []

/-- Give entries, in slot order, as far as they reach; the threads that have one. -/
def State.giveEntries (s : State) (n g : Nat) : List Nat → List Nat × State
  | [] => ([], s)
  | t :: rest =>
    match s.thr? n g t with
    | some th =>
      if th.park.isNone || th.entry then let r := s.giveEntries n g rest; (t :: r.1, r.2)
      else if s.kittyUsed n < 512 then
        let r := (s.modThr n g t (fun x => { x with entry := true })).giveEntries n g rest
        (t :: r.1, r.2)
      else s.giveEntries n g rest
    | none => let r := s.giveEntries n g rest; (t :: r.1, r.2)

/-- What happens to a parked thread once it has its entry: delivery to the trap-entry block, or resumption if it is resolved. -/
def State.settleParked (s : State) (n g kind t : Nat) : State :=
  match s.grp? n g, (s.thr? n g t).bind (·.park) with
  | some x, some p =>
    if p.kind = .own && isUserCause p.info.cause && !p.resolved && !(s.escalates x kind) then s.deliver n g t p.info p.unitSize
    else s.resumeUnit n g t
  | _, _ => s

/-- Whether a group's parked threads of an ended deal need more entries than are free. -/
def State.kittyShort (s : State) (n : Nat) (d : Deal) : Bool :=
  decide (512 < s.kittyUsed n + (d.parkedHere.filter (fun t => match s.thr? n d.grp t with | some th => th.park.isSome && !th.entry | none => false)).length)

/-- Whether the threads parked in a deal count as parked in a trap-entry block (R137). -/
def State.parkKindOf (s : State) (n : Nat) (d : Deal) : Nat :=
  match s.grp? n d.grp with
  | some x => if d.hdr = 0 && d.addr = (s.recOf x).trapEnt then 4 else hdrKind d.hdr
  | none => hdrKind d.hdr

/-- A deal ends: the flags join `fstat`, parked threads move into the kitty, and the slot frees once each has its entry. -/
def State.endSlot (s : State) (n slot : Nat) (d : Deal) : State :=
  let g := d.grp
  let s1 := s.modGrp n g (fun x => { x with fstat := x.fstat ||| flagsWord d.acc })
  let r := s1.giveEntries n g d.parkedHere
  let left := d.tricks.map (fun t => t.filter (fun l => l.gone && l.helper.isNone && !(r.1.contains l.tidx)))
  let gone := left.all (fun t => t.isEmpty)
  let s2 := (r.2.setDeal n slot (if gone then none else some { d with acc := 0, tricks := left, held := true })).leaveAllWalks (.deal n slot) (coreColumn n)
  let s3 := r.1.foldl (fun t i => t.settleParked n g (s.parkKindOf n d) i) s2
  s3.splitEnd n g

/-- DEAL_END. A slot already held for entries is served first, and while it is, a deal in the other slot that needs entries which are not
free does not end: at most one slot is held in this way (R264). -/
def State.endDeal (s : State) (n slot : Nat) : State :=
  match s.deal? n slot with
  | none => s
  | some d =>
    if !d.done then s
    else if d.held then s.endSlot n slot d
    else
      let s1 := match s.deal? n (1 - slot) with | some o => if o.held then s.endSlot n (1 - slot) o else s | none => s
      match s1.deal? n slot with
      | none => s1
      | some d1 => if s1.slotHeld n (1 - slot) && s1.kittyShort n d1 then s1 else s1.endSlot n slot d1

/-! ### The rescan (R253) -/

/-- Serve the owed slots in order. -/
def State.serveOwed (s : State) (n : Nat) : State :=
  (s.owedSlots n).foldl (fun t e =>
    let u := t.setBitNow n e.2.1 e.2.2
    match u.thr? n e.2.1 e.2.2 with
    | some th => if th.owed then u else u.modCore n (fun y => { y with rescanPtr := e.1 })
    | none => u) s

/-- Reclaim the entry whose HELD is largest, at least 4,096: its bits become owed. R253 does not say which of two with equal HELD goes, nor
at which slot the first rescan after reset begins: the model takes the first in deck order, and slot 1, the last slot served reading 0 after
reset (DESIGN CHOICE, log 35). -/
def State.reclaim (s : State) (n : Nat) : State :=
  let now := s.ecyc (coreColumn n)
  let long := (s.core n).deck.filter (fun h => 4096 ≤ h.heldAt now)
  match argMin (fun (h : Hand) => 2 ^ 64 - h.heldAt now) long with
  | none => s
  | some h =>
    h.bits.foldl (fun t i => t.modThr n h.grp i (fun th => { th with owed := true }))
      (s.modCore n (fun y => { y with deck := y.deck.filter (fun k => !(k.is h.grp h.addr h.ret)) }))

/-- Serve the owed slots; while some remain and no entry is free, reclaim one, which calls for another rescan (R253). -/
def State.rescanLoop (n : Nat) : Nat → State → State
  | 0, s => s
  | k + 1, s =>
    let s1 := s.serveOwed n
    let s2 := s1.reclaim n
    if (s1.owedSlots n).isEmpty || (s1.core n).deck.length < 128 || (s2.core n).deck.length = 128 then s1 else s2.rescanLoop n k

/-- DECK_RESCAN: on the beat of 4,096 cycles or while an entry is free. -/
def State.rescan (s0 : State) (n : Nat) : State :=
  let s := s0.observe n
  if (s.owedSlots n).isEmpty || !((s.core n).rescanDue || (s.core n).deck.length < 128) then s
  else (s.rescanLoop n 129).modCore n (fun y => { y with rescanDue := false })

/-! ### The active set and the ante (R259, R261) -/

/-- A group with a hand that would be dealable in the active set; one whose scalar context waits has none (R259). -/
def State.wouldDeal (s : State) (n g : Nat) : Bool :=
  (s.openHands n).any (fun c => c.1.grp == g) && (s.grp? n g).any (fun x => match x.scalar with | .waiting _ _ => false | _ => true)

def State.swapActive (s : State) (n out new : Nat) : State := (s.modGrp n out (fun x => { x with active := false })).enterActive n new

/-- ACTIVE_SET_IDLE_SWAP. Which of several idle groups leaves R259 does not say: the model takes the lowest resident index (DESIGN CHOICE,
log 49). -/
def State.idleSwap (s0 : State) (n : Nat) : State :=
  let s := s0.observe n
  let now := s.ecyc (coreColumn n)
  let idle := (s.core n).actives.filter (fun e => match e.2.idleSince with | some t => decide (t + 2048 ≤ now) | none => false)
  let next := argMin (fun (e : Nat × Group) => e.2.admitSeq) ((s.core n).pending.filter (fun e => s.wouldDeal n e.1))
  match idle, next with
  | o :: _, some i => s.swapActive n o.1 i.1
  | _, _ => s

/-- ACTIVE_SET_STARVATION_SWAP. Which of several starving groups enters first, and which of groups that entered the set at one tick leaves, R259
does not say: the model takes the oldest admitted, and the lowest resident index (DESIGN CHOICE, log 49). -/
def State.starvationSwap (s0 : State) (n : Nat) : State :=
  let s := s0.observe n
  let starving := (s.core n).pending.filter (fun e => s.wouldDeal n e.1 && s.anteDueNow n e.2)
  let flying := fun (g : Nat) => (match s.deal? n 0 with | some d => d.grp = g | none => false)
    || (match s.deal? n 1 with | some d => d.grp = g | none => false)
  let out := argMin (fun (e : Nat × Group) => e.2.activeSince) ((s.core n).actives.filter (fun e => !(flying e.1)))
  match argMin (fun (e : Nat × Group) => e.2.admitSeq) starving, out with
  | some i, some o => s.swapActive n o.1 i.1
  | _, _ => s

/-- ANTE_DUE. -/
def State.markAnte (s0 : State) (n g : Nat) : State :=
  let s := s0.observe n
  match s.grp? n g with
  | some x => if s.anteDueNow n x then s.modGrp n g (fun y => { y with anteDue := true }) else s
  | none => s

/-! ### Scalar contexts outside their slot (R258, R241) -/

/-- The context takes a slot again with its deal: the result of its wait is delivered and it goes on, or it repeats its
instruction. -/
def State.resumeScalar (s : State) (n slot g : Nat) (d : Deal) (result : Option W) : State :=
  let s1 := { ((s.setDeal n slot (some d)).modGrp n g (fun y => { y with scalar := .running })) with cur := .deal n slot }
  match result with
  | none => s1
  | some w =>
    match issueCtx s1, standsAt d.body d.pos with
    | some (e, lv :: _), some (_, f) => s1.finishOne f e lv (.ok (setD lv f w) 0)
    | _, _ => s1

/-- A stopped context restarts at PC: the block is fetched again, its latches kept unless PC is the header (R17, R43, R241). -/
def State.restartScalar (s : State) (n slot g : Nat) (x : Group) (addr pc : D64) : State :=
  let stop := fun (t : State) (f : FaultInfo) => (t.modGrp n g (fun y => { y with scalar := .stopped f addr })).postRec (coreColumn n)
    (faultRec n g (t.ctxOf x) f 3 0 x.slotBase [] 0)
  match s.fetchBlock (coreColumn n) (s.fetchXlate n x) false addr with
  | .wait => s
  | .badFormat => (s.modGrp n g (fun y => { y with scalar := .stopped (plainFault 18 0 addr) addr })).stopGroup n g (plainFault 18 0 addr) 0
  | .fail cause code va => stop s (fetchFault cause code addr va)
  | .ok hd body =>
    let s1 := s.fetchNote (s.fetchXlate n x) addr (8 + 4 * body.length)
    let off := pc.toNat - addr.toNat
    let atHead := pc = addr
    if s1.holding x ≤ hdrVhigh hd then stop s1 (plainFault 2 0 addr)
    else if hdrKind hd ≠ 2 || !(atHead || (addr.toNat < pc.toNat && 8 ≤ off && off % 4 = 0 && isBoundary (body.length + 1) body ((off - 8) / 4))) then
      (s1.modGrp n g (fun y => { y with scalar := .stopped (plainFault 18 0 addr) addr })).stopGroup n g (plainFault 18 0 addr) 0
    else
      ((s1.modGrp n g (fun y => { y with scalar := .running, q := if atHead then [] else y.q })).setDeal n slot (some
        { grp := g, addr := addr, hdr := hd, body := body, pos := if atHead then 0 else (off - 8) / 4, tricks := [[threadLane 0 0]],
          trick := 0, todo := [], fmode := x.fmode, fstat := x.fstat, acc := 0, isReturn := !atHead, pend := [], done := false,
          held := false })).noteDealt n g

/-- SCALAR_CONTEXT_RESUME. -/
def State.scalarResume (s : State) (n : Nat) : State :=
  match s.freeSlot n, (s.core n).scalarReady with
  | some slot, some (g, x) =>
    (match x.scalar with
      | .ready d r => s.resumeScalar n slot g d r
      | .restart addr pc => s.restartScalar n slot g x addr pc
      | _ => s)
  | _, _ => s

/-! ### Tasks (R267, R268) -/

/-- The lowest crew index of a group that holds no thread. -/
def Group.freeCrew (x : Group) (crews : Nat) : Option Nat :=
  (List.range crews).find? (fun c => !(x.live.any (fun e => e.1 / 32 == c)))

/-- Whether an entry's VHIGH fits the holding; none where its header is bad. A header that cannot be read fits: the crew meets the
fault when it is dealt (log 16). -/
def State.taskFits (s : State) (n : Nat) (x : Group) (e : D64) : Option Bool :=
  match s.fetchHeader (coreColumn n) (s.fetchXlate n x) e with
  | .ok h => if headerOk h false then some (decide (hdrVhigh h < s.holding x)) else none
  | .error .badFormat => none
  | .error _ => some true

/-- Form a crew of the first tasks with an entry. -/
def State.formCrew (s : State) (n g c : Nat) (e : D64) (skip : Nat) : State :=
  match s.grp? n g with
  | none => s
  | some x =>
    let mine := ((x.shoe.filter (fun t => t.1 == e)).take 32).map (·.2)
    let taken := x.shoe.foldl (fun (acc : List (D64 × D64) × Nat) t =>
      if t.1 = e && acc.2 < 32 then (acc.1, acc.2 + 1) else (acc.1 ++ [t], acc.2)) ([], 0)
    let s1 := s.modGrp n g (fun y =>
      let kept := y.threads.filter (fun t => t.1 / 32 != c)
      { y with shoe := taken.1, skip := skip,
               threads := mine.zipIdx.foldl (fun m a => mapSet m (32 * c + a.2)
                 { Thread.fresh e with v := setReg (setReg [] 0 (loWord a.1)) 1 (hiWord a.1), isTask := true }) kept })
    ((List.range mine.length).foldl (fun t j => t.setBit n g (32 * c + j)) s1).splitTest n g

/-- TASK_FORMER. R217 puts the block-format fault of a bad entry header at the task crew's first deal, while R267 has the former read and
check the header when it first tests it: the model stops the group at the former's test of a header it can read (DEDUCED from R267, which says
when the header is read; log 16). -/
def State.taskFormer (s : State) (n g : Nat) : State :=
  match s.grp? n g with
  | none => s
  | some x =>
    if x.stopped || x.saving then s
    else match x.shoe, x.freeCrew (s.recOf x).crews with
      | (e, _) :: rest, some c =>
        (match s.taskFits n x e with
          | none => s.stopGroup n g (plainFault 18 0 e) 0
          | some true => s.formCrew n g c e 0
          | some false =>
            if x.skip < 64 then
              match rest.find? (fun t => t.1 != e && s.taskFits n x t.1 != some false) with
              | some t => (match s.taskFits n x t.1 with
                | none => s.stopGroup n g (plainFault 18 0 t.1) 0
                | some _ => s.formCrew n g c t.1 (x.skip + 1))
              | none => s
            else s)
      | _, _ => s

/-- Whether every shoe of a grid with TASKS is empty and every task thread has retired (R268). -/
def State.gridQuiet (s : State) (i : Nat) (y : Inst) : Bool :=
  let quietGroup := fun (x : Group) => x.shoe.isEmpty && !(x.live.any (fun t => t.2.isTask))
  y.lrec.tasks && (s.residents i).all (fun e => quietGroup e.2.2)
    && s.saves.all (fun v => v.members.all (fun m => m.grp.inst != i || quietGroup m.grp))

/-- The termination detector sees a quiet moment of a grid (R268). -/
def State.noteQuiet (s : State) (i : Nat) (y : Inst) : State :=
  if !y.quietSeen && s.gridQuiet i y then s.modInst i (fun z => { z with quietSeen := true }) else s

/-- QUIET_REPORT: the grid has been quiet at some moment (R268). -/
def State.quietReport (s : State) (i : Nat) : State :=
  match s.inst? i with
  | none => s
  | some y => if y.quietSeen || s.gridQuiet i y then s.modInst i (fun z => { z with quietSeen := true, quiet := true }) else s

/-! ### Retirement (R186, R213, R251, R340) -/

/-- Whether a group may retire; a stopped one only once the column core has disposed of it (R251, R259). Whether a group whose last thread exits
while it is being saved retires or is saved is not said: the model saves it (DESIGN CHOICE, log 50). -/
def State.mayRetire (s : State) (n g : Nat) (x : Group) : Bool :=
  (!x.stopped || x.disposed) && x.live.isEmpty && x.shoe.isEmpty && !x.saving && (s.core n).deal0.all (fun d => d.grp != g) && (s.core n).deal1.all (fun d => d.grp != g)
    && (match x.scalar with | .idle => true | _ => false) && ((s.core n).cmdsOf g).isEmpty

/-- The completion scope of a launch; 0 names the column (R329). -/
def LaunchRec.scope (r : LaunchRec) : Nat := if r.cscope = 0 then 2 else r.cscope

/-- Scratch of retired members of a gang goes once the whole gang has retired (R186). -/
def State.dropOrphans (s : State) (inst gang : Nat) : State :=
  match s.inst? inst with
  | none => s
  | some i =>
    if (barMembers i.lrec false gang).all (fun m => i.retired.contains m) then
      { s with cores := s.cores.map (fun e => (e.1, { e.2 with orphans := e.2.orphans.filter (fun o =>
          !(o.1 == inst && o.2.1 / i.lrec.gang == gang)) })) }
    else s

/-- A group retires: its release, then everything it holds goes. -/
def State.retireNow (s : State) (n g : Nat) (x : Group) : State :=
  let r := s.recOf x
  let s1 := s.releaseAct (engUnit n g) r.scope
  let s2 := ((s1.leaveMatrix n g).detachRecs n g).modCore n (fun y => { y with
    groups := mapErase y.groups g, deck := y.deck.filter (fun h => h.grp != g),
    orphans := y.orphans ++ [(x.inst, x.gflat, x.scratch)] })
  let s3 := (s2.modInst x.inst (fun i => { i with retired := insNat x.gflat i.retired })).heatMoment
  ((s3.dropOrphans x.inst (x.gflat / r.gang)).barrierRetire x.inst x.gflat).fillActive n

/-- GROUP_RETIRE. -/
def State.groupRetire (s : State) (n g : Nat) : State :=
  match s.grp? n g with
  | none => s
  | some x =>
    if s.mayRetire n g x && !((s.recOf x).scope = 6 && s.postedPending (.grp n g)) then s.retireNow n g x else s

def execDeal (core : Nat) (s : State) : Out State := .next (s.decideDeal core false)
def execReturnDeal (core : Nat) (s : State) : Out State := .next (s.decideDeal core true)
def execDealEnd (core slot : Nat) (s : State) : Out State := .next (s.endDeal core slot)
def execDeckRescan (core : Nat) (s : State) : Out State := .next (s.rescan core)
def execScalarContextResume (core : Nat) (s : State) : Out State := .next (s.scalarResume core)
def execGroupRetire (core grp : Nat) (s : State) : Out State := .next (s.groupRetire core grp)
def execTaskFormer (core grp : Nat) (s : State) : Out State := .next (s.taskFormer core grp)
def execQuietReport (inst : Nat) (s : State) : Out State := .next (s.quietReport inst)
def execActiveSetIdleSwap (core : Nat) (s : State) : Out State := .next (s.idleSwap core)
def execActiveSetStarvationSwap (core : Nat) (s : State) : Out State := .next (s.starvationSwap core)
def execAnteDue (core grp : Nat) (s : State) : Out State := .next (s.markAnte core grp)

end Sys2Proof.Machine
end

