-- ==== Sys2Proof/Machine/System.lean ====
section
/-! DEFINITION. System and trap instructions, the fault queue, the swap engine's commands, the resumption of column cores, and the
end of a load (R225 to R241, R373). -/

namespace Sys2Proof.Machine

/-! ### A column-scalar instruction -/

/-- The body of an instruction of a column core. -/
def colBody (body : Row → Fields → Env → Nat → LaneView → State → State) :
    Row → Fields → Env → List LaneView → List LaneView → State → State := fun r f e _ act s =>
  match e.who, act with
  | .col c, lv :: _ => body r f e c lv s
  | _, _ => s

/-- End an instruction of a column core with an illegal-instruction trap (R59). -/
def State.refuse (s : State) (f : Fields) (e : Env) (lv : LaneView) (reason : Nat) : State := s.finishOne f e lv (.fail (e.illegal reason))
/-- End it with a value in D, or a pair. -/
def State.answer (s : State) (f : Fields) (e : Env) (lv : LaneView) (v : W) : State := s.finishOne f e lv (.ok (setD lv f v) 0)
def State.answer64 (s : State) (f : Fields) (e : Env) (lv : LaneView) (v : D64) : State := s.finishOne f e lv (.ok (setD64 lv f v) 0)
/-- End it with no result. -/
def State.finishPlain (s : State) (f : Fields) (e : Env) (lv : LaneView) : State := s.finishOne f e lv (.ok lv 0)

/-! ### System registers (R230, R232 to R234, R410) -/

/-- The privileges that may read and write a register; no write privilege for a register that cannot be written. None for a
reserved number. -/
def sysRule (n : Nat) : Option (Nat × Option Nat) :=
  if n = 0x000 then some (0, none)
  else if 0x010 ≤ n && n ≤ 0x01A then some (1, some 1)
  else if 0x020 ≤ n && n ≤ 0x029 then some (3, some 3)
  else if n = 0x030 || n = 0x031 || n = 0x040 then some (1, some 1)
  else if n = 0x041 || n = 0x050 then some (0, some 3)
  else if n = 0x042 || n = 0x043 then some (3, some 3)
  else if n = 0x051 then some (0, some 1)
  else if n = 0x052 || n = 0x053 || (0x060 ≤ n && n ≤ 0x06B) || (0x090 ≤ n && n ≤ 0x092) then some (0, none)
  else if n = 0x070 || n = 0x080 || n = 0x081 || n = 0x082 then some (1, some 1)
  else if n = 0x071 || n = 0x0A0 then some (1, none)
  else if 0x100 ≤ n && n ≤ 0x13F then some (1, some 1)
  else none

/-- A trap register by its number within its level. -/
def TrapRegs.get (t : TrapRegs) (i : Nat) : D64 :=
  match i with
  | 0 => t.vec
  | 1 => t.cause
  | 2 => t.blk
  | 3 => t.next
  | 4 => t.info
  | 5 => t.q0
  | 6 => t.q1
  | 7 => t.q2
  | 8 => t.q3
  | _ => t.scr

/-- Write a trap register; reserved bits are ignored (R5). -/
def TrapRegs.put (t : TrapRegs) (i : Nat) (v : D64) : TrapRegs :=
  match i with
  | 0 => { t with vec := v &&& ~~~3#64 }
  | 1 => { t with cause := v &&& 0xFFFF1CFF#64 }
  | 2 => { t with blk := v }
  | 3 => { t with next := v }
  | 4 => { t with info := v }
  | 5 => { t with q0 := v }
  | 6 => { t with q1 := v }
  | 7 => { t with q2 := v }
  | 8 => { t with q3 := v }
  | _ => { t with scr := v }

/-- A word of `step_log`: entry 0 is the newest (R233, R396). -/
def Die.logWord (d : Die) (i : Nat) : D64 :=
  match d.log[i / 3]? with
  | none => 0
  | some r => if i % 3 = 0 then BitVec.ofNat 64 r.tick else if i % 3 = 1 then BitVec.ofNat 64 r.cyc
    else BitVec.ofNat 64 (r.seq % 2 ^ 32 * 2 ^ 32 + r.mhz % 4096)

/-- The value a read of a register of column core c gives. -/
def State.sysRead (s : State) (c n : Nat) : D64 :=
  let y := s.col c
  let x := y.core
  let g := y.gov
  let w := fun (v : Nat) => BitVec.ofNat 64 v
  if n = 0x000 then w x.priv
  else if 0x010 ≤ n && n ≤ 0x019 then x.trapS.get (n - 0x010)
  else if n = 0x01A then (if x.eie then 1 else 0)
  else if 0x020 ≤ n && n ≤ 0x029 then x.trapM.get (n - 0x020)
  else if n = 0x030 then x.ptbase
  else if n = 0x031 then x.asid.zeroExtend 64
  else if n = 0x040 then w (256 * y.policy + y.age)
  else if n = 0x041 then w s.gbarGap
  else if n = 0x042 then x.rsmAddr
  else if n = 0x050 then w (65536 * g.req.toNat + (g.settled (s.cyc (dieOf c))).eff.toNat)
  else if n = 0x051 then w (g.thrLast * 2 ^ 56 + g.thrCount)
  else if n = 0x052 then w ((if g.vbusSlow = 0 then 0 else 2 ^ 32) + g.vbusSlow.toNat)
  else if n = 0x053 then w (g.eccUncorr * 2 ^ 32 + g.eccCorr)
  else if 0x060 ≤ n && n ≤ 0x06B then (s.die (dieOf c)).logWord (n - 0x060)
  else if n = 0x070 then w y.calIdx
  else if n = 0x071 then (mapGet s.fabric.cal y.calIdx 0).zeroExtend 64
  else if n = 0x080 then s.evpend c
  else if n = 0x081 then y.evmask
  else if n = 0x082 then y.tickcmp
  else if n = 0x090 then (s.die (dieOf c)).mscHit
  else if n = 0x091 then (s.die (dieOf c)).mscMiss
  else if n = 0x092 then (s.die (dieOf c)).mscWb
  else if n = 0x0A0 then w ((if 256 ≤ y.fq.length && !(y.fqWait.isEmpty) then 65536 else 0) + y.fq.length)
  else if 0x100 ≤ n && n ≤ 0x13F then s.ctxroot (n - 0x100)
  else 0

/-- A read of `cal_data` advances `cal_idx` (R233). -/
def State.sysReadNote (s : State) (c n : Nat) : State :=
  if n = 0x071 then s.modCol c (fun y => { y with calIdx := (y.calIdx + 1) % 1024 }) else s

/-- A resume of a column core (R230). A bad start address is met when the block is fetched; 0 at once. The trap it then gives is taken with
`tvec_m` at its reset value, 0. -/
def State.resumeCore (s : State) (v : Nat) (start : D64) : State :=
  let x := s.cc v
  match x.run with
  | .running => s
  | .haltedByHalt => s.modCc v (fun y => { y with run := .running })
  | _ =>
    let fresh : ColCore → ColCore := fun y =>
      { y with run := .running, fetch := .start, priv := 3, addr := start, hdr := 0, body := none, pos := 0, s := [], q := [], k := 0, fstat := 0,
               fmode := 0x10, snapMode := 0x10, snapStat := 0, acc := 0, wait := none, tlbi := none }
    let s1 := s.modCc v fresh
    if start = 0 then (s1.modCc v (fun y => { y with trapM := { y.trapM with vec := 0 } })).takeTrap v 18 0 0 0 0 else s1

/-- The number of 1 bits of a pattern (R233). -/
def patternOnes (v : D64) : Nat := popNat 16 (v.toNat % 65536)

/-- The effect of a write of a register of column core c. -/
def State.sysWrite (s : State) (c n : Nat) (v : D64) : State :=
  let low := fun (b : Nat) => v.toNat % 2 ^ b
  if 0x010 ≤ n && n ≤ 0x019 then s.modCc c (fun x => { x with trapS := x.trapS.put (n - 0x010) v })
  else if n = 0x01A then s.modCc c (fun x => { x with eie := v.getLsbD 0 })
  else if 0x020 ≤ n && n ≤ 0x029 then s.modCc c (fun x => { x with trapM := x.trapM.put (n - 0x020) v })
  else if n = 0x030 then s.modCc c (fun x => { x with ptbase := v &&& ~~~0xFFFF#64 })
  else if n = 0x031 then s.modCc c (fun x => { x with asid := BitVec.ofNat 32 (low 16) })
  else if n = 0x040 then
    (if 2 ≤ fieldOf v.toNat 9 8 || low 8 = 0 then s else s.modCol c (fun y => { y with policy := fieldOf v.toNat 9 8, age := low 8 }))
  else if n = 0x041 then { s with gbarGap := low 16 }
  else if n = 0x042 then s.modCc c (fun x => { x with rsmAddr := v &&& ~~~3#64 })
  else if n = 0x043 then s.resumeCore (low 5) (s.cc c).rsmAddr
  else if n = 0x050 then (if patternOnes v < 4 then s else s.modPat c (fun g => { g with req := BitVec.ofNat 16 (low 16) }))
  else if n = 0x051 then s.modGov c (fun g => { g with thrCount := 0 })
  else if n = 0x070 then s.modCol c (fun y => { y with calIdx := low 10 })
  else if n = 0x080 then s.modCol c (fun y => { y with evLatched := y.evLatched &&& ~~~v })
  else if n = 0x081 then s.modCol c (fun y => { y with evmask := v &&& 0x7F })
  else if n = 0x082 then s.modCol c (fun y => { y with tickcmp := v })
  else if 0x100 ≤ n && n ≤ 0x13F then { s with ctxroots := mapSet s.ctxroots (n - 0x100) v }
  else s

/-- `sysrd`: the checks of R232 in their order, then the value. Which reason a word reports that names a reserved register, reason 4, and has a
field that must be zero, reason 6, R59 and R232 leave open: the model makes the checks of R232, which read a register number, after those of
the table, for `syswr` too (DESIGN CHOICE, log 55). -/
def sysrdBody : Row → Fields → Env → Nat → LaneView → State → State := fun r f e c lv s =>
  let n := (srcB r [lv] lv f).toNat
  match sysRule n with
  | none => s.refuse f e lv 4
  | some (rd, _) => if e.priv < rd then s.refuse f e lv 7 else (s.sysReadNote c n).answer64 f e lv (s.sysRead c n)

/-- `syswr`. -/
def syswrBody : Row → Fields → Env → Nat → LaneView → State → State := fun r f e c lv s =>
  let n := (srcB r [lv] lv f).toNat
  let v := srcA64 [lv] lv f
  match sysRule n with
  | none => s.refuse f e lv 4
  | some (_, none) => s.refuse f e lv 4
  | some (_, some wr) =>
    if e.priv < wr then s.refuse f e lv 7
    else if n = 0x043 && v.toNat / 32 != 0 then s.refuse f e lv 6
    else (s.finishPlain f e lv).sysWrite c n v

/-! ### Control (R227 to R229) -/

def tretBody : Row → Fields → Env → Nat → LaneView → State → State := fun _ _ e c _ s => s.trapReturn c e.pc
/-- `ecall` and `brk`: a trap of a cause, to resume after the instruction. -/
def callTrapBody (cause : Nat) : Row → Fields → Env → Nat → LaneView → State → State := fun _ f e c _ s =>
  s.takeTrap c cause 0 e.addr (e.pc + BitVec.ofNat 64 (4 * wordsOf f)) 0
/-- `wfe` waits until an unmasked event is pending. -/
def wfeBody : Row → Fields → Env → Nat → LaneView → State → State := fun _ f e c lv s =>
  if s.evpend c &&& (s.col c).evmask = 0 then s else s.finishPlain f e lv
/-- `halt` completes outstanding accesses first. -/
def haltBody : Row → Fields → Env → Nat → LaneView → State → State := fun _ f e c lv s =>
  if s.postedPending (.col c) then s else (s.finishPlain f e lv).modCc c (fun x => { x with run := .haltedByHalt })

/-! ### Translation and memory-side caches (R235, R237) -/

/-- A package-scope release of the column core, then the entries are dropped. -/
def State.invalidate (s : State) (c : Nat) (p : TlbEntry → Bool) : State := (s.releaseAct ⟨c, 12, .col c⟩ 5).tlbDrop p

/-- The accesses that have been translated and not yet performed, by tag: requests of other packages and engine requests, and local atomics
that wait for the answers of their unit. -/
def State.underWay (s : State) : List Nat :=
  s.fabric.live.map (·.tag) ++ s.cores.flatMap (fun e => [e.2.deal0, e.2.deal1].flatMap (fun d => match d with
    | some d => d.pend.flatMap (fun p => if p.wait.accs.any (fun a => a.late.isSome) then p.wait.accs.flatMap (fun a => a.parts.map (·.tag)) else [])
    | none => []))

/-- `tlbi` drops the entries and completes once every access that was already under way has been performed: the model waits for all of them,
whatever entry each used (log 38). R59 does not say whether a nonzero LIT[31:16] of a literal form, reason 6, is a check of the
table's, to be reported before reason 7 at U: the model makes it, like that of a register B, after the privilege check (DESIGN CHOICE, log 39). -/
def tlbiBody (mode : Nat) : Row → Fields → Env → Nat → LaneView → State → State := fun r f e c lv s =>
  let b := (srcB r [lv] lv f).toNat
  if mode != 0 && b / 65536 != 0 then s.refuse f e lv 6
  else match (s.cc c).tlbi with
    | some tags => if s.underWay.any (fun t => tags.contains t) then s else (s.modCc c (fun x => { x with tlbi := none })).finishPlain f e lv
    | none =>
      let va := (srcA64 [lv] lv f).toNat
      let hit := fun (t : TlbEntry) => if mode = 0 then true else if mode = 1 then t.asid = b else t.covers b va
      let s1 := s.invalidate c hit
      if s1.underWay.isEmpty then s1.finishPlain f e lv else s1.modCc c (fun x => { x with tlbi := some s1.underWay })

/-- The lines of a memory-side cache are written to memory, and with `drop` they leave it. -/
def Die.mscFlush (d : Die) (drop : Bool) : Die := d.msc.foldl (fun e l => if drop then e.mscDrop l.1 else e.mscClean l.1) d

/-- `mscf`: the memory-side caches of the dies of B[3:0] are written to memory, and by `.wbi` emptied; no access returns another value for it
(R237, R279). -/
def mscfBody : Row → Fields → Env → Nat → LaneView → State → State := fun r f e _ lv s =>
  let b := (srcB r [lv] lv f).toNat
  if b / 16 != 0 then s.refuse f e lv 6
  else ((List.range 4).foldl (fun t d => if bitOf b d then t.modDie d (fun x => x.mscFlush (f.modx = 1)) else t) s).finishPlain f e lv

/-! ### Records (R238 to R240) -/

/-- The 64 bytes of a fault record (R239). -/
def Rec.bytes (r : Rec) : List Byte :=
  leBytes 2 r.cause ++ leBytes 2 r.code ++ leBytes 2 r.recid ++ [BitVec.ofNat 8 r.flags.toNat, BitVec.ofNat 8 r.pos]
    ++ leBytes 8 r.pc.toNat ++ leBytes 8 r.next.toNat ++ leBytes 8 r.vaddr.toNat ++ leBytes 2 r.nthr ++ leBytes 2 r.slot
    ++ [BitVec.ofNat 8 r.core, BitVec.ofNat 8 r.ctx, BitVec.ofNat 8 r.grp, BitVec.ofNat 8 r.src] ++ leBytes 8 r.tick
    ++ List.replicate 16 0

/-- `fqpop`. -/
def fqpopBody : Row → Fields → Env → Nat → LaneView → State → State := fun _ f e c lv s =>
  let a := (srcA64 [lv] lv f).toNat
  if a % 64 != 0 then s.finishOne f e lv (.fail (accFault e 4 0 a true))
  else match (s.col c).fq with
    | [] => s.answer f e lv 0
    | r :: rest =>
      let m := s.memCtx e
      match s.checkGlobal m e a 64 .store none with
      | .walking vas => s.askWalks e m vas
      | .fail i => (s.leaveWalks e.who c).finishOne f e lv (.fail i)
      | .held _ => s
      | .segs segs =>
        let s1 := (s.leaveWalks e.who c).storeWrites m.unit (addWrite [] segs r.bytes) 0 none (fun _ => none)
        (s1.modCol c (fun y => { y with fq := rest, popped := y.popped ++ [r] })).answer f e lv 1

/-- The next RECID from a start that no unresolved record holds. -/
def freshRecid (held : List Nat) : Nat → Nat → Nat
  | 0, n => n % 65536
  | k + 1, n => if held.contains (n % 65536) then freshRecid held k (n + 1) else n % 65536

/-- FAULT_RECORD_POST: the first waiting record enters the queue. -/
def State.postFault (s : State) (c : Nat) : State :=
  let y := s.col c
  match y.fqWait with
  | [] => s
  | r :: rest =>
    if 256 ≤ y.fq.length then s
    else
      let id := freshRecid ((y.fq ++ y.popped).map (·.recid)) 65536 y.nextRecid
      s.setCol c { y with fqWait := rest, fq := y.fq ++ [{ r with recid := id, tick := s.tick }], nextRecid := (id + 1) % 65536 }

/-! ### Resolving records (R241) -/

/-- Every thread of a group retires: its hands and tasks go, and deals in flight lose its lanes. -/
def State.retireAll (s : State) (n g : Nat) : State :=
  match s.grp? n g with
  | none => s
  | some x =>
    let s1 := x.live.foldl (fun t e => t.retireThread n g e.1) s
    let cut := fun (d : Option Deal) => d.map (fun v => if v.grp = g then
      { v with tricks := v.tricks.map (fun t => t.map (fun l => { l with gone := true })), pend := [], done := true } else v)
    let s2 := [0, 1].foldl (fun (t : State) slot => match t.deal? n slot with
      | some d => if d.grp = g then t.leaveAllWalks (.deal n slot) (coreColumn n) else t
      | none => t) s1
    ((s2.detachRecs n g).modCore n (fun y => { y with deck := y.deck.filter (fun h => h.grp != g), deal0 := cut y.deal0, deal1 := cut y.deal1 })).modGrp n g
      (fun y => { y with shoe := [], scalar := .idle, disposed := true })

/-- The rest of a unit may go on after one of its threads has left the kitty. -/
def State.afterLeaving (s : State) (n g t size : Nat) : State := (s.resumeRest n g t size).splitTest n g

/-- What an action does to what a record is attached to: none where it is not valid for the record. -/
def State.resolveAt (s : State) (c : Nat) (r : Rec) (action : Nat) : Option State :=
  let n := 12 * c + r.core
  let g := r.grp
  let size := fun (t : Nat) => match (s.thr? n g t).bind (·.park) with | some p => p.unitSize | none => 1
  if action = 0 then
    (if r.src = 0 then some (r.threads.foldl (fun t i => t.resolveThread n g i) s)
    else if r.src = 2 then some (s.modCmd n r.cmd (fun q => if q.phase = .suspended then { q with phase := .accepted } else q))
    else if r.src = 3 then some (s.modGrp n g (fun x => match x.scalar with
      | .stopped i addr => { x with scalar := .restart addr i.pc }
      | _ => x))
    else none)
  else if action = 1 then
    (if r.src = 0 && r.next != 0 then
      some (r.threads.foldl (fun t i => ((t.enterHand n g i r.next 0).afterLeaving n g i (size i))) s)
    else none)
  else if r.src = 0 then some (r.threads.foldl (fun t i => ((t.retireThread n g i).afterLeaving n g i (size i))) s)
  else if r.src = 2 then
    match s.cmd? n r.cmd with
    | some q => some (s.failCmd n q 12)
    | none => some s
  else some (s.retireAll n g)

/-- Resolve a record with an action: the state, or none where the action is not valid for it. A record whose group has been retired has nothing
attached any more. -/
def State.resolve (s : State) (c : Nat) (r : Rec) (action : Nat) : Option State :=
  (s.resolveAt c r action).map (fun t => if r.attached then t else s)

/-- `kres`. It performs a package-scope release of the column core's stores before it resumes anything (R351). -/
def kresBody : Row → Fields → Env → Nat → LaneView → State → State := fun r f e c lv s =>
  let a := (srcA [lv] lv f).toNat
  let b := (srcB r [lv] lv f).toNat
  if a / 65536 != 0 || 3 ≤ b then s.refuse f e lv 6
  else match (s.col c).popped.find? (fun x => x.recid == a) with
    | none => s.answer f e lv 1
    | some x =>
      match (s.releaseAct ⟨c, 12, .col c⟩ 5).resolve c x b with
      | none => s.answer f e lv 2
      | some t => (t.modCol c (fun y => { y with popped := y.popped.filter (fun z => z.recid != a) })).answer f e lv 0

/-! ### The swap engine (R236, R357) -/

/-- A field of a swap descriptor. -/
def descField (bs : List Byte) (off n : Nat) : Nat := leNat ((bs.drop off).take n)

/-- Whether a descriptor is invalid. -/
def descBad (xch : Bool) (bs : List Byte) : Bool :=
  let size := descField bs 0x12 1
  let first := descField bs 0 8
  let second := descField bs 8 8
  2 < size || descField bs 0x13 1 != 0 || descField bs 0x14 4 != 0 || first % pageBytes size != 0 || second % pageBytes size != 0
    || (!xch && !(isNear second || isFar second))

/-- Whether a descriptor is invalid in this package: so is one that moves a page into a range a retired channel has made reserved (R411). -/
def State.descRefused (s : State) (xch : Bool) (bs : List Byte) : Bool := descBad xch bs || (!xch && s.channelGone (descField bs 8 8))

/-- Hand a descriptor read at a place to the engine: the status, and the state. Whether the command being worked on counts among the queue of
16 R236 does not say: the model counts it (DESIGN CHOICE, log 40). -/
def State.swapSubmit (s : State) (c : Nat) (xch : Bool) (place : Nat) (bs : List Byte) : W × State :=
  if s.descRefused xch bs then (2, s)
  else if 16 ≤ (s.col c).swaps.length then (1, s)
  else
    let w : Swap :=
      { id := s.nextId, xch := xch, first := BitVec.ofNat 64 (descField bs 0 8), second := BitVec.ofNat 64 (descField bs 8 8),
        size := descField bs 0x12 1, asid := descField bs 0x10 2, doneAt := place + 0x18, root := 0, taken := false, active := false }
    let s1 : State := { s with nextId := s.nextId + 1 }
    (0, s1.modCol c (fun y => { y with swaps := y.swaps ++ [w] }))

/-- `swpg`: the descriptor is a load of 32 bytes; where it lies in another package its bytes are waited for. -/
def swpgBody (xch : Bool) : Row → Fields → Env → Nat → LaneView → State → State := fun r f e c lv s =>
  let m := s.memCtx e
  let a := (srcA64 [lv] lv f).toNat
  match s.checkForm m e a 32 .load none true with
  | .walking vas => s.askWalks e m vas
  | .fail i => (s.leaveWalks e.who c).finishOne f e lv (.fail i)
  | .held _ => s
  | .segs segs =>
    let q := (s.leaveWalks e.who c).loadSegs m.unit segs 0 none true
    let acc : RAccess := ⟨lv.pos, f.dS, f.d.toNat, .descriptor xch, BitVec.ofNat 64 a, q.1, none⟩
    match gather 0 q.1, segs with
    | .bytes bs, g :: _ => let p := q.2.swapSubmit c xch g.place bs; p.2.answer f e lv p.1
    | .waiting, _ => q.2.holdMem r f e [lv] [] ⟨[acc], none⟩
    | _, _ => q.2.finishOne f e lv ((acc.result e lv).getD .idle)

/-- The lowest-numbered context that carries an ASID, and its root (R236). -/
def State.rootOfAsid (s : State) (asid : Nat) : Option Nat := ((List.range 64).find? (fun n => s.ctxAsid n == asid)).map s.rootOf

/-- The address of the leaf entry of a page of a size, after a walk that found it. -/
def State.leafAddr (s : State) (c va : Nat) : Nat → Nat → Nat → Nat
  | 0, _, table => table
  | left + 1, level, table =>
    let a := table + 8 * levelIndex va level
    let e : D64 := BitVec.ofNat 64 (leNat (s.peekBytes c a 8))
    if pteType e = 2 || left = 0 then a else s.leafAddr c va left (level + 1) (pointerTarget e)

/-- The leaf of a page of exactly a size, in near or far memory of this package. -/
def State.swapLeaf (s : State) (c root : Nat) (va : D64) (size : Nat) : Option D64 :=
  match s.walk c root va.toNat with
  | .leaf e sz => if sz = size && ptePkg e = s.pkgId && (isNear (pteFrame e) || isFar (pteFrame e)) then some e else none
  | .fail _ => none

/-- Drop every cached copy of a range of this package, dirty bytes written home first. -/
def State.flushRange (s : State) (base len : Nat) : State :=
  let inside := fun (sec : Nat) => decide (base ≤ 32 * sec) && decide (32 * sec < base + len)
  let s1 := allCols.foldl (fun t c => (((t.col c).slice.filter (fun e => inside e.1)).map (·.1)).foldl (fun u sec => u.evict c sec) t) s
  { s1 with
    cores := s1.cores.map (fun e => (e.1, { e.2 with l1 := e.2.l1.filter (fun l => !(inside l.1)), blocks := e.2.blocks.filter (fun l => !(inside l.1)) }))
    cols := s1.cols.map (fun e => (e.1, { e.2 with core := { e.2.core with l1 := e.2.core.l1.filter (fun l => !(inside l.1)) } })) }

/-- The home's bytes and poison after a range takes the contents another range had in an earlier state (R236, R409). -/
def State.copyRange (s old : State) (src dst len : Nat) : State :=
  let inDst := fun (a : Nat) => decide (dst ≤ a) && decide (a < dst + len)
  let inSrc := fun (a : Nat) => decide (src ≤ a) && decide (a < src + len)
  { s with
    mem := (old.mem.filter (fun e => inSrc e.1)).foldl (fun m e => mapSet m (e.1 - src + dst) e.2) (s.mem.filter (fun e => !(inDst e.1)))
    poison := (old.poison.filter (fun p => inSrc (32 * p))).foldl (fun l p => insNat ((32 * p - src + dst) / 32) l)
      (s.poison.filter (fun p => !(inDst (32 * p)))) }

/-- Write bytes at a home past every cached copy, as an engine of the package does. -/
def State.homeStore (s : State) (a : Nat) (bs : List Byte) : State :=
  (pieces a bs).foldl (fun t p =>
    let q := placeBytes p.2.1 p.2.2
    ((allCols.foldl (fun u c => u.evict c p.1) t).rawHomeWrite p.1 q.1 q.2).setMark (p.1 / 4) none) s

/-- Point the leaf entry of a page at a frame. -/
def State.repoint (s : State) (c root : Nat) (va : D64) (frame : Nat) : State :=
  let a := s.leafAddr c va.toNat 4 1 root
  let e := leNat (s.peekBytes c a 8)
  let new := e / 2 ^ 48 * 2 ^ 48 + frame / 2 ^ 16 % 2 ^ 32 * 2 ^ 16 + e % 2 ^ 16
  s.homeStore a (leBytes 8 new)

/-- Write DONE as a release at package scope, set `evpend` bit 4, and take the command off the queue. -/
def State.swapEnd (s : State) (c : Nat) (w : Swap) (v : Nat) : State :=
  let s1 := s.storeWrites ⟨c, 12, .col c⟩ (addWrite [] [⟨0, 8, w.doneAt, false⟩] (leBytes 8 v)) 3 (some 5) (fun _ => some 5)
  ((s1.modCol c (fun y => { y with swaps := y.swaps.filter (fun x => x.id != w.id) })).releaseLocks (.swap c w.id)).latchEvent c 4

/-- SWAP_TAKE_UP: the oldest command, once no other is being worked on. -/
def State.swapTake (s : State) (c : Nat) : State :=
  match (s.col c).swaps with
  | [] => s
  | w :: _ =>
    if w.taken then s
    else
      let leaves := (s.rootOfAsid w.asid).bind (fun root =>
        match s.swapLeaf c root w.first w.size with
        | none => none
        | some _ => if w.xch && (s.swapLeaf c root w.second w.size).isNone then none else some root)
      match leaves with
      | none => s.swapEnd c w 2
      | some root =>
        let page := pageBytes w.size
        let entry := fun (va : D64) => (⟨true, true, w.asid, va.toNat / 32, (va.toNat + page - 1) / 32, [], .swap c w.id⟩ : LockEntry)
        let s1 := s.modCol c (fun y => { y with swaps := y.swaps.map (fun x => if x.id = w.id then { x with taken := true, root := root } else x) })
        s1.requestLocks ⟨.swap c w.id, entry w.first :: (if w.xch then [entry w.second] else [])⟩

/-- SWAP_DONE: with the locks held, the bytes move, the entries are rewritten, translations go, locks are released, DONE is written. -/
def State.swapFinish (s : State) (c : Nat) : State :=
  match (s.col c).swaps with
  | [] => s
  | w :: _ =>
    if !w.active then s
    else
      let page := pageBytes w.size
      let drop := fun (t : State) (va : D64) => t.tlbDrop (fun e => e.covers w.asid va.toNat)
      match s.swapLeaf c w.root w.first w.size, (if w.xch then s.swapLeaf c w.root w.second w.size else some 0) with
      | some a, some b =>
        let f1 := pteFrame a
        let f2 := if w.xch then pteFrame b else w.second.toNat
        let s1 := (s.flushRange f1 page).flushRange f2 page
        let s2 := s1.copyRange s1 f1 f2 page
        let s3 := if w.xch then s2.copyRange s1 f2 f1 page else s2
        let s4 := s3.repoint c w.root w.first f2
        let s5 := if w.xch then s4.repoint c w.root w.second f1 else s4
        (if w.xch then drop (drop s5 w.first) w.second else drop s5 w.first).swapEnd c w 1
      | _, _ => s.swapEnd c w 2

/-! ### The end of a load (R33, R373) -/

/-- A column core takes the answers to its access: the registers are written, or the descriptor is handed on, and it goes on. -/
def State.completeCol (s : State) (c : Nat) : State :=
  match (s.cc c).wait with
  | none => s
  | some w =>
    if !(w.accs.all (·.arrived)) then s
    else
      let s1 := { (s.modCc c (fun x => { x with wait := none })) with cur := .col c }
      match issueCtx s1, (s1.cc c).body.bind (fun b => standsAt b (s1.cc c).pos) with
      | some (e, lv :: ls), some (r, f) =>
        (match w.accs with
          | [⟨_, _, _, .descriptor xch, va, parts, _⟩] =>
            (match gather 0 parts, s1.checkGlobal (s1.memCtx e) e va.toNat 32 .load none with
              | .bytes bs, .segs (g :: _) => let p := s1.swapSubmit c xch g.place bs; p.2.answer f e lv p.1
              | .bytes _, _ => s1
              | _, _ => s1.finishOne f e lv (((RAccess.mk 0 false 0 (.descriptor xch) va parts none).result e lv).getD .idle))
          | _ =>
            let res := w.accs.filterMap (fun a => ((lv :: ls).find? (fun v => v.pos == a.lane)).bind (fun v => (a.result e v).map (fun x => (a.lane, x))))
            (s1.acquireOpt (s1.memCtx e).unit w.acquire).finishMem r f e (lv :: ls) (resAt res))
      | _, _ => s1

/-- LOAD_COMPLETE: the answers to an access of an agent have all arrived. -/
def State.completeLoad (s : State) (who : Issuer) : State :=
  match who with
  | .col c => s.completeCol c
  | .deal n slot =>
    match s.deal? n slot with
    | none => s
    | some d => match d.answered with
      | some p => s.settle n slot d p
      | none => s

/-! ### Events of column cores -/

/-- A block boundary at U or S with EIE set and an unmasked event (R228). -/
def State.eventTaken (s : State) (c : Nat) : Bool :=
  let x := s.cc c
  x.run = .running && x.body.isNone && (x.priv = 0 || x.priv = 1) && x.eie && (s.evpend c &&& (s.col c).evmask) != 0

/-- EVENT_TRAP (R228). -/
def State.takeEvent (s : State) (c : Nat) : State :=
  if s.eventTaken c then
    let x := s.cc c
    s.takeTrap c 27 0 x.addr x.addr (s.evpend c &&& (s.col c).evmask)
  else s

/-! ### Meanings -/

def execSysrd (f : Fields) (s : State) : Out State := .next (runMem (.sysrd f) (colBody sysrdBody) s)
def execSysrdLit (f : Fields) (s : State) : Out State := .next (runMem (.sysrdLit f) (colBody sysrdBody) s)
def execCalDataRead (f : Fields) (s : State) : Out State := .next (runMem (.calDataRead f) (colBody sysrdBody) s)
def execSyswr (f : Fields) (s : State) : Out State := .next (runMem (.syswr f) (colBody syswrBody) s)
def execSyswrLit (f : Fields) (s : State) : Out State := .next (runMem (.syswrLit f) (colBody syswrBody) s)
def execRsmGoWrite (f : Fields) (s : State) : Out State := .next (runMem (.rsmGoWrite f) (colBody syswrBody) s)
def execSwallowColWrite (f : Fields) (s : State) : Out State := .next (runMem (.swallowColWrite f) (colBody syswrBody) s)
def execThrEventsWrite (f : Fields) (s : State) : Out State := .next (runMem (.thrEventsWrite f) (colBody syswrBody) s)
def execEvpendWrite (f : Fields) (s : State) : Out State := .next (runMem (.evpendWrite f) (colBody syswrBody) s)
def execPolDealWrite (f : Fields) (s : State) : Out State := .next (runMem (.polDealWrite f) (colBody syswrBody) s)
def execTret (f : Fields) (s : State) : Out State := .next (runMem (.tret f) (colBody tretBody) s)
def execEcall (f : Fields) (s : State) : Out State := .next (runMem (.ecall f) (colBody (callTrapBody 25)) s)
def execBrk (f : Fields) (s : State) : Out State := .next (runMem (.brk f) (colBody (callTrapBody 26)) s)
def execWfe (f : Fields) (s : State) : Out State := .next (runMem (.wfe f) (colBody wfeBody) s)
def execHalt (f : Fields) (s : State) : Out State := .next (runMem (.halt f) (colBody haltBody) s)
def execTlbiAll (f : Fields) (s : State) : Out State := .next (runMem (.tlbiAll f) (colBody (tlbiBody 0)) s)
def execTlbiAsid (f : Fields) (s : State) : Out State := .next (runMem (.tlbiAsid f) (colBody (tlbiBody 1)) s)
def execTlbiAsidLit (f : Fields) (s : State) : Out State := .next (runMem (.tlbiAsidLit f) (colBody (tlbiBody 1)) s)
def execTlbiPage (f : Fields) (s : State) : Out State := .next (runMem (.tlbiPage f) (colBody (tlbiBody 2)) s)
def execTlbiPageLit (f : Fields) (s : State) : Out State := .next (runMem (.tlbiPageLit f) (colBody (tlbiBody 2)) s)
def execSwpgMv (f : Fields) (s : State) : Out State := .next (runMem (.swpgMv f) (colBody (swpgBody false)) s)
def execSwpgXch (f : Fields) (s : State) : Out State := .next (runMem (.swpgXch f) (colBody (swpgBody true)) s)
def execMscfWb (f : Fields) (s : State) : Out State := .next (runMem (.mscfWb f) (colBody mscfBody) s)
def execMscfWbi (f : Fields) (s : State) : Out State := .next (runMem (.mscfWbi f) (colBody mscfBody) s)
def execFqpop (f : Fields) (s : State) : Out State := .next (runMem (.fqpop f) (colBody fqpopBody) s)
def execKresRetry (f : Fields) (s : State) : Out State := .next (runMem (.kresRetry f) (colBody kresBody) s)
def execKresContinue (f : Fields) (s : State) : Out State := .next (runMem (.kresContinue f) (colBody kresBody) s)
def execKresRetire (f : Fields) (s : State) : Out State := .next (runMem (.kresRetire f) (colBody kresBody) s)
def execLoadComplete (iss : Issuer) (s : State) : Out State := .next (s.completeLoad iss)
def execEventTrap (col : Nat) (s : State) : Out State := .next (s.takeEvent col)
def execSwapTakeUp (col : Nat) (s : State) : Out State := .next (s.swapTake col)
def execSwapDone (col : Nat) (s : State) : Out State := .next (s.swapFinish col)
def execFaultRecordPost (col : Nat) (s : State) : Out State := .next (s.postFault col)
/-- TICKCMP_MATCH: `evpend` bit 3 is the comparison itself, a level (R234), so nothing else changes. -/
def execTickcmpMatch (_col : Nat) (s : State) : Out State := .next s

end Sys2Proof.Machine
end

