-- ==== Sys2Proof/Machine/Launch.lean ====
section
/-! DEFINITION. Launch lines and records, acceptance of GOs, chained GOs, admission and placement, and completion (R250, R323 to R337,
R340 to R342). -/

namespace Sys2Proof.Machine

/-! ### Reading the record (R326, R330) -/

/-- Read bytes of one local place at a slice, at column scope, without entering a flush set; none where a sector is poisoned. -/
def State.readAtSlice (s : State) (c k n : Nat) : Option (List Byte) × State :=
  if isWindow k then (some (s.windowLoad k n), s)
  else
    let secs := (pieces k (List.replicate n (0 : Byte))).map (·.1)
    let s1 := secs.foldl (fun t sec => t.fillSlice c sec) s
    if secs.any (fun sec => s1.slicePoison c sec) then (none, s1) else (some (s1.viewBytes c k n), s1)

/-- Read bytes of a context's memory for the launch engine; none where a page cannot be read (REASON 1). The engine is no array core and
no column core, so U is not asked for (log 17). -/
def State.engineRead (s : State) (c ctx va n : Nat) : Option (List Byte) × State :=
  let asid := s.ctxAsid ctx
  let root := s.rootOf ctx
  (pageCuts va n).foldl (fun acc p =>
    match acc.1 with
    | none => acc
    | some done =>
      match acc.2.translateNow (.walker c) asid root p.1 with
      | .fail _ => (none, acc.2)
      | .leaf e size =>
        if ptePkg e != s.pkgId || isFar (pteFrame e) || !(pteR e) then (none, acc.2)
        else
          let q := (acc.2.translateNote (.walker c) asid root p.1).readAtSlice c (acc.2.placeOf e size p.1) p.2
          (q.1.map (fun bs => done ++ bs), q.2)) (some [], s)

/-! ### The record (R329, R330) -/

/-- A record from its bytes. -/
def recordOf (bs : List Byte) : LaunchRec :=
  let f := descField bs
  { entry := BitVec.ofNat 64 (f 0x00 8), trapEnt := BitVec.ofNat 64 (f 0x08 8), crews := f 0x10 2, tdimx := f 0x12 2, tdimy := f 0x14 2,
    base := f 0x16 2, part := BitVec.ofNat 32 (f 0x18 4), argbytes := f 0x1C 4, gdimx := f 0x20 4, gdimy := f 0x24 4, gdimz := f 0x28 4,
    gang := f 0x2C 2, pdens := f 0x2E 2, flags := BitVec.ofNat 32 (f 0x30 4), prio := f 0x34 1, pscope := f 0x35 1, cscope := f 0x36 1,
    succ := f 0x37 1, pmask := BitVec.ofNat 32 (f 0x38 4) }

/-- Static granules of a group (R24). -/
def LaunchRec.static (r : LaunchRec) : Nat := r.baseGranules + r.scr

/-- BASE or PART breaks R23. -/
def LaunchRec.badPartition (r : LaunchRec) : Bool :=
  fieldOf r.part.toNat 31 24 != 0 || decide (64 < r.zmax) || decide (96 < r.scr) || r.base % 16 != 0 || decide (r.base < 16)
    || decide (1024 < r.base) || decide (1024 < r.base + 16 * r.xreg) || decide (96 < r.static)

/-- The eligible columns of a launch from a column (R334). -/
def LaunchRec.eligible (r : LaunchRec) (c : Nat) : List Nat :=
  (scopeCols r.pscope c).filter (fun k => r.pmask = 0 || r.pmask.getLsbD k)

/-- No cluster holds a whole gang. -/
def LaunchRec.gangTooWide (r : LaunchRec) (c : Nat) : Bool :=
  (List.range 8).all (fun k => decide (12 * ((r.eligible c).filter (fun x => clusterOf x == k)).length < r.gang))

/-- The first check of R330 that a record fails, REASON 1 aside. -/
def recordFault (bs : List Byte) (winva : D64) (c : Nat) : Option Nat :=
  let r := recordOf bs
  let zero := fun (a n : Nat) => ((bs.drop a).take n).all (fun b => b == 0)
  lowestCode [
    (2, !(zero 0x3C 68) || fieldOf r.succ 6 4 != 0 || r.cscope / 8 != 0 || r.pscope / 8 != 0 || r.prio / 4 != 0 || r.flags.toNat / 8 != 0),
    (3, r.entry = 0 || r.entry.toNat % 4 != 0 || r.trapEnt.toNat % 4 != 0),
    (4, r.crews = 0 || decide (32 < r.crews) || r.nt = 0 || decide (r.capacity < r.nt) || r.groups = 0 || decide (2 ^ 32 ≤ r.groups)
        || r.gang = 0 || decide (48 < r.gang) || r.groups % r.gang != 0),
    (5, r.badPartition),
    (6, decide (r.pscope < 2) || decide (5 < r.pscope) || r.cscope = 1 || r.cscope = 7 || (r.eligible c).isEmpty || (r.gang != 1 && r.gangTooWide c)),
    (7, decide (128 < r.argbytes)),
    (8, winva = 0 || winva.toNat % 65536 != 0)]

/-! ### Lines (R327, R328) -/

/-- Change a line; every change sets `evpend` bit 1. -/
def State.modLine (s : State) (c ctx k : Nat) (f : Line → Line) : State :=
  (s.modWindow c ctx (fun w => { w with lines := mapSet w.lines k (f (mapGet w.lines k Line.idle)) })).latchEvent c 1

/-- The live instances of a line. -/
def State.lineInsts (s : State) (c ctx k : Nat) : List (Nat × Inst) :=
  s.insts.filter (fun e => e.2.col == c && e.2.ctx == ctx && e.2.line == k)

/-- The lowest instance copy of a window not in use (R331). -/
def Window.freeCopy (w : Window) : Option Nat := (List.range 64).find? (fun i => !(mapGet w.copies i ⟨[], false⟩).used)

/-- REASON of a refusal (R328). -/
def State.refusal (s : State) (c ctx k : Nat) (r : LaunchRec) : Option Nat :=
  let live := s.lineInsts c ctx k
  if !(live.isEmpty) && (r.excl || live.any (fun e => e.2.lrec.excl)) then some 1
  else if (s.window c ctx).freeCopy.isNone then some 2 else none

/-- Accept a GO (R328, R331). -/
def State.acceptGo (s : State) (c ctx k : Nat) (bs : List Byte) (copy : Nat) (chained : Option Nat) : State :=
  let r := recordOf bs
  let id := s.nextInst
  let kept := bs.take (0x80 + r.argbytes) ++ List.replicate (128 - r.argbytes) 0
  let inst : Inst :=
    { col := c, ctx := ctx, line := k, copy := copy, winva := (s.window c ctx).winva, lrec := r, order := s.nextOrder, isNewest := true,
      chainedFrom := chained, admitted := 0, retired := [], chainDone := false, gridBar := .fresh, gangBars := [], quietSeen := false, quiet := false, heatAt := none }
  let old := s.insts.map (fun e => if e.2.col = c && e.2.ctx = ctx && e.2.line = k then (e.1, { e.2 with isNewest := false }) else e)
  let s1 := { s with nextInst := id + 1, nextOrder := s.nextOrder + 1, insts := mapSet old id inst }
  (s1.modWindow c ctx (fun w => { w with copies := mapSet w.copies copy ⟨kept, true⟩ })).modLine c ctx k (fun l =>
    { l with st := 1, gseq := (l.gseq + 1) % 65536, live := l.live + 1, reason := 0 })

/-- A GO with the RADDR it reads: fault, refusal or acceptance (R326, R328, R330). -/
def State.goOn (s : State) (c ctx k : Nat) (raddr : D64) (chained : Option Nat) : State :=
  let fault := fun (t : State) (reason : Nat) => t.modLine c ctx k (fun l => { l with st := 5, reason := reason })
  let read := if raddr.toNat % 8 = 0 then s.engineRead c ctx raddr.toNat 256 else (none, s)
  match read.1 with
  | none => fault read.2 1
  | some bs =>
    match recordFault bs (s.window c ctx).winva c with
    | some reason => fault read.2 reason
    | none =>
      match read.2.refusal c ctx k (recordOf bs), (s.window c ctx).freeCopy with
      | none, some copy => read.2.acceptGo c ctx k bs copy chained
      | reason, _ => read.2.modLine c ctx k (fun l => { l with st := 4, reason := reason.getD 2 })

/-- LAUNCH_GO: the oldest GO of a window. -/
def State.takeGo (s : State) (c ctx : Nat) : State :=
  match (s.window c ctx).gos with
  | [] => s
  | (k, raddr) :: rest => (s.modWindow c ctx (fun w => { w with gos := rest })).goOn c ctx k raddr none

/-- CHAINED_GO (R332): an instance that is fully admitted makes its GO once. -/
def State.chainGo (s : State) (i : Nat) : State :=
  match s.inst? i with
  | none => s
  | some x =>
    if x.chainDone || x.admitted != x.lrec.groups then s
    else
      let s1 := s.modInst i (fun y => { y with chainDone := true })
      if x.lrec.succ / 128 = 0 then s1
      else
        let k := x.lrec.succ % 16
        s1.goOn x.col x.ctx k (mapGet (s.window x.col x.ctx).lines k Line.idle).raddr (some i)

/-! ### Order of admission (R333, R334) -/

/-- Whether an instance is eligible (R333). -/
def State.mayAdmit (s : State) (x : Inst) : Bool :=
  match x.chainedFrom with
  | none => true
  | some p => x.lrec.early || (s.inst? p).isNone

/-- Insert an instance by priority, then acceptance. -/
def orderInsert (e : Nat × Inst) : List (Nat × Inst) → List (Nat × Inst)
  | [] => [e]
  | f :: r => if f.2.lrec.prio < e.2.lrec.prio || (f.2.lrec.prio = e.2.lrec.prio && e.2.order < f.2.order) then e :: f :: r else f :: orderInsert e r

/-- Instances with groups still to admit, in the order of R334. -/
def State.admissionOrder (s : State) : List (Nat × Inst) :=
  (s.insts.filter (fun e => s.mayAdmit e.2 && decide (e.2.admitted < e.2.lrec.groups))).foldl (fun acc e => orderInsert e acc) []

/-- Keep those that no earlier one with an intersecting set of eligible columns stands before. -/
def openHeads : List Nat → List (Nat × Inst) → List (Nat × Inst)
  | _, [] => []
  | seen, e :: rest =>
    let cols := e.2.lrec.eligible e.2.col
    if cols.any (fun c => seen.contains c) then openHeads (seen ++ cols) rest else e :: openHeads (seen ++ cols) rest

/-! ### Room and placement (R250, R335, R337, R339) -/

/-- Slots of resident groups of a core, as base and length. -/
def State.slotRuns (s : State) (n : Nat) : List (Nat × Nat) :=
  (s.core n).groups.map (fun e => (e.2.slotBase, (s.recOf e.2).capacity))

/-- Whether a run of slots is free of others. -/
def runFree (runs : List (Nat × Nat)) (base len : Nat) : Bool :=
  runs.all (fun r => decide (r.1 + r.2 ≤ base) || decide (base + len ≤ r.1))

/-- The lowest free aligned run of slots (R250). -/
def freeRun (runs : List (Nat × Nat)) (len : Nat) : Option Nat :=
  ((List.range 128).map (32 * ·)).find? (fun b => decide (b + len ≤ 4096) && runFree runs b len)

/-- What a saved group takes when it is restored: granules (R243). -/
def savedGranules (r : LaunchRec) (x : Group) : Nat :=
  r.baseGranules + r.scr + (if x.xheld then r.xGranules else 0) + x.tiles.length

/-- Saved groups the launch engine is to restore on a core that hold back resources from a priority (R339). -/
def State.heldBack (s : State) (n prio : Nat) : List SavedGroup :=
  (s.saves.filter (·.byEngine)).flatMap (fun v => v.members.filter (fun m => m.core == n && decide (prio ≤ (s.recOf m.grp).prio)))

/-- The slot base and resident index a group of a record takes on a core, where it has room and takes nothing that a saved group of its
priority or a higher one waits for (R335, R339, R408). -/
def State.roomOn (s : State) (n : Nat) (r : LaunchRec) : Option (Nat × Nat) :=
  let y := s.core n
  let back := s.heldBack n r.prio
  let gran := (back.map (fun m => savedGranules (s.recOf m.grp) m.grp)).sum
  if y.outOfService || s.freeGranules n < gran + r.static then none
  else match freeRun (s.slotRuns n) r.capacity, (List.range 64).find? (fun g => (mapGet? y.groups g).isNone) with
    | some b, some g =>
      if runFree (back.map (fun m => (m.grp.slotBase, (s.recOf m.grp).capacity))) b r.capacity && !(back.any (fun m => m.idx == g)) then
        some (b, g)
      else none
    | _, _ => none

/-- The prediction of R400 in units of 1/1,024 °C per mW: whether adding power keeps a column at or below 105 °C. -/
def State.coolEnough (s : State) (c addMw : Nat) : Bool :=
  let g := s.gov c
  let watts : Int := (g.measMw : Int) + (g.addPrev + g.addMw + addMw : Nat) - g.refMw
  decide (g.temp * 64 * 1000 + (Config.kcol c : Int) * watts ≤ 105 * 1024 * 1000)

/-- The columns of a launch in the order of preference (R335). -/
def LaunchRec.columnOrder (r : LaunchRec) (c : Nat) : List Nat :=
  let l := r.eligible c
  l.filter (· == c) ++ l.filter (fun k => clusterOf k == clusterOf c && k != c)
    ++ l.filter (fun k => dieOf k == dieOf c && clusterOf k != clusterOf c) ++ l.filter (fun k => dieOf k != dieOf c)

/-- The cores of a column with room, most free granules first, then by `core_col`: core, slot base and index. -/
def State.coresWithRoom (s : State) (c : Nat) (r : LaunchRec) : List (Nat × Nat × Nat) :=
  let l := (colCores c).filterMap (fun n => (s.roomOn n r).map (fun p => (n, p.1, p.2)))
  let rec ins (e : Nat × Nat × Nat) : List (Nat × Nat × Nat) → List (Nat × Nat × Nat)
    | [] => [e]
    | f :: t => if s.freeGranules f.1 < s.freeGranules e.1 then e :: f :: t else f :: ins e t
  l.foldl (fun acc e => ins e acc) []

/-- The cores of a column that can take groups now, each adding its PDENS to the column (R337); `heat`: thermal admission counts. -/
def State.takeable (s : State) (heat : Bool) (c : Nat) (r : LaunchRec) : List (Nat × Nat × Nat) :=
  ((s.coresWithRoom c r).zipIdx.filter (fun e => !heat || s.coolEnough c ((e.2 + 1) * r.pdens))).map (·.1)

/-- The clusters of a list of columns, in order. -/
def clustersOf (l : List Nat) : List Nat := (l.map clusterOf).eraseDups

/-- Where the next group or gang of an instance goes, if there is room for it, and with `heat` if thermal admission permits it. -/
def State.placeIf (s : State) (heat : Bool) (x : Inst) : Option (List (Nat × Nat × Nat)) :=
  let r := x.lrec
  let order := r.columnOrder x.col
  if r.gang = 1 then ((order.flatMap (fun c => s.takeable heat c r)).head?).map (fun e => [e])
  else
    (clustersOf order).findSome? (fun k =>
      let l := (order.filter (fun c => clusterOf c == k)).flatMap (fun c => s.takeable heat c r)
      if r.gang ≤ l.length then some (l.take r.gang) else none)

/-- Where the next group or gang of an instance goes, if it can be admitted now. -/
def State.place (s : State) (x : Inst) : Option (List (Nat × Nat × Nat)) := s.placeIf true x

/-- The instances whose next group nothing stands before, but those that thermal admission refused and that are not yet tested again
(R334, R337). -/
def State.headsToTest (s : State) : List (Nat × Inst) := (openHeads [] s.admissionOrder).filter (fun e => e.2.heatAt != some s.heatCount)

/-- Groups that have room and that thermal admission refuses keep their place until the next moment to test them (R337). -/
def State.noteHeat (s : State) : State :=
  s.headsToTest.foldl (fun t e => if (s.placeIf false e.2).isSome && (s.place e.2).isNone then t.modInst e.1 (fun y => { y with heatAt := some s.heatCount }) else t) s

/-! ### Admission (R15, R18, R250, R259, R328, R335) -/

/-- A group at its admission. -/
def Group.fresh (s : State) (i gflat slot : Nat) (x : Inst) : Group :=
  { inst := i, gflat := gflat, slotBase := slot, threads := (List.range x.lrec.nt).map (fun t => (t, Thread.fresh x.lrec.entry)),
    s := [], q := [], k := 0, scalar := .idle, fmode := 0x10, fstat := 0, soft := 0, pots := [], scratch := [], xheld := false, tiles := [],
    shoe := [], skip := 0, stopped := false, disposed := false, trapCheck := .unread, active := false, activeSince := 0, admitSeq := s.nextId, lastDeal := none,
    anteFrom := none, anteDue := false, idleSince := none, flush := [], flushFull := false, saving := false, fence := none,
    asid := s.ctxAsid x.ctx, pkg := s.pkgId }

/-- Make one group resident. -/
def State.admitOne (s : State) (i gflat : Nat) (x : Inst) (p : Nat × Nat × Nat) : State :=
  let s1 := (s.setGrp p.1 p.2.2 (Group.fresh s i gflat p.2.1 x)).modGov (coreColumn p.1) (fun g => { g with addMw := g.addMw + x.lrec.pdens })
  let s2 := { s1 with nextId := s1.nextId + 1 }
  ((List.range x.lrec.nt).foldl (fun t k => t.setBit p.1 p.2.2 k) s2).fillActive p.1

/-- Admit a group or gang at its places: the newest instance of a line now runs; a fully admitted one makes its chained GO. -/
def State.admitAt (s : State) (i : Nat) (x : Inst) (ps : List (Nat × Nat × Nat)) : State :=
  let s1 := ps.zipIdx.foldl (fun t e => t.admitOne i (x.admitted + e.2) x e.1) s
  let s2 := s1.modInst i (fun y => { y with admitted := y.admitted + ps.length, heatAt := none })
  let s3 := if x.admitted = 0 && x.isNewest then s2.modLine x.col x.ctx x.line (fun l => { l with st := 2, reason := 0 }) else s2
  s3.chainGo i

/-- Admit groups of the first unblocked instance that can be placed. -/
def State.admitNext (s : State) : State :=
  match s.headsToTest.findSome? (fun e => (s.place e.2).map (fun ps => (e.1, e.2, ps))) with
  | some (i, x, ps) => s.noteHeat.admitAt i x ps
  | none => s.noteHeat

/-! ### Completion (R340) -/

/-- INSTANCE_COMPLETE. -/
def State.completeInst (s : State) (i : Nat) : State :=
  match s.inst? i with
  | none => s
  | some x =>
    if x.retired.length < x.lrec.groups then s
    else
      let s1 := s.releaseAct ⟨x.col, 12, .col x.col⟩ x.lrec.scope
      let s2 := { s1 with insts := mapErase s1.insts i }
      (s2.modWindow x.col x.ctx (fun w =>
        { w with copies := mapSet w.copies x.copy { (mapGet w.copies x.copy ⟨[], false⟩) with used := false } })).modLine x.col x.ctx x.line
        (fun l =>
          let live := l.live - 1
          { l with live := live, dseq := (l.dseq + 1) % 65536, ctick := BitVec.ofNat 64 s.tick,
                   st := if live = 0 then 3 else l.st, reason := if live = 0 then 0 else l.reason })

def execLaunchGo (col ctx : Nat) (s : State) : Out State := .next (s.takeGo col ctx)
def execChainedGo (inst : Nat) (s : State) : Out State := .next (s.chainGo inst)
def execGroupAdmission (s : State) : Out State := .next s.admitNext
def execInstanceComplete (inst : Nat) (s : State) : Out State := .next (s.completeInst inst)

end Sys2Proof.Machine
end

