-- ==== Sys2Proof/Machine/Contexts.lean ====
section
/-! DEFINITION. Saving and restoring groups: `gsave`, `grest`, pre-emption and restoration by the launch engine, and the words owed to
withdrawn threads (R242, R243, R338, R339, R353 to R356; log 13). -/

namespace Sys2Proof.Machine

/-! ### Save areas (R354) -/

/-- Round up to a multiple of 4,096. -/
def roundPage (n : Nat) : Nat := (n + 4095) / 4096 * 4096

/-- Registers per thread of an area: B + 16 × XREG. -/
def LaunchRec.wide (r : LaunchRec) : Nat := r.base + 16 * r.xreg

/-- Where TSTORE begins in an area. -/
def LaunchRec.tstoreAt (r : LaunchRec) : Nat :=
  4096 + roundPage (16 * r.capacity) + roundPage (64 * r.capacity) + 4096 + 4096 + 16384 + roundPage 18432

/-- The size of one area. -/
def LaunchRec.areaSize (r : LaunchRec) : Nat :=
  r.tstoreAt + roundPage (4 * r.capacity * r.wide) + 16384 * r.scr + 16384 * r.zmax

/-- One step of the CRC-32 of IEEE 802.3 over a byte, on the inverted remainder. -/
def crcStep (c : Nat) (b : Byte) : Nat :=
  (List.range 8).foldl (fun v _ => if v % 2 = 1 then Nat.xor (v / 2) 0xEDB88320 else v / 2) (Nat.xor c b.toNat)

/-- CRC-32 of bytes. -/
def crc32 (bs : List Byte) : Nat := Nat.xor (bs.foldl crcStep 0xFFFFFFFF) 0xFFFFFFFF

/-- The header of an area with SEAL and OWED zero, up to the zero bytes that end it. -/
def State.areaHeader (s : State) (m : SavedGroup) (size : Nat) : List Byte :=
  let x := m.grp
  let i := s.instOf x
  let bar := match x.atBar true, x.atBar false with
    | some ep, _ => 2 ^ 63 + ep
    | none, some ep => 2 ^ 63 + ep
    | none, none => 0
  leBytes 4 size ++ leBytes 4 0 ++ leBytes 8 0 ++ [BitVec.ofNat 8 i.ctx, BitVec.ofNat 8 (coreColumn m.core), BitVec.ofNat 8 (coreInCol m.core),
      BitVec.ofNat 8 m.idx]
    ++ leBytes 2 m.asid ++ leBytes 2 x.slotBase ++ leBytes 4 (256 * x.tiles.length + (if x.xheld then 1 else 0)) ++ leBytes 4 x.gflat
    ++ leBytes 8 bar ++ leBytes 8 (0x7F0000000000 + 0x400000 * i.col + 0x10000 * i.ctx + 0x1000 + 256 * i.copy) ++ leBytes 4 0

/-- The bytes of an area with SEAL, OWED and every owed word zero: the private sections are the part's (log 13). -/
def State.areaBytes (s : State) (id : Nat) (m : SavedGroup) (size : Nat) : List Byte :=
  let hdr := s.areaHeader m size
  let base := hdr ++ List.replicate (4096 - hdr.length) 0
  base ++ (List.range (size - 4096)).map (fun j =>
    let off := 4096 + j
    if m.owedAt.any (fun o => decide (o ≤ off) && decide (off < o + 4)) then 0 else Config.saveByte (64 * id + m.core) off)

/-- Put four bytes of a value into bytes at an offset. -/
def putWordAt (bs : List Byte) (off v : Nat) : List Byte := bs.take off ++ leBytes 4 v ++ bs.drop (off + 4)

/-- Bytes with SEAL, OWED and the owed words taken as zero (R354). -/
def unsealed (owedAt : List Nat) (bs : List Byte) : List Byte :=
  (owedAt.foldl (fun b o => putWordAt b o 0) (putWordAt (putWordAt bs 4 0) 0x30 0))

/-- Memory with a run of bytes written. -/
def putRun (m : List Host.Cell) (a : Nat) (bs : List Byte) : List Host.Cell :=
  m.filter (fun e => decide (e.1 < a))
    ++ (bs.zipIdx.filter (fun b => decide (b.1 ≠ unwritten))).map (fun b => (a + b.2, b.1))
    ++ m.filter (fun e => decide (a + bs.length ≤ e.1))

/-- Write whole sectors of a part of an area at their home; no cached copy remains. A part on a launch window is stored to the window (R324). -/
def State.areaStore (s : State) (a : Nat) (bs : List Byte) : State :=
  if isWindow a then s.storeBytes ⟨0, 12, .col 0⟩ a bs none none
  else
    let s1 := s.flushRange a bs.length
    { s1 with
      mem := putRun s1.mem a bs
      poison := s1.poison.filter (fun p => !(decide (a ≤ 32 * p) && decide (32 * p < a + bs.length)))
      marks := s1.marks.filter (fun p => !(decide (a / 128 ≤ p.1) && decide (128 * p.1 < a + bs.length))) }

/-- Write an area over its places. -/
def State.writeArea (s : State) (places : List (Nat × Nat)) (bs : List Byte) : State :=
  (places.foldl (fun (acc : State × List Byte) p => (acc.1.areaStore p.1 (acc.2.take p.2), acc.2.drop p.2)) (s, bs)).1

/-- Where the byte at an offset of an area lies. -/
def areaPlace : List (Nat × Nat) → Nat → Option Nat
  | [], _ => none
  | (k, n) :: rest, off => if off < n then some (k + off) else areaPlace rest (off - n)

/-- Bytes of a part of an area as its column reads them; those of a launch window come from the window (R324). -/
def State.areaBytesAt (s : State) (c k n : Nat) : List Byte := if isWindow k then s.windowLoad k n else s.viewBytes c k n

/-- A word of an area as its column reads it. -/
def State.areaWord (s : State) (c : Nat) (places : List (Nat × Nat)) (off : Nat) : Nat :=
  match areaPlace places off with
  | some k => leNat (s.areaBytesAt c k 4)
  | none => 0

/-- Every byte of an area as its column reads it. -/
def State.areaRead (s : State) (c : Nat) (places : List (Nat × Nat)) : List Byte := places.flatMap (fun p => s.areaBytesAt c p.1 p.2)

/-- Write a word of an area. -/
def State.areaPut (s : State) (places : List (Nat × Nat)) (off v : Nat) : State :=
  match areaPlace places off with
  | some k => if isWindow k then s.storeBytes ⟨0, 12, .col 0⟩ k (leBytes 4 v) none none else s.homeStore k (leBytes 4 v)
  | none => s

/-! ### Stopping the groups (R242, R355) -/

/-- The resident groups saved together with a group: its gang. -/
def State.gangOf (s : State) (n g : Nat) : List (Nat × Nat) :=
  match s.grp? n g with
  | none => []
  | some x =>
    let gang := (s.recOf x).gang
    (s.residents x.inst).filterMap (fun e => if e.2.2.gflat / gang = x.gflat / gang then some (e.1, e.2.1) else none)

def State.setSaving (s : State) (groups : List (Nat × Nat)) (v : Bool) : State :=
  groups.foldl (fun t g => t.modGrp g.1 g.2 (fun x => { x with saving := v })) s

/-- Register words an access writes. -/
def RAccess.words (a : RAccess) : Nat :=
  match a.use with
  | .load m => if m = 5 then 2 else 1
  | .fetched n => if n = 8 then 2 else 1
  | .meld m _ => if atomBytes m = 8 then 2 else 1
  | .descriptor _ => 0

/-- Line fills of a withdrawn access are not kept. -/
def RAccess.unfilled (a : RAccess) : RAccess := { a with parts := a.parts.map (fun p => { p with line := none }) }

/-- What the withdrawal of the units of a trick has come to: what is owed, the instruction at which each unit goes on, and the state. -/
structure Withdrawn where
  owed : List Owed
  at_ : List (Nat × Nat)
  st : State

/-- One pending instruction of a trick whose units are withdrawn: a local atomic that waited is performed, what has arrived is written,
the rest is owed; a unit with a fault goes back to this instruction and drops what follows. -/
def Withdrawn.take (w : Withdrawn) (n slot : Nat) (d : Deal) (units : List Nat) (p : Pend) : Withdrawn :=
  match w.st.grp? n d.grp with
  | none => w
  | some x =>
    let e := d.envAt n slot p.pos
    let m := w.st.memCtx e
    let lanes := (d.trickLanes p.trick).filter (fun l => l.helper.isNone && units.contains (l.tidx / e.unit)
      && (w.at_.find? (fun u => u.1 == l.tidx / e.unit)).isNone)
    let ls := lanes.map (laneView w.st n d x)
    let mine := p.wait.accs.filter (fun a => ls.any (fun lv => lv.pos == a.lane))
    let faults := w.st.settleFaults m e ls mine
    let unitOf := fun (pos : Nat) => (lanes.find? (fun l => l.pos == pos)).map (fun l => l.tidx / e.unit)
    let gone := fun (pos : Nat) => faults.any (fun q => unitOf q.1 == unitOf pos)
    let run := w.st.lateAtoms m e (fun pos => !(gone pos)) false mine
    let s1 := lanes.foldl (fun t l =>
      if gone l.pos then
        match p.saves.find? (fun v => v.tidx == l.tidx) with
        | some v => t.restoreLane n d v
        | none => t
      else match (run.1.find? (fun a => a.lane == l.pos)).map (fun a => (a, gather 0 a.parts)), t.grp? n d.grp with
        | some (a, .bytes bs), some y => t.writeLane n slot d.grp (a.deliver bs (laneView t n d y l))
        | _, _ => t) run.2
    { owed := w.owed ++ lanes.filterMap (fun l =>
        if gone l.pos then none
        else match run.1.find? (fun a => a.lane == l.pos) with
          | some a =>
            if a.arrived then none
            else some ⟨n, d.grp, l.tidx, e.unit, a.unfilled, e.pc, p.saves.filter (fun v => v.tidx / e.unit == l.tidx / e.unit), p.wait.acquire⟩
          | none => none)
      at_ := w.at_ ++ (units.filter (fun u => lanes.any (fun l => gone l.pos && l.tidx / e.unit == u))).map (fun u => (u, p.pos))
      st := s1 }

/-- Withdraw the threads of the current trick of a deal that wait for another package (R355): each parks with no record at the
instruction that waits, and what has not arrived is owed. The answer lists what is owed. -/
def State.withdrawDeal (s : State) (n slot : Nat) : List Owed × State :=
  match s.deal? n slot with
  | none => ([], s)
  | some d =>
    if hdrKind d.hdr = 2 then ([], s)
    else
      let e := d.envAt n slot d.pos
      let lanes := d.curLanes
      let late := d.pending.flatMap (fun p => (p.wait.accs.filter (fun a => !a.arrived)).filterMap (fun a =>
        (lanes.find? (fun l => l.pos == a.lane && l.helper.isNone)).map (fun l => l.tidx / e.unit)))
      let units := late.eraseDups
      let w := d.pending.foldl (fun w p => w.take n slot d units p) (⟨[], [], s⟩ : Withdrawn)
      let placeOf := fun (u : Nat) => ((w.at_.find? (fun q => q.1 == u)).map (·.2)).getD d.pos
      let s1 := (lanes.filter (fun l => l.helper.isNone && units.contains (l.tidx / e.unit))).foldl (fun t l =>
        t.parkThread n d.grp l.tidx .withdrawn (plainFault 0 0 (d.envAt n slot (placeOf (l.tidx / e.unit))).pc) e.unit l.pos) w.st
      let gone := fun (pos : Nat) => (lanes.find? (fun l => l.pos == pos)).any (fun l => units.contains (l.tidx / e.unit))
      let back := fun (q : Pend) (tidx : Nat) => q.trick == d.trick && w.at_.any (fun u => u.1 == tidx / e.unit && decide (u.2 ≤ q.pos))
      let d1 := (d.refile (fun q => q.follow d.trick [] gone []) back).dropUnits e.unit units
      let s2 := if units.isEmpty then s1 else s1.leaveWalksIf (· == (.deal n slot, d.trick)) (coreColumn n)
      (w.owed, s2.setDeal n slot (some (if d1.empty then { d1 with done := true, pend := [] } else d1)))

/-- Withdraw in both slots of every core concerned, once phase 2 is over; a trick whose next instruction faults behind its pending registers
is withdrawn at it when phase 3 is over. -/
def State.withdrawDue (s : State) (v : Saving) : List Owed × State :=
  if s.tick < v.start + 20000 then ([], s)
  else v.groups.foldl (fun acc g => [0, 1].foldl (fun acc2 slot =>
    match acc2.2.deal? g.1 slot with
    | some d => if d.grp = g.2 && (d.blocked || (!(d.pending.isEmpty) && v.start + 40000 ≤ s.tick)) then let r := acc2.2.withdrawDeal g.1 slot; (acc2.1 ++ r.1, r.2) else acc2
    | none => acc2) acc) ([], s)

/-- Whether a deal has ended, but for parked threads that find no kitty entry (R264). -/
def State.dealOver (s : State) (n : Nat) (d : Deal) : Bool := d.held || (d.done && s.kittyShort n d)

/-- Whether the deals of the groups have ended and no matrix command of theirs executes (R355). Parked threads that still stand in a slot for
want of a kitty entry are saved as they are. -/
def State.saveReady (s : State) (groups : List (Nat × Nat)) : Bool :=
  groups.all (fun g =>
    (s.core g.1).deal0.all (fun d => d.grp != g.2 || s.dealOver g.1 d) && (s.core g.1).deal1.all (fun d => d.grp != g.2 || s.dealOver g.1 d)
      && !((s.core g.1).matrix.cmds.any (fun q => q.grp == g.2 && q.phase = .begun && q.err.isNone)))

/-- Save what the withdrawal has added to the entry of a save in progress. -/
def State.noteOwed (s : State) (v : Saving) (o : List Owed) : State :=
  { s with savings := s.savings.map (fun w => if w = v then { w with owed := w.owed ++ o } else w) }

/-! ### Writing the areas -/

/-- An unfinished command as it is recorded: requests not answered are to be made again (R355). -/
def Cmd.recorded (c : Cmd) : Cmd :=
  { c with phase := .accepted, tags := [], redo := c.redo ++ c.tags.map (fun t => (t.off, t.len)), noRoute := none }

/-- The index that stands for a saved group in the matrix engine of its core (R213). -/
def savedMark (id g : Nat) : Nat := 1000 + 64 * id + g

/-- Rename a group in the matrix engine. -/
def Matrix.rename (m : Matrix) (a b : Nat) : Matrix :=
  { m with owner := if m.owner = some a then some b else m.owner, queue := m.queue.map (fun q => if q.1 = a then (b, q.2) else q) }

/-- A group as it is saved: in neither set, owed no ante (R339, R356). -/
def Group.resting (x : Group) : Group :=
  { x with active := false, saving := false, lastDeal := none, anteFrom := none, anteDue := false, idleSince := none }

/-- A slot in which a deal of a saved group has ended frees. -/
def State.closeSlot (s : State) (n g slot : Nat) : State :=
  match s.deal? n slot with
  | some d => if d.grp = g then (s.modGrp n g (fun x => { x with fstat := x.fstat ||| flagsWord d.acc })).vacate n slot else s
  | none => s

/-- Take a group off its core: what is saved of it, and the state. `places`: its area. -/
def State.takeOff (s : State) (id n g : Nat) (x : Group) (places : List (Nat × Nat)) (owed : List Owed) : SavedGroup × State :=
  let c := coreColumn n
  let y := s.core n
  let r := s.recOf x
  let mine := owed.filter (fun o => o.core == n && o.grp == g)
  let offs := mine.flatMap (fun o => (List.range o.acc.words).map (fun i => r.tstoreAt + 4 * (o.tidx * r.wide + (o.acc.dIdx + i) % r.wide)))
  let here := fun (q : Rec) => q.core == coreInCol n && q.grp == g
  let col := s.col c
  let saved : SavedGroup :=
    { core := n, idx := g, grp := x.resting, hands := y.deck.filter (fun h => h.grp == g), cmds := (y.cmdsOf g).map Cmd.recorded, asid := s.asidOf x,
      stops := (col.fqWait ++ col.fq ++ col.popped).filter (fun q => here q && q.src == 1), acquires := [], places := places, owedAt := offs }
  let s1 := (y.cmdsOf g).foldl (fun t q => ((t.unsend (q.tags.map (·.tag))).releaseLocks (.cmd n q.id)).dropCmd n q.id) s
  let drop := fun (l : List Rec) => l.filter (fun q => !(here q))
  let s2 := s1.modCol c (fun z => { z with fqWait := drop z.fqWait, fq := drop z.fq, popped := drop z.popped })
  let s3 := s2.modCore n (fun z => { z with
    groups := mapErase z.groups g, deck := z.deck.filter (fun h => h.grp != g), matrix := z.matrix.rename g (savedMark id g) })
  (saved, s3.fillActive n)

/-- Write the areas of a save and take its groups off their cores. `areas`: the places of each group's area. -/
def State.finishSave (s : State) (v : Saving) (areas : List ((Nat × Nat) × List (Nat × Nat))) (area size ctx : Nat) : State :=
  let id := s.nextId
  let s0 := { s with nextId := id + 1, savings := s.savings.filter (fun w => w.groups != v.groups) }
  let run := areas.foldl (fun (acc : List SavedGroup × State) a =>
    let t := (acc.2.closeSlot a.1.1 a.1.2 0).closeSlot a.1.1 a.1.2 1
    match t.grp? a.1.1 a.1.2 with
    | none => acc
    | some x =>
      let q := t.takeOff id a.1.1 a.1.2 x a.2 v.owed
      let bs := q.2.areaBytes id q.1 size
      let words := q.1.owedAt.length
      (acc.1 ++ [q.1], q.2.writeArea a.2 (putWordAt (putWordAt bs 4 (crc32 bs)) 0x30 words))) ([], s0)
  { run.2 with saves := run.2.saves ++ [⟨id, ctx, area, size, v.byEngine, v.slots, v.decision, run.1, v.owed⟩] }

/-- The rank of a resident group in its gang. -/
def State.rankAt (s : State) (g : Nat × Nat) : Nat := match s.grp? g.1 g.2 with | some x => s.rankOf x | none => 0

/-! ### `gsave` (R242) -/

/-- The checks of a stretch of an area, page by page. -/
def State.areaCheck (s : State) (m : MemCtx) (e : Env) (ea n : Nat) (kind : AccKind) : AccRes :=
  (blockCuts 65536 ea n).foldl (fun acc p =>
    match acc with
    | .fail f => .fail f
    | .held f => .held f
    | .walking l => (match s.checkGlobal m e (p.1 % 2 ^ 64) p.2 kind none with | .walking k => .walking (l ++ k) | _ => .walking l)
    | .segs l => (match s.checkGlobal m e (p.1 % 2 ^ 64) p.2 kind none with
      | .segs k => if k.any (fun g => isRemote g.place) then .fail (accFault e 5 0 p.1 (kind != .load)) else .segs (l ++ k)
      | other => other)) (.segs [])

/-- Give up a save: the groups go on, and withdrawn threads return to their hands. -/
def State.cancelSave (s : State) (v : Saving) : State :=
  let s1 := { (s.setSaving v.groups false) with savings := s.savings.filter (fun w => w.groups != v.groups) }
  v.groups.foldl (fun t g => match t.grp? g.1 g.2 with
    | none => t
    | some x => x.threads.foldl (fun u e => match e.2.park with
      | some p => if p.kind = .withdrawn then u.resolveThread g.1 g.2 e.1 else u
      | none => u) t) s1

/-- Write the areas of a `gsave` once everything is ready, or trap. -/
def State.gsaveWrite (s : State) (f : Fields) (e : Env) (c : Nat) (lv : LaneView) (a : Nat) (v : Saving) : State :=
  match v.groups.head?.bind (fun g => s.grp? g.1 g.2) with
  | none => ({ s with savings := s.savings.filter (fun w => w.groups != v.groups) }).finishOne f e lv (.ok (setD lv f 1) 0)
  | some x =>
    let m := s.memCtx e
    let size := (s.recOf x).areaSize
    let checks := v.groups.map (fun g => (g, s.areaCheck m e (a + size * s.rankAt g) size .store))
    let walks := checks.flatMap (fun p => match p.2 with | .walking l => l | _ => [])
    if !(walks.isEmpty) then s.askWalks e m walks
    else match checks.findSome? (fun p => match p.2 with | .fail i => some i | _ => none) with
      | some i =>
        if !(v.owed.isEmpty) then s else ((s.leaveWalks e.who c).cancelSave v).finishOne f e lv (.fail i)
      | none =>
        if checks.any (fun p => match p.2 with | .held _ => true | _ => false) then s
        else
          let areas := checks.map (fun p => (p.1, match p.2 with | .segs l => l.map (fun g => (g.place, g.len)) | _ => []))
          let first := (areas.head?.bind (fun p => p.2.head?)).map (·.1)
          ((s.leaveWalks e.who c).finishSave v areas (first.getD 0) size (s.ctxOf x)).finishOne f e lv (.ok (setD lv f 0) 0)

/-- The members of a gang by rising rank. -/
def State.byRank (s : State) (l : List (Nat × Nat)) : List (Nat × Nat) :=
  l.foldl (fun acc g => insertRank g acc) []
where
  insertRank (g : Nat × Nat) : List (Nat × Nat) → List (Nat × Nat)
    | [] => [g]
    | h :: r => if s.rankAt g < s.rankAt h then g :: h :: r else h :: insertRank g r

def gsaveBody : Row → Fields → Env → Nat → LaneView → State → State := fun r f e c lv s =>
  let a := (srcA64 [lv] lv f).toNat
  let b := (srcB r [lv] lv f).toNat
  let n := 12 * c + fieldOf b 15 12
  let g := fieldOf b 5 0
  match s.savings.find? (fun v => !v.byEngine && v.col == c) with
  | some v =>
    let q := s.withdrawDue v
    let s1 := q.2.noteOwed v q.1
    let v1 := { v with owed := v.owed ++ q.1 }
    if s1.saveReady v.groups then s1.gsaveWrite f e c lv a v1 else s1
  | none =>
    if a % 4096 != 0 then s.finishOne f e lv (.fail (accFault e 4 0 a true))
    else if fieldOf b 11 6 != 0 || b / 65536 != 0 || 12 ≤ fieldOf b 15 12 || (s.grp? n g).isNone then s.answer f e lv 1
    else
      let groups := s.byRank (s.gangOf n g)
      if groups.any (fun p => match s.grp? p.1 p.2 with | some x => x.saving | none => false) then s
      else { (s.setSaving groups true) with savings := s.savings ++ [⟨c, groups, s.tick, false, 0, 0, 0, []⟩] }

/-! ### Save slots (R353) -/

/-- The save-slot block of a context: SAVEBASE, SLOTSIZE, SLOTS and the BITMAP (R353). -/
def State.slotBlock (s : State) (c ctx : Nat) : Nat × Nat × Nat × List Nat :=
  let b := s.rootOf ctx + 0x1000
  let w := fun (off n : Nat) => leNat (s.peekBytes c (b + off) n)
  (w 0 8, w 8 4, w 0xC 4, (List.range 8).map (fun i => w (0x10 + 8 * i) 8))

/-- Slots taken by a decision under way: the page-table root of their context, the first and the number. -/
abbrev SlotsTaken := List (Nat × Nat × Nat)

/-- The lowest run of free slots for a gang, within one 64-bit word, beside slots taken already. -/
def State.slotRun (s : State) (c ctx gang size : Nat) (taken : SlotsTaken) : Option Nat :=
  let b := s.slotBlock c ctx
  let busy := fun (i : Nat) => taken.any (fun t => t.1 == s.rootOf ctx && decide (t.2.1 ≤ i) && decide (i < t.2.1 + t.2.2))
  if b.2.1 < size then none
  else (List.range 512).find? (fun i => decide (i + gang ≤ b.2.2.1) && i / 64 == (i + gang - 1) / 64
    && (List.range gang).all (fun j => !(bitOf (b.2.2.2[(i + j) / 64]?.getD 0) ((i + j) % 64)) && !(busy (i + j))))

/-- Change bits of the BITMAP with one package-scope atomic. -/
def State.markSlots (s : State) (c ctx first gang : Nat) (set : Bool) : State :=
  let bits := (2 ^ gang - 1) * 2 ^ (first % 64)
  (s.localAtomic ⟨c, 12, .col c⟩ (s.rootOf ctx + 0x1010 + 8 * (first / 64)) 8 5 none (fun old =>
    some (if set then old ||| bits else old &&& (2 ^ 64 - 1 - bits)))).2

/-! ### Restoring (R243, R356) -/

/-- Kitty entries that parked threads of a held slot wait for: those that free next are theirs (R264). -/
def State.kittyOwed (s : State) (n : Nat) : Nat :=
  ([0, 1].map (fun slot => match s.deal? n slot with
    | some d => if d.held then (d.parkedHere.filter (fun t => (s.thr? n d.grp t).any (fun th => th.park.isSome && !th.entry))).length else 0
    | none => 0)).sum

/-- Whether every resource of a member is free on its core. -/
def State.canRestore (s : State) (m : SavedGroup) : Bool :=
  let r := s.recOf m.grp
  let parked := (m.grp.threads.filter (fun t => t.2.entry || t.2.park.isSome)).length
  decide (savedGranules r m.grp ≤ s.freeGranules m.core) && (s.grp? m.core m.idx).isNone
    && runFree (s.slotRuns m.core) m.grp.slotBase r.capacity && decide (s.kittyUsed m.core + s.kittyOwed m.core + parked ≤ 512)

/-- Whether the copy queue has entries for the recorded commands of a member (R204). -/
def State.roomBack (s : State) (m : SavedGroup) : Bool :=
  decide ((s.core m.core).copyq.length + (m.cmds.filter (fun q => !(isMatrixOp q.op))).length ≤ 256)

/-- The scalar context as it comes back: a stopped one restarts, one that waited for a system lock looks again. -/
def restoredScalar : ScalarSt → ScalarSt
  | .stopped i addr => .restart addr i.pc
  | .waiting (.sysLock _ _) d => .ready d none
  | other => other

/-- A hand comes back with its PASS, or its bits are owed (R252). -/
def State.restoreHand (s : State) (n g : Nat) (h : Hand) : State :=
  if (s.core n).deck.length < 128 then s.modCore n (fun y => { y with deck := y.deck ++ [{ h with heldFrom := none }] })
  else h.bits.foldl (fun t i => t.modThr n g i (fun x => { x with owed := true })) s

/-- Put one saved group back. Free deck entries go to bits owed on its core first (R253). -/
def State.putBack (s : State) (id : Nat) (m : SavedGroup) : State :=
  let n := m.core
  let g := m.idx
  let x := m.grp
  let s1 := ((s.serveOwed n).setGrp n g { x with scalar := restoredScalar x.scalar }).modCore n (fun y => { y with matrix := y.matrix.rename (savedMark id g) g })
  let s2 := m.hands.foldl (fun t h => t.restoreHand n g h) s1
  let s3 := x.threads.foldl (fun t e => match e.2.park with
    | some p => (t.modThr n g e.1 (fun y => { y with entry := true })).enterReturn n g e.1 p.info.pc
    | none => t) s2
  let s4 := m.acquires.foldl (fun t a => t.acquireAct (engUnit n g) a) s3
  let s5 := m.cmds.foldl (fun t q => t.modCore n (fun y =>
    if isMatrixOp q.op then { y with matrix := { y.matrix with cmds := y.matrix.cmds ++ [q] } } else { y with copyq := y.copyq ++ [q] })) s4
  let s6 := m.stops.foldl (fun t r => t.postRec (coreColumn n) r) s5
  let s7 := if s6.asidOf x = m.asid then s6 else m.cmds.foldl (fun t q => t.failCmd n q 6) s6
  (s7.fillActive n).splitTest n g

/-- Put every member of a save back; the slots of the launch engine are cleared (R353). Its areas stand as they are, and while they do, they
can be restored again (R243, R354). -/
def State.restoreSave (s : State) (v : Save) : State :=
  let s1 := v.members.foldl (fun t m => t.putBack v.id m)
    { s with saves := s.saves.filter (fun w => w.id != v.id), restored := s.restored.filter (fun w => w.id != v.id) ++ [{ v with byEngine := false }] }
  if v.byEngine then
    s1.markSlots ((v.members.head?.map (fun m => coreColumn m.core)).getD 0) v.ctx v.slots ((v.members.head?.map (fun m => (s.recOf m.grp).gang)).getD 1) false
  else s1

/-- An area holds what was saved in it: SIZE, COLUMN, CTX and the rest of the header, and a SEAL that fits its bytes (R354). -/
def State.areaMatches (s : State) (c : Nat) (v : Save) (m : SavedGroup) (places : List (Nat × Nat)) : Bool :=
  let bs := s.areaRead c places
  let was := s.areaBytes v.id m v.size
  unsealed m.owedAt bs == was && descField bs 4 4 == crc32 was

/-- The places of a stretch cut into areas of a size. -/
def cutAreas (size : Nat) : Nat → List (Nat × Nat) → List (List (Nat × Nat))
  | 0, _ => []
  | n + 1, l => let r := takeRun size l; r.1 :: cutAreas size n r.2
where
  /-- The first bytes of a stretch, and the rest of it. -/
  takeRun (n : Nat) : List (Nat × Nat) → List (Nat × Nat) × List (Nat × Nat)
    | [] => ([], [])
    | p :: rest =>
      if n = 0 then ([], p :: rest)
      else if p.2 ≤ n then let r := takeRun (n - p.2) rest; (p :: r.1, r.2)
      else ([(p.1, n)], (p.1 + n, p.2 - n) :: rest)

/-- Whether the first area of a save has the header that bytes show, SEAL and OWED aside. -/
def State.shows (s : State) (bs : List Byte) (v : Save) : Bool :=
  match v.members with
  | m :: _ => putWordAt (putWordAt (bs.take 0x34) 4 0) 0x30 0 == (s.areaHeader m v.size).take 0x34
  | [] => false
/-- The saves whose first area has the header that bytes show, those restored before among them. -/
def State.savesOf (s : State) (bs : List Byte) : List Save := (s.restored ++ s.saves).filter (s.shows bs)

/-- Whether areas hold a save of a column's cores. -/
def State.areasHold (s : State) (c : Nat) (areas : List (List (Nat × Nat))) (v : Save) : Bool :=
  v.members.head?.any (fun k => coreColumn k.core = c) && v.members.length == areas.length
    && (v.members.zip areas).all (fun k => s.areaMatches c v k.1 k.2)

/-- Restore what areas hold, one of the saves whose header they show: it waits while words are owed or the copy queue lacks room for the
recorded commands (R204; log 13), and answers 1 where an area does not match or a resource is not free (R243, R354, R356). -/
def State.grestAreas (s : State) (f : Fields) (e : Env) (c : Nat) (lv : LaneView) (l : List Save) (areas : List (List (Nat × Nat))) : State :=
  if areas.any (fun p => s.areaWord c p 0x30 != 0) then s
  else match l.find? (s.areasHold c areas) with
    | none => s.answer f e lv 1
    | some v =>
      if !(v.owed.isEmpty) then s
      else if !(v.members.all s.canRestore) then s.answer f e lv 1
      else if v.members.all s.roomBack then (s.restoreSave v).answer f e lv 0
      else s

def grestBody : Row → Fields → Env → Nat → LaneView → State → State := fun _ f e c lv s =>
  let m := s.memCtx e
  let a := (srcA64 [lv] lv f).toNat
  let check := fun (n : Nat) (go : State → List Seg → State) => match s.areaCheck m e a n .load with
    | .walking vas => s.askWalks e m vas
    | .fail i => (s.leaveWalks e.who c).finishOne f e lv (.fail i)
    | .held _ => s
    | .segs segs => go (s.leaveWalks e.who c) segs
  if a % 4096 != 0 then s.finishOne f e lv (.fail (accFault e 4 0 a false))
  else check 4096 (fun t segs =>
    let places := segs.map (fun g => (g.place, g.len))
    if s.areaWord c places 0x30 != 0 then s
    else match t.savesOf (t.areaRead c places) with
      | [] => t.answer f e lv 1
      | v :: rest => check (v.size * v.members.length) (fun u all =>
          u.grestAreas f e c lv (v :: rest) (cutAreas v.size v.members.length (all.map (fun g => (g.place, g.len))))))

/-! ### Words owed to withdrawn threads (R355) -/

/-- What a response brings to the part of an access that waits for it (R374, R409). -/
def responseData (p : Payload) : RData :=
  match p with
  | .data bs _ bad => .bytes bs bad
  | .poisoned => .poisoned
  | _ => .failed

/-- The data of a response enters the parts it belongs to. -/
def RAccess.take (a : RAccess) (tag : Nat) (data : RData) : RAccess :=
  { a with parts := a.parts.map (fun p => if p.tag = tag && p.got.isNone && p.len != 0 then { p with got := some data } else p) }
def RAccess.awaits (a : RAccess) (tag : Nat) : Bool := a.parts.any (fun p => p.tag == tag && p.got.isNone)

/-- The value of an owed access, none where it failed. -/
def Owed.value (o : Owed) : Option (List Byte) := match gather 0 o.acc.parts with | .bytes bs => some bs | _ => none

/-- Whether two owed accesses are of one unit. -/
def Owed.sameUnit (o p : Owed) : Bool := o.core == p.core && o.grp == p.grp && o.unitSize == p.unitSize && o.tidx / o.unitSize == p.tidx / p.unitSize

/-- Put the registers of a save of a lane into its thread. -/
def Group.restoreRegs (x : Group) (v : LaneSave) : Group := x.modThr v.tidx (fun t => { t with v := v.v, q := v.q, k := v.k })

/-- A thread takes the words of its access; if the access failed, the threads of its unit go back to the instruction with the registers
they had, to repeat it. -/
def Group.takeOwed (x : Group) (o : Owed) : Group :=
  match o.value with
  | some bs => x.modThr o.tidx (fun t =>
      let v := (⟨o.tidx, t.v, [], t.q, t.k⟩ : LaneSave).note o.acc bs
      { t with v := v.v, q := v.q })
  | none =>
    let y := o.regs.foldl Group.restoreRegs x
    { y with threads := y.threads.map (fun e =>
      if e.1 / o.unitSize = o.tidx / o.unitSize then
        (e.1, { e.2 with park := e.2.park.map (fun p => { p with info := { p.info with pc := o.retry } }) }) else e) }

/-- The registers an owed access would go back to, with the result of an earlier one of its unit. -/
def Owed.note (o p : Owed) : Owed :=
  match p.value with
  | some bs => if o.sameUnit p then { o with regs := o.regs.map (fun v => if v.tidx = p.tidx then v.note p.acc bs else v) } else o
  | none => o

/-- What owed accesses have come to: those still owed, those done with in order, and the group they belong to. A failed one waits for the
earlier ones of its unit, and the later ones of its unit are void: they are made again. -/
structure OwedRun where
  left : List Owed
  done : List Owed
  grp : Group

/-- One owed access of a list. -/
def OwedRun.take (r : OwedRun) (o0 : Owed) : OwedRun :=
  let o := r.done.foldl Owed.note o0
  if r.done.any (fun p => p.acc.arrived && p.value.isNone && o.sameUnit p) then { r with done := r.done ++ [o] }
  else if !o.acc.arrived || (o.value.isNone && r.left.any (fun p => o.sameUnit p)) then { r with left := r.left ++ [o] }
  else { r with done := r.done ++ [o], grp := r.grp.takeOwed o }

/-- The owed accesses of one group. -/
def Group.settleOwed (x : Group) (l : List Owed) : OwedRun := l.foldl OwedRun.take ⟨[], [], x⟩

/-- The access of a tag gets its data in a list of what is owed. -/
def takeTag (l : List Owed) (tag : Nat) (data : RData) : List Owed := l.map (fun o => { o with acc := o.acc.take tag data })

/-- Deliver arrived accesses of a save in progress to its resident threads. -/
def State.deliverSaving (s : State) (v : Saving) : State :=
  let run := v.groups.foldl (fun (acc : List Owed × State) g =>
    match acc.2.grp? g.1 g.2 with
    | none => acc
    | some x =>
      let r := x.settleOwed (v.owed.filter (fun o => o.core == g.1 && o.grp == g.2))
      (acc.1 ++ r.left, acc.2.setGrp g.1 g.2 r.grp)) ([], s)
  { run.2 with savings := run.2.savings.map (fun w => if w = v then { w with owed := run.1 } else w) }

/-- Write the words of an access that has arrived into the area, and count OWED down; one that is to be made again is no longer owed. -/
def State.writeOwed (s : State) (m : SavedGroup) (r : LaunchRec) (o : Owed) : State :=
  let c := coreColumn m.core
  let left := s.areaWord c m.places 0x30 - o.acc.words
  let s1 := match (if o.acc.arrived then o.value else none) with
    | some bs => (List.range o.acc.words).foldl (fun (t : State) i =>
        t.areaPut m.places (r.tstoreAt + 4 * (o.tidx * r.wide + (o.acc.dIdx + i) % r.wide)) (descField (bs ++ List.replicate 8 0) (4 * i) 4)) s
    | none => s
  s1.areaPut m.places 0x30 left

/-- Deliver arrived accesses of a saved group. -/
def State.deliverSaved (s : State) (v : Save) : State :=
  let runs := v.members.map (fun m => (m, m.grp.settleOwed (v.owed.filter (fun o => o.core == m.core && o.grp == m.idx))))
  let s1 := runs.foldl (fun t q => q.2.done.foldl (fun u o => u.writeOwed q.1 (u.recOf q.1.grp) o) t) s
  { s1 with saves := s1.saves.map (fun w => if w.id = v.id then
      { w with
        owed := runs.flatMap (fun q => q.2.left)
        members := runs.map (fun q => { q.1 with grp := q.2.grp, acquires := q.1.acquires ++ q.2.done.flatMap (fun o => o.acquire.toList) }) } else w) }

/-- Whether an access of a withdrawn thread waits for a tag. -/
def State.owedTag (s : State) (tag : Nat) : Bool :=
  s.savings.any (fun v => v.owed.any (fun o => o.acc.awaits tag)) || s.saves.any (fun v => v.owed.any (fun o => o.acc.awaits tag))

/-- The data of a response owed to withdrawn threads arrives. -/
def State.owedArrive (s : State) (tag : Nat) (data : RData) : State :=
  let s1 : State := { s with savings := s.savings.map (fun v => { v with owed := takeTag v.owed tag data }) }
  let s1 : State := { s1 with saves := s1.saves.map (fun v => { v with owed := takeTag v.owed tag data }) }
  let s2 := s1.savings.foldl (fun t v => t.deliverSaving v) s1
  s2.saves.foldl (fun t v => t.deliverSaved v) s2

/-! ### The launch engine's saves (R338, R339, R353) -/

/-- Groups that are being saved already count as gone. -/
def State.leaving (s : State) (n g : Nat) : Bool := s.savings.any (fun v => v.byEngine && v.groups.contains (n, g))

/-- Whether a core would have room for a record were some of its groups gone (R338). -/
def State.roomWithout (s : State) (n : Nat) (r : LaunchRec) (gone : Nat → Bool) : Bool :=
  let y := s.core n
  let out := y.groups.filter (fun e => gone e.1 || s.leaving n e.1)
  let keep := y.groups.filter (fun e => !(gone e.1 || s.leaving n e.1))
  let free := s.freeGranules n + (out.map (fun e => s.heldGranules e.2)).sum
  !y.outOfService && decide (r.static ≤ free) && decide (keep.length < 64)
    && (freeRun (keep.map (fun e => (e.2.slotBase, (s.recOf e.2).capacity))) r.capacity).isSome

/-- Whether the head group or gang would have room. -/
def State.headRoom (s : State) (x : Inst) (gone : Nat → Nat → Bool) : Bool :=
  let r := x.lrec
  let cores := fun (c : Nat) => (colCores c).filter (fun n => s.roomWithout n r (gone n))
  let cols := r.eligible x.col
  if r.gang = 1 then cols.any (fun c => !((cores c).isEmpty))
  else (clustersOf cols).any (fun k => decide (r.gang ≤ ((cols.filter (fun c => clusterOf c == k)).flatMap cores).length))

/-- A gang that might be saved: its groups, its context, its save slot, its priority and when it was admitted. -/
structure Victim where
  groups : List (Nat × Nat)
  ctx : Nat
  gang : Nat
  size : Nat
  prio : Nat
  seq : Nat
  deriving DecidableEq, Repr

/-- The gangs of lower priority than a launch on its eligible cores that can be saved, lowest priority first, then most recent. -/
def State.victims (s : State) (x : Inst) : List Victim :=
  let cols := x.lrec.eligible x.col
  let all := s.cores.flatMap (fun e => if cols.contains (coreColumn e.1) then e.2.groups.map (fun g => (e.1, g.1, g.2)) else [])
  let gangs := all.filterMap (fun e =>
    let r := s.recOf e.2.2
    let groups := s.byRank (s.gangOf e.1 e.2.1)
    let size := r.areaSize
    if r.prio < x.lrec.prio && groups.all (fun p => match s.grp? p.1 p.2 with | some y => !y.saving | none => false)
        && (s.slotRun x.col (s.ctxOf e.2.2) r.gang size []).isSome then
      some (⟨groups, s.ctxOf e.2.2, r.gang, size, r.prio, e.2.2.admitSeq⟩ : Victim) else none)
  (gangs.foldl (fun (acc : List Victim) v => if acc.any (fun w => w.groups == v.groups) then acc else acc ++ [v]) []).foldl
    (fun acc v => insertVictim v acc) []
where
  insertVictim (v : Victim) : List Victim → List Victim
    | [] => [v]
    | w :: r => if v.prio < w.prio || (v.prio = w.prio && w.seq < v.seq) then v :: w :: r else w :: insertVictim v r

/-- The sublists of gangs with a number of groups in all, those with earlier gangs first. -/
def victimSets : List Victim → Nat → List (List Victim)
  | [], k => if k = 0 then [[]] else []
  | v :: rest, k =>
    (if v.groups.length ≤ k then (victimSets rest (k - v.groups.length)).map (fun l => v :: l) else []) ++ victimSets rest k

/-- Whether every gang of a list finds its save slots, one after the other (R353). -/
def State.slotsFit (s : State) (c : Nat) : SlotsTaken → List Victim → Bool
  | _, [] => true
  | taken, v :: rest => match s.slotRun c v.ctx v.gang v.size taken with
    | some i => s.slotsFit c ((s.rootOf v.ctx, i, v.gang) :: taken) rest
    | none => false

/-- The fewest groups that suffice (R338). -/
def State.chooseVictims (s : State) (x : Inst) : List Victim :=
  let l := s.victims x
  let gone := fun (set : List Victim) (n g : Nat) => set.any (fun v => v.groups.contains (n, g))
  if s.headRoom x (fun _ _ => false) || !(s.headRoom x (gone l)) then []
  else ((List.range ((l.map (fun v => v.groups.length)).sum + 1)).findSome? (fun k => (victimSets l k).find? (fun set => s.headRoom x (gone set) && s.slotsFit x.col [] set))).getD []

/-- Start the save of a gang by the launch engine, as part of a decision. -/
def State.startPreempt (s : State) (c decision : Nat) (v : Victim) : State :=
  match s.slotRun c v.ctx v.gang v.size [] with
  | none => s
  | some i =>
    let b := s.slotBlock c v.ctx
    let s1 := (s.markSlots c v.ctx i v.gang true).setSaving v.groups true
    { s1 with savings := s1.savings ++ [⟨c, v.groups, s1.tick, true, b.1 + i * b.2.1, i, decision, []⟩] }

/-- PREEMPT: the head of the admission order lacks room, and saves are started to make it. -/
def State.preemptHead (s : State) : State :=
  match s.admissionOrder with
  | [] => s
  | (_, x) :: _ => match s.chooseVictims x with
    | [] => s
    | l => l.foldl (fun t v => t.startPreempt x.col s.nextId v) { s with nextId := s.nextId + 1 }

/-- SAVE_COMPLETE: a save of the launch engine that is ready writes its areas, and the freed resources go to the head group. -/
def State.saveDone (s : State) : State :=
  let step := fun (t : State) (v : Saving) =>
    let q := t.withdrawDue v
    q.2.noteOwed v q.1
  let s1 := (s.savings.filter (·.byEngine)).foldl step s
  match s1.savings.find? (fun v => v.byEngine && s1.saveReady v.groups) with
  | none => s1
  | some v =>
    match v.groups.head?.bind (fun g => s1.grp? g.1 g.2) with
    | none => { s1 with savings := s1.savings.filter (fun w => w.groups != v.groups) }
    | some x =>
      let size := (s1.recOf x).areaSize
      let areas := v.groups.map (fun g => (g, [(v.area + size * s1.rankAt g, size)]))
      (s1.finishSave v areas v.area size (s1.ctxOf x)).heatMoment.admitNext

/-- Whether the resources of a save go to others first: its decision still saves other groups, a group of higher priority is to have one of
its cores once the saves in progress are done, or one can be admitted there now (R338). -/
def State.claimed (s : State) (v : Save) : Bool :=
  let prio := (v.members.map (fun m => (s.recOf m.grp).prio)).foldl max 0
  let saving := s.savings.filter (·.byEngine)
  saving.any (fun w => w.decision == v.decision)
    || (!(saving.isEmpty) && (openHeads [] s.admissionOrder).any (fun e => decide (prio < e.2.lrec.prio) && s.headRoom e.2 (fun _ _ => false)
      && v.members.any (fun m => (e.2.lrec.eligible e.2.col).contains (coreColumn m.core) && s.roomWithout m.core e.2.lrec (fun _ => false))))
    || s.headsToTest.any (fun e => decide (prio < e.2.lrec.prio) && (s.place e.2).any (fun ps => ps.any (fun p => v.members.any (fun m => m.core == p.1))))

/-- GROUP_RESTORE: the oldest save of the launch engine whose resources are free and whose owed words have arrived. -/
def State.restoreNext (s : State) : State :=
  match s.saves.find? (fun v => v.byEngine && v.owed.isEmpty && v.members.all (fun m => s.canRestore m && s.roomBack m && s.areaMatches (coreColumn m.core) v m m.places)
      && !(s.claimed v)) with
  | none => s
  | some v => s.restoreSave v

/-- OWED_WORD_ARRIVAL: the response to an owed access, wherever it stands among those that have arrived. -/
def State.owedResponse (s : State) (tag : Nat) : State :=
  if !(s.owedTag tag) then s
  else match s.fabric.respq.find? (fun m => m.tag == tag) with
    | none => s
    | some m => (s.modFab (fun f => { f with respq := f.respq.filter (fun q => q != m) })).owedArrive tag (responseData m.body)

def execGsave (f : Fields) (s : State) : Out State := .next (runMem (.gsave f) (colBody gsaveBody) s)
def execGrest (f : Fields) (s : State) : Out State := .next (runMem (.grest f) (colBody grestBody) s)
def execPreempt (s : State) : Out State := .next s.preemptHead
def execSaveComplete (s : State) : Out State := .next s.saveDone
def execGroupRestore (s : State) : Out State := .next s.restoreNext
def execOwedWordArrival (tag : Nat) (s : State) : Out State := .next (s.owedResponse tag)

end Sys2Proof.Machine
end

