-- ==== Sys2Proof/Machine/Fabric.lean ====
section
/-! DEFINITION. The rotor fabric: slots, the calendar, opening and data flits, paths and relays, requests performed for other packages,
responses, and the retirement of tags (R358 to R380, R412). -/

namespace Sys2Proof

/-! ### Messages (R363, R365, R366, R368) -/

/-- Data bytes a message carries. -/
def Msg.bytes (m : Msg) : Nat :=
  match m.body with
  | .write _ bs _ _ _ _ => bs.length
  | .data bs _ _ => bs.length
  | .atomic _ _ ops _ _ => 16 * (ops.length - 1)
  | _ => 0

/-- Flits a message takes: 16 bytes of its own and its data in payloads of 240 bytes (log 20). -/
def Msg.flits (m : Msg) : Nat := (m.bytes + 16 + 239) / 240

/-- Whether a message takes the cautious row of R368: a write of more than 64 bytes, or data of `fwrb` or `frdb`. -/
def Msg.large (m : Msg) : Bool :=
  match m.body with
  | .write _ bs _ _ bulk _ => bulk || decide (64 < (bs.filter (·.isSome)).length)
  | .data _ bulk _ => bulk
  | _ => false

/-- Poison on the 32 bytes of a message's data from an offset on (R409). -/
def Msg.poisonAt (m : Msg) (off : Nat) : Msg :=
  let at_ := fun (n : Nat) => (List.range 32).filterMap (fun i => if off + i < n then some (off + i) else none)
  match m.body with
  | .write pa bs order scope bulk bad => { m with body := .write pa bs order scope bulk (bad ++ at_ bs.length) }
  | .data bs bulk bad => { m with body := .data bs bulk (bad ++ at_ bs.length) }
  | _ => m

/-- A request's range. -/
def Msg.range (m : Msg) : Nat × Nat :=
  match m.body with
  | .read pa n _ _ _ => (pa, n)
  | .write pa bs _ _ _ _ => (pa, bs.length)
  | .atomic k pa _ _ _ => (pa, Machine.atomWidth k)
  | _ => (0, 0)

end Sys2Proof

namespace Sys2Proof.Machine

def State.port (s : State) (p : Nat) : Port := mapGet s.fabric.ports p Port.reset
def State.modPort (s : State) (p : Nat) (f : Port → Port) : State :=
  s.modFab (fun x => { x with ports := mapSet x.ports p (f (mapGet x.ports p Port.reset)) })

/-- Time since the slot began. -/
def State.slotTime (s : State) : Nat := s.tick - s.fabric.slotStart
/-- The data phase (R358). -/
def State.carrying (s : State) : Bool := s.fabric.loaded && decide (242 ≤ s.slotTime) && decide (s.slotTime < 3000)

/-! ### Choosing a path (R367, R368, R371) -/

/-- This package's view of a package: held or not, from the opening flits of the latest slot in which one was good. -/
def State.viewHeld (s : State) (d : Nat) : Bool :=
  match mapGet? s.fabric.heard d with
  | some bits => bits.contains d
  | none => s.fabric.heard.any (fun h => h.2.contains d)

/-- When the next data phase of a slot number begins, at the earliest now. -/
def State.nextSlot (s : State) (slot : Nat) (now : Bool) : Nat :=
  let k := (slot + 8 - s.fabric.epoch % 8) % 8
  if k = 0 && now then s.tick else s.fabric.slotStart + 3000 * (if k = 0 then 8 else k) + 242

/-- Estimated arrival on the direct path; none without a direct position. -/
def State.directTime (s : State) (dst : Nat) : Option Nat :=
  minOf id ((List.range 1024).filterMap (fun i =>
    if s.calPeer (i / 8) (i % 8) = some dst then
      some (s.nextSlot (i % 8) (s.carrying && (s.port (i / 8)).isOpen) + Config.flight (i / 8)) else none))

/-- When a message that reaches a relay at a time can leave it: in the data phase of the relay's slot with the destination that is not yet
over then (R367). -/
def State.relayLeaves (s : State) (slot reached : Nat) : Nat :=
  let start := s.fabric.slotStart + 3000 * ((slot + 8 - s.fabric.epoch % 8) % 8)
  if reached < start + 3000 then max reached (start + 242) else start + 24000 + 242

/-- A relay open now: its port, its RFREE and the estimated arrival. -/
def State.relays (s : State) (m : Msg) : List (Nat × Nat × Nat) :=
  if !s.carrying then []
  else s.fabric.ports.filterMap (fun e =>
    let w := e.2.peer
    let meet := Config.meetSlot w m.dst
    let heldThere := match mapGet? s.fabric.heard w with | some bits => bits.contains m.dst | none => false
    if e.2.isOpen && w != m.dst && 0 < e.2.rcred && m.bytes + 16 ≤ 65536 * e.2.rfree && !heldThere && meet < 8 then
      some (e.1, e.2.rfree, s.relayLeaves meet (s.tick + Config.flight e.1) + Config.flight e.1)
    else none)

/-- The port by which a message leaves now and whether to a relay; none while it waits. -/
def State.pathNow (s : State) (m : Msg) : Option (Nat × Bool) :=
  let direct := s.directTime m.dst
  let open_ := s.fabric.ports.find? (fun e => e.2.isOpen && e.2.peer == m.dst)
  let best := argMin (fun (r : Nat × Nat × Nat) => r.2.2) (s.relays m)
  let byRelay := match best with
    | some r => !(s.viewHeld m.dst) && !(m.large && r.2.1 < 192) && (match direct with | some t => decide (r.2.2 < t) | none => true)
    | none => false
  if !s.carrying then none
  else if byRelay then best.map (fun r => (r.1, true))
  else open_.map (fun e => (e.1, false))

/-! ### Sending (R364, R365, R376, R380) -/

/-- Retirements for a package go with its next traffic (R366). -/
def State.takeRetire (s : State) (dst : Nat) : List Msg × State :=
  match s.fabric.retire.find? (fun r => r.1 == dst) with
  | some r => ([⟨s.pkgId, dst, 0, .retire r.2.2⟩], s.modFab (fun f => { f with retire := f.retire.filter (fun q => q.1 != dst) }))
  | none => ([], s)

/-- Nanoseconds a flit of 256 bytes takes at 128 GB/s (R358). -/
def flitTime : Nat := 2

/-- When in the slot the next flit of a port can start. -/
def Port.nextFlit (x : Port) (now : Nat) : Nat := max now x.txFree

/-- Whether a port has credit for a message, and time for its last flit to pass by the end of the slot (R358, R365). -/
def Port.canSend (x : Port) (now : Nat) (m : Msg) (relay : Bool) : Bool :=
  decide (m.flits ≤ if relay then x.rcred else x.dcred) && decide (x.nextFlit now + flitTime * m.flits ≤ 3000)

/-- ACKSEQ of a port: the last data flit received in order in the slot (R363). -/
def Port.ackSeq (x : Port) : Nat := if x.rxSeq = 0 then 0xFFFFFFFF else x.rxSeq - 1

/-- The flits that carry a message on a port, the next ones in SEQ, each with the ACKSEQ of the moment (R363). -/
def Port.flitsOf (x : Port) (m : Msg) (num : Nat) : List OutFlit :=
  (List.range m.flits).map (fun i => ⟨x.ackSeq, x.txSeq + i, min 240 (m.bytes + 16 - 240 * i), num + i⟩)

/-- Send a message on a port. -/
def State.sendOn (s : State) (p : Nat) (m : Msg) (relay : Bool) (die : Option Nat) : State :=
  let r := if relay then ([], s) else s.takeRetire m.dst
  (r.2.modFab (fun f => { f with flits := f.flits + m.flits })).modPort p (fun x =>
    let seq := x.txSeq + m.flits - 1
    { x with txSeq := x.txSeq + m.flits, out := x.out ++ x.flitsOf m s.fabric.flits, txFree := x.nextFlit s.slotTime + flitTime * m.flits, rcred := if relay then x.rcred - m.flits else x.rcred,
             dcred := if relay then x.dcred else x.dcred - m.flits, sent := x.sent ++ [⟨seq, die, m⟩] ++ r.1.map (fun q => ⟨seq, none, q⟩) })

/-- Relayed messages for the peers of open ports, in order of arrival, ahead of everything else (R369). -/
def State.sendRelayed (s : State) : State :=
  s.fabric.relay.foldl (fun t e =>
    match t.fabric.ports.find? (fun q => q.2.isOpen && q.2.peer == e.2.dst) with
    | some q =>
      let before := t.fabric.relay.takeWhile (fun r => r != e)
      if before.any (fun r => r.2.dst == e.2.dst) || !(q.2.canSend s.slotTime e.2 false) then t
      else (t.modFab (fun f => { f with relay := f.relay.erase e })).sendOn q.1 e.2 false (some e.1)
    | none => t) s

/-- A request waits while an earlier access of its agent to one of its sectors is outstanding (R376), and while an earlier posted write of any
agent of the package is: what a release below system scope covers is then performed before any access of the package that follows the acquire
(R290, R292, R293; log 56). -/
def State.mustFollow (s : State) (m : Msg) : Bool :=
  m.isRequest && m.src = s.pkgId && (match s.fabric.live.find? (fun l => l.tag == m.tag) with
    | some l => (s.fabric.live.takeWhile (fun k => k.tag != m.tag)).any (fun k =>
        (k.agent == l.agent || k.posted) && k.pkg == l.pkg && decide (k.first ≤ l.last) && decide (l.first ≤ k.last))
    | none => false)

/-- Own messages leave by the paths they choose. -/
def State.sendOwn (s : State) : State :=
  s.fabric.outq.foldl (fun t m =>
    if t.mustFollow m then t
    else match t.pathNow m with
      | some (p, relay) =>
        if (t.port p).canSend t.slotTime m relay then (t.modFab (fun f => { f with outq := f.outq.erase m })).sendOn p m relay none else t
      | none => t) s

/-- Everything that may leave now leaves. -/
def State.sendAll (s : State) : State := if s.carrying then s.sendRelayed.sendOwn else s

/-! ### Opening flits (R363, R364, R371) -/

/-- The inbound bytes staged for this package's homes, and the bytes of a relay buffer (R369, R371). -/
def State.inbound (s : State) : Nat := (s.fabric.inq.map (fun m => m.bytes + 16)).sum
def State.relayHeld (s : State) (die : Nat) : Nat := ((s.fabric.relay.filter (fun e => e.1 == die)).map (fun e => e.2.bytes + 16)).sum

/-- HOLD rises above 6 MiB and falls below 4 MiB (R371). -/
def State.updateHold (s : State) : State :=
  let n := s.inbound
  s.modFab (fun f => { f with hold := if 6 * 2 ^ 20 < n then true else if n < 4 * 2 ^ 20 then false else f.hold })

/-- Bit d of the HOLD field this package sends: its own bit, or the state last heard directly from d; clear before anything was heard
(R363). -/
def State.holdBit (s : State) (d : Nat) : Bool := if d = s.pkgId then s.fabric.hold else mapGet s.fabric.direct d false

/-- The opening flit this package sends on a port (R363). It grants what its buffers can hold whatever the other ports are granted
(log 20). -/
def State.openingFlit (s : State) (p : Nat) : List Byte :=
  let dcred := min 1379 ((8 * 2 ^ 20 - s.inbound) / (256 * 128))
  let room := 16 * 2 ^ 20 - s.relayHeld (p / 32)
  let body := leBytes 4 0 ++ leBytes 8 s.fabric.epoch ++ leBytes 2 s.pkgId ++ leBytes 2 (room / 65536) ++ leBytes 2 dcred
    ++ leBytes 2 (min 1379 (room / (256 * 32))) ++ leBytes 4 0 ++ leBytes 4 0xFFFFFFFF
    ++ (List.range 128).map (fun i => BitVec.ofNat 8 (((List.range 8).map (fun j => if s.holdBit (8 * i + j) then 2 ^ j else 0)).sum))
    ++ List.replicate 96 0
  leBytes 4 (crc32 body) ++ body

/-- The packages whose HOLD bits a flit carries. -/
def flitHolds (bs : List Byte) : List Nat :=
  (List.range 1024).filter (fun d => ((bs[0x20 + d / 8]?).getD 0).getLsbD (d % 8))

/-- Whether the CRC of an opening flit is good. -/
def flitGood (bs : List Byte) : Bool := bs.length = 256 && descField bs 0 4 = crc32 (bs.drop 4)

/-- OPENING_FLIT. -/
def State.takeOpening (s : State) (p : Nat) (bs : List Byte) : State :=
  if !(flitGood bs) || !s.fabric.loaded || 128 ≤ p then s
  else
    let sender := descField bs 0x10 2
    let fresh := s.fabric.heardAt = s.fabric.epoch
    let s1 := s.modFab (fun f => { f with
      heard := mapSet (if fresh then f.heard else []) (sender % 1024) (flitHolds bs)
      heardAt := f.epoch
      direct := mapSet f.direct (sender % 1024) ((flitHolds bs).contains (sender % 1024)) })
    if descField bs 8 8 = s.fabric.epoch && s.calPeer p (s.fabric.epoch % 8) = some sender && sender != s.pkgId && !(s.port p).isOpen then
      (s1.modPort p (fun x => { x with
        isOpen := true, peer := sender, rfree := descField bs 0x12 2, dcred := descField bs 0x14 2, rcred := descField bs 0x16 2 })).sendAll
    else s1

/-! ### Data flits (R363, R365, R366, R369, R372) -/

/-- The CRC field of a data flit covers every other byte of it (R363). -/
def dataCrc (bs : List Byte) : Nat := crc32 (bs.take 12 ++ bs.drop 16)

/-- The data flit that carries bytes of payload (R363). -/
def dataFlit (ack seq : Nat) (payload : List Byte) : List Byte :=
  let head := leBytes 2 0 ++ leBytes 2 payload.length ++ leBytes 4 ack ++ leBytes 4 seq
  let rest := payload ++ List.replicate (240 - payload.length) 0
  head ++ leBytes 4 (dataCrc (head ++ List.replicate 4 0 ++ rest)) ++ rest

/-- The bytes of a flit this package has sent; its payload is the transaction layer's (R372; log 20). -/
def OutFlit.bytes (o : OutFlit) : List Byte := dataFlit o.ack o.seq ((List.range o.fill).map (Config.payloadByte o.num))

/-- FILL, ACKSEQ and SEQ of a data flit. -/
def flitFill (bs : List Byte) : Nat := descField bs 2 2
def flitAck (bs : List Byte) : Nat := descField bs 4 4
def flitSeq (bs : List Byte) : Nat := descField bs 8 4

/-- Whether the CRC of a data flit is good and its FILL one that exists. -/
def dataGood (bs : List Byte) : Bool := bs.length = 256 && descField bs 12 4 = dataCrc bs && decide (flitFill bs ≤ 240)

/-- Messages acknowledged by a peer are gone. -/
def Port.acked (x : Port) (ack : Nat) : Port := if ack = 0xFFFFFFFF then x else { x with sent := x.sent.filter (fun e => decide (ack < e.seq)) }

/-- TAG_RETIREMENT: a destination drops its record, and with it copies of the request that have arrived and are not yet looked at: their
sender has had its answer (R366, R371, R380). -/
def State.dropRecord (s : State) (src tag : Nat) : State :=
  if s.fabric.retiring.contains (src, tag) then
    (s.modFab (fun f => { f with retiring := f.retiring.filter (fun r => r != (src, tag)),
                                 inq := f.inq.filter (fun d => !(d.src == src && d.tag == tag)),
                                 done := f.done.filter (fun d => !(d.dst == src && d.tag == tag)) })).updateHold
  else s

/-- A whole message has arrived on a port. A request whose tag its sender has retired before is a new one: the old record goes first (R366). -/
def State.deliverMsg (s : State) (p : Nat) (m : Msg) : State :=
  if m.dst != s.pkgId then s.modFab (fun f => { f with relay := f.relay ++ [(p / 32, m)] })
  else match m.body with
    | .read _ _ _ _ _ | .write _ _ _ _ _ _ | .atomic _ _ _ _ _ => (s.dropRecord m.src m.tag).modFab (fun f => { f with inq := f.inq ++ [m] })
    | .data _ _ _ | .poisoned | .error | .ack => s.modFab (fun f => { f with respq := f.respq ++ [m] })
    | .retire tags => s.modFab (fun f => { f with retiring := f.retiring ++ tags.map (fun t => (m.src, t)) })
    | .other k => (s.modFab (fun f => { f with discarded := f.discarded + 1 })).report (.kindDiscarded k)

/-- DATA_FLIT: accepted in SEQ order; one with a bad CRC is discarded, and every later one of the slot. Messages end in it only where it has
payload. -/
def State.takeFlit (s : State) (p : Nat) (fl : Flit) : State :=
  let x := s.port p
  if !x.isOpen || x.rxBad then s
  else if !(dataGood fl.bytes) || flitSeq fl.bytes != x.rxSeq then s.modPort p (fun y => { y with rxBad := true })
  else
    let s1 := s.modPort p (fun y => { (y.acked (flitAck fl.bytes)) with rxSeq := y.rxSeq + 1 })
    let msgs := if flitFill fl.bytes = 0 then [] else fl.msgs
    ((msgs.foldl (fun t m => t.deliverMsg p m) s1).updateHold).sendAll

/-! ### Slots and the calendar (R358, R361, R365, R412) -/

/-- Whether a message still has to be sent: not a request of this package that has had its response (R366, R380). -/
def State.stillDue (s : State) (m : Msg) : Bool :=
  !(m.isRequest && m.src == s.pkgId) || s.fabric.live.any (fun l => l.tag == m.tag)

/-- Messages not acknowledged return to their queues; the port is idle until its next opening flit. -/
def State.closePort (s : State) (p : Nat) : State :=
  let x := s.port p
  let back := x.sent.filter (fun e => s.stillDue e.msg)
  let s1 := s.modFab (fun f => { f with
    relay := back.filterMap (fun e => e.fromDie.map (fun d => (d, e.msg))) ++ f.relay
    outq := (back.filter (fun e => e.fromDie.isNone)).map (·.msg) ++ f.outq })
  s1.modPort p (fun y => { y with isOpen := false, dcred := 0, rcred := 0, rfree := 0, txSeq := 0, txFree := 0, rxSeq := 0, rxBad := false, sent := [], out := [] })

/-- A port that should have opened and did not counts a failure. -/
def State.countOpening (s : State) (p : Nat) : State :=
  match s.calPeer p (s.fabric.epoch % 8) with
  | some w =>
    if w = s.pkgId then s
    else if (s.port p).isOpen then s.modPort p (fun x => { x with failed := 0 })
    else (s.modPort p (fun x => { x with failed := x.failed + 1 })).report (.openingFailed p)
  | none => s

/-- Engine commands learn whether their requests have a route. -/
def State.noteRoutes (s : State) : State :=
  { s with cores := s.cores.map (fun e => (e.1, { e.2 with
      copyq := e.2.copyq.map s.routeCmd, matrix := { e.2.matrix with cmds := e.2.matrix.cmds.map s.routeCmd } })) }

/-- A calendar takes effect at its EPOCH. The first one starts the slot clock. -/
def State.useCalendar (s : State) (e : Nat) (entries : List (Nat × BitVec 16)) : State :=
  let f := s.fabric
  let f1 : Fabric := { f with
    cal := entries, loaded := true, epoch := if f.loaded then f.epoch else e,
    slotStart := if f.loaded then f.slotStart else s.tick, ports := f.ports.map (fun p => (p.1, { p.2 with lost := false, failed := 0 })) }
  let s1 : State := { s with fabric := f1 }
  (allCols.foldl (fun t c => t.latchEvent c 6) s1).noteRoutes

/-- Every calendar of a list whose EPOCH has come takes effect, in the order they were written. -/
def State.useCalendars (s : State) : List (Nat × List (Nat × BitVec 16)) → State
  | [] => s.modFab (fun f => { f with calNext := [] })
  | (e, entries) :: rest =>
    if s.fabric.loaded && s.fabric.epoch < e then s.modFab (fun f => { f with calNext := (e, entries) :: rest })
    else (s.useCalendar e entries).useCalendars rest

/-- Calendars whose EPOCH has come take effect. -/
def State.switchCalendar (s : State) : State := s.useCalendars s.fabric.calNext

/-- SLOT_BOUNDARY. -/
def State.slotBoundary (s : State) : State :=
  if !s.fabric.loaded || s.tick < s.fabric.slotStart + 3000 then s
  else
    let s1 := (List.range 128).foldl (fun t p => (t.countOpening p).closePort p) s
    (s1.modFab (fun f => { f with epoch := (f.epoch + 1) % 2 ^ 48, slotStart := f.slotStart + 3000 })).switchCalendar

/-- PLANE_LOST. -/
def State.planeLost (s : State) (p : Nat) : State :=
  if (s.port p).failed < 8 || (s.port p).lost then s
  else (((s.closePort p).modPort p (fun x => { x with lost := true })).report (.planeLost p)).noteRoutes

/-- ABAVO_CALENDAR_REWRITE. -/
def State.rewriteCalendar (s : State) (epoch : Nat) (entries : List (Nat × BitVec 16)) : State :=
  if epoch % 8 != 0 || (s.fabric.loaded && epoch ≤ s.fabric.epoch + (s.tick - s.fabric.slotStart) / 3000) then s.report (.calendarRefused epoch)
  else
    let kept := entries.foldl (fun m e => if e.1 < 1024 then mapPut m e.1 (e.2 &&& 0x83FF) 0 else m) []
    s.modFab (fun f => { f with calNext := insertCal (epoch, kept) f.calNext })
where
  /-- Rewrites by rising EPOCH. -/
  insertCal (e : Nat × List (Nat × BitVec 16)) : List (Nat × List (Nat × BitVec 16)) → List (Nat × List (Nat × BitVec 16))
    | [] => [e]
    | f :: r => if e.1 < f.1 then e :: f :: r else f :: insertCal e r

/-- ABAVO_PKG_ID_WRITE (R362). -/
def State.writePkgId (s : State) (v : Nat) : State :=
  if s.pkgIdWritten then s.report (.pkgIdRefused v) else { s with pkgId := v % 1024, pkgIdWritten := true }

/-! ### Requests of other packages (R308, R324, R366, R374) -/

/-- An address no remote request may reach. -/
def State.noRemote (s : State) (pa n : Nat) (write : Bool) : Bool :=
  isReservedPa pa || isFar pa || s.channelGone pa || (write && copyStore .store pa n)

/-- The offsets of the poisoned bytes among n at an address of this package. -/
def State.poisonedAt (s : State) (pa n : Nat) : List Nat := (List.range n).filter (fun i => s.poison.contains ((pa + i) / 32))

/-- A read performed at its home: the bytes, and which of them lie in poisoned sectors (R409). -/
def State.homeRead (s : State) (pa n : Nat) (bulk : Bool) : Payload :=
  if isWindow pa then .data (s.windowLoad pa n) bulk []
  else .data ((List.range n).map (fun i => s.homeByte (pa + i))) bulk (s.poisonedAt pa n)

/-- One piece of a write performed at its home; a release marks its line (R289). -/
def State.homePiece (s : State) (sec : Nat) (d : BitVec 256) (mask : BitVec 32) (release : Option Nat) : State :=
  if isWindow (32 * sec) then s.windowPiece sec d mask else (s.homeWrite sec d mask none).setMark (sec / 4) release

/-- A write of consecutive bytes performed at its home, one piece a sector. -/
def State.homePieces (s : State) (pa : Nat) (bs : List Byte) (release : Option Nat) : State :=
  (pieces pa bs).foldl (fun t p => let q := placeBytes p.2.1 p.2.2; t.homePiece p.1 q.1 q.2 release) s

/-- The bytes a write carries, with their places. -/
def carried (pa : Nat) (bs : List (Option Byte)) : Writes := bs.zipIdx.filterMap (fun b => b.1.map (fun x => (pa + b.2, x)))

/-- A write of another package performed at its home, one piece a sector; bytes that come poisoned poison their sector (R182, R374, R409). -/
def State.homePut (s : State) (pa : Nat) (bs : List (Option Byte)) (release : Option Nat) (bad : List Nat) : State :=
  (sectorsOf (carried pa bs)).foldl (fun t p =>
    (t.homePiece p.1 p.2.1 p.2.2 release).homePoison p.1 (bad.any (fun i => (pa + i) / 32 == p.1 && !(isWindow (pa + i))))) s

/-- What the operations of an atomic request come to on an old value: the values each one finds, the last value, and whether any writes
(R190). -/
def atomRun (kind : AtomKind) (old : Nat) (ops : List (D64 × D64)) : List Nat × Nat × Bool :=
  ops.foldl (fun acc o => match atomResult kind o.1 o.2 acc.2.1 with
    | some v => (acc.1 ++ [acc.2.1], v, true)
    | none => (acc.1 ++ [acc.2.1], acc.2.1, acc.2.2)) ([], old, false)

/-- An atomic performed at its home, at system scope: one operation after the other, with nothing between; a release marks its line, and an
atomic leaves a mark it meets (R284, R289). -/
def State.homeAtomic (s : State) (kind : AtomKind) (pa : Nat) (ops : List (D64 × D64)) (release : Option Nat) : Payload × State :=
  let n := atomWidth kind
  match s.homeRead pa n false with
  | .data bs _ [] =>
    let run := atomRun kind (leNat bs) ops
    let q := placeBytes (pa % 32) (leBytes n run.2.1)
    (.data (run.1.flatMap (leBytes n)) false [],
      if !run.2.2 then s
      else if isWindow pa then s.windowPiece (pa / 32) q.1 q.2
      else
        let s1 := s.homeWrite (pa / 32) q.1 q.2 none
        match release with
        | some x => if 3 ≤ x then s1.setMark (pa / 128) (some (max x (mapGet s1.marks (pa / 128) 0))) else s1
        | none => s1)
  | _ => (.poisoned, s)

/-- Whether a request meets a system lock of this package (R308). -/
def State.requestHeld (s : State) (m : Msg) : Bool :=
  (List.range m.range.2).any (fun i => s.frameLocked 0 (m.range.1 + i))

/-- Perform a request: the answer, and the state. -/
def State.performRequest (s : State) (m : Msg) : Payload × State :=
  match m.body with
  | .read pa n _ _ bulk => if s.noRemote pa n false then (.error, s) else (s.homeRead pa n bulk, s)
  | .write pa bs order scope _ bad =>
    if s.noRemote pa bs.length true then (.ack, s.report (.postedError m.tag))
    else (.ack, s.homePut pa bs (if isRelease order then some scope else none) bad)
  | .atomic k pa ops order scope =>
    if s.noRemote pa (atomWidth k) true then (.error, s) else s.homeAtomic k pa ops (if isRelease order then some scope else none)
  | _ => (.error, s)

/-- REMOTE_REQUEST: the oldest staged request that no system lock holds is performed, or answered again from its record. -/
def State.takeRequest (s : State) : State :=
  match s.fabric.inq.find? (fun m => !(s.requestHeld m)) with
  | none => s
  | some m =>
    let s1 := s.modFab (fun f => { f with inq := f.inq.erase m })
    let answer := match s1.fabric.done.find? (fun d => d.dst == m.src && d.tag == m.tag) with
      | some d => (d, s1)
      | none =>
        let r := s1.performRequest m
        let d : Msg := ⟨s1.pkgId, m.src, m.tag, r.1⟩
        (d, r.2.modFab (fun f => { f with done := f.done ++ [d] }))
    ((answer.2.modFab (fun f => { f with outq := f.outq ++ [answer.1] })).updateHold).sendAll

/-! ### Responses (R366, R373, R374) -/

/-- A sector leaves a slice and the L1 that may hold it fully written. -/
def State.dropCopy (s : State) (c sec : Nat) : State := (s.revoke c sec).dropSlice c sec

/-- A line that a load fetched whole is kept in the slice, clean (R277), in place of any copy there; no L1 keeps a sector of the old copy that it
wrote in full (R276), and other fills of the line in flight there, which may bring older bytes, are not kept (R283). -/
def State.keepLine (s : State) (c line : Nat) (bs : List Byte) (bad : List Nat) : State :=
  (List.range 4).foldl (fun t i =>
    let u := t.dropCopy c (4 * line + i)
    if bad.any (fun k => k / 32 == i) then u
    else u.putSlice c (4 * line + i) ⟨(placeBytes 0 ((bs.drop (32 * i)).take 32)).1, fullMask, 0, 0, none, false⟩) (s.spoilFills [c] (· == line))

/-- The lines of a wait that a response fills. -/
def RWait.lines (w : RWait) (tag : Nat) : List Nat :=
  w.accs.flatMap (fun a => (a.parts.filter (fun p => p.tag == tag && p.got.isNone)).filterMap (·.line))
def RWait.take (w : RWait) (tag : Nat) (data : RData) : RWait := { w with accs := w.accs.map (fun a => a.take tag data) }
def RWait.awaits (w : RWait) (tag : Nat) : Bool := w.accs.any (fun a => a.awaits tag)

/-- Data for an agent that waits for a tag. A line fill that is not to be kept leaves no older copy of its sectors in the column's slice
(R283). -/
def State.feedWait (s : State) (who : Issuer) (l : LiveTag) (data : RData) : State :=
  let w := (s.waitsOf who).filter (fun w => w.awaits l.tag)
  if w.isEmpty then s
  else
    let c := match who with | .col c => c | .deal n _ => coreColumn n
    let fills := (w.flatMap (fun x => x.lines l.tag)).eraseDups
    let s1 : State := match data with
      | .bytes bs bad =>
        if fills.isEmpty then
          (List.range (l.last + 1 - l.first)).foldl (fun t i => t.dropCopy c (remotePlace l.pkg (32 * (l.first + i)) / 32)) s
        else fills.foldl (fun t k => t.keepLine c k bs bad) s
      | _ => s
    s1.modWaits who (fun x => x.take l.tag data)

/-- Data or an acknowledgement for an engine command: data is written unless an error has been found (R207, R212); bytes that saturate the
command's pot are an error of their own. -/
def State.feedCmd (s : State) (n : Nat) (c : Cmd) (t : CmdTag) (m : Msg) : State :=
  let s0 := s.modCmd n c.id (fun q => { q with tags := q.tags.filter (fun k => k.tag != t.tag) })
  let count := fun (u : State) =>
    let r := u.potCount n c t.len
    if r.1 then r.2.markErr n c 7 else r.2
  match s.grp? n c.grp, m.body with
  | none, _ => s0
  | some x, .data bs _ [] =>
    if c.err.isSome then s0
    else
      count (match t.place, c.dst (s.rankOf x) with
        | some k, _ => (pieces k bs).foldl (fun u p => u.engPut n c.grp (32 * p.1 + p.2.1) p.2.2) s0
        | none, .scratch rank o => (match s.gangScratch x rank with | some p => s0.scratchWrite p (o + t.off) bs | none => s0)
        | none, .global _ => s0)
  | some _, .ack => count s0
  | some _, .data _ _ _ | some _, .poisoned => s0.markErr n c 8
  | some _, _ => s0.markErr n c 1

/-- REMOTE_RESPONSE. -/
def State.takeResponse (s : State) : State :=
  match s.fabric.respq with
  | [] => s
  | m :: rest =>
    let s1 := s.modFab (fun f => { f with respq := rest })
    match s1.fabric.live.find? (fun l => l.tag == m.tag) with
    | none => s1
    | some l =>
      let data := responseData m.body
      let s2 := s1.retireTag m.src m.tag
      let s3 := if s2.owedTag m.tag then s2.owedArrive m.tag data else s2
      let issuers := s3.cols.map (fun e => Issuer.col e.1) ++ s3.cores.flatMap (fun e => [Issuer.deal e.1 0, Issuer.deal e.1 1])
      let s4 := issuers.foldl (fun t w => t.feedWait w l data) s3
      let cmds := s4.cores.flatMap (fun e => (e.2.copyq ++ e.2.matrix.cmds).map (fun q => (e.1, q)))
      (cmds.foldl (fun t e => match e.2.tags.find? (fun k => k.tag == m.tag) with
        | some k => t.feedCmd e.1 e.2 k m
        | none => t) s4).sendAll

/-! ### Retiring tags (R366) -/

/-- TAG_RETIRE_TIMEOUT: retirements that have found no traffic for 200 µs become a message of their own. -/
def State.sendRetire (s : State) (dst : Nat) : State :=
  match s.fabric.retire.find? (fun r => r.1 == dst) with
  | some r =>
    if s.tick < r.2.1 + 200000 then s
    else
      let q := s.takeRetire dst
      (q.2.modFab (fun f => { f with outq := f.outq ++ q.1 })).sendAll
  | none => s

/-- ENGINE_ROUTE_TIMEOUT (R374). -/
def State.routeTimeout (s0 : State) (n id : Nat) : State :=
  let s := s0.noteRoutes
  match s.cmd? n id with
  | none => s
  | some c =>
    match c.noRoute with
    | some t => if t + 10000000 ≤ s.tick then s.failCmd n c 5 else s
    | none => s

def execRemoteRequest (s : State) : Out State := .next s.takeRequest
def execRemoteResponse (s : State) : Out State := .next s.takeResponse
def execEngineRouteTimeout (core id : Nat) (s : State) : Out State := .next (s.routeTimeout core id)
def execAbavoCalendarRewrite (epoch : Nat) (entries : List (Nat × BitVec 16)) (s : State) : Out State := .next (s.rewriteCalendar epoch entries)
def execCalendarSwitch (s : State) : Out State := .next s.switchCalendar
def execAbavoPkgIdWrite (v : Nat) (s : State) : Out State := .next (s.writePkgId v)
def execSlotBoundary (s : State) : Out State := .next s.slotBoundary
def execOpeningFlit (port : Nat) (bytes : List Byte) (s : State) : Out State := .next (s.takeOpening port bytes)
def execPlaneLost (port : Nat) (s : State) : Out State := .next (s.planeLost port)
def execDataFlit (port : Nat) (flit : Flit) (s : State) : Out State := .next (s.takeFlit port flit)
def execTagRetirement (src tag : Nat) (s : State) : Out State := .next (s.dropRecord src tag)
def execTagRetireTimeout (dst : Nat) (s : State) : Out State := .next (s.sendRetire dst)

end Sys2Proof.Machine
end

