-- ==== Sys2Proof/Machine/Power.lean ====
section
/-! DEFINITION. Clocks, patterns, droop, the power arbiter, the column governors, temperatures and telemetry (R389 to R404). -/

namespace Sys2Proof.Machine

/-- What happens to a column, a die or an array core that exists. -/
def State.onCol (s : State) (c : Nat) (f : State → State) : State := if c < 32 then f s else s
def State.onDie (s : State) (d : Nat) (f : State → State) : State := if d < 4 then f s else s
def State.onCore (s : State) (n : Nat) (f : State → State) : State := if n < 384 then f s else s

/-! ### Patterns (R390, R391) -/

/-- PATTERN_BOUNDARY: the boundary of a change of REQ, kg or kd has come, and they make EFF from it on. -/
def State.patternStep (s : State) (c : Nat) : State :=
  let cyc := s.cyc (dieOf c)
  if (s.gov c).patAt.any (fun m => decide (m ≤ cyc)) then s.modGov c (fun g => g.settled cyc) else s

/-! ### Throttle events and switches (R394, R396, R398) -/

/-- A throttle event. -/
def State.throttle (s : State) (c cause : Nat) : State :=
  (s.modGov c (fun g => { g with thrCount := min (g.thrCount + 1) (2 ^ 48 - 1), thrLast := cause })).latchEvent c 2

/-- Switch a die's clock: cycles so far count at the old rate, a step record is written, and where the frequency changes the signature tables are
cleared (R393, R396). -/
def State.switchClock (s : State) (d mhz : Nat) : State :=
  let cyc := s.cyc d
  let s1 := s.modDie d (fun x => { x with
    mhz := mhz, cycBase := cyc, tickBase := s.tick, logCount := x.logCount + 1,
    log := (⟨s.tick, cyc, mhz, (x.logCount + 1) % 2 ^ 32⟩ :: x.log).take 4 })
  if (s.die d).mhz = mhz then s1 else (dieCols d).foldl (fun t c => t.modGov c (fun g => { g with sigTable := [] })) s1

/-- A hop begins: the die switches to the fallback oscillator and the PLL relocks. -/
def State.startHop (s : State) (d f : Nat) : State :=
  (s.switchClock d 800).modDie d (fun x => { x with hop := some f, abandoned := false })

/-- A set point the clock can have (R389). -/
def setPointOk (f : Nat) : Bool := decide (800 ≤ f) && decide (f ≤ 2000) && f % 50 == 0

/-- The arbiter chooses a set point: a hop, unless one is under way or the retry of an abandoned one comes too early. -/
def State.chooseSetPoint (s : State) (d f : Nat) : State :=
  let x := s.die d
  if !(setPointOk f) || x.hop.isSome || f = x.setPoint || (x.retryTo = some f && s.tick < x.retryAt) then s else s.startHop d f

/-- PLL_RELOCK_DONE: the die switches to the new set point; to the old one if the hop was abandoned. -/
def State.relockDone (s : State) (d : Nat) : State :=
  let x := s.die d
  match x.hop with
  | none => s
  | some f =>
    if x.abandoned then
      (s.switchClock d x.setPoint).modDie d (fun y => { y with hop := none, abandoned := false, retryAt := s.tick + 100000, retryTo := some f })
    else
      let s1 := (s.switchClock d f).modDie d (fun y => { y with hop := none, setPoint := f, retryTo := none })
      if f < x.setPoint then (dieCols d).foldl (fun t c => t.throttle c 5) s1 else s1

/-! ### Droop and signatures (R392, R393) -/

/-- The issue-mix signature of the master cycles from one to before another: MST, TRK and CPB (R392). -/
def issueMix (recent : List (Nat × Nat)) (from_ till : Nat) : BitVec 12 :=
  let count := fun (k : Nat) => (recent.filter (fun e => e.2 == k && decide (from_ ≤ e.1) && decide (e.1 < till))).length
  BitVec.ofNat 12 (256 * min (count 0) 15 + 16 * min (count 1 / 8) 15 + min (count 2) 15)

/-- A signature enters the table, most recently used first; the table holds 64. -/
def noteSignature (t : List (BitVec 12)) (sig : BitVec 12) : List (BitVec 12) := (sig :: t.filter (· != sig)).take 64

/-- DROOP_DETECT: the signature of the 64 master cycles before it enters the table. -/
def State.droop (s : State) (c : Nat) : State :=
  let cyc := s.cyc (dieOf c)
  let s1 := (s.modPat c (fun g => { g with
    kd := 8, droopUntil := some (cyc + 64), sigTable := noteSignature g.sigTable (issueMix g.recent (cyc - 64) cyc) })).throttle c 3
  s1.modDie (dieOf c) (fun x => { x with abandoned := x.abandoned || x.hop.isSome })

/-- Whether the removal period of a signature runs at a master cycle. -/
def Governor.sigRuns (g : Governor) (cyc : Nat) : Bool := match g.sigUntil with | some t => decide (cyc < t) | none => false

/-- DROOP_HOLD_EXPIRY: 64 master cycles after the last droop; a signature period still running takes over. -/
def State.droopEnd (s : State) (c : Nat) : State :=
  match (s.gov c).droopUntil with
  | some t =>
    if s.cyc (dieOf c) < t then s
    else s.modPat c (fun g => { g with droopUntil := none, kd := if g.sigRuns (s.cyc (dieOf c)) then 2 else 0 })
  | none => s

/-- Whether a droop is active at a master cycle: up to 64 cycles after the last detection. -/
def Governor.drooping (g : Governor) (cyc : Nat) : Bool := g.droopUntil.any (fun t => decide (cyc < t))

/-- SIGNATURE_CHECK: once at each 64-cycle boundary, the last one passed. A match outside a droop removes two pulses for the 256 cycles from the
boundary; it begins a period, with an event, where none runs, and extends one that does. -/
def State.signature (s : State) (c w : Nat) : State :=
  let g := s.gov c
  let cyc := s.cyc (dieOf c)
  if w ≤ g.sigAt || w ≠ cyc / 64 then s
  else
    let sig := issueMix g.recent (64 * (w - 1)) (64 * w)
    let s1 := s.modGov c (fun x => { x with sigAt := w })
    if !(g.sigTable.contains sig) || g.drooping (64 * w) then s1
    else
      let s2 := s1.modPat c (fun x => { x with kd := 2, sigUntil := some (64 * w + 256), sigTable := noteSignature x.sigTable sig })
      if g.sigRuns (64 * w) then s2 else s2.throttle c 4

/-- SIGNATURE_HOLD_EXPIRY. -/
def State.signatureEnd (s : State) (c : Nat) : State :=
  match (s.gov c).sigUntil with
  | some t =>
    if s.cyc (dieOf c) < t then s
    else s.modPat c (fun g => { g with sigUntil := none, kd := if g.drooping (s.cyc (dieOf c)) then g.kd else 0 })
  | none => s

/-! ### The governors (R399, R400, R404) -/

/-- The package power up to which the cooling loop is to keep every column below its limit, in mW (R404), and the power budget (R397). -/
def ratedMw : Nat := 3200000

/-- A throttle event of cause 1 while inlet, flow and package power are within R404 counts as a fault of the cooling loop. -/
def State.coolingFault (s : State) (c : Nat) : State := { s with coolFaults := s.coolFaults + 1 }.report (.coolingFault c)

/-- GOVERNOR_INTERVAL: kg by temperature and power, every 10,000 ticks. Temperatures are in 1/16 °C. -/
def State.governor (s : State) (c : Nat) (read : GovReading) : State :=
  let g := s.gov c
  let mw := read.mw
  if s.tick < g.govAt then s
  else
    let hot := decide (1680 < g.temp)
    let up := hot || decide (g.grantMw < mw)
    let down := decide (g.temp < 1664) && decide (100 * mw < 95 * g.grantMw)
    let kg := if up then min 12 (g.kg + 1) else if down then g.kg - 1 else g.kg
    let s1 := s.modGov c (fun x => { x with
      measMw := mw, addPrev := x.addMw, addMw := 0, kgHigh := x.kgHigh || decide (0 < kg), govAt := s.tick + 10000 })
    let s2 := if kg = g.kg then s1 else s1.modPat c (fun x => { x with kg := kg })
    let s3 := if g.kg < kg then s2.throttle c (if hot then 1 else 2) else s2
    if g.kg < kg && hot && read.coolant && decide (s.packageMw ≤ ratedMw) then s3.coolingFault c else s3

/-- The column cores halt and the ports stop (R399). -/
def State.stopAll (s : State) : State :=
  { s with
    tripped := true
    cols := s.cols.map (fun e => (e.1, { e.2 with core := { e.2.core with run := if e.2.core.run = .running then .haltedByTrip else e.2.core.run } }))
    fabric := { s.fabric with ports := s.fabric.ports.map (fun e => (e.1, { e.2 with isOpen := false })) } }

/-- THERMAL_TRIP: a reading of 115 °C in a column or a stack (R399). -/
def State.trip (s : State) : State :=
  if allCols.any (fun c => decide (1840 ≤ (s.gov c).temp)) || s.tstk.any (fun t => decide (1840 ≤ t)) then
    s.stopAll.report .trip
  else s

/-! ### Temperatures, voltage, telemetry (R401 to R403) -/

/-- Whether the sensors read what they can: one reading a column and a stack, each from 0 to 120 °C in 1/16 °C (R402). -/
def readingsOk (cols stackTemps : List Int) : Bool :=
  cols.length = 32 && stackTemps.length = 8 && (cols ++ stackTemps).all (fun t => decide (0 ≤ t) && decide (t ≤ 1920))

/-- TEMPERATURE_SAMPLE, every 10,000 ticks. -/
def State.sample (s : State) (cols stackTemps : List Int) : State :=
  if s.tick < s.sampleAt || !(readingsOk cols stackTemps) then s
  else
    let s1 := cols.zipIdx.foldl (fun t e => t.modGov e.2 (fun g => { g with temp := e.1, refMw := g.measMw })) s
    { s1 with tstk := stackTemps, sampleAt := s.tick + 10000 }

/-- The voltage set point of a die: from its master set point, its hottest column and its age (R401). -/
def State.voltTarget (s : State) (d : Nat) : Nat :=
  Config.voltSet (s.die d).setPoint ((dieCols d).foldl (fun m c => max m (s.gov c).temp) 0) (Config.ageing d s.tick)

/-- VOLTAGE_STEP: one step of at most 10 mV toward the set point. -/
def State.voltStep (s : State) (d mv : Nat) : State :=
  let target := s.voltTarget d
  let by_ := min mv 10
  s.modDie d (fun x => { x with volt := if x.volt < target then min target (x.volt + by_) else max target (x.volt - by_) })

/-- The fields of a telemetry record after SEQ, for an epoch that began at a tick. -/
def State.telemetryBody (s : State) (p : PowerPlan) (start : Nat) : List Byte :=
  let lim := (if allCols.any (fun c => (s.gov c).kgHigh) then 2 else 0) + (if p.limited then 1 else 0)
  let half := fun (v : Int) => leBytes 2 (BitVec.ofInt 16 v).toNat
  leBytes 8 start ++ leBytes 4 p.packageMw ++ leBytes 4 lim ++ leBytes 8 0 ++ allCols.flatMap (fun c => half (s.gov c).temp)
    ++ (List.range 8).flatMap (fun k => half (s.tstk[k]?.getD 0)) ++ allCols.flatMap (fun c => leBytes 4 (p.grants[c]?.getD 0)) ++ leBytes 16 0

/-- Write the telemetry record of the epoch that ends: SEQ odd, the fields, SEQ even with release order (R403). -/
def State.writeTelemetry (s : State) (p : PowerPlan) : State :=
  if s.trec = 0 || s.nextEpoch = 0 then s
  else
    let e := s.telemetry
    let s1 := s.homePieces s.trec (leBytes 8 (2 * e + 1)) none
    let s2 := s1.homePieces (s.trec + 8) (s.telemetryBody p (s.nextEpoch - 100000)) none
    { (s2.homePieces s.trec (leBytes 8 (2 * e + 2)) (some 5)) with telemetry := e + 1 }

/-- The set point a die has, or is on its way to. -/
def Die.target (x : Die) : Nat := x.hop.getD x.setPoint

/-- Whether groups are resident in a column. -/
def State.colBusy (s : State) (c : Nat) : Bool := (colCores c).any (fun n => !((s.core n).groups.isEmpty))

/-- What grants must meet: the budget, and for a column with resident groups the power for 4 ones of EFF (R397). -/
def State.grantsOk (s : State) (p : PowerPlan) : Bool :=
  p.grants.length = 32 && decide (p.grants.sum + p.otherMw ≤ ratedMw)
    && allCols.all (fun c => !(s.colBusy c) || decide (Config.fourOnesMw (s.die (dieOf c)).target c ≤ p.grants[c]?.getD 0))

/-- POWER_EPOCH: the record of the epoch that ends, then set points and grants; a plan whose grants R397 does not allow is none. -/
def State.powerEpoch (s : State) (p : PowerPlan) : State :=
  let s1 := s.writeTelemetry p
  let s2 := p.setPoints.zipIdx.foldl (fun t e => if e.2 < 4 then t.chooseSetPoint e.2 e.1 else t) s1
  if s.tick < s.nextEpoch || !(s2.grantsOk p) then s
  else
    let s3 := allCols.foldl (fun t c => t.modGov c (fun g => { g with grantMw := p.grants[c]?.getD 0, kgHigh := decide (0 < g.kg) })) s2
    { s3.heatMoment with packageMw := p.packageMw, nextEpoch := if s.nextEpoch = 0 then s.tick + 100000 else s.nextEpoch + 100000 }

/-- ABAVO_TREC_WRITE: an address in near memory, a multiple of 256, or 0; any other is ignored. -/
def State.writeTrec (s : State) (a : Nat) : State :=
  if a % 256 = 0 && isNear a then { s with trec := a, telemetry := 0 } else s

def execPatternBoundary (col : Nat) (s : State) : Out State := .next (s.onCol col (fun t => t.patternStep col))
def execPowerEpoch (p : PowerPlan) (s : State) : Out State := .next (s.powerEpoch p)
def execPllRelockDone (die : Nat) (s : State) : Out State := .next (s.onDie die (fun t => t.relockDone die))
def execGovernorInterval (col : Nat) (read : GovReading) (s : State) : Out State := .next (s.onCol col (fun t => t.governor col read))
def execTemperatureSample (cols stackTemps : List Int) (s : State) : Out State := .next (s.sample cols stackTemps)
def execThermalTrip (s : State) : Out State := .next s.trip
def execDroopDetect (col _detector : Nat) (s : State) : Out State := .next (s.onCol col (fun t => t.droop col))
def execDroopHoldExpiry (col : Nat) (s : State) : Out State := .next (s.onCol col (fun t => t.droopEnd col))
def execSignatureCheck (col w : Nat) (s : State) : Out State := .next (s.onCol col (fun t => t.signature col w))
def execSignatureHoldExpiry (col : Nat) (s : State) : Out State := .next (s.onCol col (fun t => t.signatureEnd col))
def execVoltageStep (die mv : Nat) (s : State) : Out State := .next (s.onDie die (fun t => t.voltStep die mv))
def execAbavoTrecWrite (a : Nat) (s : State) : Out State := .next (s.writeTrec a)

end Sys2Proof.Machine
end

