-- ==== Sys2Proof/Machine/Reliability.lean ====
section
/-! DEFINITION. Vertical buses, sub-arrays, soft errors, channels, measurement and attestation, and power-on (R405 to R416). -/

namespace Sys2Proof.Machine

/-! ### Vertical buses (R405, R406) -/

/-- Whether a retraining is due by age or temperature. -/
def Governor.trainDue (g : Governor) (now : Nat) : Bool :=
  decide (g.trainTick + 64000000 ≤ now) || decide (128 ≤ (g.temp - g.trainTemp).natAbs)

/-- Whether retrainings are far enough apart: the last one ended 1,500 ticks after it began. -/
def Governor.mayTrain (g : Governor) (now : Nat) : Bool := g.trainTick = 0 || decide (g.trainTick + 998500 ≤ now)

/-- VBUS_RETRAIN_DUE: due, and begun at once where no transfer is outstanding, as between two steps none is. One that has fallen due stays so. -/
def State.retrainDue (s : State) (c : Nat) : State :=
  let g := s.gov c
  if g.retrainFrom.isSome || !(g.trainDue s.tick || g.retrainDue.isSome) then s
  else s.modGov c (fun x => { x with
    retrainDue := some (x.retrainDue.getD s.tick), retrainFrom := if g.mayTrain s.tick then some s.tick else none })

/-- VBUS_RETRAIN_FORCE: 200,000 ticks after it fell due. -/
def State.retrainForce (s : State) (c : Nat) : State :=
  let g := s.gov c
  match g.retrainDue with
  | some t =>
    if g.retrainFrom.isNone && t + 200000 ≤ s.tick && g.mayTrain s.tick then s.modGov c (fun x => { x with retrainFrom := some s.tick }) else s
  | none => s

/-- The bit of `vbus_slow` for a segment with a number of failed bonds (R405). -/
def slowBit (c b n : Nat) : Bool := if n ≤ 2 then false else if n ≤ 34 then true else Config.segmentOutBit c b

/-- A training of a column's bus comes to its end: every bond is tested, `vbus_slow` is set, segments out of service are reported
(R405). -/
def State.trained (s : State) (c : Nat) (failed : List Nat) : State :=
  let counts := failed.zipIdx.map (fun e => (e.2, e.1))
  let slow : BitVec 32 := counts.foldl (fun v e => if slowBit c e.1 e.2 then v ||| (1#32 <<< e.1) else v) 0
  let s1 := s.modGov c (fun g => { g with
    retrainDue := none, retrainFrom := none, trainTick := s.tick, trainTemp := g.temp, failedBonds := counts, vbusSlow := slow, lastBeatFail := [] })
  counts.foldl (fun u e => if 35 ≤ e.2 then u.report (.segmentOut c e.1) else u) s1

/-- VBUS_RETRAIN_END: 1,500 ticks after the beginning; `failed` lists the failed bonds of each segment. -/
def State.retrainEnd (s : State) (c : Nat) (failed : List Nat) : State :=
  match (s.gov c).retrainFrom with
  | some t => if s.tick < t + 1500 || failed.length != 32 then s else s.trained c failed
  | none => s

/-- VBUS_BEAT_FAIL: the beat is resent; a failure that follows another on its segment, with no beat passed between, forces a retraining at
once. -/
def State.beatFail (s : State) (c : Nat) (b : BeatFailure) : State :=
  s.modGov c (fun g =>
    if !b.passed && g.lastBeatFail.contains b.seg then
      { g with
        lastBeatFail := g.lastBeatFail.filter (· != b.seg)
        retrainFrom := some (g.retrainFrom.getD s.tick)
        retrainDue := some (g.retrainDue.getD s.tick) }
    else { g with lastBeatFail := insNat b.seg g.lastBeatFail })

/-! ### Matrix engines (R407, R408) -/

/-- MATRIX_SELF_TEST: sub-arrays that fail are fenced until reset; with none left the core is out of service. -/
def State.selfTest (s : State) (n : Nat) (failing : BitVec 4) : State :=
  let old := (s.core n).matrix.fenced
  let new := old ||| failing
  let s1 := s.modCore n (fun y => { y with
    matrix := { y.matrix with fenced := new, lastTest := s.tick }, outOfService := y.outOfService || new = 0xF })
  (List.range 4).foldl (fun t i => if new.getLsbD i && !(old.getLsbD i) then t.report (.subArrayFenced n i) else t) s1

/-! ### Soft errors (R409, R410) -/

/-- An uncorrectable error in a column's own storage is counted. -/
def State.countError (s : State) (c : Nat) : State := s.modGov c (fun g => { g with eccUncorr := min (g.eccUncorr + 1) (2 ^ 32 - 1) })

/-- POOL_UNCORRECTABLE_ERROR: the owning group stops with engine-error, code 10. -/
def State.poolError (s : State) (n g : Nat) : State :=
  match s.grp? n g with
  | none => s
  | some x => let s1 := s.countError (coreColumn n); if x.stopped then s1 else s1.engineStop n g 10 0

/-- SECTOR_POISON. -/
def State.poisonSector (s : State) (p : PoisonPlace) : State :=
  match p with
  | .slice c sec =>
    match s.slice? c sec with
    | some x => (s.setSlice c sec { x with poison := true }).countError c
    | none => s
  | .home sec => if isNear (32 * sec) || isFar (32 * sec) then s.homePoison sec true else s
  | .relay i sec => s.modFab (fun f => { f with relay := listMod f.relay i (fun e => (e.1, e.2.poisonAt (32 * sec))) })

/-- CHANNEL_RETIRE: a copy to a spare begins; with both spares used the channel's range becomes reserved (R411). -/
def State.retireChannel (s : State) (stack ch : Nat) : State :=
  if 8 ≤ stack || 32 ≤ ch || s.retiredCh.contains (stack, ch) then s
  else
    let used := (mapGet? s.spares stack).getD []
    if used.length < 2 then
      { s with spares := mapSet s.spares stack (used ++ [ch]), copyingCh := s.copyingCh ++ [(stack, ch)] }
    else { s with retiredCh := s.retiredCh ++ [(stack, ch)] }

/-- SPARE_COPY_DONE. -/
def State.copyDone (s : State) (stack ch : Nat) : State := { s with copyingCh := s.copyingCh.filter (· != (stack, ch)) }

/-! ### SHA-256 (R413, R414; the function is FIPS 180-4's, log 18) -/

/-- The first primes. -/
def shaPrimes : List Nat :=
  [2, 3, 5, 7, 11, 13, 17, 19, 23, 29, 31, 37, 41, 43, 47, 53, 59, 61, 67, 71, 73, 79, 83, 89, 97, 101, 103, 107, 109, 113, 127, 131]
    ++ [137, 139, 149, 151, 157, 163, 167, 173, 179, 181, 191, 193, 197, 199, 211, 223, 227, 229, 233, 239, 241, 251, 257, 263, 269, 271,
        277, 281, 283, 293, 307, 311]

/-- The largest r with r ^ k at most n, found bit by bit from bit b down. -/
def rootBits (k n : Nat) : Nat → Nat → Nat
  | 0, r => r
  | b + 1, r => rootBits k n b (if (r + 2 ^ b) ^ k ≤ n then r + 2 ^ b else r)

/-- The first 32 bits of the fraction of the cube root of a prime, and of the square root. -/
def shaK (p : Nat) : W := BitVec.ofNat 32 (rootBits 3 (p * 2 ^ 96) 36 0)
def shaH (p : Nat) : W := BitVec.ofNat 32 (rootBits 2 (p * 2 ^ 64) 37 0)

def rotr (x : W) (n : Nat) : W := x.rotateRight n
def shaS0 (x : W) : W := rotr x 7 ^^^ rotr x 18 ^^^ (x >>> 3)
def shaS1 (x : W) : W := rotr x 17 ^^^ rotr x 19 ^^^ (x >>> 10)

/-- The message schedule, newest word first. -/
def shaSchedule : Nat → List W → List W
  | 0, l => l
  | n + 1, l => shaSchedule n ((shaS1 (l[1]?.getD 0) + l[6]?.getD 0 + shaS0 (l[14]?.getD 0) + l[15]?.getD 0) :: l)

/-- One round. -/
def shaRound (v : List W) (kw : W × W) : List W :=
  match v with
  | [a, b, c, d, e, f, g, h] =>
    let t1 := h + (rotr e 6 ^^^ rotr e 11 ^^^ rotr e 25) + ((e &&& f) ^^^ (~~~e &&& g)) + kw.1 + kw.2
    let t2 := (rotr a 2 ^^^ rotr a 13 ^^^ rotr a 22) + ((a &&& b) ^^^ (a &&& c) ^^^ (b &&& c))
    [t1 + t2, a, b, c, d + t1, e, f, g]
  | other => other

/-- A big-endian word of four bytes. -/
def beWord (bs : List Byte) : W := BitVec.ofNat 32 (bs.foldl (fun a b => 256 * a + b.toNat) 0)

/-- One block of 64 bytes. -/
def shaBlock (h : List W) (block : List Byte) : List W :=
  let w := (shaSchedule 48 ((chunks 4 block).map beWord).reverse).reverse
  List.zipWith (· + ·) h (((shaPrimes.map shaK).zip w).foldl shaRound h)

/-- SHA-256 of bytes. -/
def sha256 (bs : List Byte) : List Byte :=
  let n := bs.length
  let padded := bs ++ [0x80] ++ List.replicate ((119 - n % 64) % 64) 0 ++ (leBytes 8 (8 * n)).reverse
  ((chunks 64 padded).foldl shaBlock ((shaPrimes.take 8).map shaH)).flatMap (fun w => (leBytes 4 w.toNat).reverse)

/-! ### Measurement, attestation, bring-up (R414 to R416) -/

/-- Measure an image into a register. -/
def State.measure (s : State) (i : Nat) (image : List Byte) : State :=
  { s with meas := listMod s.meas i (fun m => sha256 (m ++ sha256 image)) }

/-- A quote without its signature. -/
def State.quoteBody (s : State) (nonce : List Byte) : List Byte :=
  leBytes 4 1 ++ leBytes 2 s.pkgId ++ leBytes 2 0 ++ leBytes 8 Config.fwver.toNat ++ (List.range 16).map Config.serialByte ++ nonce
    ++ s.meas.flatten ++ leBytes 8 s.tick

/-- ABAVO_ATTESTATION_REQUEST. -/
def State.attest (s : State) (nonce : List Byte) : State :=
  if nonce.length != 32 then s
  else
    let q := s.quoteBody nonce
    s.report (.quote (q ++ (List.range 7856).map (Config.sigByte q)))

/-- Whether an image may run: its signature verifies and its version is at least the rollback counter (R413). -/
def Stage.mayRun (g : Stage) : Bool := g.verified && decide (Config.fwver.toNat ≤ g.version)

/-- The stages that run: each is verified by the one before it, the first by the boot ROM, and one that may not run ends the chain
(R413, R416). -/
def runStages (l : List Stage) : List Stage := l.takeWhile Stage.mayRun

/-- Whether bring-up has what it takes: readings of every sensor, and the failed bonds of every segment of every bus. -/
def bringUpOk (temps stackTemps : List Int) (bonds : List (List Nat)) : Bool :=
  readingsOk temps stackTemps && bonds.length = 32 && bonds.all (fun l => l.length = 32)

/-- POWER_ON: every field as after reset, the sensors sampled once before any core runs, the buses trained by firmware, and the stages that run
measured: the first into MEAS0, each later one onward (R402, R405, R416). Where the first stage may not run, no firmware trains a bus, and the
boot core comes to nothing and halts (log 41). -/
def State.powerUp (s : State) (temps stackTemps : List Int) (bonds : List (List Nat)) (stages : List Stage) : State :=
  if !(bringUpOk temps stackTemps bonds) then s
  else
    let s1 := { State.reset with agenda := s.agenda, rot := s.rot }
    let s2 := temps.zipIdx.foldl (fun t e => t.modGov e.2 (fun g => { g with temp := e.1 })) s1
    let s3 : State := { s2 with tstk := stackTemps }
    let run := runStages stages
    if run.isEmpty then s3.modCc 0 (fun x => { x with run := .haltedReset })
    else run.zipIdx.foldl (fun t e => t.measure (min e.2 7) e.1.image) (bonds.zipIdx.foldl (fun t e => t.trained e.2 e.1) s3)

def execVbusRetrainDue (col : Nat) (s : State) : Out State := .next (s.onCol col (fun t => t.retrainDue col))
def execVbusRetrainForce (col : Nat) (s : State) : Out State := .next (s.onCol col (fun t => t.retrainForce col))
def execVbusRetrainEnd (col : Nat) (failed : List Nat) (s : State) : Out State := .next (s.onCol col (fun t => t.retrainEnd col failed))
def execVbusBeatFail (col : Nat) (beat : BeatFailure) (s : State) : Out State := .next (s.onCol col (fun t => t.beatFail col beat))
def execMatrixSelfTest (core : Nat) (failing : BitVec 4) (s : State) : Out State := .next (s.onCore core (fun t => t.selfTest core failing))
def execPoolUncorrectableError (core grp : Nat) (s : State) : Out State := .next (s.poolError core grp)
def execSectorPoison (place : PoisonPlace) (s : State) : Out State := .next (s.poisonSector place)
def execChannelRetire (stack ch : Nat) (s : State) : Out State := .next (s.retireChannel stack ch)
def execSpareCopyDone (stack ch : Nat) (s : State) : Out State := .next (s.copyDone stack ch)
def execPowerOn (temps stackTemps : List Int) (bonds : List (List Nat)) (stages : List Stage) (s : State) : Out State :=
  .next (s.powerUp temps stackTemps bonds stages)
def execAbavoAttestationRequest (nonce : List Byte) (s : State) : Out State := .next (s.attest nonce)

end Sys2Proof.Machine
end

