-- ==== Sys2Proof/Machine/HostEvents.lean ====
section
/-! DEFINITION. Accesses of the host and commands over Abavo (R230, R234, R299, R308, R419). -/

namespace Sys2Proof.Machine

/-- Whether any byte of a range lies under a system lock of the package (R308). -/
def State.rangeHeld (s : State) (pa n : Nat) : Bool := (List.range n).any (fun i => s.frameLocked 0 (pa + i))

/-- Whether any byte of a range is reserved or in far memory. -/
def State.rangeRefused (s : State) (pa n : Nat) : Bool :=
  (List.range n).any (fun i => isReservedPa (pa + i) || isFar (pa + i) || s.channelGone (pa + i))

/-- The range of a host access. -/
def HostAcc.range : HostAcc → Nat × Nat
  | .read pa n => (pa, n)
  | .write pa bs => (pa, bs.length)

/-- A host access that cannot be performed: answered with an error, or discarded and reported (R419). -/
def State.hostRefuse (s : State) : HostAcc → Option State
  | .read pa n => if s.rangeRefused pa n then some (s.report (.hostUnsupported pa)) else none
  | .write pa bs =>
    if s.rangeRefused pa bs.length || (!(bs.isEmpty) && copyStore .store pa bs.length) then some (s.report (.hostWriteDropped pa)) else none

/-- A host access performed at the home. -/
def State.hostPerform (s : State) : HostAcc → State
  | .read pa n => match s.homeRead pa n false with
    | .data bs _ [] => s.report (.hostData pa bs)
    | _ => s.report (.hostPoisoned pa)
  | .write pa bs => s.homePieces pa bs none

/-- A host access arrives: it is refused, held while a system lock covers a byte of it, or performed. -/
def State.hostAccess (s : State) (a : HostAcc) : State :=
  match s.hostRefuse a with
  | some t => t
  | none => if s.rangeHeld a.range.1 a.range.2 then { s with hostq := s.hostq ++ [a] } else s.hostPerform a

/-- Held host accesses that no lock covers any more are performed, in order of arrival (R308, R419). -/
def State.hostRelease (s : State) : State :=
  s.hostq.foldl (fun t a =>
    if t.rangeHeld a.range.1 a.range.2 then { t with hostq := t.hostq ++ [a] } else t.hostPerform a) { s with hostq := [] }

def execHostRead (pa len : Nat) (s : State) : Out State := .next (s.hostAccess (.read pa len))
def execHostWrite (pa : Nat) (bytes : List Byte) (s : State) : Out State := .next (s.hostAccess (.write pa bytes))
/-- ABAVO_RESUME (R230): `start` as the command carries it. -/
def execAbavoResume (col : Nat) (start : D64) (s : State) : Out State := .next (s.onCol col (fun t => t.resumeCore col start))
def execAbavoMessage (col : Nat) (s : State) : Out State := .next (s.onCol col (fun t => t.latchEvent col 5))

end Sys2Proof.Machine
end

