-- ==== Sys2Proof/Machine/Integer.lean ====
section
/-! DEFINITION. Integer, logic, predicate and short forms (R111 to R131). -/

namespace Sys2Proof.Machine

/-! ### Shapes of meanings -/

/-- D := g MODX A B. -/
def alu2 (g : Nat → W → W → W) : RowFn := fun r f _ ls lv => .ok (setD lv f (g f.modx.toNat (srcA ls lv f) (srcB r ls lv f))) 0
/-- D := g MODX A. -/
def alu1 (g : Nat → W → W) : RowFn := fun _ f _ ls lv => .ok (setD lv f (g f.modx.toNat (srcA ls lv f))) 0
/-- D := g MODX A B C. -/
def alu3 (g : Nat → W → W → W → W) : RowFn := fun r f _ ls lv =>
  .ok (setD lv f (g f.modx.toNat (srcA ls lv f) (srcB r ls lv f) (srcC lv f))) 0
/-- D pair := g MODX A B with pairs A and B. -/
def alu2p (g : Nat → D64 → D64 → D64) : RowFn := fun r f _ ls lv =>
  .ok (setD64 lv f (g f.modx.toNat (srcA64 ls lv f) (srcB64 r ls lv f))) 0
/-- D pair := g MODX A B with 32-bit A and B. -/
def aluW (g : Nat → W → W → D64) : RowFn := fun r f _ ls lv =>
  .ok (setD64 lv f (g f.modx.toNat (srcA ls lv f) (srcB r ls lv f))) 0
/-- kD := g kA kB. -/
def predFn (g : Bool → Bool → Bool) : RowFn := fun _ f _ _ lv => .ok (setK lv f (g (fieldPred lv f.a) (fieldPred lv f.b))) 0

/-! ### Values (R113 to R127) -/

/-- rd(x): signed under MODX 1, else unsigned (R113). -/
def rdInt {n : Nat} (m : Nat) (x : BitVec n) : Int := if m = 1 then x.toInt else x.toNat
/-- wrap, sat_s or sat_z of an exact value by MODX (R113). -/
def narrow (n m : Nat) (v : Int) : BitVec n :=
  if m = 0 then BitVec.ofInt n v
  else if m = 1 then BitVec.ofInt n (max (-(2 ^ (n - 1) : Int)) (min v (2 ^ (n - 1) - 1)))
  else BitVec.ofInt n (max 0 (min v (2 ^ n - 1)))

def iaddVal {n : Nat} (m : Nat) (a b : BitVec n) : BitVec n := narrow n m (rdInt m a + rdInt m b)
def isubVal {n : Nat} (m : Nat) (a b : BitVec n) : BitVec n := narrow n m (rdInt m a - rdInt m b)
def imadVal (m : Nat) (a b c : W) : W := narrow 32 m (rdInt m a * rdInt m b + rdInt m c)
/-- ext: sext for MODX 0, zext for MODX 1 (R114, R115, R117). -/
def extInt (m : Nat) (x : W) : Int := if m = 0 then x.toInt else x.toNat
def imulwVal (m : Nat) (a b : W) : D64 := BitVec.ofInt 64 (extInt m a * extInt m b)
def imulVal (_ : Nat) (a b : W) : W := a * b
def imulhiVal (m : Nat) (a b : W) : W := hiWord (imulwVal m a b)
def iminVal (m : Nat) (a b : W) : W := if extInt m a ≤ extInt m b then a else b
def imaxVal (m : Nat) (a b : W) : W := if extInt m a ≤ extInt m b then b else a
def iabsVal (m : Nat) (a : W) : W := narrow 32 (min m 1) (if a.toInt < 0 then -a.toInt else a.toInt)
def inegVal (m : Nat) (a : W) : W := narrow 32 (min m 1) (-a.toInt)
/-- R116. -/
def icsubVal (m : Nat) (a b : W) : W := if rdInt m b ≤ rdInt m a then BitVec.ofInt 32 (rdInt m a - rdInt m b) else a
/-- Quotient toward zero; B = 0 gives all ones (R117). -/
def idivVal (m : Nat) (a b : W) : W := if b = 0 then 0xFFFFFFFF else BitVec.ofInt 32 ((extInt m a).tdiv (extInt m b))
def iremVal (m : Nat) (a b : W) : W :=
  if b = 0 then a else BitVec.ofInt 32 (extInt m a - extInt m b * (extInt m a).tdiv (extInt m b))

def andVal (_ : Nat) (a b : W) : W := a &&& b
def orVal (_ : Nat) (a b : W) : W := a ||| b
def xorVal (_ : Nat) (a b : W) : W := a ^^^ b
def andnVal (_ : Nat) (a b : W) : W := a &&& ~~~b
/-- Counts of 32 or more shift everything out (R118). -/
def shlVal (_ : Nat) (a b : W) : W := if b.toNat < 32 then a <<< b.toNat else 0
def shrVal (_ : Nat) (a b : W) : W := if b.toNat < 32 then a >>> b.toNat else 0
def sarVal (_ : Nat) (a b : W) : W := a.sshiftRight (min b.toNat 31)
/-- {A, A}[63 − r : 32 − r] (R118). -/
def rotlVal (_ : Nat) (a b : W) : W := (a ++ a).extractLsb' (32 - b.toNat % 32) 32
/-- Funnel shift of {A, B} (R119). -/
def shfVal (m : Nat) (a b c : W) : W :=
  if m = 0 then ((a ++ b) <<< (c.toNat % 32)).extractLsb' 32 32 else ((a ++ b) >>> (c.toNat % 32)).extractLsb' 0 32
/-- Leading zero bits of the n lowest bits (R120). -/
def clzNat : Nat → Nat → Nat
  | 0, _ => 0
  | n + 1, v => if v.testBit n then 0 else 1 + clzNat n v
def clzVal (_ : Nat) (a : W) : W := BitVec.ofNat 32 (clzNat 32 a.toNat)
def popcVal (_ : Nat) (a : W) : W := BitVec.ofNat 32 (popNat 32 a.toNat)
/-- D[i] := A[31 − i] (R120). -/
def brevVal (_ : Nat) (a : W) : W := a.reverse
/-- POS and WIDTH of LIT (R54, R121). -/
def fieldPos (f : Fields) : Nat := fieldOf (litNat f) 4 0
def fieldWidth (f : Fields) : Nat := min (fieldOf (litNat f) 13 8) (32 - fieldPos f)
/-- The w bits of a value, zero- or sign-extended. -/
def extract (m pos w : Nat) (a : W) : W :=
  if w = 0 then 0
  else if m = 0 then BitVec.ofNat 32 (fieldOf a.toNat (pos + w - 1) pos)
  else (a <<< (32 - pos - w)).sshiftRight (32 - w)
def bfeVal (f : Fields) (m : Nat) (a : W) : W := extract m (fieldPos f) (fieldWidth f) a
/-- B with bits [POS + w − 1 : POS] replaced by A[w − 1 : 0] (R121). -/
def bfiVal (f : Fields) (_ : Nat) (a b : W) : W :=
  let mask : W := BitVec.ofNat 32 ((2 ^ fieldWidth f - 1) * 2 ^ fieldPos f)
  (b &&& ~~~mask) ||| ((a <<< fieldPos f) &&& mask)
/-- Byte n of D from SELn (R54, R122). -/
def bpermVal (f : Fields) (_ : Nat) (a b : W) : W :=
  let byte := fun (n : Nat) =>
    let s := fieldOf (litNat f) (4 * n + 3) (4 * n)
    if s < 4 then fieldOf a.toNat (8 * s + 7) (8 * s) else if s < 8 then fieldOf b.toNat (8 * (s - 4) + 7) (8 * (s - 4)) else 0
  BitVec.ofNat 32 (byte 0 + 256 * byte 1 + 65536 * byte 2 + 16777216 * byte 3)
/-- The conditions of R123. -/
def icmpVal (m : Nat) (a b : W) : Bool :=
  match m with
  | 0 => a == b
  | 1 => a != b
  | 2 => a.toInt < b.toInt
  | 3 => a.toInt ≤ b.toInt
  | 4 => b.toInt < a.toInt
  | 5 => b.toInt ≤ a.toInt
  | 6 => a.toNat < b.toNat
  | 7 => a.toNat ≤ b.toNat
  | 8 => b.toNat < a.toNat
  | _ => b.toNat ≤ a.toNat
/-- A + ext(B) × 2^shift (R125). -/
def leaVal (m : Nat) (a : D64) (b : W) : D64 :=
  BitVec.ofInt 64 ((a.toNat : Int) + (if bitOf m 3 then b.toInt else (b.toNat : Int)) * 2 ^ (m % 8))
/-- Clamp to the range of the target type (R127). -/
def icvtVal (m : Nat) (a : W) : W :=
  let r : Int × Int := match m with
    | 0 => (-128, 127)
    | 1 => (0, 255)
    | 2 => (-8, 7)
    | 3 => (0, 15)
    | 4 => (-32768, 32767)
    | _ => (0, 65535)
  BitVec.ofInt 32 (max r.1 (min a.toInt r.2))

/-! ### Meanings: arithmetic and logic -/

def execIadd (f : Fields) (s : State) : Out State := .next (runRow (.iadd f) (alu2 iaddVal) s)
def execIaddLit (f : Fields) (s : State) : Out State := .next (runRow (.iaddLit f) (alu2 iaddVal) s)
def execIsub (f : Fields) (s : State) : Out State := .next (runRow (.isub f) (alu2 isubVal) s)
def execIsubLit (f : Fields) (s : State) : Out State := .next (runRow (.isubLit f) (alu2 isubVal) s)
def execImul (f : Fields) (s : State) : Out State := .next (runRow (.imul f) (alu2 imulVal) s)
def execImulLit (f : Fields) (s : State) : Out State := .next (runRow (.imulLit f) (alu2 imulVal) s)
def execImulhi (f : Fields) (s : State) : Out State := .next (runRow (.imulhi f) (alu2 imulhiVal) s)
def execImulhiLit (f : Fields) (s : State) : Out State := .next (runRow (.imulhiLit f) (alu2 imulhiVal) s)
def execImad (f : Fields) (s : State) : Out State := .next (runRow (.imad f) (alu3 imadVal) s)
def execIadd64 (f : Fields) (s : State) : Out State := .next (runRow (.iadd64 f) (alu2p iaddVal) s)
def execIadd64Lit (f : Fields) (s : State) : Out State := .next (runRow (.iadd64Lit f) (alu2p iaddVal) s)
def execIsub64 (f : Fields) (s : State) : Out State := .next (runRow (.isub64 f) (alu2p isubVal) s)
def execIsub64Lit (f : Fields) (s : State) : Out State := .next (runRow (.isub64Lit f) (alu2p isubVal) s)
def execImulw (f : Fields) (s : State) : Out State := .next (runRow (.imulw f) (aluW imulwVal) s)
def execImulwLit (f : Fields) (s : State) : Out State := .next (runRow (.imulwLit f) (aluW imulwVal) s)
def execImin (f : Fields) (s : State) : Out State := .next (runRow (.imin f) (alu2 iminVal) s)
def execIminLit (f : Fields) (s : State) : Out State := .next (runRow (.iminLit f) (alu2 iminVal) s)
def execImax (f : Fields) (s : State) : Out State := .next (runRow (.imax f) (alu2 imaxVal) s)
def execImaxLit (f : Fields) (s : State) : Out State := .next (runRow (.imaxLit f) (alu2 imaxVal) s)
def execIabs (f : Fields) (s : State) : Out State := .next (runRow (.iabs f) (alu1 iabsVal) s)
def execIneg (f : Fields) (s : State) : Out State := .next (runRow (.ineg f) (alu1 inegVal) s)
def execIand (f : Fields) (s : State) : Out State := .next (runRow (.iand f) (alu2 andVal) s)
def execIandLit (f : Fields) (s : State) : Out State := .next (runRow (.iandLit f) (alu2 andVal) s)
def execIor (f : Fields) (s : State) : Out State := .next (runRow (.ior f) (alu2 orVal) s)
def execIorLit (f : Fields) (s : State) : Out State := .next (runRow (.iorLit f) (alu2 orVal) s)
def execIxor (f : Fields) (s : State) : Out State := .next (runRow (.ixor f) (alu2 xorVal) s)
def execIxorLit (f : Fields) (s : State) : Out State := .next (runRow (.ixorLit f) (alu2 xorVal) s)
def execIandn (f : Fields) (s : State) : Out State := .next (runRow (.iandn f) (alu2 andnVal) s)
def execIandnLit (f : Fields) (s : State) : Out State := .next (runRow (.iandnLit f) (alu2 andnVal) s)
def execShl (f : Fields) (s : State) : Out State := .next (runRow (.shl f) (alu2 shlVal) s)
def execShlLit (f : Fields) (s : State) : Out State := .next (runRow (.shlLit f) (alu2 shlVal) s)
def execShr (f : Fields) (s : State) : Out State := .next (runRow (.shr f) (alu2 shrVal) s)
def execShrLit (f : Fields) (s : State) : Out State := .next (runRow (.shrLit f) (alu2 shrVal) s)
def execSar (f : Fields) (s : State) : Out State := .next (runRow (.sar f) (alu2 sarVal) s)
def execSarLit (f : Fields) (s : State) : Out State := .next (runRow (.sarLit f) (alu2 sarVal) s)
def execRotl (f : Fields) (s : State) : Out State := .next (runRow (.rotl f) (alu2 rotlVal) s)
def execRotlLit (f : Fields) (s : State) : Out State := .next (runRow (.rotlLit f) (alu2 rotlVal) s)
def execShf (f : Fields) (s : State) : Out State := .next (runRow (.shf f) (alu3 shfVal) s)
def execClz (f : Fields) (s : State) : Out State := .next (runRow (.clz f) (alu1 clzVal) s)
def execPopc (f : Fields) (s : State) : Out State := .next (runRow (.popc f) (alu1 popcVal) s)
def execBrev (f : Fields) (s : State) : Out State := .next (runRow (.brev f) (alu1 brevVal) s)
def execBfe (f : Fields) (s : State) : Out State := .next (runRow (.bfe f) (alu1 (bfeVal f)) s)
def execBfi (f : Fields) (s : State) : Out State := .next (runRow (.bfi f) (alu2 (bfiVal f)) s)
def execBperm (f : Fields) (s : State) : Out State := .next (runRow (.bperm f) (alu2 (bpermVal f)) s)
def execIcvt (f : Fields) (s : State) : Out State := .next (runRow (.icvt f) (alu1 icvtVal) s)
def execIcsub (f : Fields) (s : State) : Out State := .next (runRow (.icsub f) (alu2 icsubVal) s)
def execIcsubLit (f : Fields) (s : State) : Out State := .next (runRow (.icsubLit f) (alu2 icsubVal) s)
def execIdiv (f : Fields) (s : State) : Out State := .next (runRow (.idiv f) (alu2 idivVal) s)
def execIdivLit (f : Fields) (s : State) : Out State := .next (runRow (.idivLit f) (alu2 idivVal) s)
def execIrem (f : Fields) (s : State) : Out State := .next (runRow (.irem f) (alu2 iremVal) s)
def execIremLit (f : Fields) (s : State) : Out State := .next (runRow (.iremLit f) (alu2 iremVal) s)

/-! ### Compare, select, address and move (R123 to R126) -/

/-- kD := the condition (R123). -/
def icmpFn : RowFn := fun r f _ ls lv => .ok (setK lv f (icmpVal f.modx.toNat (srcA ls lv f) (srcB r ls lv f))) 0
/-- D := A or B by the predicate MODX[2:0] names (R124). -/
def selFn : RowFn := fun r f _ ls lv =>
  .ok (setD lv f (if getPred lv.k (f.modx.toNat % 8) then srcA ls lv f else srcB r ls lv f)) 0
/-- R125. -/
def leaFn : RowFn := fun r f _ ls lv => .ok (setD64 lv f (leaVal f.modx.toNat (srcA64 ls lv f) (srcB r ls lv f))) 0
/-- R126. -/
def moviFn : RowFn := fun _ f _ _ lv =>
  let l := f.lit.getD 0
  .ok (if f.modx = 0 then setD lv f l else if f.modx = 1 then setD64 lv f (l.signExtend 64) else setD64 lv f (l.zeroExtend 64)) 0

def execIcmp (f : Fields) (s : State) : Out State := .next (runRow (.icmp f) icmpFn s)
def execIcmpLit (f : Fields) (s : State) : Out State := .next (runRow (.icmpLit f) icmpFn s)
def execSel (f : Fields) (s : State) : Out State := .next (runRow (.sel f) selFn s)
def execSelLit (f : Fields) (s : State) : Out State := .next (runRow (.selLit f) selFn s)
def execLea (f : Fields) (s : State) : Out State := .next (runRow (.lea f) leaFn s)
def execLeaLit (f : Fields) (s : State) : Out State := .next (runRow (.leaLit f) leaFn s)
def execMovi (f : Fields) (s : State) : Out State := .next (runRow (.movi f) moviFn s)

/-! ### Register indirection (R128) -/

/-- The holding of the group the issuing deal belongs to. -/
def issueHolding (s : State) : Nat :=
  match s.cur with
  | .deal n slot => match (s.deal? n slot).bind (fun d => s.grp? n d.grp) with
    | some g => s.holding g
    | none => 0
  | .col _ => 0
/-- D := v[A], with A below the holding (R128). -/
def virdFn (h : Nat) : RowFn := fun _ f e ls lv =>
  let n := (srcA ls lv f).toNat
  if h ≤ n then .fail (e.fault 2 0) else .ok (setD lv f (getReg lv.v n)) 0
/-- v[A] := B, with A below the holding (R128). -/
def viwrFn (h : Nat) : RowFn := fun r f e ls lv =>
  let n := (srcA ls lv f).toNat
  if h ≤ n then .fail (e.fault 2 0) else .ok { lv with v := setReg lv.v n (srcB r ls lv f) } 0

def execVird (f : Fields) (s : State) : Out State := .next (runRow (.vird f) (virdFn (issueHolding s)) s)
def execViwr (f : Fields) (s : State) : Out State := .next (runRow (.viwr f) (viwrFn (issueHolding s)) s)

/-! ### Predicates (R131) -/

def execKand (f : Fields) (s : State) : Out State := .next (runRow (.kand f) (predFn (fun a b => a && b)) s)
def execKor (f : Fields) (s : State) : Out State := .next (runRow (.kor f) (predFn (fun a b => a || b)) s)
def execKxor (f : Fields) (s : State) : Out State := .next (runRow (.kxor f) (predFn (fun a b => a != b)) s)
def execKandn (f : Fields) (s : State) : Out State := .next (runRow (.kandn f) (predFn (fun a b => a && !b)) s)
def execKmov (f : Fields) (s : State) : Out State := .next (runRow (.kmov f) (predFn (fun a _ => a)) s)
/-- kD := A ≠ 0. -/
def kmovRegFn : RowFn := fun _ f _ ls lv => .ok (setK lv f (srcA ls lv f != 0)) 0
def execKmovReg (f : Fields) (s : State) : Out State := .next (runRow (.kmovReg f) kmovRegFn s)
/-- D := 1, or all ones under `.m`, if kA, else 0. -/
def ktovFn : RowFn := fun _ f _ _ lv => .ok (setD lv f (if fieldPred lv f.a then (if f.modx = 0 then 1 else 0xFFFFFFFF) else 0)) 0
def execKtov (f : Fields) (s : State) : Out State := .next (runRow (.ktov f) ktovFn s)

/-! ### Short forms and reserved words (R68, R69, R130) -/

def execNop (f : ShortFields) (s : State) : Out State := .next (runShort 0 f id s)
def execMov (f : ShortFields) (s : State) : Out State :=
  .next (runShort 1 f (fun lv => lv.write f.dS f.d.toNat (lv.read f.aS f.a.toNat)) s)
def execInot (f : ShortFields) (s : State) : Out State :=
  .next (runShort 2 f (fun lv => lv.write f.dS f.d.toNat (~~~(lv.read f.aS f.a.toNat))) s)
def execMovsi (f : ShortFields) (s : State) : Out State :=
  .next (runShort 3 f (fun lv => lv.write f.dS f.d.toNat (f.a.signExtend 32)) s)

/-- A reserved opcode is illegal with reason 1: for every dealt lane of a short form, for every active lane of a long one
(R50, R58, R68, R69). -/
def reservedRun (w : ReservedWord) (s : State) : State :=
  match issueCtx s with
  | none => s
  | some (e, ls) =>
    let fail := fun (lv : LaneView) => if lv.helper then LRes.ok lv 0 else .fail (e.illegal 1)
    match w with
    | .short _ _ => s.commit e (ls.map (fun lv => (lv, fail lv))) 1
    | .long _ f =>
      if !(ls.any (laneActive f)) then s.advance e.who (wordsOf f)
      else s.commit e (ls.map (fun lv => (lv, if laneActive f lv then fail lv else .idle))) (wordsOf f)
def execReservedOpcode (w : ReservedWord) (s : State) : Out State := .next (reservedRun w s)

end Sys2Proof.Machine
end

