-- ==== Sys2Proof/Machine/Terminators.lean ====
section
/-! DEFINITION. Terminators (R55, R56, R132 to R138). -/

namespace Sys2Proof.Machine

/-! ### Targets (R55, R56) -/

/-- h + 4 × sext(T, 24). -/
def targetOf (h : D64) (t : BitVec 24) : D64 := h + 4 * t.signExtend 64
/-- The block that follows a block. -/
def followOf (h hdr : D64) : D64 := h + BitVec.ofNat 64 (8 + 4 * hdrLen hdr)
/-- The pair of `brx` and `call`. -/
def termPair (f : TermFields) : Bool × Nat := (f.tb.getLsbD 13, (f.tb.extractLsb' 14 10).toNat)

/-- What a terminator does for a thread, or for a whole group in a scalar block. -/
inductive Path where
  | enter (addr : D64) (mask : BitVec 12) (lv : LaneView)
  | retire
  | fail (f : FaultInfo)
  deriving Inhabited

/-- The path of each terminator (R133, R134), from the registers as they stand. -/
def termPath (op : Nat) (f : TermFields) (e : Env) (hdr : D64) (lv : LaneView) : Path :=
  let p := termPair f
  match op with
  | 0x070 => .enter (targetOf e.addr f.ta) 0 lv
  | 0x071 =>
    if getPred lv.k (f.cond.toNat % 8) != f.cond.getLsbD 3 then .enter (targetOf e.addr f.ta) 0 lv
    else .enter (if f.tb = 0 then followOf e.addr hdr else targetOf e.addr f.tb) 0 lv
  | 0x072 =>
    if !(operandOk e (.src true) p.1 p.2) then .fail (e.illegal 4)
    else
      let a := lv.read64 p.1 p.2
      if a.toNat % 4 ≠ 0 then .fail (e.illegal 9) else .enter a 0 lv
  | 0x073 =>
    if !(operandOk e (.dst true) p.1 p.2) then .fail (e.illegal 4)
    else .enter (targetOf e.addr f.ta) 0 (lv.write64 p.1 p.2 (followOf e.addr hdr))
  | 0x075 => .enter (targetOf e.addr f.ta) (f.tb.extractLsb' 12 12) lv
  | 0x076 => .fail { e.fault 8 (f.tb.toNat % 65536) with next := targetOf e.addr f.ta }
  | _ => .retire

/-! ### A column core (R135) -/

/-- Go to a block: it is fetched next; the flags of the block join `fstat` (R38). -/
def ColCore.goto (x : ColCore) (addr : D64) : ColCore :=
  { x with addr := addr, body := none, pos := 0, q := [], fstat := x.fstat ||| flagsWord x.acc, acc := 0 }

def State.termCol (s : State) (c op : Nat) (f : TermFields) (e : Env) (lv : LaneView) : State :=
  if op = 0x075 then s.colFault c e (e.illegal 2)
  else if op = 0x074 then s.takeTrap c 24 0 e.addr 0 0
  else match termPath op f e (s.cc c).hdr lv with
    | .enter a _ out => s.modCc c (fun x => { x with s := out.s, k := out.k }.goto a)
    | .retire => s
    | .fail i => if op = 0x076 then s.takeTrap c 8 i.code e.addr i.next 0 else s.colFault c e i

/-! ### Threads and groups of an array core -/

/-- The trick is over; the deal is when its last trick is. -/
def Deal.finishTrick (d : Deal) : Deal :=
  match d.todo with
  | t :: r => { d with trick := t, todo := r }
  | [] => { d with trick := 0, done := true }

def State.finishTrick (s : State) (n slot : Nat) : State :=
  match s.deal? n slot with
  | some d => s.setDeal n slot (some d.finishTrick)
  | none => s

/-- Whether a thread enters a hand. -/
def Path.enters : Path → Bool
  | .enter _ _ _ => true
  | _ => false

/-- One thread passes its terminator. -/
def State.takePath (s : State) (n g : Nat) (t : Nat) (p : Path) : State :=
  match p with
  | .enter a m lv => (s.modThr n g t (fun x => { x with v := lv.v, k := lv.k })).enterHand n g t a m
  | .retire => s.retireThread n g t
  | .fail _ => s

/-- The terminator of a trick of threads (R133): members of a unit with a fault park together; every other thread goes its way,
in ascending order. -/
def State.termThreads (s : State) (n slot : Nat) (d : Deal) (e : Env) (ps : List (LaneView × Path)) : State :=
  let res := ps.map (fun p => (p.1, match p.2 with
    | .fail i => if p.1.helper then LRes.idle else .fail i
    | _ => LRes.idle))
  let size := e.unit
  let units := ((res.filter (fun p => p.2.isFail)).map (fun p => p.1.tidx / size)).eraseDups
  let going := ps.filter (fun p => !p.1.helper && !(units.contains (p.1.tidx / size)))
  let s1 := going.foldl (fun t p => t.takePath n d.grp p.1.tidx p.2) s
  let s2 := s1.parkLanes n slot d.grp e size res
  (if going.any (fun p => p.2.enters) then s2.splitTest n d.grp else s2).finishTrick n slot

/-- The terminator of a group-scalar block (R134). -/
def State.termGroup (s : State) (n slot : Nat) (d : Deal) (p : Path) : State :=
  match p, s.grp? n d.grp with
  | .fail i, _ => s.stopScalar n slot d i
  | .enter a m lv, some x =>
    let s1 := s.modGrp n d.grp (fun y => { y with s := lv.s, k := lv.k, q := [], scalar := .idle })
    ((x.live.foldl (fun t e => t.enterHand n d.grp e.1 a m) s1).splitTest n d.grp).finishTrick n slot
  | .retire, some x =>
    let s1 := s.modGrp n d.grp (fun y => { y with q := [], scalar := .idle })
    (x.live.foldl (fun t e => t.retireThread n d.grp e.1) s1).finishTrick n slot
  | _, none => s

/-- Run a terminator. Every dealt lane executes it (R132). -/
def runTerm (op : Nat) (f : TermFields) (s : State) : State :=
  match issueCtx s with
  | none => s
  | some (e, ls) =>
    match e.who with
    | .col c => match ls with
      | lv :: _ => s.termCol c op f e lv
      | [] => s
    | .deal n slot =>
      match s.deal? n slot with
      | none => s
      | some d =>
        if e.kind = 2 then
          match ls with
          | lv :: _ => s.termGroup n slot d (termPath op f e d.hdr lv)
          | [] => s
        else s.termThreads n slot d e (ls.map (fun lv => (lv, termPath op f e d.hdr lv)))

def execBr (f : TermFields) (s : State) : Out State := .next (runTerm 0x070 f s)
def execBrc (f : TermFields) (s : State) : Out State := .next (runTerm 0x071 f s)
def execBrx (f : TermFields) (s : State) : Out State := .next (runTerm 0x072 f s)
def execCall (f : TermFields) (s : State) : Out State := .next (runTerm 0x073 f s)
def execExit (f : TermFields) (s : State) : Out State := .next (runTerm 0x074 f s)
def execPark (f : TermFields) (s : State) : Out State := .next (runTerm 0x075 f s)
def execTrap (f : TermFields) (s : State) : Out State := .next (runTerm 0x076 f s)

end Sys2Proof.Machine
end

