-- ==== Sys2Proof/Machine/Dispatch.lean ====
section
/-! DEFINITION. One arm per constructor of `Instr`: the meaning of each instruction and event. -/

namespace Sys2Proof.Machine

/-- The meaning of an instruction or event, for the agent `cur` of the state (R32, R39). -/
def exec (i : Instr) (s : State) : Host.Outcome State Fault Refusal :=
  match i with
  | .iadd f => Sys2Proof.Machine.execIadd f s
  | .iaddLit f => Sys2Proof.Machine.execIaddLit f s
  | .isub f => Sys2Proof.Machine.execIsub f s
  | .isubLit f => Sys2Proof.Machine.execIsubLit f s
  | .imul f => Sys2Proof.Machine.execImul f s
  | .imulLit f => Sys2Proof.Machine.execImulLit f s
  | .imulhi f => Sys2Proof.Machine.execImulhi f s
  | .imulhiLit f => Sys2Proof.Machine.execImulhiLit f s
  | .imad f => Sys2Proof.Machine.execImad f s
  | .iadd64 f => Sys2Proof.Machine.execIadd64 f s
  | .iadd64Lit f => Sys2Proof.Machine.execIadd64Lit f s
  | .isub64 f => Sys2Proof.Machine.execIsub64 f s
  | .isub64Lit f => Sys2Proof.Machine.execIsub64Lit f s
  | .imulw f => Sys2Proof.Machine.execImulw f s
  | .imulwLit f => Sys2Proof.Machine.execImulwLit f s
  | .imin f => Sys2Proof.Machine.execImin f s
  | .iminLit f => Sys2Proof.Machine.execIminLit f s
  | .imax f => Sys2Proof.Machine.execImax f s
  | .imaxLit f => Sys2Proof.Machine.execImaxLit f s
  | .iabs f => Sys2Proof.Machine.execIabs f s
  | .ineg f => Sys2Proof.Machine.execIneg f s
  | .iand f => Sys2Proof.Machine.execIand f s
  | .iandLit f => Sys2Proof.Machine.execIandLit f s
  | .ior f => Sys2Proof.Machine.execIor f s
  | .iorLit f => Sys2Proof.Machine.execIorLit f s
  | .ixor f => Sys2Proof.Machine.execIxor f s
  | .ixorLit f => Sys2Proof.Machine.execIxorLit f s
  | .iandn f => Sys2Proof.Machine.execIandn f s
  | .iandnLit f => Sys2Proof.Machine.execIandnLit f s
  | .shl f => Sys2Proof.Machine.execShl f s
  | .shlLit f => Sys2Proof.Machine.execShlLit f s
  | .shr f => Sys2Proof.Machine.execShr f s
  | .shrLit f => Sys2Proof.Machine.execShrLit f s
  | .sar f => Sys2Proof.Machine.execSar f s
  | .sarLit f => Sys2Proof.Machine.execSarLit f s
  | .rotl f => Sys2Proof.Machine.execRotl f s
  | .rotlLit f => Sys2Proof.Machine.execRotlLit f s
  | .shf f => Sys2Proof.Machine.execShf f s
  | .clz f => Sys2Proof.Machine.execClz f s
  | .popc f => Sys2Proof.Machine.execPopc f s
  | .brev f => Sys2Proof.Machine.execBrev f s
  | .bfe f => Sys2Proof.Machine.execBfe f s
  | .bfi f => Sys2Proof.Machine.execBfi f s
  | .icmp f => Sys2Proof.Machine.execIcmp f s
  | .icmpLit f => Sys2Proof.Machine.execIcmpLit f s
  | .sel f => Sys2Proof.Machine.execSel f s
  | .selLit f => Sys2Proof.Machine.execSelLit f s
  | .lea f => Sys2Proof.Machine.execLea f s
  | .leaLit f => Sys2Proof.Machine.execLeaLit f s
  | .movi f => Sys2Proof.Machine.execMovi f s
  | .icsub f => Sys2Proof.Machine.execIcsub f s
  | .icsubLit f => Sys2Proof.Machine.execIcsubLit f s
  | .idiv f => Sys2Proof.Machine.execIdiv f s
  | .idivLit f => Sys2Proof.Machine.execIdivLit f s
  | .irem f => Sys2Proof.Machine.execIrem f s
  | .iremLit f => Sys2Proof.Machine.execIremLit f s
  | .bperm f => Sys2Proof.Machine.execBperm f s
  | .icvt f => Sys2Proof.Machine.execIcvt f s
  | .vird f => Sys2Proof.Machine.execVird f s
  | .viwr f => Sys2Proof.Machine.execViwr f s
  | .kand f => Sys2Proof.Machine.execKand f s
  | .kor f => Sys2Proof.Machine.execKor f s
  | .kxor f => Sys2Proof.Machine.execKxor f s
  | .kandn f => Sys2Proof.Machine.execKandn f s
  | .kmov f => Sys2Proof.Machine.execKmov f s
  | .kmovReg f => Sys2Proof.Machine.execKmovReg f s
  | .ktov f => Sys2Proof.Machine.execKtov f s
  | .fadd f => Sys2Proof.Machine.execFadd f s
  | .faddLit f => Sys2Proof.Machine.execFaddLit f s
  | .fsub f => Sys2Proof.Machine.execFsub f s
  | .fsubLit f => Sys2Proof.Machine.execFsubLit f s
  | .fmul f => Sys2Proof.Machine.execFmul f s
  | .fmulLit f => Sys2Proof.Machine.execFmulLit f s
  | .ffma f => Sys2Proof.Machine.execFfma f s
  | .fmin f => Sys2Proof.Machine.execFmin f s
  | .fminLit f => Sys2Proof.Machine.execFminLit f s
  | .fmax f => Sys2Proof.Machine.execFmax f s
  | .fmaxLit f => Sys2Proof.Machine.execFmaxLit f s
  | .fcmp f => Sys2Proof.Machine.execFcmp f s
  | .fcmpLit f => Sys2Proof.Machine.execFcmpLit f s
  | .fcls f => Sys2Proof.Machine.execFcls f s
  | .fscale f => Sys2Proof.Machine.execFscale f s
  | .fscaleLit f => Sys2Proof.Machine.execFscaleLit f s
  | .frnd f => Sys2Proof.Machine.execFrnd f s
  | .frcp f => Sys2Proof.Machine.execFrcp f s
  | .fsqrt f => Sys2Proof.Machine.execFsqrt f s
  | .frsqrt f => Sys2Proof.Machine.execFrsqrt f s
  | .fexp2 f => Sys2Proof.Machine.execFexp2 f s
  | .flog2 f => Sys2Proof.Machine.execFlog2 f s
  | .cvt f => Sys2Proof.Machine.execCvt f s
  | .pcvt f => Sys2Proof.Machine.execPcvt f s
  | .upk f => Sys2Proof.Machine.execUpk f s
  | .padd4 f => Sys2Proof.Machine.execPadd4 f s
  | .padd4Lit f => Sys2Proof.Machine.execPadd4Lit f s
  | .pmul4 f => Sys2Proof.Machine.execPmul4 f s
  | .pmul4Lit f => Sys2Proof.Machine.execPmul4Lit f s
  | .hfma2 f => Sys2Proof.Machine.execHfma2 f s
  | .dot2 f => Sys2Proof.Machine.execDot2 f s
  | .dot4 f => Sys2Proof.Machine.execDot4 f s
  | .dot8 f => Sys2Proof.Machine.execDot8 f s
  | .xmov f => Sys2Proof.Machine.execXmov f s
  | .qswz f => Sys2Proof.Machine.execQswz f s
  | .vote f => Sys2Proof.Machine.execVote f s
  | .cred f => Sys2Proof.Machine.execCred f s
  | .cscan f => Sys2Proof.Machine.execCscan f s
  | .csegred f => Sys2Proof.Machine.execCsegred f s
  | .cfirst f => Sys2Proof.Machine.execCfirst f s
  | .xsel f => Sys2Proof.Machine.execXsel f s
  | .cperm f => Sys2Proof.Machine.execCperm f s
  | .ld f => Sys2Proof.Machine.execLd f s
  | .ldMem f => Sys2Proof.Machine.execLdMem f s
  | .st f => Sys2Proof.Machine.execSt f s
  | .stMem f => Sys2Proof.Machine.execStMem f s
  | .lds f => Sys2Proof.Machine.execLds f s
  | .ldsMem f => Sys2Proof.Machine.execLdsMem f s
  | .sts f => Sys2Proof.Machine.execSts f s
  | .stsMem f => Sys2Proof.Machine.execStsMem f s
  | .ldc f => Sys2Proof.Machine.execLdc f s
  | .ldcMem f => Sys2Proof.Machine.execLdcMem f s
  | .stc f => Sys2Proof.Machine.execStc f s
  | .stcMem f => Sys2Proof.Machine.execStcMem f s
  | .lda f => Sys2Proof.Machine.execLda f s
  | .strl f => Sys2Proof.Machine.execStrl f s
  | .atom f => Sys2Proof.Machine.execAtom f s
  | .atomc f => Sys2Proof.Machine.execAtomc f s
  | .atoms f => Sys2Proof.Machine.execAtoms f s
  | .meld f => Sys2Proof.Machine.execMeld f s
  | .fence f => Sys2Proof.Machine.execFence f s
  | .cwb f => Sys2Proof.Machine.execCwb f s
  | .cinv f => Sys2Proof.Machine.execCinv f s
  | .pref f => Sys2Proof.Machine.execPref f s
  | .prefMem f => Sys2Proof.Machine.execPrefMem f s
  | .macq f => Sys2Proof.Machine.execMacq f s
  | .mrel f => Sys2Proof.Machine.execMrel f s
  | .mres f => Sys2Proof.Machine.execMres f s
  | .mresLit f => Sys2Proof.Machine.execMresLit f s
  | .mstg f => Sys2Proof.Machine.execMstg f s
  | .mma f => Sys2Proof.Machine.execMma f s
  | .mzro f => Sys2Proof.Machine.execMzro f s
  | .mrd f => Sys2Proof.Machine.execMrd f s
  | .cpy f => Sys2Proof.Machine.execCpy f s
  | .cpyLit f => Sys2Proof.Machine.execCpyLit f s
  | .cpy2 f => Sys2Proof.Machine.execCpy2 f s
  | .cpy2Lit f => Sys2Proof.Machine.execCpy2Lit f s
  | .cpyg f => Sys2Proof.Machine.execCpyg f s
  | .cpygLit f => Sys2Proof.Machine.execCpygLit f s
  | .cpyr f => Sys2Proof.Machine.execCpyr f s
  | .cpyrLit f => Sys2Proof.Machine.execCpyrLit f s
  | .potarm f => Sys2Proof.Machine.execPotarm f s
  | .potarmLit f => Sys2Proof.Machine.execPotarmLit f s
  | .fwrb f => Sys2Proof.Machine.execFwrb f s
  | .fwrbLit f => Sys2Proof.Machine.execFwrbLit f s
  | .frdb f => Sys2Proof.Machine.execFrdb f s
  | .frdbLit f => Sys2Proof.Machine.execFrdbLit f s
  | .spawn f => Sys2Proof.Machine.execSpawn f s
  | .tstat f => Sys2Proof.Machine.execTstat f s
  | .gbarGang f => Sys2Proof.Machine.execGbarGang f s
  | .gbarGrid f => Sys2Proof.Machine.execGbarGrid f s
  | .rxacq f => Sys2Proof.Machine.execRxacq f s
  | .rxrel f => Sys2Proof.Machine.execRxrel f s
  | .zacq f => Sys2Proof.Machine.execZacq f s
  | .zrel f => Sys2Proof.Machine.execZrel f s
  | .setfm f => Sys2Proof.Machine.execSetfm f s
  | .setfmLit f => Sys2Proof.Machine.execSetfmLit f s
  | .getsr f => Sys2Proof.Machine.execGetsr f s
  | .tick f => Sys2Proof.Machine.execTick f s
  | .cyc f => Sys2Proof.Machine.execCyc f s
  | .fsetSet f => Sys2Proof.Machine.execFsetSet f s
  | .fsetSetLit f => Sys2Proof.Machine.execFsetSetLit f s
  | .fsetClr f => Sys2Proof.Machine.execFsetClr f s
  | .fsetClrLit f => Sys2Proof.Machine.execFsetClrLit f s
  | .sysrd f => Sys2Proof.Machine.execSysrd f s
  | .sysrdLit f => Sys2Proof.Machine.execSysrdLit f s
  | .syswr f => Sys2Proof.Machine.execSyswr f s
  | .syswrLit f => Sys2Proof.Machine.execSyswrLit f s
  | .tret f => Sys2Proof.Machine.execTret f s
  | .ecall f => Sys2Proof.Machine.execEcall f s
  | .wfe f => Sys2Proof.Machine.execWfe f s
  | .tlbiAll f => Sys2Proof.Machine.execTlbiAll f s
  | .tlbiAsid f => Sys2Proof.Machine.execTlbiAsid f s
  | .tlbiAsidLit f => Sys2Proof.Machine.execTlbiAsidLit f s
  | .tlbiPage f => Sys2Proof.Machine.execTlbiPage f s
  | .tlbiPageLit f => Sys2Proof.Machine.execTlbiPageLit f s
  | .swpgMv f => Sys2Proof.Machine.execSwpgMv f s
  | .swpgXch f => Sys2Proof.Machine.execSwpgXch f s
  | .mscfWb f => Sys2Proof.Machine.execMscfWb f s
  | .mscfWbi f => Sys2Proof.Machine.execMscfWbi f s
  | .gsave f => Sys2Proof.Machine.execGsave f s
  | .grest f => Sys2Proof.Machine.execGrest f s
  | .fqpop f => Sys2Proof.Machine.execFqpop f s
  | .kresRetry f => Sys2Proof.Machine.execKresRetry f s
  | .brk f => Sys2Proof.Machine.execBrk f s
  | .halt f => Sys2Proof.Machine.execHalt f s
  | .rsmGoWrite f => Sys2Proof.Machine.execRsmGoWrite f s
  | .calDataRead f => Sys2Proof.Machine.execCalDataRead f s
  | .swallowColWrite f => Sys2Proof.Machine.execSwallowColWrite f s
  | .thrEventsWrite f => Sys2Proof.Machine.execThrEventsWrite f s
  | .evpendWrite f => Sys2Proof.Machine.execEvpendWrite f s
  | .polDealWrite f => Sys2Proof.Machine.execPolDealWrite f s
  | .kresContinue f => Sys2Proof.Machine.execKresContinue f s
  | .kresRetire f => Sys2Proof.Machine.execKresRetire f s
  | .br f => Sys2Proof.Machine.execBr f s
  | .brc f => Sys2Proof.Machine.execBrc f s
  | .brx f => Sys2Proof.Machine.execBrx f s
  | .call f => Sys2Proof.Machine.execCall f s
  | .exit f => Sys2Proof.Machine.execExit f s
  | .park f => Sys2Proof.Machine.execPark f s
  | .trap f => Sys2Proof.Machine.execTrap f s
  | .nop f => Sys2Proof.Machine.execNop f s
  | .mov f => Sys2Proof.Machine.execMov f s
  | .inot f => Sys2Proof.Machine.execInot f s
  | .movsi f => Sys2Proof.Machine.execMovsi f s
  | .reservedOpcode w => Sys2Proof.Machine.execReservedOpcode w s
  | .pageWalkComplete col => Sys2Proof.Machine.execPageWalkComplete col s
  | .loadComplete iss => Sys2Proof.Machine.execLoadComplete iss s
  | .gbarClusterRelease n => Sys2Proof.Machine.execGbarClusterRelease n s
  | .holdingGrant core => Sys2Proof.Machine.execHoldingGrant core s
  | .engineCommandBegin core id => Sys2Proof.Machine.execEngineCommandBegin core id s
  | .engineCommandComplete core id => Sys2Proof.Machine.execEngineCommandComplete core id s
  | .engineCommandSuspend core id => Sys2Proof.Machine.execEngineCommandSuspend core id s
  | .engineError core id => Sys2Proof.Machine.execEngineError core id s
  | .matrixOwnershipGrant core => Sys2Proof.Machine.execMatrixOwnershipGrant core s
  | .eventTrap col => Sys2Proof.Machine.execEventTrap col s
  | .swapTakeUp col => Sys2Proof.Machine.execSwapTakeUp col s
  | .swapDone col => Sys2Proof.Machine.execSwapDone col s
  | .faultRecordPost col => Sys2Proof.Machine.execFaultRecordPost col s
  | .deal core => Sys2Proof.Machine.execDeal core s
  | .returnDeal core => Sys2Proof.Machine.execReturnDeal core s
  | .dealEnd core slot => Sys2Proof.Machine.execDealEnd core slot s
  | .deckRescan core => Sys2Proof.Machine.execDeckRescan core s
  | .scalarContextResume core => Sys2Proof.Machine.execScalarContextResume core s
  | .groupRetire core grp => Sys2Proof.Machine.execGroupRetire core grp s
  | .taskFormer core grp => Sys2Proof.Machine.execTaskFormer core grp s
  | .quietReport inst => Sys2Proof.Machine.execQuietReport inst s
  | .launchGo col ctx => Sys2Proof.Machine.execLaunchGo col ctx s
  | .chainedGo inst => Sys2Proof.Machine.execChainedGo inst s
  | .groupAdmission => Sys2Proof.Machine.execGroupAdmission s
  | .groupRestore => Sys2Proof.Machine.execGroupRestore s
  | .instanceComplete inst => Sys2Proof.Machine.execInstanceComplete inst s
  | .remoteRequest => Sys2Proof.Machine.execRemoteRequest s
  | .remoteResponse => Sys2Proof.Machine.execRemoteResponse s
  | .patternBoundary col => Sys2Proof.Machine.execPatternBoundary col s
  | .saveComplete => Sys2Proof.Machine.execSaveComplete s
  | .engineRouteTimeout core id => Sys2Proof.Machine.execEngineRouteTimeout core id s
  | .tickcmpMatch col => Sys2Proof.Machine.execTickcmpMatch col s
  | .activeSetIdleSwap core => Sys2Proof.Machine.execActiveSetIdleSwap core s
  | .activeSetStarvationSwap core => Sys2Proof.Machine.execActiveSetStarvationSwap core s
  | .anteDue core grp => Sys2Proof.Machine.execAnteDue core grp s
  | .preempt => Sys2Proof.Machine.execPreempt s
  | .owedWordArrival tag => Sys2Proof.Machine.execOwedWordArrival tag s
  | .hostRead pa len => Sys2Proof.Machine.execHostRead pa len s
  | .hostWrite pa bytes => Sys2Proof.Machine.execHostWrite pa bytes s
  | .abavoResume col start => Sys2Proof.Machine.execAbavoResume col start s
  | .abavoMessage col => Sys2Proof.Machine.execAbavoMessage col s
  | .abavoAttestationRequest nonce => Sys2Proof.Machine.execAbavoAttestationRequest nonce s
  | .abavoCalendarRewrite epoch entries => Sys2Proof.Machine.execAbavoCalendarRewrite epoch entries s
  | .calendarSwitch => Sys2Proof.Machine.execCalendarSwitch s
  | .abavoPkgIdWrite v => Sys2Proof.Machine.execAbavoPkgIdWrite v s
  | .abavoTrecWrite a => Sys2Proof.Machine.execAbavoTrecWrite a s
  | .slotBoundary => Sys2Proof.Machine.execSlotBoundary s
  | .openingFlit port bytes => Sys2Proof.Machine.execOpeningFlit port bytes s
  | .planeLost port => Sys2Proof.Machine.execPlaneLost port s
  | .dataFlit port flit => Sys2Proof.Machine.execDataFlit port flit s
  | .tagRetirement src tag => Sys2Proof.Machine.execTagRetirement src tag s
  | .tagRetireTimeout dst => Sys2Proof.Machine.execTagRetireTimeout dst s
  | .powerEpoch p => Sys2Proof.Machine.execPowerEpoch p s
  | .pllRelockDone die => Sys2Proof.Machine.execPllRelockDone die s
  | .governorInterval col read => Sys2Proof.Machine.execGovernorInterval col read s
  | .temperatureSample cols stackTemps => Sys2Proof.Machine.execTemperatureSample cols stackTemps s
  | .thermalTrip => Sys2Proof.Machine.execThermalTrip s
  | .droopDetect col detector => Sys2Proof.Machine.execDroopDetect col detector s
  | .droopHoldExpiry col => Sys2Proof.Machine.execDroopHoldExpiry col s
  | .signatureCheck col w => Sys2Proof.Machine.execSignatureCheck col w s
  | .signatureHoldExpiry col => Sys2Proof.Machine.execSignatureHoldExpiry col s
  | .voltageStep die mv => Sys2Proof.Machine.execVoltageStep die mv s
  | .vbusRetrainDue col => Sys2Proof.Machine.execVbusRetrainDue col s
  | .vbusRetrainForce col => Sys2Proof.Machine.execVbusRetrainForce col s
  | .vbusRetrainEnd col failed => Sys2Proof.Machine.execVbusRetrainEnd col failed s
  | .vbusBeatFail col beat => Sys2Proof.Machine.execVbusBeatFail col beat s
  | .matrixSelfTest core failing => Sys2Proof.Machine.execMatrixSelfTest core failing s
  | .poolUncorrectableError core grp => Sys2Proof.Machine.execPoolUncorrectableError core grp s
  | .sectorPoison place => Sys2Proof.Machine.execSectorPoison place s
  | .channelRetire stack ch => Sys2Proof.Machine.execChannelRetire stack ch s
  | .spareCopyDone stack ch => Sys2Proof.Machine.execSpareCopyDone stack ch s
  | .powerOn temps stackTemps bonds stages => Sys2Proof.Machine.execPowerOn temps stackTemps bonds stages s

end Sys2Proof.Machine
end

