-- ==== Sys2Proof/Machine/Issue.lean ====
section
/-! DEFINITION. What a turn of the agenda comes to: the next instruction of an issuing agent, a block boundary of a column
core, hidden activity of caches, and the default order of turns when none is given (R32, R43, R228; logs 1, 9, 10). -/

namespace Sys2Proof.Machine

/-! ### Case rows -/

/-- The operand B of a word of a row, as the issuing agent's one lane reads it. -/
def issueB (s : State) (r : Row) (f : Fields) : Nat :=
  match issueCtx s with
  | some (_, lv :: ls) => (srcB r (lv :: ls) lv f).toNat
  | _ => 0

/-- The row of the opcode table that describes an instruction: a write or read of some system registers and two actions of
`kres` have rows of their own (R230, R233, R234, R241). -/
def resolveRow (s : State) (i : Instr) : Instr :=
  match i with
  | .sysrd f | .sysrdLit f => if f.modx = 0 && issueB s ⟨0x1C0, .either, .lit, .c, .lt 1, .sysrd, .none, 0⟩ f = 0x071 then .calDataRead f else i
  | .syswr f | .syswrLit f =>
    let n := issueB s ⟨0x1C1, .either, .lit, .c, .lt 1, .syswr, .none, 0⟩ f
    if n = 0x043 then .rsmGoWrite f else if n = 0x050 then .swallowColWrite f else if n = 0x051 then .thrEventsWrite f
    else if n = 0x080 then .evpendWrite f else if n = 0x040 then .polDealWrite f else i
  | .kresRetry f =>
    let b := issueB s ⟨0x1CB, .short, .plain, .c, .lt 1, .alu2, .none, 1⟩ f
    if b = 1 then .kresContinue f else if b = 2 then .kresRetire f else i
  | _ => i

/-! ### The next instruction -/

/-- What an issuing agent comes to: nothing; an instruction to run; or a step already complete (a failed fetch). -/
inductive Issue where
  | nothing
  | run (i : Instr) (s : State)
  | complete (s : State)
  deriving DecidableEq, Repr

/-- Whether an event trap is due at a block boundary of a column core (R228). -/
def State.eventDue (s : State) (c : Nat) : Bool :=
  let x := s.cc c
  x.run = .running && x.body.isNone && (x.priv = 0 || x.priv = 1) && x.eie && (s.evpend c &&& (s.col c).evmask) != 0

/-- A column core about to fetch a block fetches and checks it; a failure is a trap (R43, R225, R226). At a start address that is no block
header the trap is taken with `tvec_m` at its reset value (R230). -/
def State.colFetch (s : State) (c : Nat) : Issue :=
  let x := s.cc c
  let xl := s.colXlate c x.priv
  match s.fetchBlock c xl true x.addr with
  | .ok h body =>
    let s1 := (s.fetchNote xl x.addr (8 + 4 * body.length)).modCc c (fun y => y.begin h body)
    match bodyInstr body 0 with
    | some i => .run (resolveRow s1 i) s1
    | none => .complete s1
  | .wait => .nothing
  | .badFormat =>
    let t := if x.fetch = .start then s.modCc c (fun y => { y with trapM := { y.trapM with vec := 0 } }) else s
    .complete (t.takeTrap c 18 0 x.addr x.addr 0)
  | .fail cause code va => .complete (s.takeTrap c cause code x.addr x.addr va)

/-- The next instruction of an issuing agent. -/
def State.nextOf (s0 : State) (who : Issuer) : Issue :=
  let s := { s0 with cur := who }
  match who with
  | .col c =>
    let x := s.cc c
    match x.run, x.body with
    | .running, some body =>
      (match bodyInstr body x.pos with
        | some i => .run (resolveRow s i) s
        | none => .nothing)
    | .running, none =>
      if x.fetch = .handler then .complete (s.fetchHandler c 2) else if s.eventDue c then .run (.eventTrap c) s else s.colFetch c
    | _, _ => .nothing
  | .deal n slot =>
    match s.deal? n slot with
    | none => .nothing
    | some d =>
      if d.done then .nothing
      else if d.blocked then .complete (s.passOver who)
      else match bodyInstr d.body d.pos with
        | some i => .run (resolveRow s i) s
        | none => .nothing

/-! ### Hidden activity (logs 9, 10) -/

/-- Hidden activity. -/
def State.hidden (s : State) (h : Hidden) : State :=
  match h with
  | .dropL1 n sec => s.dropL1 (coreColumn n) (coreInCol n) sec
  | .holdBlock n sec => if isRemote (32 * sec) || isWindow (32 * sec) || s.viewPoison (coreColumn n) (32 * sec) then s
    else s.modCore n (fun x => { x with blocks := cachePut x.blocks sec (placeBytes 0 (s.viewBytes (coreColumn n) (32 * sec) 32)).1 })
  | .dropBlock n sec => s.modCore n (fun x => { x with blocks := mapErase x.blocks sec })
  | .dropColL1 c sec => s.dropL1 c 12 sec
  | .evictSlice c sec => s.evict c sec
  | .dropTlb n k => s.modCore n (fun x => { x with
      dtlb := listDrop x.dtlb k, ftlb := if k < x.dtlb.length then x.ftlb else listDrop x.ftlb (k - x.dtlb.length) })
  | .dropColTlb c k => s.modCc c (fun x => { x with tlb := listDrop x.tlb k })
  | .dropWalkerTlb c k => s.modCol c (fun y => { y with wtlb := listDrop y.wtlb k })
  | .mscClean d line => s.modDie d (fun x => x.mscClean line)
  | .mscDrop d line => s.modDie d (fun x => x.mscDrop line)
  | .eccCorrected c => s.modGov c (fun g => { g with eccCorr := min (g.eccCorr + 1) (2 ^ 32 - 1) })

/-! ### The default order of turns (log 1) -/

/-- What may be next in a column. -/
def colActs (e : Nat × Column) : List Act :=
  let c := e.1
  let y := e.2
  (if y.core.run = .running then [Act.issue (.col c)] else [])
    ++ (if y.core.wait.isSome then [.event (.loadComplete (.col c))] else [])
    ++ (if y.walks.any (fun w => w.failed == none) then [.event (.pageWalkComplete c)] else [])
    ++ (if y.fqWait.isEmpty then [] else [.event (.faultRecordPost c)])
    ++ (if y.swaps.isEmpty then [] else [.event (.swapTakeUp c), .event (.swapDone c)])
    ++ (if y.gov.patAt.isSome then [.event (.patternBoundary c)] else [])

/-- What may be next in a deal slot. -/
def dealActs (n slot : Nat) : Option Deal → List Act
  | none => []
  | some d =>
    if d.done then [.event (.dealEnd n slot)]
    else .issue (.deal n slot) :: (if d.pend.isEmpty then [] else [.event (.loadComplete (.deal n slot))])

/-- What may be next on an array core. -/
def coreActs (e : Nat × ACore) : List Act :=
  let n := e.1
  let x := e.2
  dealActs n 0 x.deal0 ++ dealActs n 1 x.deal1
    ++ (if x.groups.isEmpty then [] else [Act.event (.scalarContextResume n), .event (.deckRescan n), .event (.deal n), .event (.returnDeal n),
          .event (.matrixOwnershipGrant n)])
    ++ (x.copyq ++ x.matrix.cmds).flatMap (fun q => [Act.event (.engineCommandBegin n q.id), .event (.engineCommandComplete n q.id),
          .event (.engineCommandSuspend n q.id), .event (.engineError n q.id)])
    ++ (if x.groups.isEmpty then [] else [Act.event (.activeSetIdleSwap n), .event (.activeSetStarvationSwap n)])
    ++ x.groups.flatMap (fun g => [Act.event (.taskFormer n g.1), .event (.groupRetire n g.1), .event (.anteDue n g.1)])

/-- What may be next for the launch engine and the fabric. -/
def packageActs (s : State) : List Act :=
  (if s.insts.isEmpty then [] else [Act.event .groupAdmission, .event .saveComplete, .event .groupRestore])
    ++ s.insts.flatMap (fun e => [Act.event (.chainedGo e.1), .event (.quietReport e.1), .event (.instanceComplete e.1),
        .event (.gbarClusterRelease e.1)])
    ++ (if s.fabric.inq.isEmpty then [] else [.event .remoteRequest])
    ++ (if s.fabric.respq.isEmpty then [] else [.event .remoteResponse])

/-- Everything that may be next, in a fixed order. -/
def State.candidates (s : State) : List Act :=
  s.cols.flatMap colActs ++ s.cores.flatMap coreActs ++ packageActs s

/-- The next turn: the head of the agenda, or the next candidate in rotation one tick later. -/
def State.nextTurn (s : State) : Option Turn × State :=
  match s.agenda with
  | t :: rest => (some t, { s with agenda := rest, tick := s.tick + t.dt })
  | [] =>
    let l := s.candidates
    ((l[s.rot % l.length]?).map (fun a => ⟨1, a⟩), { s with rot := s.rot + 1, tick := s.tick + 1 })

/-! ### Placing an instruction where the next fetch reads it -/

/-- Where the byte at an address is fetched from by the column core of column 0; the address itself where translation fails. -/
def State.fetchPlace (s : State) (va : Nat) : Nat :=
  match s.colXlate 0 (s.cc 0).priv with
  | .physical _ => va
  | .tables u asid root _ =>
    match s.translateNow u asid root va with
    | .leaf e size => s.placeOf e size va
    | .fail _ => va

/-- Store bytes at a home and drop the copies the column's fetch would read instead. -/
def State.placeBytesAt (s : State) (k : Nat) : List Byte → State
  | [] => s
  | b :: r =>
    let s1 := (s.dropSlice 0 (k / 32)).setHomeByte k b
    { s1 with poison := s1.poison.filter (· != k / 32) }.placeBytesAt (k + 1) r

/-- The header of a column-scalar block of n words (R45). -/
def colHeader (n : Nat) : D64 := BitVec.ofNat 64 (3 * 2 ^ 62 + n * 2 ^ 55 + 3 * 2 ^ 52 + 15 * 2 ^ 36 + 15 * 2 ^ 32)

/-- The words of a block whose first instruction is the given one: an `exit` follows it unless it ends the block itself. -/
def oneInstrBlock (words : List W) : List W :=
  match decode words with
  | .ok (i, rest) =>
    let mine := words.take (words.length - rest.length)
    if (termOf i).isSome then mine else mine ++ encodeTerm 0x074 ⟨0, 0, 0⟩
  | .error _ => words

/-- A block as bytes in memory: the header word with bits [63:32] first, then the body (R3, R45). -/
def blockBytes (h : D64) (body : List W) : List Byte := (hiWord h :: loWord h :: body).flatMap (fun w => leBytes 4 w.toNat)

end Sys2Proof.Machine
end

