-- ==== Sys2Proof/Machine/Watch.lean ====
section
/-! DEFINITION. What every moment brings of itself once a turn has been taken: GOs stored are taken in order, waiting holding requests are
granted, held accesses of the host are performed, the dealers and the termination detectors look (R252, R261, R268, R271, R308, R342, R383;
log 3). -/

namespace Sys2Proof.Machine

/-- A function repeated. -/
def iterate (f : State → State) : Nat → State → State
  | 0, s => s
  | n + 1, s => iterate f n (f s)

/-- The GOs of a window that have been stored are taken, in the order the arbiter saw them (R326, R329, R342). -/
def State.takeGos (s : State) (c ctx : Nat) : State := iterate (fun t => t.takeGo c ctx) (s.window c ctx).gos.length s

/-- The GOs of every window. -/
def State.takeAllGos (s : State) : State :=
  s.cols.foldl (fun t e => e.2.windows.foldl (fun u w => u.takeGos e.1 w.1) t) s

/-- The waiting holding requests that the free granules cover are granted, the context admitted first before the others (R271). -/
def State.grantHoldings (s : State) : State :=
  s.cores.foldl (fun t e => iterate (fun u => u.grantHolding e.1) (t.core e.1).holdWaiters.length t) s

/-- The dealers of the cores with groups and the termination detectors of the grids look. -/
def State.lookAll (s : State) : State :=
  let s1 := s.cores.foldl (fun t e => if e.2.groups.isEmpty then t else t.observe e.1) s
  s1.insts.foldl (fun t e => t.noteQuiet e.1 e.2) s1

/-- What follows a turn: messages that may leave now leave (R367). A tripped package performs nothing further (R399). -/
def State.watch (s : State) : State :=
  if s.tripped then s else s.takeAllGos.grantHoldings.hostRelease.lookAll.sendAll

/-- Whether a deal's turn issued an instruction for a trick: the deal has moved on; a trick that waits only changes the order of the others. -/
def State.issuedTrick (s t : State) (n slot : Nat) : Bool :=
  (s.deal? n slot).map (fun d => (d.pos, d.todo.length, d.done)) != (t.deal? n slot).map (fun d => (d.pos, d.todo.length, d.done))

/-- A trick that has issued counts toward the signatures of its column (R392). -/
def State.noteTrick (s t : State) : Issuer → State
  | .col _ => t
  | .deal n slot => if s.issuedTrick t n slot then t.noteIssue (coreColumn n) 1 1 else t

end Sys2Proof.Machine
end

