-- ==== Sys2Proof/Machine/Step.lean ====
section
/-! DEFINITION. One step of the machine: the next turn of the agenda, and what it comes to (logs 1, 3). -/

namespace Sys2Proof.Machine

/-- What an instruction's state comes to once it has answered. -/
def Out.after (f : State → State) : Host.Outcome State Fault Refusal → Host.Outcome State Fault Refusal
  | .next t => .next (f t)
  | other => other

/-- One turn: an agent issues its next instruction, an event occurs, or hidden activity happens. -/
def perform (a : Act) (s : State) : Host.Outcome State Fault Refusal :=
  match a with
  | .issue who =>
    match s.nextOf who with
    | .nothing => .next s
    | .run i t => Out.after (fun u => t.noteTrick u who) (exec i t)
    | .complete t => .next t
  | .event e => exec e s
  | .hidden h => .next (s.hidden h)

/-- Whether an act is the power coming up, the one thing a tripped package answers to (R399, R416). -/
def isPowerOn : Act → Bool
  | .event (.powerOn _ _ _ _) => true
  | _ => false

/-- One step: a turn, and what every moment brings (`State.watch`). -/
def step (s : State) : Host.Outcome State Fault Refusal :=
  match s.nextTurn with
  | (none, t) => if s.tripped then .fault .tripped else .next t.watch
  | (some turn, t) => if s.tripped && !(isPowerOn turn.act) then .fault .tripped else Out.after State.watch (perform turn.act t)

/-- The state with an instruction placed as the first of the block that the column core of column 0 fetches next, that core
running, and its turn next. -/
def State.withFetchWord (s : State) (nbits w : Nat) : State :=
  let body := oneInstrBlock (tableWords nbits w)
  let k := s.fetchPlace (s.cc 0).addr.toNat
  let s1 := s.placeBytesAt k (blockBytes (colHeader body.length) body)
  { s1.modCc 0 (fun x => { x with run := .running, fetch := .block, body := none, wait := none, tlbi := none }) with
    agenda := [⟨0, .issue (.col 0)⟩], tripped := false }

end Sys2Proof.Machine
end

