-- ==== Sys2Proof/WellFormed.lean ====
section
/-! DEFINITION. Which terms of `Instr` are instructions of a program (R48 to R69): those that have words of their own, whose
length, MODX and fixed fields are as their row says. The checks that depend on the block an instruction stands in are those
of `Machine.illegal` (R59). -/

namespace Sys2Proof

open Machine

/-- MODX is a value its row takes in some block (R60 to R67). -/
def modxStatic (m : ModxRule) (v : Nat) : Bool :=
  match m with
  | .lt n => v < n
  | .eq n => v = n
  | .lea => v % 8 < 5
  | .typ2 => v % 4 < 3
  | .cvt => v < 14
  | .upk => v < 8 && (3 < v || v % 2 = 0)
  | .stsz => v = 0 || v = 2 || v = 4 || v = 5
  | .meld => v < 9 || v = 10

/-- A long form as its row says: length, MODX, unused fields and LIT, SCOPE and ORDER (R51 to R57, R60 to R67, R175). -/
def longWf (r : Row) (f : Fields) : Bool :=
  lenOk r.len f && modxStatic r.modx f.modx.toNat && unusedOk r f && scopeOk r.mem (memScope f) (memOrder f)

/-- The rows of the table that name a case of another row's words: `sysrd`, `syswr` and `kres` with particular operands. -/
def isCaseRow (i : Instr) : Bool :=
  match i with
  | .rsmGoWrite _ | .calDataRead _ | .swallowColWrite _ | .thrEventsWrite _ | .evpendWrite _ | .polDealWrite _
  | .kresContinue _ | .kresRetire _ => true
  | _ => false

/-- A reserved word has an opcode that no row of its format takes (R62, R68, R69). -/
def reservedWf (w : ReservedWord) : Bool :=
  match w with
  | .short op _ => decide (4 ≤ op.toNat)
  | .long op _ => !(opTable.any (fun e => e.1 == op.toNat)) && !(0x070 ≤ op.toNat && op.toNat ≤ 0x076)

/-- The constructor has words that decode to it: not an event, not a case row; a length and a MODX that name this row and not
another row of its opcode. -/
def Instr.encodable (i : Instr) : Bool :=
  match i with
  | .reservedOpcode w => reservedWf w
  | .tlbiAll f => f.modx != 1 && f.modx != 2
  | .gbarGang f | .fsetSet f | .fsetSetLit f | .swpgMv f | .mscfWb f | .kmov f => f.modx != 1 && lenOf i f
  | _ =>
    !(isCaseRow i) &&
    match shortOf i, termOf i, rowOf i, fieldsOf i with
    | some _, _, _, _ => true
    | none, some _, _, _ => true
    | none, none, some r, some f => lenOk r.len f && (match r.modx with | .eq n => f.modx.toNat = n | _ => true)
    | _, _, _, _ => false
where
  /-- The length the row of a constructor takes. -/
  lenOf (i : Instr) (f : Fields) : Bool := match rowOf i with | some r => lenOk r.len f | none => false

/-- A well-formed instruction; a word of a reserved opcode has no fields to check (R69). -/
def Instr.wf (i : Instr) : Bool :=
  i.encodable &&
    match shortOf i, termOf i, rowOf i, fieldsOf i with
    | some (op, f), _, _, _ =>
      (op != 0 || (f.d = 0 && f.a = 0 && !f.dS && !f.aS)) && (op != 3 || !f.aS)
    | none, some (op, f), _, _ => termOk op f
    | none, none, some r, some f => longWf r f
    | _, _, _, _ => match i with | .reservedOpcode _ => true | _ => false

end Sys2Proof
end

