-- ==== Sys2Proof/Safety.lean ====
section
/-! DEFINITION. The terms in which claims speak of an instruction that issues with its own effect, of results lane by lane, and of accesses taken in turn. -/

namespace Sys2Proof.Machine

/-- Home memory holds its canonical form: addresses strictly rising, no entry equal to what an unlisted one reads as. -/
abbrev Memory.wf (m : List Host.Cell) : Prop := memCanon m = true

/-! ### An instruction that issues -/

/-- The instruction has the row and fields given, the issuing agent stands in a block with the environment and lanes given and waits for
nothing (R32), no reason of R59 applies, and some lane is active (R58). -/
structure Issues (i : Instr) (r : Row) (f : Fields) (s : State) (e : Env) (ls : List LaneView) : Prop where
  row : rowOf i = some r
  fields : fieldsOf i = some f
  ctx : issueCtx s = some (e, ls)
  legal : illegal r e f = none
  active : ls.any (laneActive f) = true

/-- The issuer of a column core's instruction: its one lane and its column. -/
structure OnColumn (e : Env) (ls : List LaneView) (c : Nat) (lv : LaneView) : Prop where
  who : e.who = .col c
  lane : ls = [lv]

/-! ### Results lane by lane -/

/-- Every active lane ends with the result given, every other does nothing (R50). -/
def laneRes (f : Fields) (ls : List LaneView) (res : LaneView → LRes) : List (LaneView × LRes) :=
  ls.map (fun lv => (lv, if laneActive f lv then res lv else .idle))

/-- Every active lane takes new registers and raises no flag. -/
def laneOut (f : Fields) (ls : List LaneView) (out : LaneView → LaneView) : List (LaneView × LRes) := laneRes f ls (fun lv => .ok (out lv) 0)

/-- The instructions of a constructor, wherever they issue with their own effect, complete, with the registers given for every active
lane. -/
def Sets (mk : Fields → Instr) (out : Row → Fields → Env → List LaneView → LaneView → LaneView) : Prop :=
  ∀ r f s e ls, Issues (mk f) r f s e ls →
    exec (mk f) s = .next (s.commit e (laneOut f ls (out r f e ls)) (wordsOf f))

/-- What an operation with IEEE flags comes to in a lane: a helper raises no flag (R35); a flag whose enable bit is set is a fault and
nothing is written (R93, R139); otherwise the result and its flags. -/
def floatRes (e : Env) (lv out : LaneView) (fl : FFlags) : LRes :=
  if lv.helper then .ok out 0
  else if fl &&& fmEnables e.fmode = 0 then .ok out fl
  else .fail ⟨7, 0, e.pc, 0, 0, fl, 0⟩

/-- The same for instructions that compute a result with flags. -/
def SetsF (mk : Fields → Instr) (out : Row → Fields → Env → List LaneView → LaneView → LaneView × FFlags) : Prop :=
  ∀ r f s e ls, Issues (mk f) r f s e ls →
    exec (mk f) s = .next (s.commit e (laneRes f ls (fun lv => floatRes e lv (out r f e ls lv).1 (out r f e ls lv).2)) (wordsOf f))

/-- Where no enable bit of `fmode` is set, the instructions of a constructor complete with the result in every active lane (R93, R139). -/
def Completes (mk : Fields → Instr) (out : Row → Fields → Env → List LaneView → LaneView → LaneView × FFlags) : Prop :=
  ∀ r f s e ls, Issues (mk f) r f s e ls → fmEnables e.fmode = 0 →
    exec (mk f) s = .next (s.commit e (laneRes f ls (fun lv => .ok (out r f e ls lv).1 (if lv.helper then 0 else (out r f e ls lv).2))) (wordsOf f))

/-! ### Floating point over the reals -/

/-- The formats of R86. -/
def Fmt.all : List Fmt := [fmtF32, fmtF16, fmtBf16, fmtE4m3, fmtE5m2]
/-- The number a finite datum stands for; 0 for the others. -/
def Datum.val : Datum → Rat
  | .fin neg m e _ => (if neg then -1 else 1) * m * 2 ^ e
  | _ => 0
/-- A number: neither a NaN nor an infinity. -/
def Datum.isNum (d : Datum) : Prop := d.isNan = false ∧ d.isInf = false
/-- −1 for −∞, 1 for +∞, 0 for a number. -/
def Datum.rank : Datum → Int
  | .inf neg => if neg then -1 else 1
  | _ => 0
/-- The order of data that are no NaN; the two zeros are equal. -/
def Datum.Less (a b : Datum) : Prop := a.rank < b.rank ∨ (a.rank = b.rank ∧ a.val < b.val)
/-- The largest finite value of a format (R86). -/
def Fmt.maxFinite (F : Fmt) : Rat := (fdec F F.maxBits false).val

/-- n is v rounded to an integer: nearest with ties to even, toward zero, up, down (R95). -/
def IsRint (mode : Nat) (v : ℝ) (n : Int) : Prop :=
  (mode = 0 → |v - n| ≤ 1 / 2 ∧ (|v - n| = 1 / 2 → n % 2 = 0))
  ∧ (mode = 1 → |(n : ℝ)| ≤ |v| ∧ |v| < |(n : ℝ)| + 1 ∧ 0 ≤ v * n)
  ∧ (mode = 2 → v ≤ n ∧ (n : ℝ) < v + 1)
  ∧ (mode = 3 → (n : ℝ) ≤ v ∧ v < n + 1)

/-- The bits and flags that deliver the nonzero real v (R95): with e the exponent of v, raised to the format's least, v is rounded once to a
multiple w of 2^(e − FB). -/
def IsRound (F : Fmt) (mode : Nat) (sat ftz : Bool) (v : ℝ) (o : Nat × FFlags) : Prop :=
  ∃ l n : Int, (2 : ℝ) ^ l ≤ |v| ∧ |v| < (2 : ℝ) ^ (l + 1) ∧
    let q : ℝ := (2 : ℝ) ^ (max l F.emin - F.fb)
    let w : ℝ := n * q
    IsRint mode (v / q) n
    ∧ ((F.maxFinite : ℝ) < |w| → o.2 = flOF ||| flNX ∧
        if F.e4m3 = true ∧ sat = false then o.1 = F.canon
        else ∃ neg, (neg = true ↔ v < 0) ∧ o.1 = F.withSign neg (
          if F.isFp8 then (if sat then F.maxBits else F.infBits)
          else if mode = 0 ∨ (mode = 2 ∧ neg = false) ∨ (mode = 3 ∧ neg = true) then F.infBits else F.maxBits))
    ∧ (|w| ≤ F.maxFinite →
      ((ftz = true ∧ n ≠ 0 ∧ |w| < (2 : ℝ) ^ F.emin) → o.2 = flUF ||| flNX ∧ ∃ neg, (neg = true ↔ v < 0) ∧ o.1 = F.withSign neg 0)
      ∧ (¬ (ftz = true ∧ n ≠ 0 ∧ |w| < (2 : ℝ) ^ F.emin) →
          o.1 < 2 ^ (F.signBit + 1)
          ∧ (o.2.getLsbD 0 = true ↔ w ≠ v) ∧ (o.2.getLsbD 1 = true ↔ w ≠ v ∧ |v| < (2 : ℝ) ^ F.emin) ∧ o.2.toNat < 4
          ∧ (n = 0 → ∃ neg, (neg = true ↔ v < 0) ∧ o.1 = F.withSign neg 0)
          ∧ (n ≠ 0 → (fdec F o.1 false).isNum ∧ ((fdec F o.1 false).val : ℝ) = w)))

/-- What `fres` delivers for a real (R94, R95): a zero of the sign given, without flags, for 0. -/
def Delivers (F : Fmt) (fm : W) (v : ℝ) (zneg : Bool) (o : Nat × FFlags) : Prop :=
  (v = 0 → o = (F.withSign zneg 0, 0)) ∧ (v ≠ 0 → IsRound F (rmode F fm) (fmSat8 fm) (fmFtz fm && !F.isFp8) v o)

/-- What `fres` delivers for an infinity (R95). -/
def Fmt.infRes (F : Fmt) (neg : Bool) : Nat × FFlags := if F.e4m3 then (F.canon, flNV) else (F.withSign neg F.infBits, 0)

/-! ### Values in the spec's words -/

namespace Spec

/-- wrap(v, n). -/
def wrap (n : Nat) (v : Int) : BitVec n := BitVec.ofInt n v
/-- sat_s(v, n). -/
def satS (n : Nat) (v : Int) : BitVec n :=
  if v < -(2 ^ (n - 1) : Int) then BitVec.ofInt n (-(2 ^ (n - 1) : Int))
  else if (2 ^ (n - 1) - 1 : Int) < v then BitVec.ofInt n (2 ^ (n - 1) - 1) else BitVec.ofInt n v
/-- sat_z(v, n). -/
def satZ (n : Nat) (v : Int) : BitVec n :=
  if v < 0 then 0 else if (2 ^ n - 1 : Int) < v then BitVec.ofInt n (2 ^ n - 1) else BitVec.ofInt n v
/-- The result of R113 from the exact value of the signed reading and of the unsigned one. -/
def addClass (n m : Nat) (signed unsigned : Int) : BitVec n :=
  if m = 0 then wrap n unsigned else if m = 1 then satS n signed else satZ n unsigned
/-- ext: sext for MODX 0, zext otherwise (R114, R115, R117). -/
def ext (m : Nat) (x : W) : Int := if m = 0 then x.toInt else x.toNat
/-- wrap(v, 32) under MODX 0, sat_s(v, 32) under `.ss` (R115). -/
def signClass (m : Nat) (v : Int) : W := if m = 0 then wrap 32 v else satS 32 v
/-- `idiv` (R117). -/
def quotient (m : Nat) (a b : W) : W := if b = 0 then 0xFFFFFFFF else wrap 32 ((ext m a).tdiv (ext m b))
/-- `irem` (R117). -/
def remainder (m : Nat) (a b : W) : W := if b = 0 then a else wrap 32 (ext m a - ext m b * (ext m a).tdiv (ext m b))
/-- `sar` (R118). -/
def sar (a b : W) : W := wrap 32 (a.toInt / 2 ^ (min b.toNat 31))
/-- `shf` (R119). -/
def shf (m : Nat) (a b c : W) : W :=
  let n := c.toNat % 32
  let ab := a.toNat * 2 ^ 32 + b.toNat
  if m = 0 then BitVec.ofNat 32 (ab * 2 ^ n % 2 ^ 64 / 2 ^ 32) else BitVec.ofNat 32 (ab / 2 ^ n)

end Spec

/-! ### Memory instructions -/

/-- The occupied lanes of a trick stand at positions of their own. -/
abbrev OwnPositions (ls : List LaneView) : Prop := (ls.map (·.pos)).Nodup
/-- The active lanes of threads, helpers left out: the lanes that store (R35). -/
def storing (f : Fields) (ls : List LaneView) : List LaneView := (ls.filter (laneActive f)).filter (fun lv => !lv.helper)
/-- The lanes that store complete and change no register; a helper's lane does nothing. -/
def laneStored (f : Fields) (ls : List LaneView) : List (LaneView × LRes) := laneRes f ls (fun lv => if lv.helper then .idle else .ok lv 0)

/-- Bytes each lane of a memory instruction accesses (R174, R187 to R191). -/
def accSize (r : Row) (f : Fields) : Nat :=
  if r.op = 0x108 ∨ r.op = 0x10A ∨ r.op = 0x10B then atomBytes f.modx.toNat
  else if r.op = 0x109 then (if f.modx = 1 then 8 else 4) else sizeBytes f.modx.toNat
/-- Whether a global form loads, stores, or does both at once. -/
def accKind (r : Row) : AccKind := if r.op = 0x100 ∨ r.op = 0x106 then .load else if r.op = 0x101 ∨ r.op = 0x107 then .store else .atomic
/-- The lanes whose accesses a global form performs: a load those of helpers too (R35). -/
def accLanes (r : Row) (f : Fields) (ls : List LaneView) : List LaneView := if accKind r = .load then ls.filter (laneActive f) else storing f ls
/-- What the checks of a lane's global access come to, at the address the model computes for it (R173, R177). -/
def accCheck (s : State) (r : Row) (f : Fields) (e : Env) (ls : List LaneView) (lv : LaneView) : AccRes :=
  s.checkForm (s.memCtx e) e (globalEa ls lv f) (accSize r f) (accKind r) (if accKind r = .atomic then some (memScope f) else strongScope f)
    (decide (r.mem = .lda ∨ r.mem = .strl ∨ accKind r = .atomic))
/-- A byte lies at a place that a lane's global access reaches. -/
def accReaches (s : State) (r : Row) (f : Fields) (e : Env) (ls : List LaneView) (a : Nat) : Prop :=
  ∃ lv ∈ accLanes r f ls, ∃ segs, accCheck s r f e ls lv = .segs segs ∧ ∃ g ∈ segs, g.place ≤ a ∧ a < g.place + g.len

/-- The segments of each lane are loaded in turn, lane after lane; what a lane's parts bring arrives at once and is the bytes given. -/
def LoadsInTurn (u : MemUnit) (order : Nat) (scope : Option Nat) (alloc : Bool) (segs : LaneView → List Seg) (bytes : LaneView → List Byte) :
    State → List LaneView → State → Prop
  | s, [], t => t = s
  | s, lv :: r, t => gather 0 (s.loadSegs u (segs lv) order scope alloc).1 = .bytes (bytes lv)
      ∧ LoadsInTurn u order scope alloc segs bytes (s.loadSegs u (segs lv) order scope alloc).2 r t

/-- Atomics at local places are performed in turn, lane after lane, each reading the old value given (R190). -/
def AtomsInTurn (u : MemUnit) (scope : Nat) (rel : LaneView → Option Nat) (act : LaneView → AtomDo) (place old : LaneView → Nat) :
    State → List LaneView → State → Prop
  | s, [], t => t = s
  | s, lv :: r, t => (s.localAtomic u (place lv) (act lv).n scope (rel lv) (act lv).op).1 = old lv
      ∧ AtomsInTurn u scope rel act place old (s.localAtomic u (place lv) (act lv).n scope (rel lv) (act lv).op).2 r t

/-- One atomic for each address of a `meld`, in rising order, each reading the old value given (R191). -/
def MeldsInTurn (u : MemUnit) (op scope : Nat) (rel : Nat → Option Nat) (place total old : Nat → Nat) : State → List Nat → State → Prop
  | s, [], t => t = s
  | s, a :: r, t => (s.localAtomic u (place a) (atomBytes op) scope (rel a) (fun o => some (atomNew op o (total a)))).1 = old a
      ∧ MeldsInTurn u op scope rel place total old (s.localAtomic u (place a) (atomBytes op) scope (rel a) (fun o => some (atomNew op o (total a)))).2 r t

/-- Scratch atomics in turn (R189, R190). -/
def ScratchAtomsInTurn (n op : Nat) (at_ : LaneView → ScratchAt × Nat) (operand old : LaneView → Nat) : State → List LaneView → State → Prop
  | s, [], t => t = s
  | s, lv :: r, t => leNat (s.scratchRead (at_ lv).1 (at_ lv).2 n) = old lv
      ∧ ScratchAtomsInTurn n op at_ operand old (s.scratchWrite (at_ lv).1 (at_ lv).2 (leBytes n (atomNew op (old lv) (operand lv)))) r t

/-- The pieces of a copy command are moved in turn: the bytes read at the source of each are written at its destination, and count toward the
command's pot, which does not saturate, and its progress (R201, R206, R210). -/
def MovesInTurn (n : Nat) (x : Group) (c : Cmd) : State → List (Move × Nat × Nat) → State → Prop
  | s, [], t => t = s
  | s, p :: r, t => ∃ bs s1 s2, s.sideLoad n x c.grp (c.src (s.rankOf x)) (p.1.src + p.2.1) p.2.2 = (.ok bs, s1)
      ∧ s1.sideStore n x c.grp (c.dst (s.rankOf x)) (p.1.dst + p.2.1) bs = .ok s2 ∧ (s2.potCount n c p.2.2).1 = false
      ∧ MovesInTurn n x c ((s2.potCount n c p.2.2).2.modCmd n c.id (fun q => { q with prog := q.prog + p.2.2 })) r t

/-- The scratch of a member of a group's gang is that of one resident group, listed once. -/
structure Housed (s : State) (x : Group) (rank n g : Nat) (y : Group) : Prop where
  at_ : s.gangScratch x rank = some (.grp n g)
  group : s.grp? n g = some y
  once : ∀ e ∈ s.cores, (∀ q ∈ e.2.groups, q.2.inst = y.inst → q.2.gflat = y.gflat → e.1 = n ∧ q.1 = g)
    ∧ ∀ o ∈ e.2.orphans, o.1 = y.inst → o.2.1 ≠ y.gflat

/-- The pot of a command takes so many bytes without saturating (R201). -/
def PotTakes (x : Group) (c : Cmd) (bytes : Nat) : Prop :=
  c.pen = false ∨ (-(2 ^ 47 : Int) ≤ (mapGet x.pots c.pot ⟨0, 0⟩).rem - bytes ∧ (mapGet x.pots c.pot ⟨0, 0⟩).rem < 2 ^ 47)
/-- After a command has written so many bytes its pot has them subtracted, where PEN is set (R201). -/
def PotCounted (x y : Group) (c : Cmd) (bytes : Nat) : Prop :=
  (mapGet y.pots c.pot ⟨0, 0⟩).rem = (mapGet x.pots c.pot ⟨0, 0⟩).rem - (if c.pen then (bytes : Int) else 0)
/-- Cells after bytes have been written from an offset on: those bytes there, every other byte as before. -/
def CellsWritten (m m' : List Host.Cell) (off : Nat) (bs : List Byte) : Prop :=
  ∀ a, mapGet m' a 0 = if off ≤ a then (bs[a - off]?).getD (mapGet m a 0) else mapGet m a 0

/-! ### Accesses to near memory, by conditions on the state alone -/

/-- The bytes of an access lie on one page, at near memory of this package; at machine privilege the address is physical, else a translation
is at hand and allows the access; and no lock of the column meets them (R177). -/
structure Reaches (s : State) (m : MemCtx) (kind : AccKind) (ea n k : Nat) : Prop where
  some_ : 0 < n
  page : ea % 2 ^ 16 + n ≤ 2 ^ 16
  near : k + n ≤ 0x8000000000
  map : match m.xl with
    | .physical _ => k = ea ∧ s.channelGone ea = false
    | .tables u asid _ user => ea < 2 ^ 48 ∧ ∃ t, s.cached u asid ea = some t ∧ ptePkg t.leaf = s.pkgId ∧ k = pteFrame t.leaf + ea % pageBytes t.size
        ∧ permDenied t.leaf kind user = false
  free : ∀ l ∈ (s.col m.unit.col).locks, ¬ (l.asid = m.asid ∧ l.first ≤ (ea + n - 1) / 32 ∧ ea / 32 ≤ l.last)
    ∧ ∀ fr ∈ l.frames, ¬ (fr.1 < k + n ∧ k < fr.1 + fr.2)

/-- Nothing but the column's own slice stands between a sector and its home: no slice of another column holds it, it is not poisoned, and what
the slice holds dirty it holds. -/
structure OwnSector (s : State) (c sec : Nat) : Prop where
  alone : ∀ c2, c2 ≠ c → s.slice? c2 sec = none
  home : s.poison.contains sec = false
  slice : ∀ x, s.slice? c sec = some x → x.poison = false ∧ x.dirty &&& ~~~x.valid = 0

/-- No L1 serves a load of the sector: the core's L1 has no copy, or the load is strong at column scope or wider (R282). -/
def PastL1 (s : State) (u : MemUnit) (scope : Option Nat) (sec : Nat) : Prop :=
  mapGet? (s.l1 u.col u.unit) sec = none ∨ ∃ x, scope = some x ∧ 2 ≤ x

/-- A column's slice has room for so many sectors more. -/
def Room (s : State) (c n : Nat) : Prop := (s.col c).slice.length + n ≤ sliceCapacity

/-- The byte a load of a scope reads at a local place: what the column sees; at die scope or wider, of a line foreign to the die, the home's
byte under the slice's dirty ones (R282). -/
def State.seen (s : State) (u : MemUnit) (scope : Option Nat) (a : Nat) : Byte :=
  match scope with
  | some x => if 4 ≤ x && isForeign (dieOf u.col) a then s.peekByte u.col a else s.viewByte u.col a
  | none => s.viewByte u.col a

/-- Registers, threads and deals are as before. -/
structure SameRegisters (s t : State) : Prop where
  thr : ∀ n g i, t.thr? n g i = s.thr? n g i
  scalar : ∀ n g, (t.grp? n g).map (fun x => (x.s, x.q, x.k, x.scalar, x.scratch)) = (s.grp? n g).map (fun x => (x.s, x.q, x.k, x.scalar, x.scratch))
  deal : ∀ n slot, t.deal? n slot = s.deal? n slot
  col : ∀ c, ∃ l1 flush full, t.cc c = { s.cc c with l1 := l1, flush := flush, flushFull := full }

/-! ### Range locks -/

/-- What waits for locks waits in every table its owner needs, once, and asks for entries of its own owner. -/
structure LockOrder (s : State) : Prop where
  everywhere : ∀ k, ∀ q ∈ (s.col k).lockWait, k ∈ q.owner.columns ∧ ∀ c ∈ q.owner.columns, q ∈ (s.col c).lockWait
  once : ∀ k, ((s.col k).lockWait.map (fun q => q.owner)).Nodup
  own : ∀ k, ∀ q ∈ (s.col k).lockWait, ∀ a ∈ q.entries, a.owner = q.owner
/-- An entry but for the frames a table keeps with it. -/
def LockEntry.plain (a : LockEntry) : LockEntry := { a with frames := [] }

/-! ### Instructions of a group's scalar context -/

/-- The issuer is the scalar context of a group: its core, index and state, and its one lane. -/
structure OnGroup (s : State) (e : Env) (ls : List LaneView) (n g : Nat) (x : Group) (lv : LaneView) : Prop where
  group : s.issueGroup e = some (n, g, x)
  lane : ls = [lv]

/-- The one lane of a scalar context ends with the registers given. -/
def oneOut (s : State) (f : Fields) (e : Env) (lv out : LaneView) : State := s.commit e [(lv, .ok out 0)] (wordsOf f)
/-- The instruction of a scalar context faults with engine-argument and a code (R222). -/
def oneArg (s : State) (f : Fields) (e : Env) (lv : LaneView) (code : Nat) : State :=
  s.commit e [(lv, .fail ⟨9, code, e.pc, 0, 0, 0, 0⟩)] (wordsOf f)

end Sys2Proof.Machine
end

