-- ==== Sys2Proof/Certificates/Slice0/Obligations.lean ====
section
/-! DEFINITION. The statements for the provers. Each says what the machine does in every state, also in those no run reaches; a clause that rests
on a choice of the model names its log entry. -/

open Sys2Proof Sys2Proof.Machine

/-- R9, R10, R12, R16: a register holds what was written to it last; a write touches no other register, predicate or lane field; the even
register of a pair holds bits [31:0]; `k0` reads 1 and a write to it is discarded. -/
def Obligations.RegisterAccess : Prop :=
  (∀ (lv : LaneView) (x : Bool) (i : Nat) (w : W), (x = false ∨ i < 264) →
    (lv.write x i w).read x i = w ∧ (∀ y j, (y, j) ≠ (x, i) → (lv.write x i w).read y j = lv.read y j)
      ∧ (lv.write x i w).k = lv.k ∧ (lv.write x i w).pos = lv.pos ∧ (lv.write x i w).tidx = lv.tidx)
  ∧ (∀ (lv : LaneView) (x : Bool) (i : Nat) (v : D64), (x = false ∨ i + 1 < 264) →
    (lv.write64 x i v).read x i = v.extractLsb' 0 32 ∧ (lv.write64 x i v).read x (i + 1) = v.extractLsb' 32 32
      ∧ (lv.write64 x i v).read64 x i = v)
  ∧ (∀ (k : BitVec 8) (b : Bool), getPred k 0 = true ∧ setPred k 0 b = k)
  ∧ (∀ (k : BitVec 8) (n m : Nat) (b : Bool), 0 < n → n < 8 → m < 8 →
    getPred (setPred k n b) m = if m = n then b else getPred k m)

/-- R113 to R117: D receives the value of each arithmetic instruction, in every lane that is active, in register and literal forms. -/
def Obligations.IntegerArithmetic : Prop :=
  let two := fun (g : Nat → W → W → W) (r : Row) (f : Fields) (_ : Env) (ls : List LaneView) (lv : LaneView) =>
    setD lv f (g f.modx.toNat (srcA ls lv f) (srcB r ls lv f))
  let both := fun (a b : Fields → Instr) (out : Row → Fields → Env → List LaneView → LaneView → LaneView) => Sets a out ∧ Sets b out
  let pair := fun (g : Nat → D64 → D64 → D64) (r : Row) (f : Fields) (_ : Env) (ls : List LaneView) (lv : LaneView) =>
    setD64 lv f (g f.modx.toNat (srcA64 ls lv f) (srcB64 r ls lv f))
  both .iadd .iaddLit (two (fun m a b => Spec.addClass 32 m (a.toInt + b.toInt) (a.toNat + b.toNat)))
  ∧ both .isub .isubLit (two (fun m a b => Spec.addClass 32 m (a.toInt - b.toInt) ((a.toNat : Int) - b.toNat)))
  ∧ Sets .imad (fun r f _ ls lv => let a := srcA ls lv f; let b := srcB r ls lv f; let c := srcC lv f
      setD lv f (Spec.addClass 32 f.modx.toNat (a.toInt * b.toInt + c.toInt) ((a.toNat : Int) * b.toNat + c.toNat)))
  ∧ both .iadd64 .iadd64Lit (pair (fun m a b => Spec.addClass 64 m (a.toInt + b.toInt) (a.toNat + b.toNat)))
  ∧ both .isub64 .isub64Lit (pair (fun m a b => Spec.addClass 64 m (a.toInt - b.toInt) ((a.toNat : Int) - b.toNat)))
  ∧ both .imul .imulLit (two (fun _ a b => a * b))
  ∧ both .imulhi .imulhiLit (two (fun m a b => (Spec.wrap 64 (Spec.ext m a * Spec.ext m b)).extractLsb' 32 32))
  ∧ both .imulw .imulwLit (fun r f _ ls lv =>
      setD64 lv f (Spec.wrap 64 (Spec.ext f.modx.toNat (srcA ls lv f) * Spec.ext f.modx.toNat (srcB r ls lv f))))
  ∧ both .imin .iminLit (two (fun m a b => if Spec.ext m a ≤ Spec.ext m b then a else b))
  ∧ both .imax .imaxLit (two (fun m a b => if Spec.ext m a ≤ Spec.ext m b then b else a))
  ∧ Sets .iabs (fun _ f _ ls lv => setD lv f (Spec.signClass f.modx.toNat (srcA ls lv f).toInt.natAbs))
  ∧ Sets .ineg (fun _ f _ ls lv => setD lv f (Spec.signClass f.modx.toNat (-(srcA ls lv f).toInt)))
  ∧ both .icsub .icsubLit (two (fun m a b =>
      let rd := fun (x : W) => if m = 1 then x.toInt else (x.toNat : Int)
      if rd a < rd b then a else Spec.wrap 32 (rd a - rd b)))
  ∧ both .idiv .idivLit (two Spec.quotient)
  ∧ both .irem .iremLit (two Spec.remainder)

/-- R118 to R122: the logic, shift, count and bit-field instructions. A count of 32 or more shifts everything out, but for `rotl`.

R121, R122: bit by bit, what `bfe`, `bfi` and `bperm` make of their sources. w is the part of the field that lies in the lane. -/
def Obligations.LogicAndShifts : Prop :=
  (
  let two := fun (g : W → W → W) (r : Row) (f : Fields) (_ : Env) (ls : List LaneView) (lv : LaneView) =>
    setD lv f (g (srcA ls lv f) (srcB r ls lv f))
  let both := fun (a b : Fields → Instr) (out : Row → Fields → Env → List LaneView → LaneView → LaneView) => Sets a out ∧ Sets b out
  let one := fun (g : W → W) (_ : Row) (f : Fields) (_ : Env) (ls : List LaneView) (lv : LaneView) => setD lv f (g (srcA ls lv f))
  both .iand .iandLit (two (fun a b => a &&& b))
  ∧ both .ior .iorLit (two (fun a b => a ||| b))
  ∧ both .ixor .ixorLit (two (fun a b => a ^^^ b))
  ∧ both .iandn .iandnLit (two (fun a b => a &&& ~~~b))
  ∧ both .shl .shlLit (two (fun a b => BitVec.ofNat 32 (a.toNat * 2 ^ b.toNat)))
  ∧ both .shr .shrLit (two (fun a b => BitVec.ofNat 32 (a.toNat / 2 ^ b.toNat)))
  ∧ both .sar .sarLit (two Spec.sar)
  ∧ both .rotl .rotlLit (two (fun a b => (a ++ a).extractLsb' (32 - b.toNat % 32) 32))
  ∧ Sets .shf (fun r f _ ls lv => setD lv f (Spec.shf f.modx.toNat (srcA ls lv f) (srcB r ls lv f) (srcC lv f)))
  ∧ Sets .clz (one (clzVal 0)) ∧ (∀ a, clzVal 0 a = if a = 0 then 32 else BitVec.ofNat 32 (31 - Nat.log2 a.toNat))
  ∧ Sets .popc (one (fun a => BitVec.ofNat 32 ((List.range 32).countP (fun i => a.getLsbD i))))
  ∧ Sets .brev (one (fun a => a.reverse))
  ∧ Sets .bfe (fun _ f _ ls lv => setD lv f (bfeVal f f.modx.toNat (srcA ls lv f)))
  ∧ Sets .bfi (fun r f _ ls lv => setD lv f (bfiVal f 0 (srcA ls lv f) (srcB r ls lv f)))
  ∧ Sets .bperm (fun r f _ ls lv => setD lv f (bpermVal f 0 (srcA ls lv f) (srcB r ls lv f)))
  ) ∧ (
  (∀ f a i, i < 32 → let w := min (fieldWidth f) (32 - fieldPos f)
    (bfeVal f 0 a).getLsbD i = (decide (i < w) && a.getLsbD (fieldPos f + i)))
  ∧ (∀ f a i, i < 32 → let w := min (fieldWidth f) (32 - fieldPos f)
    (bfeVal f 1 a).getLsbD i = (decide (0 < w) && a.getLsbD (fieldPos f + min i (w - 1))))
  ∧ (∀ f m a b i, i < 32 → let w := min (fieldWidth f) (32 - fieldPos f)
    (bfiVal f m a b).getLsbD i = if fieldPos f ≤ i ∧ i < fieldPos f + w then a.getLsbD (i - fieldPos f) else b.getLsbD i)
  ∧ (∀ f m a b n, n < 4 → let sel := (f.lit.getD 0).toNat / 16 ^ n % 16
    (bpermVal f m a b).extractLsb' (8 * n) 8 =
      if sel < 4 then a.extractLsb' (8 * sel) 8 else if sel < 8 then b.extractLsb' (8 * (sel - 4)) 8 else 0)
  )

/-- R123 to R128: compare, select, address, move, convert, and the indirect registers of a lane. A lane whose index is at or beyond the
holding faults with register-window (cause 2) and writes nothing. -/
def Obligations.CompareMoveConvert : Prop :=
  let both := fun (a b : Fields → Instr) (out : Row → Fields → Env → List LaneView → LaneView → LaneView) => Sets a out ∧ Sets b out
  let cond := fun (m : Nat) (a b : W) => match m with
    | 0 => decide (a = b) | 1 => decide (a ≠ b)
    | 2 => decide (a.toInt < b.toInt) | 3 => decide (a.toInt ≤ b.toInt) | 4 => decide (a.toInt > b.toInt) | 5 => decide (a.toInt ≥ b.toInt)
    | 6 => decide (a.toNat < b.toNat) | 7 => decide (a.toNat ≤ b.toNat) | 8 => decide (a.toNat > b.toNat) | _ => decide (a.toNat ≥ b.toNat)
  let clampTo := fun (lo hi : Int) (a : W) => if a.toInt < lo then BitVec.ofInt 32 lo else if hi < a.toInt then BitVec.ofInt 32 hi else a
  both .icmp .icmpLit (fun r f _ ls lv => setK lv f (cond f.modx.toNat (srcA ls lv f) (srcB r ls lv f)))
  ∧ both .sel .selLit (fun r f _ ls lv => setD lv f (if getPred lv.k (f.modx.toNat % 8) then srcA ls lv f else srcB r ls lv f))
  ∧ both .lea .leaLit (fun r f _ ls lv => let b := srcB r ls lv f
      setD64 lv f (Spec.wrap 64 ((srcA64 ls lv f).toNat
        + (if f.modx.getLsbD 3 then b.toInt else (b.toNat : Int)) * 2 ^ (f.modx.toNat % 8))))
  ∧ Sets .movi (fun _ f _ _ lv => let l := f.lit.getD 0
      if f.modx = 0 then setD lv f l else if f.modx = 1 then setD64 lv f (l.signExtend 64) else setD64 lv f (l.zeroExtend 64))
  ∧ Sets .icvt (fun _ f _ ls lv => setD lv f (match f.modx.toNat with
      | 0 => clampTo (-128) 127 (srcA ls lv f) | 1 => clampTo 0 255 (srcA ls lv f) | 2 => clampTo (-8) 7 (srcA ls lv f)
      | 3 => clampTo 0 15 (srcA ls lv f) | 4 => clampTo (-32768) 32767 (srcA ls lv f) | _ => clampTo 0 65535 (srcA ls lv f)))
  ∧ (∀ r f s e ls, Issues (.vird f) r f s e ls → exec (.vird f) s = .next (s.commit e (laneRes f ls (fun lv =>
      let n := (srcA ls lv f).toNat
      if n < issueHolding s then .ok (setD lv f (getReg lv.v n)) 0
      else if lv.helper then .ok (setD lv f 0) 0 else .fail ⟨2, 0, e.pc, 0, 0, 0, 0⟩)) (wordsOf f)))
  ∧ (∀ r f s e ls, Issues (.viwr f) r f s e ls → exec (.viwr f) s = .next (s.commit e (laneRes f ls (fun lv =>
      let n := (srcA ls lv f).toNat
      if n < issueHolding s then .ok { lv with v := setReg lv.v n (srcB r ls lv f) } 0
      else if lv.helper then .ok lv 0 else .fail ⟨2, 0, e.pc, 0, 0, 0, 0⟩)) (wordsOf f)))
  ∧ (∀ r f s e ls, (∀ lv ∈ ls, laneActive f lv = true → (srcA ls lv f).toNat < issueHolding s) →
      (Issues (.vird f) r f s e ls → exec (.vird f) s = .next (s.commit e (laneOut f ls (fun lv => setD lv f (getReg lv.v (srcA ls lv f).toNat))) (wordsOf f)))
      ∧ (Issues (.viwr f) r f s e ls → exec (.viwr f) s = .next (s.commit e (laneOut f ls (fun lv =>
          { lv with v := setReg lv.v (srcA ls lv f).toNat (srcB r ls lv f) })) (wordsOf f))))

/-- R131: the predicate instructions.

R48, R68, R130: the short forms act in every dealt lane, whatever its predicates. -/
def Obligations.PredicatesAndShortForms : Prop :=
  (
  let two := fun (g : Bool → Bool → Bool) (_ : Row) (f : Fields) (_ : Env) (_ : List LaneView) (lv : LaneView) =>
    setK lv f (g (fieldPred lv f.a) (fieldPred lv f.b))
  Sets .kand (two (fun a b => a && b)) ∧ Sets .kor (two (fun a b => a || b)) ∧ Sets .kxor (two (fun a b => a != b))
  ∧ Sets .kandn (two (fun a b => a && !b)) ∧ Sets .kmov (two (fun a _ => a))
  ∧ Sets .kmovReg (fun _ f _ ls lv => setK lv f (decide (srcA ls lv f ≠ 0)))
  ∧ Sets .ktov (fun _ f _ _ lv => setD lv f (if fieldPred lv f.a then (if f.modx = 0 then 1 else 0xFFFFFFFF) else 0))
  ) ∧ (
  ∀ (s : State) (e : Env) (ls : List LaneView) (f : ShortFields), issueCtx s = some (e, ls) →
    let all := fun (out : LaneView → LaneView) => s.commit e (ls.map (fun lv => (lv, LRes.ok (out lv) 0))) 1
    (illegalShort 0 e f = none → exec (.nop f) s = .next (all (fun lv => lv)))
    ∧ (illegalShort 1 e f = none → exec (.mov f) s = .next (all (fun lv => lv.write f.dS f.d.toNat (lv.read f.aS f.a.toNat))))
    ∧ (illegalShort 2 e f = none → exec (.inot f) s = .next (all (fun lv => lv.write f.dS f.d.toNat (~~~(lv.read f.aS f.a.toNat)))))
    ∧ (illegalShort 3 e f = none → exec (.movsi f) s = .next (all (fun lv => lv.write f.dS f.d.toNat (f.a.signExtend 32))))
  )

/-- R139 to R148, R93, R35: each scalar floating-point instruction writes the result of its operation on every active lane, or, where a raised
flag has its enable bit set, faults and writes nothing; where no enable bit is set it completes in every lane.

R109, R110, R143, R157: `fmax` writes the greater operand. In a lane where a position of the fused sequence that follows it would fault with the
values the positions before it give, the lane parks at the `fmax` with that position and those flags, and nothing of it is written; in every other
lane, and wherever no sequence follows, the `fmax` has its own result. A later word that would be illegal at issue ends the trial, for it
faults at its own address. -/
def Obligations.FloatScalars : Prop :=
  (
  let two := fun (g : Fmt → W → Nat → Nat → Nat × FFlags) (r : Row) (f : Fields) (e : Env) (ls : List LaneView) (lv : LaneView) =>
    let o := g (fmtOf (f.modx.toNat % 4)) e.fmode (srcA ls lv f).toNat (srcB r ls lv f).toNat
    (setD lv f (BitVec.ofNat 32 o.1), o.2)
  let one := fun (g : Nat → Fmt → W → Nat → Nat × FFlags) (_ : Row) (f : Fields) (e : Env) (ls : List LaneView) (lv : LaneView) =>
    let o := g (f.modx.toNat / 4) (fmtOf (f.modx.toNat % 4)) e.fmode (srcA ls lv f).toNat
    (setD lv f (BitVec.ofNat 32 o.1), o.2)
  let gives := fun (a : Fields → Instr) (out : Row → Fields → Env → List LaneView → LaneView → LaneView × FFlags) => SetsF a out ∧ Completes a out
  let both := fun (a b : Fields → Instr) (out : Row → Fields → Env → List LaneView → LaneView → LaneView × FFlags) => gives a out ∧ gives b out
  both .fadd .faddLit (two faddBits) ∧ both .fsub .fsubLit (two fsubBits) ∧ both .fmul .fmulLit (two fmulBits)
  ∧ gives .ffma (fun r f e ls lv =>
      let o := ffmaBits (fmtOf (f.modx.toNat % 4)) e.fmode (srcA ls lv f).toNat (srcB r ls lv f).toNat (srcC lv f).toNat
      (setD lv f (BitVec.ofNat 32 o.1), o.2))
  ∧ both .fmin .fminLit (two (fun F fm x y => fminmaxBits F fm false x y))
  ∧ both .fcmp .fcmpLit (fun r f e ls lv =>
      let o := fcmpBits (fmtOf (f.modx.toNat % 4)) e.fmode (f.modx.toNat / 4) (srcA ls lv f).toNat (srcB r ls lv f).toNat
      (setK lv f o.1, o.2))
  ∧ gives .fcls (one (fun _ F _ x => (fclsBits F x, 0)))
  ∧ both .fscale .fscaleLit (fun r f e ls lv =>
      let o := fscaleBits (fmtOf (f.modx.toNat % 4)) e.fmode (srcA ls lv f).toNat (srcB r ls lv f).toInt
      (setD lv f (BitVec.ofNat 32 o.1), o.2))
  ∧ gives .frnd (one (fun m F fm x => frndBits F fm m x))
  ∧ gives .frcp (one (fun _ F fm x => specialRes F fm 0 x)) ∧ gives .fsqrt (one (fun _ F fm x => specialRes F fm 1 x))
  ∧ gives .frsqrt (one (fun _ F fm x => specialRes F fm 2 x)) ∧ gives .fexp2 (one (fun _ F fm x => specialRes F fm 3 x))
  ∧ gives .flog2 (one (fun _ F fm x => specialRes F fm 4 x))
  ) ∧ (
  ∀ mk ∈ [Instr.fmax, Instr.fmaxLit], ∀ r f s e ls, Issues (mk f) r f s e ls →
    let F := fmtOf (f.modx.toNat % 4)
    let o := fun (lv : LaneView) => fminmaxBits F e.fmode true (srcA ls lv f).toNat (srcB r ls lv f).toNat
    let own := fun (lv : LaneView) => floatRes e lv (setD lv f (BitVec.ofNat 32 (o lv).1)) (o lv).2
    (fusedTail f (wordsAfter s f) = none → exec (mk f) s = .next (s.commit e (laneRes f ls own) (wordsOf f)))
    ∧ (fmEnables e.fmode = 0 → exec (mk f) s = .next (s.commit e
        (laneRes f ls (fun lv => .ok (setD lv f (BitVec.ofNat 32 (o lv).1)) (if lv.helper then 0 else (o lv).2))) (wordsOf f)))
    ∧ (∀ f1 f2 f3 r1 r2 r3, fusedTail f (wordsAfter s f) = some (f1, f2, f3) →
        rowOf (if f1.lit.isSome then .fsubLit f1 else .fsub f1) = some r1 → rowOf (.fexp2 f2) = some r2 →
        rowOf (if f3.lit.isSome then .faddLit f3 else .fadd f3) = some r3 →
      let fault := fun (p : Nat) (fl : FFlags) => LRes.fail ⟨7, 0, e.pc, 0, 0, fl, p⟩
      let raises := fun (fl : FFlags) => fl &&& fmEnables e.fmode ≠ 0
      exec (mk f) s = .next (s.commit e (laneRes f ls (fun lv =>
        let l0 := setD lv f (BitVec.ofNat 32 (o lv).1)
        let o1 := fsubBits (fmtOf (f1.modx.toNat % 4)) e.fmode (srcA ls l0 f1).toNat (srcB r1 ls l0 f1).toNat
        let l1 := setD l0 f1 (BitVec.ofNat 32 o1.1)
        let o2 := specialRes (fmtOf (f2.modx.toNat % 4)) e.fmode 3 (srcA ls l1 f2).toNat
        let l2 := setD l1 f2 (BitVec.ofNat 32 o2.1)
        let o3 := faddBits (fmtOf (f3.modx.toNat % 4)) e.fmode (srcA ls l2 f3).toNat (srcB r3 ls l2 f3).toNat
        if lv.helper = true then own lv
        else if raises (o lv).2 then fault 0 (o lv).2
        else if (illegal r1 e f1).isSome then own lv
        else if raises o1.2 then fault 1 o1.2
        else if (illegal r2 e f2).isSome then own lv
        else if raises o2.2 then fault 2 o2.2
        else if (illegal r3 e f3).isSome then own lv
        else if raises o3.2 then fault 3 o3.2
        else own lv)) (wordsOf f)))
  )

/-- R86, R87, R94, R95: what bits stand for in each format, and `fround`: a finite value is rounded once, an infinity, a zero and a NaN are
delivered as the rule says.

R92, R96, R141, R142, R144: sums, differences, products, fused products and scalings are exact and rounded once; NaNs, invalid operations,
infinities and zeros as the rules say. The sign of the zero of a difference of two zeros is log 30.

R143, R145, R147, R148: minimum and maximum, rounding to an integer, comparison and classification.

R98, R146: the special functions: the inputs of the table of R98, and correct rounding of 1/x, √x and 1/√x for every number of their domains;
of 2^x and log2 x where the result is exact (elsewhere their last bit is log 11).

The last bits of `fexp2` and `flog2` elsewhere are the model's reading (log 11). -/
def Obligations.FloatLaws : Prop :=
  (
  (∀ F ∈ Fmt.all, ∀ x daz, x < 2 ^ (F.signBit + 1) →
    let ex : Nat := x / 2 ^ F.fb % 2 ^ F.eb
    let fr : Nat := x % 2 ^ F.fb
    let d := fdec F x daz
    let s : Rat := if x < 2 ^ F.signBit then 1 else -1
    let top := 2 ^ F.eb - 1
    (d.isNan = false → (d.neg = true ↔ 2 ^ F.signBit ≤ x))
    ∧ (ex = 0 → d.isNum ∧ d.val = if daz = true ∧ F.isFp8 = false then 0 else s * fr * 2 ^ (F.emin - F.fb))
    ∧ (ex ≠ 0 → (ex < top ∨ (F.e4m3 = true ∧ fr ≠ 7)) →
        d.isNum ∧ d.val = s * ((2 ^ F.fb + fr : Nat) : Rat) * (2 : Rat) ^ ((ex : Int) - F.bias - F.fb))
    ∧ (F.e4m3 = true → ex = top → fr = 7 → d = .qnan)
    ∧ (F.e4m3 = false → ex = top → d.isInf = decide (fr = 0) ∧ (d = .snan ↔ (F.isFp8 = false ∧ fr ≠ 0 ∧ fr < 2 ^ (F.fb - 1)))
        ∧ d.isNan = decide (fr ≠ 0)))
  ∧ (fmtF32.canon, fmtF16.canon, fmtBf16.canon, fmtE4m3.canon, fmtE5m2.canon) = (0x7FC00000, 0x7E00, 0x7FC0, 0x7F, 0x7E)
  ∧ (fmtF32.infBits, fmtF16.infBits, fmtBf16.infBits, fmtE5m2.infBits) = (0x7F800000, 0x7C00, 0x7F80, 0x7C)
  ∧ (fmtF32.maxBits, fmtF16.maxBits, fmtBf16.maxBits, fmtE4m3.maxBits, fmtE5m2.maxBits) = (0x7F7FFFFF, 0x7BFF, 0x7F7F, 0x7E, 0x7B)
  ∧ (∀ F ∈ Fmt.all, ∀ neg m e mode sat ftz, 0 < m → mode < 4 →
      IsRound F mode sat ftz (Datum.fin neg m e false).val (fround F (.fin neg m e false) mode sat ftz))
  ∧ (∀ F ∈ Fmt.all, ∀ neg mode sat ftz, fround F (.inf neg) mode sat ftz = F.infRes neg
      ∧ fround F (.zero neg) mode sat ftz = (F.withSign neg 0, 0) ∧ fround F .qnan mode sat ftz = (F.canon, 0)
      ∧ fround F .snan mode sat ftz = (F.canon, 0))
  ) ∧ (
  ∀ F ∈ Fmt.all, ∀ (fm : W) (x y z : Nat) (k : Int),
    let a := frd F fm x
    let b := frd F fm y
    let c := frd F fm z
    let down := decide (rmode F fm = 3)
    let nan := fun (sn : Bool) => (F.canon, if sn then flNV else (0 : FFlags))
    let sum := fun (p q : Datum) => if p.isZero = true ∧ q.isZero = true ∧ p.neg = q.neg then p.neg else down
    (a.isNan = true ∨ b.isNan = true → faddBits F fm x y = nan (a.isSnan || b.isSnan) ∧ fsubBits F fm x y = nan (a.isSnan || b.isSnan)
      ∧ fmulBits F fm x y = nan (a.isSnan || b.isSnan))
    ∧ (a.isNum → b.isNum → Delivers F fm (a.val + b.val) (sum a b) (faddBits F fm x y)
      ∧ Delivers F fm (a.val - b.val) (sum a (dneg b)) (fsubBits F fm x y)
      ∧ Delivers F fm (a.val * b.val) (a.neg != b.neg) (fmulBits F fm x y))
    ∧ (a.isInf = true → b.isInf = true →
      faddBits F fm x y = (if a.neg = b.neg then F.infRes a.neg else nan true)
      ∧ fsubBits F fm x y = (if a.neg = b.neg then nan true else F.infRes a.neg) ∧ fmulBits F fm x y = F.infRes (a.neg != b.neg))
    ∧ (a.isInf = true → b.isNum → faddBits F fm x y = F.infRes a.neg ∧ fsubBits F fm x y = F.infRes a.neg
      ∧ fmulBits F fm x y = if b.isZero then nan true else F.infRes (a.neg != b.neg))
    ∧ (a.isNum → b.isInf = true → faddBits F fm x y = F.infRes b.neg ∧ fsubBits F fm x y = F.infRes (!b.neg)
      ∧ fmulBits F fm x y = if a.isZero then nan true else F.infRes (a.neg != b.neg))
    ∧ ((a.isInf = true ∧ b.isZero = true) ∨ (a.isZero = true ∧ b.isInf = true) → ffmaBits F fm x y z = nan true)
    ∧ (a.isNan = true ∨ b.isNan = true → ffmaBits F fm x y z = nan (a.isSnan || b.isSnan || c.isSnan))
    ∧ (a.isNum → b.isNum → c.isNan = true → ffmaBits F fm x y z = nan c.isSnan)
    ∧ (a.isNum → b.isNum → c.isNum → Delivers F fm (a.val * b.val + c.val)
        (if (a.isZero = true ∨ b.isZero = true) ∧ c.isZero = true ∧ (a.neg != b.neg) = c.neg then c.neg else down) (ffmaBits F fm x y z))
    ∧ (a.isNum → b.isNum → c.isInf = true → ffmaBits F fm x y z = F.infRes c.neg)
    ∧ (a.isNan = false → b.isNan = false → (a.isInf = true ∧ b.isZero = false) ∨ (b.isInf = true ∧ a.isZero = false) →
        ffmaBits F fm x y z = (if c.isNan then nan c.isSnan else if c.isInf = true ∧ c.neg ≠ (a.neg != b.neg) then nan true
          else F.infRes (a.neg != b.neg)))
    ∧ (a.isNan = true → fscaleBits F fm x k = nan a.isSnan)
    ∧ (a.isNum → Delivers F fm (a.val * 2 ^ k) a.neg (fscaleBits F fm x k))
    ∧ (a.isInf = true → fscaleBits F fm x k = F.infRes a.neg)
  ) ∧ (
  ∀ F ∈ [fmtF32, fmtF16, fmtBf16], ∀ (fm : W) (x y : Nat),
    let a := frd F fm x
    let b := frd F fm y
    let sn : FFlags := if a.isSnan = true ∨ b.isSnan = true then flNV else 0
    let less := fun (p q : Datum) => p.Less q ∨ (p.isZero = true ∧ q.isZero = true ∧ p.neg = true ∧ q.neg = false)
    let at_ := fun (r : Nat) (d : Datum) => r < 2 ^ (F.signBit + 1) ∧ fdec F r false = d
    (∀ w, (fminmaxBits F fm w x y).2 = sn)
    ∧ (∀ w, a.isNan = true → b.isNan = true → (fminmaxBits F fm w x y).1 = F.canon)
    ∧ (∀ w, a.isNan = true → b.isNan = false → at_ (fminmaxBits F fm w x y).1 b)
    ∧ (∀ w, a.isNan = false → b.isNan = true → at_ (fminmaxBits F fm w x y).1 a)
    ∧ (a.isNan = false → b.isNan = false → less a b → at_ (fminmaxBits F fm false x y).1 a ∧ at_ (fminmaxBits F fm true x y).1 b)
    ∧ (a.isNan = false → b.isNan = false → less b a → at_ (fminmaxBits F fm false x y).1 b ∧ at_ (fminmaxBits F fm true x y).1 a)
    ∧ (a.isNan = false → b.isNan = false → ¬ less a b → ¬ less b a → ∀ w, at_ (fminmaxBits F fm w x y).1 a)
    ∧ (∀ cond, (a.isNan = true ∨ b.isNan = true) → cond < 4 → fcmpBits F fm cond x y
        = (cond == 3, if cond = 1 ∨ cond = 2 then flNV else sn))
    ∧ (a.isNan = false → b.isNan = false → ∀ cond, cond < 4 → (fcmpBits F fm cond x y).2 = 0
        ∧ ((fcmpBits F fm cond x y).1 = true ↔
            (cond = 0 ∧ ¬ a.Less b ∧ ¬ b.Less a) ∨ (cond = 1 ∧ a.Less b) ∨ (cond = 2 ∧ ¬ b.Less a)))
    ∧ (∀ mode, mode < 4 →
        (a.isNan = true → frndBits F fm mode x = (F.canon, if a.isSnan then flNV else 0))
        ∧ (a.isInf = true ∨ a.isZero = true → (frndBits F fm mode x).2 = 0 ∧ at_ (frndBits F fm mode x).1 a)
        ∧ (a.isNum → a.isZero = false → (frndBits F fm mode x).2 = 0 ∧ (frndBits F fm mode x).1 < 2 ^ (F.signBit + 1)
            ∧ ∃ n : Int, IsRint mode a.val n ∧ (fdec F (frndBits F fm mode x).1 false).isNum
              ∧ (fdec F (frndBits F fm mode x).1 false).val = n ∧ (n = 0 → (fdec F (frndBits F fm mode x).1 false).neg = a.neg)))
    ∧ (x < 2 ^ (F.signBit + 1) →
        let ex : Nat := x / 2 ^ F.fb % 2 ^ F.eb
        let fr : Nat := x % 2 ^ F.fb
        let neg : Bool := decide (2 ^ F.signBit ≤ x)
        fclsBits F x = 2 ^ (if ex = 2 ^ F.eb - 1 then (if fr = 0 then (if neg then 0 else 7) else if fr < 2 ^ (F.fb - 1) then 8 else 9)
          else if ex = 0 then (if fr = 0 then (if neg then 3 else 4) else if neg then 2 else 5)
          else if neg then 1 else 6))
  ) ∧ (
  ∀ F ∈ [fmtF32, fmtF16, fmtBf16], ∀ (fm : W) (x : Nat),
    let a := frd F fm x
    let g := fun (fn : Nat) => specialRes F fm fn x
    let inf := fun (neg : Bool) => F.withSign neg F.infBits
    let zero := fun (neg : Bool) => F.withSign neg 0
    let one : Nat := F.bias * 2 ^ F.fb
    (∀ fn < 5, a.isNan = true → g fn = (F.canon, if a.isSnan then flNV else 0))
    ∧ (a = .inf true → g 0 = (zero true, 0) ∧ g 1 = (F.canon, flNV) ∧ g 2 = (F.canon, flNV) ∧ g 3 = (zero false, 0) ∧ g 4 = (F.canon, flNV))
    ∧ (a = .inf false → g 0 = (zero false, 0) ∧ g 1 = (inf false, 0) ∧ g 2 = (zero false, 0) ∧ g 3 = (inf false, 0) ∧ g 4 = (inf false, 0))
    ∧ (∀ neg, a = .zero neg → g 0 = (inf neg, flDZ) ∧ g 1 = (zero neg, 0) ∧ g 2 = (inf neg, flDZ) ∧ g 3 = (one, 0) ∧ g 4 = (inf true, flDZ))
    ∧ (a.isNum → a.val < 0 → g 1 = (F.canon, flNV) ∧ g 2 = (F.canon, flNV) ∧ g 4 = (F.canon, flNV))
    ∧ (a.isNum → a.isZero = false → Delivers F fm (1 / a.val) false (g 0))
    ∧ (a.isNum → 0 < a.val → Delivers F fm (Real.sqrt a.val) false (g 1) ∧ Delivers F fm (1 / Real.sqrt a.val) false (g 2))
    ∧ (∀ n : Int, a.isNum → a.isZero = false → a.val = n → Delivers F fm ((2 : ℝ) ^ n) false (g 3))
    ∧ (∀ n : Int, a.isNum → a.val = (2 : Rat) ^ n → Delivers F fm n false (g 4))
  )

/-- R149 to R154, R93: conversions, packed arithmetic and dot products write their results on every active lane, or fault for an enabled flag and
write nothing; where no enable bit is set they complete. -/
def Obligations.NarrowFormats : Prop :=
  let two := fun (g : Nat → W → Nat → Nat → Nat × FFlags) (r : Row) (f : Fields) (e : Env) (ls : List LaneView) (lv : LaneView) =>
    let o := g f.modx.toNat e.fmode (srcA ls lv f).toNat (srcB r ls lv f).toNat
    (setD lv f (BitVec.ofNat 32 o.1), o.2)
  let three := fun (g : Nat → W → Nat → Nat → Nat → Nat × FFlags) (r : Row) (f : Fields) (e : Env) (ls : List LaneView) (lv : LaneView) =>
    let o := g f.modx.toNat e.fmode (srcA ls lv f).toNat (srcB r ls lv f).toNat (srcC lv f).toNat
    (setD lv f (BitVec.ofNat 32 o.1), o.2)
  let gives := fun (a : Fields → Instr) (out : Row → Fields → Env → List LaneView → LaneView → LaneView × FFlags) => SetsF a out ∧ Completes a out
  gives .cvt (fun _ f e ls lv => let o := cvtBits f.modx.toNat e.fmode (srcA ls lv f).toNat
    (setD lv f (BitVec.ofNat 32 o.1), o.2))
  ∧ gives .pcvt (fun _ f e ls lv => let o := pcvtBits f.modx.toNat e.fmode (srcA64 ls lv f).toNat
    (setD lv f (BitVec.ofNat 32 o.1), o.2))
  ∧ gives .upk (fun _ f e ls lv => let o := upkBits f.modx.toNat e.fmode (srcA ls lv f).toNat
    (if f.modx.toNat < 4 then setD64 lv f (BitVec.ofNat 64 o.1) else setD lv f (BitVec.ofNat 32 o.1), o.2))
  ∧ gives .padd4 (two padd4Bits) ∧ gives .padd4Lit (two padd4Bits) ∧ gives .pmul4 (two pmul4Bits) ∧ gives .pmul4Lit (two pmul4Bits)
  ∧ gives .hfma2 (three hfma2Bits) ∧ gives .dot2 (three dot2Bits) ∧ gives .dot4 (three dot4Bits)
  ∧ gives .dot8 (three (fun m _ x y z =>
      let el := fun (v i : Nat) => if m = 0 then (BitVec.ofNat 4 (v / 16 ^ i)).toInt else ((v / 16 ^ i % 16 : Nat) : Int)
      ((BitVec.ofInt 32 (((List.range 8).map (fun i => el x i * el y i)).sum + z)).toNat, 0)))

/-- R97, R149 to R151: a conversion delivers the value of its source, rounded once or exact; the packed conversions convert element by
element, their flags joined.

R99, R152 to R154: packed arithmetic computes element by element, its flags joined; a dot product is the exact sum of the exact products and C,
rounded once; the integer dot products wrap. -/
def Obligations.NarrowLaws : Prop :=
  (
  let elem := fun (w n : Nat) (o : Nat × FFlags) (part : Nat → Nat × FFlags) =>
    o.1 < 2 ^ (w * n) ∧ (∀ i < n, o.1 / 2 ^ (w * i) % 2 ^ w = (part i).1) ∧ ∀ b, o.2.getLsbD b = true ↔ ∃ i < n, (part i).2.getLsbD b = true
  (∀ src ∈ [fmtF32, fmtF16, fmtBf16], ∀ dst ∈ Fmt.all, ∀ (fm : W) (x : Nat),
    let a := frd src fm x
    (a.isNan = true → fconv src dst fm x = (dst.canon, if a.isSnan then flNV else 0))
    ∧ (a.isInf = true → fconv src dst fm x = dst.infRes a.neg)
    ∧ (a.isNum → Delivers dst fm a.val a.neg (fconv src dst fm x)))
  ∧ (∀ p ∈ [(fmtF16, fmtF32), (fmtBf16, fmtF32), (fmtE4m3, fmtF32), (fmtE5m2, fmtF32), (fmtE4m3, fmtF16), (fmtE5m2, fmtF16)], ∀ (fm : W) (x : Nat),
    let a := frd p.1 fm x
    let o := fwiden p.1 p.2 fm x
    let b := fdec p.2 o.1 false
    o.1 < 2 ^ (p.2.signBit + 1) ∧ (a.isNan = true → o = (p.2.canon, if a.isSnan then flNV else 0))
    ∧ (a.isNan = false → o.2 = 0 ∧ b.isNan = false ∧ b.rank = a.rank ∧ b.val = a.val ∧ b.neg = a.neg))
  ∧ (∀ (fm : W) (signed : Bool) (mode x : Nat), mode < 4 →
    let a := frd fmtF32 fm x
    let hi : Int := if signed then 2 ^ 31 - 1 else 2 ^ 32 - 1
    let lo : Int := if signed then -(2 ^ 31) else 0
    (a.isNan = true → fToInt fm signed mode x = (0, flNV))
    ∧ (a.isInf = true → fToInt fm signed mode x = (BitVec.ofInt 32 (if a.neg then lo else hi), flNV))
    ∧ (a.isNum → ∃ n : Int, IsRint mode a.val n ∧ fToInt fm signed mode x =
        (if hi < n then (BitVec.ofInt 32 hi, flNV) else if n < lo then (BitVec.ofInt 32 lo, flNV)
         else (BitVec.ofInt 32 n, if a.val = n then 0 else flNX))))
  ∧ (∀ (fm : W) (v : Int), Delivers fmtF32 fm v false (intToF32 fm v))
  ∧ (∀ (fm : W) (x : Nat), x < 2 ^ 32 → cvtBits 0 fm x = fconv fmtF32 fmtF16 fm x ∧ cvtBits 1 fm x = fconv fmtF32 fmtBf16 fm x
    ∧ cvtBits 2 fm x = fwiden fmtF16 fmtF32 fm x ∧ cvtBits 3 fm x = fwiden fmtBf16 fmtF32 fm x
    ∧ (cvtBits 4 fm x).1 = (fToInt fm true (fmRnd fm) x).1.toNat ∧ (cvtBits 4 fm x).2 = (fToInt fm true (fmRnd fm) x).2
    ∧ (cvtBits 5 fm x).1 = (fToInt fm false (fmRnd fm) x).1.toNat ∧ (cvtBits 5 fm x).2 = (fToInt fm false (fmRnd fm) x).2
    ∧ cvtBits 6 fm x = intToF32 fm (if x < 2 ^ 31 then x else (x : Int) - 2 ^ 32) ∧ cvtBits 7 fm x = intToF32 fm x
    ∧ (cvtBits 8 fm x).1 = (fToInt fm true 1 x).1.toNat ∧ (cvtBits 8 fm x).2 = (fToInt fm true 1 x).2
    ∧ (cvtBits 9 fm x).1 = (fToInt fm false 1 x).1.toNat ∧ (cvtBits 9 fm x).2 = (fToInt fm false 1 x).2
    ∧ cvtBits 10 fm x = fconv fmtF32 fmtE4m3 fm x ∧ cvtBits 11 fm x = fconv fmtF32 fmtE5m2 fm x
    ∧ cvtBits 12 fm x = fwiden fmtE4m3 fmtF32 fm x ∧ cvtBits 13 fm x = fwiden fmtE5m2 fmtF32 fm x)
  ∧ (∀ (fm : W) (x : Nat), elem 16 2 (pcvtBits 0 fm x) (fun i => fconv fmtF32 fmtF16 fm (x / 2 ^ (32 * i) % 2 ^ 32))
    ∧ elem 16 2 (pcvtBits 1 fm x) (fun i => fconv fmtF32 fmtBf16 fm (x / 2 ^ (32 * i) % 2 ^ 32))
    ∧ elem 8 4 (pcvtBits 2 fm x) (fun i => fconv fmtF16 fmtE4m3 fm (x / 2 ^ (16 * i) % 2 ^ 16))
    ∧ elem 8 4 (pcvtBits 3 fm x) (fun i => fconv fmtF16 fmtE5m2 fm (x / 2 ^ (16 * i) % 2 ^ 16))
    ∧ elem 8 4 (pcvtBits 4 fm x) (fun i => fconv fmtBf16 fmtE4m3 fm (x / 2 ^ (16 * i) % 2 ^ 16))
    ∧ elem 8 4 (pcvtBits 5 fm x) (fun i => fconv fmtBf16 fmtE5m2 fm (x / 2 ^ (16 * i) % 2 ^ 16))
    ∧ elem 32 2 (upkBits 0 fm x) (fun i => fwiden fmtF16 fmtF32 fm (x / 2 ^ (16 * i) % 2 ^ 16))
    ∧ elem 32 2 (upkBits 2 fm x) (fun i => fwiden fmtBf16 fmtF32 fm (x / 2 ^ (16 * i) % 2 ^ 16))
    ∧ ∀ h < 2, elem 16 2 (upkBits (4 + h) fm x) (fun i => fwiden fmtE4m3 fmtF16 fm (x / 2 ^ (16 * h + 8 * i) % 2 ^ 8))
      ∧ elem 16 2 (upkBits (6 + h) fm x) (fun i => fwiden fmtE5m2 fmtF16 fm (x / 2 ^ (16 * h + 8 * i) % 2 ^ 8)))
  ) ∧ (
  let elem := fun (w n : Nat) (o : Nat × FFlags) (part : Nat → Nat × FFlags) =>
    o.1 < 2 ^ (w * n) ∧ (∀ i < n, o.1 / 2 ^ (w * i) % 2 ^ w = (part i).1) ∧ ∀ b, o.2.getLsbD b = true ↔ ∃ i < n, (part i).2.getLsbD b = true
  (∀ (fm : W) (x y : Nat), ∀ p ∈ [(0, fmtE4m3), (1, fmtE5m2)],
    elem 8 4 (padd4Bits p.1 fm x y) (fun i => faddBits p.2 fm (x / 2 ^ (8 * i) % 2 ^ 8) (y / 2 ^ (8 * i) % 2 ^ 8))
    ∧ elem 8 4 (pmul4Bits p.1 fm x y) (fun i => fmulBits p.2 fm (x / 2 ^ (8 * i) % 2 ^ 8) (y / 2 ^ (8 * i) % 2 ^ 8)))
  ∧ (∀ (fm : W) (x y z : Nat), ∀ p ∈ [(0, fmtF16), (1, fmtBf16)],
    elem 16 2 (hfma2Bits p.1 fm x y z) (fun i => ffmaBits p.2 fm (x / 2 ^ (16 * i) % 2 ^ 16) (y / 2 ^ (16 * i) % 2 ^ 16) (z / 2 ^ (16 * i) % 2 ^ 16)))
  ∧ (∀ (fm : W) (x y z : Nat), ∀ p ∈ [(fmtF16, 16, 2, dot2Bits 0 fm x y z), (fmtBf16, 16, 2, dot2Bits 1 fm x y z),
      (fmtE4m3, 8, 4, dot4Bits 0 fm x y z), (fmtE5m2, 8, 4, dot4Bits 1 fm x y z)],
    let a := fun (i : Nat) => frd p.1 fm (x / 2 ^ (p.2.1 * i) % 2 ^ p.2.1)
    let b := fun (i : Nat) => frd p.1 fm (y / 2 ^ (p.2.1 * i) % 2 ^ p.2.1)
    let c := frd fmtF32 fm z
    let n := p.2.2.1
    let o := p.2.2.2
    let nan := c.isNan = true ∨ ∃ i < n, (a i).isNan = true ∨ (b i).isNan = true
    let sn := c.isSnan = true ∨ ∃ i < n, (a i).isSnan = true ∨ (b i).isSnan = true
    let zeroInf := ∃ i < n, ((a i).isZero = true ∧ (b i).isInf = true) ∨ ((a i).isInf = true ∧ (b i).isZero = true)
    let infOf := fun (neg : Bool) => c = .inf neg ∨ ∃ i < n, ((a i).isInf = true ∨ (b i).isInf = true) ∧ ((a i).neg != (b i).neg) = neg
    let allZero := fun (neg : Bool) => c = .zero neg ∧ ∀ i < n, ((a i).isZero = true ∨ (b i).isZero = true) ∧ ((a i).neg != (b i).neg) = neg
    (zeroInf → o = (fmtF32.canon, flNV)) ∧ (¬ zeroInf → nan → (sn → o = (fmtF32.canon, flNV)) ∧ (¬ sn → o = (fmtF32.canon, 0)))
    ∧ (¬ zeroInf → ¬ nan → infOf true → infOf false → o = (fmtF32.canon, flNV))
    ∧ (∀ neg, ¬ zeroInf → ¬ nan → infOf neg → ¬ infOf (!neg) → o = (fmtF32.withSign neg fmtF32.infBits, 0))
    ∧ (¬ nan → ¬ infOf true → ¬ infOf false → ∀ zneg, (zneg = true ↔ allZero true ∨ (rmode fmtF32 fm = 3 ∧ ¬ allZero false)) →
        Delivers fmtF32 fm (((List.range n).map (fun i => (a i).val * (b i).val)).sum + c.val : Rat) zneg o))
  ∧ (∀ (fm : W) (x y z : Nat),
    let el := fun (w : Nat) (signed : Bool) (v i : Nat) => let k := v / 2 ^ (w * i) % 2 ^ w
      if signed = true ∧ 2 ^ (w - 1) ≤ k then (k : Int) - 2 ^ w else k
    let dot := fun (w n : Nat) (signed : Bool) =>
      ((BitVec.ofInt 32 (((List.range n).map (fun i => el w signed x i * el w signed y i)).sum + z)).toNat, (0 : FFlags))
    dot4Bits 2 fm x y z = dot 8 4 true ∧ dot4Bits 3 fm x y z = dot 8 4 false ∧ dot8Bits 0 fm x y z = dot 4 8 true ∧ dot8Bits 1 fm x y z = dot 4 8 false)
  )

/-- R161 to R163, R166, R167: quads and crews, lane by lane. Only lanes that are occupied, active and no helpers contribute (R159); a lane that is
empty gives 0.

R108, R164, R165, R171: reductions and scans over a crew write each active lane's result, the flags of all their operations raised in every active
lane, or fault together for an enabled flag; where no enable bit is set they complete.

R64, R104 to R108: each combining code on two values; EMPTY; the trees of a reduction, a scan and a segmented scan, step by step; the last lane
of a segment; and that every lane of a reduction holds one result. Where the last segment of a partial crew ends is the model's reading (log 47). -/
def Obligations.QuadsAndCrews : Prop :=
  (
  let low := fun (l : List LaneView) => argMin (fun (x : LaneView) => x.pos) l
  Sets .xmov (fun _ f _ ls lv => setD lv f (srcA ls lv f))
  ∧ Sets .qswz (fun _ f _ ls lv =>
      let j := lv.pos - lv.pos % 4 + f.b.toNat / 4 ^ (lv.pos % 4) % 4
      setD lv f (match ls.find? (fun l => l.pos == j) with | some l => l.read f.aS f.a.toNat | none => 0))
  ∧ Sets .vote (fun _ f _ ls lv =>
      let c := ls.filter (fun l => !l.helper && laneActive f l)
      let yes := c.filter (fun l => getPred l.k (f.a.toNat % 8))
      setD lv f (BitVec.ofNat 32 (match f.modx.toNat with
        | 0 => (yes.map (fun l => 2 ^ l.pos)).sum
        | 1 => if yes.length = c.length then 1 else 0
        | _ => if yes.isEmpty then 0 else 1)))
  ∧ Sets .cfirst (fun _ f _ ls lv => setD lv f (match low (ls.filter (fun l => !l.helper && laneActive f l)) with
      | some l => srcA ls l f | none => 0))
  ∧ Sets .xsel (fun r f _ ls lv => setD lv f (match ls.find? (fun l => l.pos == (srcB r ls lv f).toNat % 32) with
      | some l => l.read f.aS f.a.toNat | none => 0))
  ∧ Sets .cperm (fun r f _ ls lv => setD lv f (match argMin (fun (l : LaneView) => 31 - l.pos)
        (ls.filter (fun l => laneActive f l && (srcB r ls l f).toNat % 32 == lv.pos)) with
      | some l => l.read f.aS f.a.toNat | none => 0))
  ) ∧ (
  let crew := fun (run : Nat → W → CrewVals → CrewVals × FFlags) (_ : Row) (f : Fields) (e : Env) (ls : List LaneView) (lv : LaneView) =>
    let o := run f.modx.toNat e.fmode (crewGather f ls)
    (setD lv f ((crewVal o.1 lv.pos).getD 0), o.2)
  let seg := fun (r : Row) (f : Fields) (e : Env) (ls : List LaneView) (lv : LaneView) =>
    let mask := segMask r f ls
    let o := crewSegScan f.modx.toNat e.fmode mask (crewGather f ls)
    (setD lv f ((crewVal o.1 (segEnd mask 32 lv.pos)).getD 0), o.2)
  let gives := fun (a : Fields → Instr) (out : Row → Fields → Env → List LaneView → LaneView → LaneView × FFlags) => SetsF a out ∧ Completes a out
  gives .cred (crew crewReduce) ∧ gives .cscan (crew crewScan) ∧ gives .csegred seg
  ∧ (∀ (f : Fields) (ls : List LaneView), (∀ l ∈ ls, l.pos < 32) → OwnPositions ls →
      (∀ l ∈ ls, crewVal (crewGather f ls) l.pos = if laneActive f l = true ∧ l.helper = false then some (srcA ls l f) else none)
      ∧ ∀ i, (∀ l ∈ ls, l.pos ≠ i) → crewVal (crewGather f ls) i = none)
  ∧ (∀ (r : Row) (f : Fields) (ls : List LaneView) (first last : LaneView), OwnPositions ls → first ∈ ls → last ∈ ls →
      (∀ l ∈ ls, first.pos ≤ l.pos ∧ l.pos ≤ last.pos) → segMask r f ls = (srcB r ls first f).toNat % 2 ^ (last.pos + 1))
  ) ∧ (
  let flagsOf := fun (fl : FFlags) (did : Nat → Nat → FFlags → Prop) =>
    ∀ b, fl.getLsbD b = true ↔ ∃ d ∈ crewDists, ∃ i < 32, ∃ x, did d i x ∧ x.getLsbD b = true
  let next := fun (d : Nat) => 2 * d
  (∀ fm a b, crewOp 0 fm a b = (a + b, 0) ∧ crewOp 2 fm a b = (if a.toInt ≤ b.toInt then a else b, 0)
    ∧ crewOp 3 fm a b = (if a.toInt ≤ b.toInt then b else a, 0) ∧ crewOp 4 fm a b = (if a.toNat ≤ b.toNat then a else b, 0)
    ∧ crewOp 5 fm a b = (if a.toNat ≤ b.toNat then b else a, 0) ∧ crewOp 8 fm a b = (a &&& b, 0)
    ∧ crewOp 9 fm a b = (a ||| b, 0) ∧ crewOp 10 fm a b = (a ^^^ b, 0)
    ∧ ∀ p ∈ [(1, faddBits fmtF32 fm a.toNat b.toNat), (6, fminmaxBits fmtF32 fm false a.toNat b.toNat), (7, fminmaxBits fmtF32 fm true a.toNat b.toNat)],
      crewOp p.1 fm a b = (BitVec.ofNat 32 p.2.1, p.2.2))
  ∧ (∀ m fm x, crewOpE m fm x none = (x, 0) ∧ crewOpE m fm none x = (x, 0))
  ∧ (∀ m fm a b, crewOpE m fm (some a) (some b) = (some (crewOp m fm a b).1, (crewOp m fm a b).2))
  ∧ (∀ (m : Nat) (fm : W) (v : CrewVals),
    (∃ val : Nat → Nat → Option W,
      let op := fun (d i : Nat) => crewOpE m fm (val d (min i (i ^^^ d))) (val d (max i (i ^^^ d)))
      (∀ i < 32, val 1 i = crewVal v i) ∧ (∀ d ∈ crewDists, ∀ i < 32, val (next d) i = (op d i).1)
      ∧ (∀ i < 32, crewVal (crewReduce m fm v).1 i = val 32 i)
      ∧ flagsOf (crewReduce m fm v).2 (fun d i x => x = (op d i).2))
    ∧ (∀ i < 32, crewVal (crewReduce m fm v).1 i = crewVal (crewReduce m fm v).1 0)
    ∧ (∃ val : Nat → Nat → Option W,
      let op := fun (d i : Nat) => crewOpE m fm (val d (i - d)) (val d i)
      (∀ i < 32, val 1 i = crewVal v i) ∧ (∀ d ∈ crewDists, ∀ i < 32, val (next d) i = if d ≤ i then (op d i).1 else val d i)
      ∧ (∀ i < 32, crewVal (crewScan m fm v).1 i = val 32 i)
      ∧ flagsOf (crewScan m fm v).2 (fun d i x => d ≤ i ∧ x = (op d i).2))
    ∧ (∀ mask : Nat, ∃ (val : Nat → Nat → Option W) (start : Nat → Nat → Bool),
      let op := fun (d i : Nat) => crewOpE m fm (val d (i - d)) (val d i)
      (∀ i < 32, val 1 i = crewVal v i) ∧ (∀ i < 32, start 1 i = (i == 0 || mask.testBit i))
      ∧ (∀ d ∈ crewDists, ∀ i < 32, val (next d) i = (if start d i then val d i else (op d i).1)
          ∧ start (next d) i = (start d i || (decide (d ≤ i) && start d (i - d))))
      ∧ (∀ i < 32, crewVal (crewSegScan m fm mask v).1 i = val 32 i)
      ∧ flagsOf (crewSegScan m fm mask v).2 (fun d i x => start d i = false ∧ x = (op d i).2)))
  ∧ (∀ mask i, i < 32 → let j := segEnd mask 32 i
      i ≤ j ∧ j < 32 ∧ (∀ k, i < k → k ≤ j → mask.testBit k = false) ∧ (j = 31 ∨ mask.testBit (j + 1) = true))
  )

/-- What `State.commit` does with results that are no faults, and what memory and scratch keep over `exec` of the instructions named.

R32, R38, R58: the result of an instruction of a column core changes that core's s registers, latches, predicates, flag accumulator
and position, and nothing else in the machine: every byte every column reads is as before.

R17, R32, R38: the result of an instruction of a group's scalar context changes the group's s registers, latches and predicates and
its deal's accumulator and position, and nothing else. While an earlier instruction of the trick is pending, its flags stay with that one.

R32, R35, R38: the results of an instruction of a block of threads. A thread that has no active lane in the trick, and
every thread of every other group, is as before; a thread with an active lane takes the registers of such a lane and nothing else; the flags of the
lanes join the deal's accumulator, a helper's do not; nothing outside the core changes, and no byte of memory or scratch.

R38, R173, R182, R186, R189: over `exec`, whether an instruction ends, faults or waits. The register-only instructions (OP below 0x100) and the scratch
loads change no byte of memory as any column sees it, none of a home and none of any scratch; a scratch store or `atoms` no byte of scratch but
those at the places its lanes' addresses reach. A global load, store or atomic changes no scratch, and no byte of memory but of the 128-byte lines its
lanes' addresses are translated to, where the slice has room and no flush or eviction that a release or acquire at die scope or wider brings goes with it;
a store no byte but those at the places themselves, where no other slice holds their sectors. -/
def Obligations.Frames : Prop :=
  (
  ∀ (s : State) (c : Nat) (e : Env) (lv out : LaneView) (fl : FFlags) (rest : List (LaneView × LRes)) (words : Nat), e.who = .col c →
    let t := s.commit e ((lv, .ok out fl) :: rest) words
    t.cc c = { s.cc c with s := out.s, q := out.q, k := out.k, acc := (s.cc c).acc ||| fl, pos := (s.cc c).pos + words }
    ∧ { t.col c with core := s.cc c } = s.col c ∧ (∀ c', c' ≠ c → t.col c' = s.col c') ∧ { t with cols := s.cols } = s
    ∧ (∀ k a, t.viewByte k a = s.viewByte k a)
  ) ∧ (
  ∀ (s : State) (n slot : Nat) (e : Env) (d : Deal) (x : Group) (lv out : LaneView) (fl : FFlags) (words : Nat),
    e.who = .deal n slot → e.kind = 2 → slot < 2 → s.deal? n slot = some d → s.grp? n d.grp = some x →
    let t := s.commit e [(lv, .ok out fl)] words
    t.grp? n d.grp = some { x with s := out.s, q := out.q, k := out.k }
    ∧ (let y := (d.addFlags d.trick 0 fl).advance words
      t.deal? n slot = some (if d.empty then { y with done := true, pend := [] } else y))
    ∧ (d.pending = [] → d.addFlags d.trick 0 fl = { d with acc := d.acc ||| fl })
    ∧ (d.pending ≠ [] → (d.addFlags d.trick 0 fl).acc = d.acc)
    ∧ t.deal? n (1 - slot) = s.deal? n (1 - slot)
    ∧ (∀ g, g ≠ d.grp → t.grp? n g = s.grp? n g) ∧ (∀ m, m ≠ n → t.core m = s.core m)
    ∧ { t.core n with groups := (s.core n).groups, deal0 := (s.core n).deal0, deal1 := (s.core n).deal1 } = s.core n
    ∧ { t with cores := s.cores } = s ∧ (∀ k a, t.viewByte k a = s.viewByte k a)
  ) ∧ (
  ∀ (s : State) (n slot : Nat) (e : Env) (d : Deal) (x : Group) (f : Fields) (ls : List LaneView) (out : LaneView → LaneView × FFlags) (words : Nat),
    e.who = .deal n slot → e.kind ≠ 2 → slot < 2 → s.deal? n slot = some d → s.grp? n d.grp = some x →
    (∀ lv, (out lv).1.tidx = lv.tidx ∧ (out lv).1.helper = lv.helper) →
    let t := s.commit e (laneRes f ls (fun lv => .ok (out lv).1 (out lv).2)) words
    (∀ i, (∀ lv ∈ ls, lv.helper = false → laneActive f lv = true → lv.tidx ≠ i) → t.thr? n d.grp i = s.thr? n d.grp i)
    ∧ (∀ i th, s.thr? n d.grp i = some th → (∃ lv ∈ ls, lv.helper = false ∧ laneActive f lv = true ∧ lv.tidx = i) →
        ∃ lv ∈ ls, lv.helper = false ∧ laneActive f lv = true ∧ lv.tidx = i
          ∧ t.thr? n d.grp i = some { th with v := (out lv).1.v, k := (out lv).1.k, q := (out lv).1.q })
    ∧ (d.pending = [] → ∃ y, t.deal? n slot = some y ∧ ∀ b, y.acc.getLsbD b = true ↔
        d.acc.getLsbD b = true ∨ ∃ lv ∈ ls, lv.helper = false ∧ laneActive f lv = true ∧ (out lv).2.getLsbD b = true)
    ∧ (∃ y, t.grp? n d.grp = some y ∧ { y with threads := x.threads } = x)
    ∧ (∀ g, g ≠ d.grp → t.grp? n g = s.grp? n g) ∧ (∀ m, m ≠ n → t.core m = s.core m)
    ∧ { t with cores := s.cores } = s ∧ (∀ k a, t.viewByte k a = s.viewByte k a)
  ) ∧ (
  let memory := fun (s t : State) => (∀ c a, t.viewByte c a = s.viewByte c a) ∧ ∀ a, t.homeByte a = s.homeByte a
  let scratch := fun (s t : State) => ∀ n g, (t.grp? n g).map (fun x => x.scratch) = (s.grp? n g).map (fun x => x.scratch)
  (∀ (i : Instr) (r : Row) (s t : State), rowOf i = some r → r.op < 0x100 ∨ r.op = 0x102 ∨ r.op = 0x104 → exec i s = .next t → memory s t ∧ scratch s t)
  ∧ (∀ mk ∈ [Instr.sts, Instr.stsMem, Instr.stc, Instr.stcMem, Instr.atoms], ∀ (r : Row) (f : Fields) (s t : State) (e : Env) (ls : List LaneView),
    Issues (mk f) r f s e ls → exec (mk f) s = .next t →
    let cluster := decide (r.op = 0x105) || (decide (r.op = 0x10A) && decide (memScope f = 3))
    ((∀ x, releaseOf f = some x → x < 4) → (∀ x, acquireOf f = some x → x < 4) → memory s t)
    ∧ ∀ n g x, s.grp? n g = some x → ∃ y, t.grp? n g = some y ∧ ∀ off,
      (∀ lv ∈ storing f ls, ∀ o, s.scratchTarget e cluster (scratchEa ls lv f) (accSize r f) = some (.grp n g, o) →
        ¬ (o ≤ off ∧ off < o + accSize r f)) →
      mapGet y.scratch off 0 = mapGet x.scratch off 0)
  ∧ (∀ mk ∈ [Instr.ld, Instr.ldMem, Instr.lda, Instr.st, Instr.stMem, Instr.strl, Instr.atom, Instr.atomc, Instr.meld], ∀ (r : Row) (f : Fields)
    (s t : State) (e : Env) (ls : List LaneView), Issues (mk f) r f s e ls → exec (mk f) s = .next t →
    let m := s.memCtx e
    let reached := accReaches s r f e ls
    (∀ x, releaseOf f = some x → x < 4) → (∀ x, acquireOf f = some x → x < 4) → Room s m.unit.col (2 * ls.length) →
    scratch s t
    ∧ (∀ a, (∀ b, reached b → b / 128 ≠ a / 128) → (∀ c, t.viewByte c a = s.viewByte c a) ∧ t.homeByte a = s.homeByte a)
    ∧ (accKind r = .store → (∀ b, reached b → OwnSector s m.unit.col (b / 32)) → ∀ a, ¬ reached a → t.viewByte m.unit.col a = s.viewByte m.unit.col a))
  )

/-- R50, R58: an instruction whose predicate is false in every lane does nothing but let the agent go on.

R59, R35: an illegal instruction faults in every active lane with cause 1 and the lowest reason that applies; a helper writes 0 instead.

R69: a word with a reserved opcode is illegal with reason 1 and changes no register.

R59, R229: a privileged instruction at a privilege too low is an illegal instruction with reason 7, which traps; `halt` needs M, the others S. That
`tlbi` in its literal form reports reason 7 also where LIT[31:16] is not zero is the model's choice (log 39). -/
def Obligations.Legality : Prop :=
  (
  (∀ (i : Instr) (r : Row) (f : Fields) (s : State) (e : Env) (ls : List LaneView), rowOf i = some r → fieldsOf i = some f →
    issueCtx s = some (e, ls) → ls.any (laneActive f) = false → exec i s = .next (s.advance e.who (wordsOf f)))
  ∧ (∀ (op : BitVec 10) (f : Fields) (s : State) (e : Env) (ls : List LaneView), issueCtx s = some (e, ls) → ls.any (laneActive f) = false →
    exec (.reservedOpcode (.long op f)) s = .next (s.advance e.who (wordsOf f)))
  ∧ (∀ (s : State) (c words : Nat), (s.advance (.col c) words).cc c = { s.cc c with pos := (s.cc c).pos + words })
  ) ∧ (
  ∀ (i : Instr) (r : Row) (f : Fields) (s : State) (e : Env) (ls : List LaneView) (reason : Nat), rowOf i = some r → fieldsOf i = some f →
    issueCtx s = some (e, ls) → ls.any (laneActive f) = true → illegal r e f = some reason →
    exec i s = .next (s.commit e (laneRes f ls (fun lv =>
      if lv.helper then .ok (zeroDest r lv f) 0 else .fail ⟨1, reason, e.pc, 0, 0, 0, 0⟩)) (wordsOf f))
  ) ∧ (
  (∀ (op : BitVec 10) (f : Fields) (s : State) (e : Env) (ls : List LaneView), issueCtx s = some (e, ls) → ls.any (laneActive f) = true →
    exec (.reservedOpcode (.long op f)) s = .next (s.commit e (laneRes f ls (fun lv =>
      if lv.helper then .ok lv 0 else .fail ⟨1, 1, e.pc, 0, 0, 0, 0⟩)) (wordsOf f)))
  ∧ (∀ (op : BitVec 8) (f : ShortFields) (s : State) (e : Env) (ls : List LaneView), issueCtx s = some (e, ls) →
    exec (.reservedOpcode (.short op f)) s = .next (s.commit e (ls.map (fun lv =>
      (lv, if lv.helper then .ok lv 0 else .fail ⟨1, 1, e.pc, 0, 0, 0, 0⟩))) 1))
  ) ∧ (
  ∀ (mk : Fields → Instr), mk ∈ [Instr.tret, Instr.tlbiAll, Instr.tlbiAsid, Instr.tlbiAsidLit, Instr.tlbiPage, Instr.tlbiPageLit, Instr.swpgMv,
      Instr.swpgXch, Instr.mscfWb, Instr.mscfWbi, Instr.gsave, Instr.grest, Instr.fqpop, Instr.kresRetry, Instr.kresContinue, Instr.kresRetire,
      Instr.halt] →
    ∀ (r : Row) (f : Fields) (s : State) (e : Env) (c : Nat) (lv : LaneView), rowOf (mk f) = some r → issueCtx s = some (e, [lv]) →
      e.who = .col c → e.kind = 3 → laneActive f lv = true → lv.helper = false → illegal r { e with priv := 3 } f = none →
      (e.priv < (if r.op = 0x1CD then 3 else 1)) →
      exec (mk f) s = .next (s.takeTrap c 1 7 e.addr e.pc 0)
  )

/-- R225, R226: a trap. From U it is taken to S, which clears EIE; from S or M to M. The registers of the level receive the cause word, the header
address, the address to resume at, the information and the latches; the core goes on in the handler's block with latches reading 0; s registers,
predicates and `fmode` stay, and the flags of the block join `fstat` (the last by the model's reading, log 15). That is where the handler block can be fetched; where the
fetch meets a system lock, the core is left about to fetch it.

R226: a trap to M whose handler cannot be fetched halts the core, and the failure is reported.

R228, R229: `ecall` and `brk` trap with causes 25 and 26, to resume after themselves.

R228: at a block boundary at U or S, with EIE set and an unmasked event pending, the event trap is taken instead of the next block; otherwise
nothing happens. The event trap's `tblk` is the address of the block about to begin, by the model's reading (log 15). -/
def Obligations.TrapEntry : Prop :=
  (
  ∀ (s : State) (c cause code : Nat) (blk next info h : D64) (body : List W),
    let x := s.cc c
    let toM := x.priv != 0
    let s1 := s.modCc c (fun y => y.enter toM cause code blk next info)
    let vec := if toM then x.trapM.vec else x.trapS.vec
    (s1.fetchBlock c (s1.colXlate c (if toM then 3 else 1)) true vec = .wait → s.takeTrap c cause code blk next info = s1 ∧ (s1.cc c).fetch = .handler)
    ∧ (s1.fetchBlock c (s1.colXlate c (if toM then 3 else 1)) true vec = .ok h body →
    let t := s.takeTrap c cause code blk next info
    let y := t.cc c
    let w : D64 := BitVec.ofNat 64 (code % 65536 * 65536 + (if x.eie then 4096 else 0) + x.priv % 4 * 1024 + cause % 256)
    let kept : TrapRegs → TrapRegs := fun l =>
      { vec := l.vec, scr := l.scr, cause := w, blk := blk, next := next, info := info, q0 := latchPair x.q 0, q1 := latchPair x.q 1,
        q2 := latchPair x.q 2, q3 := latchPair x.q 3 }
    (if toM then y.trapM = kept x.trapM ∧ y.trapS = x.trapS ∧ y.priv = 3 ∧ y.eie = x.eie
      else y.trapS = kept x.trapS ∧ y.trapM = x.trapM ∧ y.priv = 1 ∧ y.eie = false)
    ∧ y.addr = vec ∧ y.hdr = h ∧ y.body = some body ∧ y.pos = 0 ∧ y.q = [] ∧ y.s = x.s ∧ y.k = x.k ∧ y.fmode = x.fmode ∧ y.run = x.run
    ∧ y.snapMode = x.fmode ∧ y.fstat = x.fstat ||| x.acc.zeroExtend 32 ∧ y.acc = 0
    ∧ t.mem = s.mem ∧ t.cores = s.cores ∧ (∀ c', c' ≠ c → t.col c' = s.col c'))
  ) ∧ (
  ∀ (s : State) (c cause code : Nat) (blk next info : D64), (s.cc c).priv ≠ 0 →
    let s1 := s.modCc c (fun y => y.enter true cause code blk next info)
    (s1.fetchBlock c (.physical c) true (s.cc c).trapM.vec = .badFormat
      ∨ ∃ k d a, s1.fetchBlock c (.physical c) true (s.cc c).trapM.vec = .fail k d a) →
    let t := s.takeTrap c cause code blk next info
    (t.cc c).run = .haltedVector ∧ t.reports = s.reports ++ [.vectorFailure c] ∧ t.mem = s.mem
  ) ∧ (
  ∀ (r : Row) (f : Fields) (s : State) (e : Env) (c : Nat) (lv : LaneView), e.who = .col c →
    (Issues (.ecall f) r f s e [lv] → exec (.ecall f) s = .next (s.takeTrap c 25 0 e.addr (e.pc + BitVec.ofNat 64 (4 * wordsOf f)) 0))
    ∧ (Issues (.brk f) r f s e [lv] → exec (.brk f) s = .next (s.takeTrap c 26 0 e.addr (e.pc + BitVec.ofNat 64 (4 * wordsOf f)) 0))
  ) ∧ (
  ∀ (s : State) (c : Nat),
    let x := s.cc c
    let due := x.run = .running ∧ x.body = none ∧ (x.priv = 0 ∨ x.priv = 1) ∧ x.eie = true ∧ (s.evpend c &&& (s.col c).evmask) ≠ 0
    (due → exec (.eventTrap c) s = .next (s.takeTrap c 27 0 x.addr x.addr (s.evpend c &&& (s.col c).evmask)))
    ∧ (¬ due → exec (.eventTrap c) s = .next s)
  )

/-- R227: `tret` restores the privilege from PPRIV, and at S also EIE from PEIE. When `tnext` names the header, the block begins there; when it
names an instruction of the block at `tblk`, the core goes on at that instruction with the saved latches; outside that block it begins a new one. A
`tnext` of 0, one that is no multiple of 4, and one inside the block that is no instruction boundary are a block-format trap of the `tret`, taken to
M, for which PEIE keeps the value it held.

What a PPRIV of 2 restores is free (log 12); that the flags of the block join `fstat` is log 15; a header at `tblk` that cannot be read is log 37. -/
def Obligations.TrapReturn : Prop :=
  ∀ (r : Row) (f : Fields) (s : State) (e : Env) (c : Nat) (lv : LaneView), Issues (.tret f) r f s e [lv] → e.who = .col c →
    let x := s.cc c
    let l := if x.priv = 1 then x.trapS else x.trapM
    let p := if l.cause.toNat / 1024 % 4 = 2 then Config.privForTwo else l.cause.toNat / 1024 % 4
    let eie := if x.priv = 1 then l.cause.getLsbD 12 else x.eie
    let fst := x.fstat ||| x.acc.zeroExtend 32
    (l.next ≠ 0 → l.next.toNat % 4 = 0 → l.next = l.blk →
      exec (.tret f) s = .next (s.modCc c (fun y =>
        { y with priv := p, eie := eie, addr := l.next, body := none, pos := 0, q := [], fstat := fst, acc := 0 })))
    ∧ (∀ h body, l.next.toNat % 4 = 0 → s.fetchHeader c (s.colXlate c p) l.blk = .ok h → headerOk h true = true →
        s.fetchBlock c (s.colXlate c p) true l.blk = .ok h body → l.blk.toNat + 8 ≤ l.next.toNat →
        l.next.toNat < l.blk.toNat + 8 + 4 * hdrLen h → isBoundary (body.length + 1) body ((l.next.toNat - l.blk.toNat - 8) / 4) = true →
      ∃ t, exec (.tret f) s = .next t ∧ (t.cc c).priv = p ∧ (t.cc c).eie = eie ∧ (t.cc c).addr = l.blk ∧ (t.cc c).hdr = h
        ∧ (t.cc c).body = some body ∧ (t.cc c).pos = (l.next.toNat - l.blk.toNat - 8) / 4 ∧ (t.cc c).q = latchesOf l
        ∧ (t.cc c).s = x.s ∧ (t.cc c).k = x.k ∧ (t.cc c).fmode = x.fmode ∧ (t.cc c).fstat = fst ∧ (t.cc c).trapS = x.trapS
        ∧ (t.cc c).trapM = x.trapM ∧ t.mem = s.mem)
    ∧ (∀ h, l.next ≠ 0 → l.next.toNat % 4 = 0 → s.fetchHeader c (s.colXlate c p) l.blk = .ok h → headerOk h true = true →
        l.next.toNat < l.blk.toNat ∨ l.blk.toNat + 8 + 4 * hdrLen h ≤ l.next.toNat →
      exec (.tret f) s = .next (s.modCc c (fun y =>
        { y with priv := p, eie := eie, addr := l.next, body := none, pos := 0, q := [], fstat := fst, acc := 0 })))
    ∧ (l.next = 0 ∨ l.next.toNat % 4 ≠ 0 → exec (.tret f) s = .next (s.rejectReturn c e.pc l.next))
    ∧ (∀ h body, l.next.toNat % 4 = 0 → s.fetchHeader c (s.colXlate c p) l.blk = .ok h → headerOk h true = true →
        s.fetchBlock c (s.colXlate c p) true l.blk = .ok h body → l.blk.toNat < l.next.toNat →
        l.next.toNat < l.blk.toNat + 8 + 4 * hdrLen h →
        (l.next.toNat < l.blk.toNat + 8 ∨ isBoundary (body.length + 1) body ((l.next.toNat - l.blk.toNat - 8) / 4) = false) →
      exec (.tret f) s = .next (s.rejectReturn c e.pc l.next))
    ∧ (∀ h body, s.fetchBlock c (.physical c) true x.trapM.vec = .ok h body →
      let y := (s.rejectReturn c e.pc l.next).cc c
      y.priv = 3 ∧ y.addr = x.trapM.vec ∧ y.hdr = h ∧ y.body = some body ∧ y.pos = 0 ∧ y.trapM.blk = x.addr ∧ y.trapM.next = e.pc
      ∧ y.trapM.info = l.next
      ∧ y.trapM.cause = BitVec.ofNat 64 ((if x.trapM.cause.getLsbD 12 then 4096 else 0) + x.priv % 4 * 1024 + 18))

/-- R48, R49, R55: words written out from the formats, and the two words R243's example gives, decode to the instructions they stand for. -/
def Obligations.DecodeKnownWords : Prop :=
  -- the words of the example after R243: `fqpop s2, s8:9` and `sysrd s4:5, 0x011`
  decode [0x5CA00080, 0x80000060] = .ok (.fqpop ⟨false, 0, 2, 8, 0, 0, 0, 0, true, true, false, 0, none⟩, [])
  ∧ decode [0x9C000100, 0x00000040, 0x11] = .ok (.sysrdLit ⟨false, 0, 4, 0, 0, 0, 0, 0, true, false, false, 0, some 0x11⟩, [])
  -- the pad of R59: OP 0x3FF, PK 0, PN 1
  ∧ decode [0x7FF80000, 0] = .ok (.reservedOpcode (.long 0x3FF ⟨true, 0, 0, 0, 0, 0, 0, 0, false, false, false, 0, none⟩), [])
  -- S32: `movsi v5, -1`
  ∧ decode [0x00C05FFC] = .ok (.movsi ⟨5, 0x3FF, false, false⟩, [])
  -- L64: `iadd v1, v2, v3` under !k4
  ∧ decode [0x400C0040, 0x200C0000] = .ok (.iadd ⟨true, 4, 1, 2, 3, 0, 0, 0, false, false, false, 0, none⟩, [])
  -- L96: `iadd v1, v2, 7`
  ∧ decode [0x80000040, 0x20000000, 7] = .ok (.iaddLit ⟨false, 0, 1, 2, 0, 0, 0, 0, false, false, false, 0, some 7⟩, [])
  -- L96 mem: `st`, size 2, at a pair of s, offset 8
  ∧ decode [0x90100000, 0x400C0022, 8] = .ok (.stMem ⟨false, 0, 0, 4, 3, 0, 0, 0, false, true, false, 2, some 8⟩, [])
  -- L64: `gbar.grid`, `kand k3, k1, k2`
  ∧ decode [0x57000000, 1] = .ok (.gbarGrid ⟨false, 0, 0, 0, 0, 0, 0, 0, false, false, false, 1, none⟩, [])
  ∧ decode [0x460000C0, 0x10080000] = .ok (.kand ⟨false, 0, 3, 1, 2, 0, 0, 0, false, false, false, 0, none⟩, [])
  -- T64: `brc` to -2 when k1 reads 0, else to the block that follows; `exit`
  ∧ decode [0x4719FFFF, 0xFE000000] = .ok (.brc ⟨9, 0xFFFFFE, 0⟩, [])
  ∧ decode [0x47400000, 0] = .ok (.exit ⟨0, 0, 0⟩, [])
  -- no instruction: a header word, a terminator with the L96 code, too few words
  ∧ decode [0xC0000000, 0] = .error .headerInBody ∧ decode [0x87400000, 0, 0] = .error .longTerminator
  ∧ decode [0x40000000] = .error .tooShort

/-- R41, R48, R49, R55: every well-formed instruction's words decode to it, whatever follows; and words that decode are the words of the
instruction they decode to, so that no bit of an encoding is dropped. -/
def Obligations.EncodeDecode : Prop :=
  (∀ (i : Instr) (rest : List W), i.wf = true → decode (encode i ++ rest) = .ok (i, rest))
  ∧ (∀ (ws rest : List W) (i : Instr), decode ws = .ok (i, rest) → encode i ++ rest = ws)

/-- R32, R39, R41: the turn of a column core in the middle of a block, or of a deal, runs the instruction the words at its position decode to.
`sysrd`, `syswr` and `kres` run the row of the opcode table that their operands name; every other instruction runs as decoded. A trick of a deal that
has issued counts toward the column's signature (R392). What every turn is followed by (`State.watch`, log 3) does nothing where no GO, holding
request or access of the host waits, no group or instance is in the package and no message can leave. -/
def Obligations.StepRunsDecoded : Prop :=
  (∀ (s : State) (turn : Turn) (rest : List Turn) (c : Nat) (body : List W) (i : Instr) (tail : List W),
    s.tripped = false → s.agenda = turn :: rest → turn.act = .issue (.col c) → (s.cc c).run = .running → (s.cc c).body = some body →
    decode (body.drop (s.cc c).pos) = .ok (i, tail) →
    let t := { s with agenda := rest, tick := s.tick + turn.dt, cur := .col c }
    step s = Out.after State.watch (exec (resolveRow t i) t))
  ∧ (∀ (s : State) (turn : Turn) (rest : List Turn) (n slot : Nat) (d : Deal) (i : Instr) (tail : List W),
    s.tripped = false → s.agenda = turn :: rest → turn.act = .issue (.deal n slot) → s.deal? n slot = some d → d.done = false →
    d.blocked = false → decode (d.body.drop d.pos) = .ok (i, tail) →
    let t := { s with agenda := rest, tick := s.tick + turn.dt, cur := .deal n slot }
    step s = Out.after (fun u => (t.noteTrick u (.deal n slot)).watch) (exec (resolveRow t i) t))
  ∧ (∀ (f : State → State) (t : State) (x : Fault) (y : Refusal),
    Out.after f (.next t) = .next (f t) ∧ Out.after f (.fault x) = .fault x ∧ Out.after f (.refused y) = .refused y)
  ∧ (∀ (s : State) (i : Instr), (∀ f, i ≠ .sysrd f ∧ i ≠ .sysrdLit f ∧ i ≠ .syswr f ∧ i ≠ .syswrLit f ∧ i ≠ .kresRetry f) →
    resolveRow s i = i)
  ∧ (∀ (s : State) (turn : Turn) (rest : List Turn) (ev : Instr), s.tripped = false → s.agenda = turn :: rest → turn.act = .event ev →
    step s = Out.after State.watch (exec ev { s with agenda := rest, tick := s.tick + turn.dt }))
  ∧ (∀ s : State, (∀ e ∈ s.cols, ∀ w ∈ e.2.windows, (s.window e.1 w.1).gos = []) → (∀ e ∈ s.cores, e.2.groups = [] ∧ (s.core e.1).holdWaiters = []) →
    s.hostq = [] → s.insts = [] → s.carrying = false ∨ (s.fabric.relay = [] ∧ s.fabric.outq = []) → s.watch = s)

/-- R39, R43, R45, R225, R226, R230: the turn of a column core at a block boundary where no event trap is due. A block that can be fetched and passes
every check is begun, its latches reading 0, and its first instruction issues; a block that fails a check is a block-format trap, and a fetch that
fails a trap with its cause, both with `tblk` and `tnext` the header address (`tblk` by the model's reading, log 15). At the start address of a resumed core the block-format trap is taken
with `tvec_m` at its reset value 0. A core still about to fetch a handler fetches it.

R43, R46, R47: exactly what a block must be to begin: 1 to 127 words, kind 3 on a column core and kinds 0, 1, 2 or 4 on an array core, SETA and SETB a
flag or none, the reserved fields zero; the body a sequence of instructions that ends in its one terminator, naming no v register beyond VHIGH;
at most two engine commands, SETA a flag only with one of them, SETB only with two, and not the same flag. -/
def Obligations.BlockFetch : Prop :=
  (
  ∀ (s : State) (turn : Turn) (rest : List Turn) (c : Nat), s.tripped = false → s.agenda = turn :: rest → turn.act = .issue (.col c) →
    (s.cc c).run = .running → (s.cc c).body = none →
    let t := { s with agenda := rest, tick := s.tick + turn.dt, cur := .col c }
    let x := t.cc c
    let xl := t.colXlate c x.priv
    (x.fetch = .handler → step s = .next (t.fetchHandler c 2).watch)
    ∧ (x.fetch ≠ .handler → t.eventDue c = false →
    (∀ h body i tail, t.fetchBlock c xl true x.addr = .ok h body → decode body = .ok (i, tail) →
      let u := (t.fetchNote xl x.addr (8 + 4 * body.length)).modCc c (fun y =>
        { y with fetch := .block, hdr := h, body := some body, pos := 0, q := [], snapMode := y.fmode, snapStat := y.fstat, acc := 0 })
      step s = Out.after State.watch (exec (resolveRow u i) u))
    ∧ (t.fetchBlock c xl true x.addr = .badFormat → step s = .next (((if x.fetch = .start then
        t.modCc c (fun y => { y with trapM := { y.trapM with vec := 0 } }) else t).takeTrap c 18 0 x.addr x.addr 0).watch))
    ∧ (∀ cause code va, t.fetchBlock c xl true x.addr = .fail cause code va → step s = .next (t.takeTrap c cause code x.addr x.addr va).watch))
  ) ∧ (
  (∀ h col, headerOk h col = true ↔
    h.toNat / 2 ^ 62 = 3 ∧ h.toNat / 2 ^ 55 % 128 ≠ 0 ∧ h.toNat / 2 ^ 26 % 32 = 0 ∧ h.toNat % 2 ^ 16 = 0
    ∧ (let kind := h.toNat / 2 ^ 52 % 8; let a := h.toNat / 2 ^ 36 % 16; let b := h.toNat / 2 ^ 32 % 16
      (a < 12 ∨ a = 15) ∧ (b < 12 ∨ b = 15) ∧ (if col then kind = 3 else kind = 0 ∨ kind = 1 ∨ kind = 2 ∨ kind = 4)
      ∧ (kind = 2 ∨ kind = 3 → h.getLsbD 31 = false ∧ h.toNat / 2 ^ 16 % 1024 = 0)
      ∧ (kind = 3 → h.toNat / 2 ^ 40 % 4096 = 0 ∧ a = 15 ∧ b = 15)))
  ∧ (∀ h body col, blockOk h body col = true ↔ headerOk h col = true ∧ ∃ (front : List Instr) (i : Instr) (op : Nat) (f : TermFields),
      front.flatMap encode ++ encode i = body ∧ (∀ x ∈ front ++ [i], decode (encode x) = .ok (x, []) ∧ highestV x ≤ h.toNat / 2 ^ 16 % 1024)
      ∧ termOf i = some (op, f) ∧ termOk op f = true ∧ (∀ x ∈ front, termOf x = none)
      ∧ (let n := (front.filter (fun x => (rowOf x).any (fun r => [0x163, 0x164, 0x165, 0x167, 0x168, 0x169, 0x16A, 0x16C, 0x16D].contains r.op))).length
        let a := h.toNat / 2 ^ 36 % 16
        let b := h.toNat / 2 ^ 32 % 16
        n ≤ 2 ∧ (a ≠ 15 → 1 ≤ n ∧ a ≠ b) ∧ (b ≠ 15 → 2 ≤ n)))
  ∧ (∀ (op : Nat) (f : TermFields), op ∈ [0x070, 0x071, 0x072, 0x073, 0x074, 0x075, 0x076] → (termOk op f = true ↔
      (op ≠ 0x071 → f.cond = 0) ∧ (op = 0x070 ∨ op = 0x074 → f.tb = 0) ∧ (op = 0x072 ∨ op = 0x074 → f.ta = 0)
      ∧ (op = 0x072 ∨ op = 0x073 → f.tb.toNat % 2 ^ 13 = 0) ∧ (op = 0x075 → f.tb.toNat % 2 ^ 12 = 0) ∧ (op = 0x076 → f.tb.toNat / 2 ^ 16 = 0)))
  )

/-- R416, R230, R232: reset as the rules give it: column core 0 runs at machine privilege, every other is halted from reset, every die runs at
800 MHz, every register of R232 has its Reset value, and memory lists nothing. (What the spec gives no reset value for is not stated.)

R399: after a trip nothing further is performed, until the power comes up again. -/
def Obligations.ResetAndTrip : Prop :=
  (
  let s := State.reset
  (s.cc 0).run = .running ∧ (s.cc 0).priv = 3 ∧ (∀ c, 0 < c → (s.cc c).run = .haltedReset ∧ (s.cc c).priv = 3)
  ∧ (∀ d, (s.die d).mhz = 800) ∧ s.tripped = false
  ∧ (∀ c, (s.cc c).trapS = ⟨0, 0, 0, 0, 0, 0, 0, 0, 0, 0⟩ ∧ (s.cc c).trapM = ⟨0, 0, 0, 0, 0, 0, 0, 0, 0, 0⟩ ∧ (s.cc c).eie = false
      ∧ (s.cc c).ptbase = 0 ∧ (s.cc c).asid = 0 ∧ (s.cc c).rsmAddr = 0 ∧ (s.col c).policy = 0 ∧ (s.col c).age = 16
      ∧ (s.gov c).req = 0xFFFF ∧ (s.gov c).eff = 0xFFFF ∧ (s.gov c).thrLast = 0 ∧ (s.gov c).thrCount = 0 ∧ (s.gov c).vbusSlow = 0
      ∧ (s.col c).calIdx = 0 ∧ s.evpend c = 0 ∧ (s.col c).evmask = 0 ∧ (s.col c).tickcmp = 0xFFFFFFFFFFFFFFFF ∧ (s.col c).fq = [])
  ∧ (∀ d, (s.die d).log = [] ∧ (s.die d).mscHit = 0 ∧ (s.die d).mscMiss = 0 ∧ (s.die d).mscWb = 0)
  ∧ s.gbarGap = 0 ∧ (∀ n, s.ctxroot n = 0)
  ) ∧ (
  ∀ (s : State) (turn : Turn) (rest : List Turn), s.tripped = true → s.agenda = turn :: rest →
    (∀ a b c d, turn.act ≠ .event (.powerOn a b c d)) → step s = .fault .tripped
  )

/-- R55, R56, R132 to R138, on a column core: `br`, `brc`, `brx` and `call` go to the block at the target, latches reading 0 and the block's flags
joining `fstat`; `exit` traps with cause 24, `park` is illegal with reason 2, `trap` traps with cause 8 and its code.

R134, R14: the terminator of a group-scalar block takes every live thread of the group with it, and the scalar context is idle again. `trap`
stops the scalar context with a record of SRC 3. -/
def Obligations.ColumnTerminators : Prop :=
  (
  ∀ (s : State) (c : Nat) (e : Env) (lv : LaneView) (f : TermFields), issueCtx s = some (e, [lv]) → e.who = .col c →
    let goes := fun (addr : D64) (out : LaneView) => s.modCc c (fun y =>
      { y with s := out.s, k := out.k, addr := addr, body := none, pos := 0, q := [], fstat := y.fstat ||| y.acc.zeroExtend 32, acc := 0 })
    let at_ := fun (t : BitVec 24) => e.addr + 4 * t.signExtend 64
    let follow : D64 := e.addr + BitVec.ofNat 64 (8 + 4 * ((s.cc c).hdr.toNat / 2 ^ 55 % 128))
    let pairX := f.tb.getLsbD 13
    let pair := (f.tb.extractLsb' 14 10).toNat
    exec (.br f) s = .next (goes (at_ f.ta) lv)
    ∧ exec (.brc f) s = .next (goes (if getPred lv.k (f.cond.toNat % 8) != f.cond.getLsbD 3 then at_ f.ta
        else if f.tb = 0 then follow else at_ f.tb) lv)
    ∧ (operandOk e (.src true) pairX pair = true → (lv.read64 pairX pair).toNat % 4 = 0 → exec (.brx f) s = .next (goes (lv.read64 pairX pair) lv))
    ∧ (operandOk e (.src true) pairX pair = true → (lv.read64 pairX pair).toNat % 4 ≠ 0 →
        exec (.brx f) s = .next (s.takeTrap c 1 9 e.addr e.pc 0))
    ∧ (operandOk e (.dst true) pairX pair = true → exec (.call f) s = .next (goes (at_ f.ta) (lv.write64 pairX pair follow)))
    ∧ exec (.exit f) s = .next (s.takeTrap c 24 0 e.addr 0 0)
    ∧ exec (.park f) s = .next (s.takeTrap c 1 2 e.addr e.pc 0)
    ∧ exec (.trap f) s = .next (s.takeTrap c 8 (f.tb.toNat % 2 ^ 16) e.addr (at_ f.ta) 0)
  ) ∧ (
  ∀ (s : State) (n slot : Nat) (e : Env) (lv : LaneView) (d : Deal) (x : Group) (f : TermFields), issueCtx s = some (e, [lv]) →
    e.who = .deal n slot → s.deal? n slot = some d → s.grp? n d.grp = some x → e.kind = 2 →
    let pairX := f.tb.getLsbD 13
    let pair := (f.tb.extractLsb' 14 10).toNat
    let follow : D64 := e.addr + BitVec.ofNat 64 (8 + 4 * (d.hdr.toNat / 2 ^ 55 % 128))
    let at_ := fun (t : BitVec 24) => e.addr + 4 * t.signExtend 64
    let live := x.threads.filter (fun y => y.2.st != .retired)
    let all := fun (out : LaneView) (addr : D64) (mask : BitVec 12) =>
      ((live.foldl (fun t y => t.enterHand n d.grp y.1 addr mask)
        (s.modGrp n d.grp (fun y => { y with s := out.s, k := out.k, q := [], scalar := .idle }))).splitTest n d.grp).finishTrick n slot
    exec (.br f) s = .next (all lv (at_ f.ta) 0)
    ∧ exec (.brc f) s = .next (all lv (if getPred lv.k (f.cond.toNat % 8) != f.cond.getLsbD 3 then at_ f.ta
        else if f.tb = 0 then follow else at_ f.tb) 0)
    ∧ (operandOk e (.src true) pairX pair = true → (lv.read64 pairX pair).toNat % 4 = 0 → exec (.brx f) s = .next (all lv (lv.read64 pairX pair) 0))
    ∧ (operandOk e (.dst true) pairX pair = true → exec (.call f) s = .next (all (lv.write64 pairX pair follow) (at_ f.ta) 0))
    ∧ exec (.exit f) s = .next ((live.foldl (fun t y => t.retireThread n d.grp y.1)
        (s.modGrp n d.grp (fun y => { y with q := [], scalar := .idle }))).finishTrick n slot)
    ∧ exec (.park f) s = .next (all lv (at_ f.ta) (f.tb.extractLsb' 12 12))
    ∧ exec (.trap f) s = .next (s.stopScalar n slot d ⟨8, f.tb.toNat % 2 ^ 16, e.pc, 0, 0, 0, at_ f.ta⟩)
  )

/-- R132 to R134, in a block of threads: each thread of the trick goes its way in ascending order, entering the hand of its target or retiring;
where threads have entered hands, crew splits are looked for (R262); and the deal goes on to its next trick or is done.

R137, R133: `trap` in a block of threads parks every thread of the trick with cause 8, the code of TB and the continuation TA. -/
def Obligations.ThreadTerminators : Prop :=
  (
  ∀ (s : State) (n slot : Nat) (e : Env) (ls : List LaneView) (d : Deal) (f : TermFields), issueCtx s = some (e, ls) → e.who = .deal n slot →
    s.deal? n slot = some d → e.kind ≠ 2 →
    let pairX := f.tb.getLsbD 13
    let pair := (f.tb.extractLsb' 14 10).toNat
    let follow : D64 := e.addr + BitVec.ofNat 64 (8 + 4 * (d.hdr.toNat / 2 ^ 55 % 128))
    let at_ := fun (t : BitVec 24) => e.addr + 4 * t.signExtend 64
    let each := fun (go : State → LaneView → State) =>
      let t := (ls.filter (fun lv => !lv.helper)).foldl go s
      (if ls.all (fun lv => lv.helper) then t else t.splitTest n d.grp).finishTrick n slot
    let goTo := fun (t : State) (lv out : LaneView) (addr : D64) (mask : BitVec 12) =>
      (t.modThr n d.grp lv.tidx (fun x => { x with v := out.v, k := out.k })).enterHand n d.grp lv.tidx addr mask
    exec (.br f) s = .next (each (fun t lv => goTo t lv lv (at_ f.ta) 0))
    ∧ exec (.brc f) s = .next (each (fun t lv => goTo t lv lv
        (if getPred lv.k (f.cond.toNat % 8) != f.cond.getLsbD 3 then at_ f.ta else if f.tb = 0 then follow else at_ f.tb) 0))
    ∧ (operandOk e (.src true) pairX pair = true → (∀ lv ∈ ls, (lv.read64 pairX pair).toNat % 4 = 0) →
        exec (.brx f) s = .next (each (fun t lv => goTo t lv lv (lv.read64 pairX pair) 0)))
    ∧ (operandOk e (.dst true) pairX pair = true →
        exec (.call f) s = .next (each (fun t lv => goTo t lv (lv.write64 pairX pair follow) (at_ f.ta) 0)))
    ∧ exec (.exit f) s = .next (((ls.filter (fun lv => !lv.helper)).foldl (fun t lv => t.retireThread n d.grp lv.tidx) s).finishTrick n slot)
    ∧ exec (.park f) s = .next (each (fun t lv => goTo t lv lv (at_ f.ta) (f.tb.extractLsb' 12 12)))
  ) ∧ (
  ∀ (s : State) (n slot : Nat) (e : Env) (ls : List LaneView) (d : Deal) (f : TermFields), issueCtx s = some (e, ls) → e.who = .deal n slot →
    s.deal? n slot = some d → e.kind ≠ 2 →
    exec (.trap f) s = .next ((s.parkLanes n slot d.grp e e.unit (ls.map (fun lv => (lv, if lv.helper then .idle
      else .fail ⟨8, f.tb.toNat % 2 ^ 16, e.pc, 0, 0, 0, e.addr + 4 * f.ta.signExtend 64⟩)))).finishTrick n slot)
  )

/-- R14, R132, R133, R253: a thread that enters a hand waits at the block with its park mask and latches reading 0, its bit set where the deck has
the entry or can take it and no other bit of the core is owed, owed otherwise; a thread that retires loses its registers; neither touches another thread. -/
def Obligations.HandsAndRetirement : Prop :=
  (∀ (s : State) (n g t : Nat) (th : Thread) (addr : D64) (mask : BitVec 12), s.thr? n g t = some th → th.owed = false →
    (∃ b, (s.enterHand n g t addr mask).thr? n g t = some
        { th with st := .waiting, next := addr, ret := none, parkMask := mask, park := none, entry := false, q := [], owed := b }
      ∧ (b = true ↔ (128 ≤ (s.core n).deck.length ∨ s.anyOwed n = true) ∧ ∀ h ∈ (s.core n).deck, ¬ (h.grp = g ∧ h.addr = addr ∧ h.ret = none)))
    ∧ (∀ i, i ≠ t → (s.enterHand n g t addr mask).thr? n g i = s.thr? n g i)
    ∧ (∀ m j i, (m, j) ≠ (n, g) → (s.enterHand n g t addr mask).thr? m j i = s.thr? m j i))
  ∧ (∀ (s : State) (n g t : Nat) (th : Thread), s.thr? n g t = some th →
    (s.retireThread n g t).thr? n g t = some
        { th with st := .retired, ret := none, v := [], k := 0, q := [], parkMask := 0, trap := none, park := none, entry := false,
                  owed := false, fence := none, entering := none }
    ∧ (∀ i, i ≠ t → (s.retireThread n g t).thr? n g i = s.thr? n g i))

/-- R3, R275: a home byte written reads as written, every other byte as before, and memory keeps its canonical form; bytes of a value are
stored with the least significant at the lowest address. -/
def Obligations.HomeMemory : Prop :=
  (∀ (s : State) (a x : Nat) (b : Byte), (s.setHomeByte a b).homeByte x = if x = a then b else s.homeByte x)
  ∧ (∀ (s : State) (a : Nat) (b : Byte), Memory.wf s.mem → Memory.wf (s.setHomeByte a b).mem)
  ∧ (∀ (s : State) (a x : Nat) (l : List Byte), (s.setHomeBytes a l).homeByte x = if a ≤ x ∧ x < a + l.length then l[x - a]?.getD 0 else s.homeByte x)
  ∧ (∀ (s : State) (a : Nat) (l : List Byte), Memory.wf s.mem → Memory.wf (s.setHomeBytes a l).mem)
  ∧ (∀ n v, leNat (leBytes n v) = v % 256 ^ n) ∧ (∀ n v i, i < n → (leBytes n v)[i]? = some (BitVec.ofNat 8 (v / 256 ^ i)))
  ∧ Memory.wf State.reset.mem

/-- R182, R275 to R278: a store to one sector of local memory. The column that stores reads the stored bytes at once; memory keeps its canonical form.
Where the slice has the sector or room for it, every byte of every other sector is as before in every slice and at the homes, and a byte of
the sector outside the mask reads as before where no other slice holds the sector. A store at die scope or wider stands at the home at once.

R181, R276, R282: a load of bytes of one local sector that no L1 copy serves, and that no other slice holds, reads what the load's scope sees of
memory. Where the slice has room, it changes nothing the column sees; below die scope nothing any column sees and no home. A strong
load at scope column or wider is served by no L1; one of a sector that the L1 holds, narrower, reads the L1's bytes. -/
def Obligations.LocalAccess : Prop :=
  (
  ∀ (s : State) (u : MemUnit) (sec : Nat) (d : BitVec 256) (mask : BitVec 32) (scope release : Option Nat),
    (∀ x, s.slice? u.col sec = some x → x.dirty &&& ~~~x.valid = 0) →
    let t := s.storeSector u sec d mask scope release
    (∀ i, i < 32 → mask.getLsbD i = true → t.viewByte u.col (32 * sec + i) = d.extractLsb' (8 * i) 8)
    ∧ (Memory.wf s.mem → Memory.wf t.mem)
    ∧ (∀ x, scope = some x → 4 ≤ x → ∀ i, i < 32 → mask.getLsbD i = true → t.homeByte (32 * sec + i) = d.extractLsb' (8 * i) 8)
    ∧ ((s.slice? u.col sec).isSome = true ∨ Room s u.col 1 →
      (∀ c x, x ≠ sec → t.slice? c x = s.slice? c x) ∧ (∀ a, a / 32 ≠ sec → t.homeByte a = s.homeByte a)
      ∧ (∀ c a, a / 32 ≠ sec → t.viewByte c a = s.viewByte c a)
      ∧ ((∀ c, c ≠ u.col → s.slice? c sec = none) → ∀ i, i < 32 → mask.getLsbD i = false →
        t.viewByte u.col (32 * sec + i) = s.viewByte u.col (32 * sec + i)))
  ) ∧ (
  (∀ (s : State) (u : MemUnit) (sec off n : Nat) (scope : Option Nat) (alloc : Bool), off + n ≤ 32 → 32 * sec < 2 ^ 48 →
    PastL1 s u scope sec → OwnSector s u.col sec →
    let r := s.loadPiece u sec off n scope alloc
    r.1 = .bytes ((List.range n).map (fun i => s.seen u scope (32 * sec + off + i)))
    ∧ (Room s u.col 1 → (∀ a, r.2.viewByte u.col a = s.viewByte u.col a)
      ∧ ((∀ x, scope = some x → x < 4) → (∀ c a, r.2.viewByte c a = s.viewByte c a) ∧ r.2.mem = s.mem)))
  ∧ (∀ (s : State) (u : MemUnit) (sec off n : Nat) (scope : Option Nat) (alloc : Bool) (l : L1Sector), off + n ≤ 32 →
    mapGet? (s.l1 u.col u.unit) sec = some l → (∀ x, scope = some x → x ≤ 1) →
    (s.loadPiece u sec off n scope alloc).1 = .bytes ((List.range n).map (fun i => l.data.extractLsb' (8 * (off + i)) 8)))
  )

/-- R177, R347: what the checks of an access on one translated page come to, in their order: alignment where the form asks for it, poison,
the far mark, permissions, locks of swaps, locks of engines; an access that passes reaches the place its leaf maps it to. An access whose page no
translation cache of the agent holds, and no failed walk of its trick, must wait for a walk; a failed walk is its fault.

R225, R347: at machine privilege an access reaches its physical address; a reserved address is page-not-present with code 1, a poisoned sector
code 3, far memory page-far. -/
def Obligations.AccessChecks : Prop :=
  (
  (∀ (s : State) (m : MemCtx) (e : Env) (u : TlbUnit) (asid root : Nat) (user : Bool) (ea n : Nat) (kind : AccKind) (scope : Option Nat)
    (aligned : Bool) (t : TlbEntry),
    m.xl = .tables u asid root user → ea < 2 ^ 48 → ea % 2 ^ 16 + n ≤ 2 ^ 16 → kind ≠ .fetch → s.cached u asid ea = some t →
    let wr := kind != .load
    let fault := fun (cause code : Nat) => AccRes.fail ⟨cause, code, e.pc, BitVec.ofNat 64 ea, if wr then 128 else 0, 0, 0⟩
    let hit := (s.col m.unit.col).locks.filter (fun l => l.asid = m.asid && l.first ≤ (ea + n - 1) / 32 && ea / 32 ≤ l.last)
    let place := s.placeOf t.leaf t.size ea
    s.checkForm m e ea n kind scope aligned =
      if aligned && ea % n ≠ 0 then fault 4 0
      else if s.accPoison m.unit scope kind n place then fault 16 3
      else if isFar (pteFrame t.leaf) then fault 17 0
      else if permDenied t.leaf kind user then fault 5 0
      else if copyStore kind place n then fault 5 0
      else if hit.any (fun l => l.sys) then .held ⟨0, 0, e.pc, BitVec.ofNat 64 ea, if wr then 128 else 0, 0, 0⟩
      else if hit.any (fun l => l.dst || wr) then fault 6 0
      else .segs [⟨ea, n, place, pteCR t.leaf && !(isWindow (placeAddr place))⟩])
  ∧ (∀ (s : State) (m : MemCtx) (e : Env) (u : TlbUnit) (asid root : Nat) (user : Bool) (ea n : Nat) (kind : AccKind) (scope : Option Nat),
    m.xl = .tables u asid root user → ea < 2 ^ 48 → ea % 2 ^ 16 + n ≤ 2 ^ 16 → s.cached u asid ea = none →
    (s.walkFailed (s.trickOf e.who) u.column asid ea = none → s.checkForm m e ea n kind scope false = .walking [ea])
    ∧ (∀ code, s.walkFailed (s.trickOf e.who) u.column asid ea = some code → s.checkForm m e ea n kind scope false =
      .fail ⟨16, code, e.pc, BitVec.ofNat 64 ea, if kind = .load then 0 else 128, 0, 0⟩))
  ∧ (∀ (s : State) (m : MemCtx) (e : Env) (kind : AccKind) (ea n k : Nat) (scope : Option Nat) (aligned : Bool), kind ≠ .fetch →
    Reaches s m kind ea n k → (aligned = true → ea % n = 0) → s.accPoison m.unit scope kind n k = false →
    ∃ cr, s.checkForm m e ea n kind scope aligned = .segs [⟨ea, n, k, cr⟩])
  ) ∧ (
  ∀ (s : State) (who : Issuer × Nat) (c va : Nat) (kind : AccKind) (bad : Nat → Bool),
    s.pageOf who (.physical c) va kind bad =
      if isReservedPa va || s.channelGone va then .fail (.cause 16 1) else if bad va then .fail (.cause 16 3)
      else if 0x10000000000 ≤ va ∧ va < 0x30000000000 then .fail (.cause 17 0) else .place va false
  )

/-- R345 to R347, R349, R411: a walk of four levels from a root: at each level a poisoned entry is page-not-present with code 3, an entry of type 0
code 0, one of type 3 code 1, a leaf the translation where it is well-formed and code 1 where it is not, a table pointer the next table where it is
well-formed and its level is 1 to 3, else code 1. An address of 2^48 or above is code 2, a root outside near memory code 1. What is well-formed: the zero
fields zero, a table in near memory whose channel is not retired, a frame aligned to its page that exists.

R33, R349, R350: an access whose page is in no translation cache waits at the instruction for a walk of its page, and the deal's other tricks go
on; when the walk ends in a leaf, the caches of every waiter and of its column's walker hold it; a fault is kept for the waiters. -/
def Obligations.PageWalks : Prop :=
  (
  (∀ (s : State) (c root va : Nat),
    (2 ^ 48 ≤ va → s.walk c root va = .fail 2)
    ∧ (va < 2 ^ 48 → 0x8000000000 ≤ root ∨ s.channelGone root = true → s.walk c root va = .fail 1)
    ∧ (va < 2 ^ 48 → root < 0x8000000000 → s.channelGone root = false →
      let entry := fun (a : Nat) => (BitVec.ofNat 64 (leNat (s.peekBytes c a 8)) : D64)
      let table := fun (e : D64) => e.toNat / 256 % 2 ^ 40 * 256
      let good := fun (level : Nat) (e : D64) => e.toNat / 2 ^ 48 = 0 ∧ e.toNat % 256 / 4 = 0 ∧ (level = 3 ∨ e.toNat / 256 % 16 = 0)
        ∧ table e < 0x8000000000 ∧ s.channelGone (table e) = false
      let level := fun (n a : Nat) (next : Nat → Prop) =>
        (s.peekPoison c a = true → s.walk c root va = .fail 3)
        ∧ (s.peekPoison c a = false →
          (entry a &&& 3 = 0 → s.walk c root va = .fail 0)
          ∧ (entry a &&& 3 = 3 → s.walk c root va = .fail 1)
          ∧ (entry a &&& 3 = 2 → s.walk c root va = if s.leafOk n (entry a) then .leaf (entry a) (4 - n) else .fail 1)
          ∧ (entry a &&& 3 = 1 → n = 4 ∨ ¬ good n (entry a) → s.walk c root va = .fail 1)
          ∧ (entry a &&& 3 = 1 → n ≠ 4 → good n (entry a) → next (table (entry a))))
      level 1 (root + 8 * (va / 2 ^ 39 % 512)) (fun t2 => level 2 (t2 + 8 * (va / 2 ^ 30 % 512)) (fun t3 =>
        level 3 (t3 + 8 * (va / 2 ^ 21 % 512)) (fun t4 => level 4 (t4 + 8 * (va / 2 ^ 16 % 32)) (fun _ => True))))))
  ∧ (∀ (s : State) (n : Nat) (e : D64), n ∈ [1, 2, 3, 4] →
    let pkg := e.toNat / 2 ^ 54
    let frame := e.toNat / 2 ^ 16 % 2 ^ 32 * 2 ^ 16
    let far := 0x10000000000 ≤ frame ∧ frame < 0x30000000000
    (s.leafOk n e = true ↔ n ≠ 1 ∧ e.toNat / 2 ^ 48 % 32 = 0 ∧ e.toNat / 2 ^ 8 % 256 = 0 ∧ e.toNat / 2 ^ 6 % 4 = 0
      ∧ frame % (if n = 4 then 2 ^ 16 else if n = 3 then 2 ^ 21 else 2 ^ 30) = 0 ∧ isReservedPa frame = false ∧ (isWindow frame = true → n = 4)
      ∧ (far → pkg = s.pkgId) ∧ (pkg = s.pkgId → s.channelGone frame = false)))
  ) ∧ (
  (∀ mk ∈ [Instr.ld, Instr.ldMem, Instr.lda, Instr.st, Instr.stMem, Instr.strl, Instr.atom, Instr.atomc, Instr.meld], ∀ (r : Row) (f : Fields) (s : State)
    (e : Env) (ls : List LaneView) (size : LaneView → Nat) (kind : AccKind) (scope : Option Nat) (aligned : Bool), Issues (mk f) r f s e ls →
    (mk ∈ [Instr.ld, Instr.ldMem, Instr.lda] → kind = .load ∧ scope = strongScope f ∧ aligned = decide (r.mem = .lda) ∧ ∀ lv, size lv = sizeBytes f.modx.toNat) →
    (mk ∈ [Instr.st, Instr.stMem, Instr.strl] → kind = .store ∧ scope = strongScope f ∧ aligned = decide (r.mem = .strl) ∧ ∀ lv, size lv = sizeBytes f.modx.toNat) →
    (mk ∈ [Instr.atom, Instr.atomc, Instr.meld] → kind = .atomic ∧ scope = some (memScope f) ∧ aligned = true) →
    (mk ∈ [Instr.atom, Instr.meld] → ∀ lv, size lv = atomBytes f.modx.toNat) → (mk ∈ [Instr.atomc] → ∀ lv, size lv = if f.modx = 1 then 8 else 4) →
    let m := s.memCtx e
    let lanes := if kind = .load then ls.filter (laneActive f) else storing f ls
    let vas := lanes.flatMap (fun lv => match s.checkForm m e (globalEa ls lv f) (size lv) kind scope aligned with | .walking l => l | _ => [])
    vas ≠ [] → exec (mk f) s = .next (s.askWalks e m vas))
  ∧ (∀ (s : State) (e : Env) (m : MemCtx) (vas : List Nat) (u : TlbUnit) (asid root : Nat) (user : Bool), m.xl = .tables u asid root user →
    let t := s.askWalks e m vas
    (∀ va ∈ vas, va < 2 ^ 64 → ∃ w ∈ (t.col u.column).walks, w.asid = asid ∧ w.va.toNat / 2 ^ 16 = va / 2 ^ 16 ∧ w.failed = none
      ∧ s.trickOf e.who ∈ w.waiters)
    ∧ (∀ c, e.who = .col c → t.cc c = s.cc c)
    ∧ (∀ n slot d, e.who = .deal n slot → s.deal? n slot = some d → t.deal? n slot = some (match d.todo with
      | next :: rest => { d with trick := next, todo := rest ++ [d.trick] }
      | [] => d))
    ∧ t.mem = s.mem ∧ (∀ n g, t.grp? n g = s.grp? n g))
  ∧ (∀ (s : State) (c : Nat) (w : Walk), (s.col c).walks.find? (fun x => x.failed == none) = some w →
    (∀ leaf size, s.walk c w.root w.va.toNat = .leaf leaf size →
      ∃ t, exec (.pageWalkComplete c) s = .next t ∧ (t.col c).walks = (s.col c).walks.filter (· != w)
        ∧ ∀ i ∈ w.waiters, let entry : TlbEntry := ⟨w.asid, w.va.toNat / pageBytes size * (pageBytes size / 2 ^ 16), size, leaf⟩
          (t.tlb (issuerTlb i.1)).getLast? = some entry ∧ (t.col (issuerTlb i.1).column).wtlb.getLast? = some entry)
    ∧ (∀ code, s.walk c w.root w.va.toNat = .fail code → exec (.pageWalkComplete c) s = .next (s.modCol c (fun y =>
        { y with walks := y.walks.map (fun v => if v = w then { v with failed := some code } else v) }))))
  )

/-- R173, R174, R181, R185, R292: `ld` and `lda` where every active lane passes its checks and its bytes are at hand. Each lane's D, or pair D, takes
the bytes at its own address, sign- or zero-extended as MODX says; an acquire follows (R291). A load stores nothing and changes no other
register.

R173, R174, R181, R282: `ld`, in both forms, and `lda` complete where every active lane's bytes lie in near memory that its agent may read and no L1
serves: D, or pair D, takes the bytes the column sees at its address. What the column sees of memory, and every other register, is
as before; below die scope no byte of a home changes. -/
def Obligations.GlobalLoads : Prop :=
  (
  ∀ mk ∈ [Instr.ld, Instr.ldMem, Instr.lda], ∀ (r : Row) (f : Fields) (s : State) (e : Env) (ls : List LaneView) (segs : LaneView → List Seg)
    (bytes : LaneView → List Byte) (t : State), Issues (mk f) r f s e ls → OwnPositions ls →
    let m := s.memCtx e
    (∀ lv ∈ ls, laneActive f lv = true →
      s.checkForm m e (globalEa ls lv f) (sizeBytes f.modx.toNat) .load (strongScope f) (r.mem = .lda) = .segs (segs lv)) →
    s.mustWait m f = false →
    (memOrder f = 0 ∨ (∀ lv ∈ ls, laneActive f lv = true → ∀ g ∈ segs lv, isRemote g.place = false)
      ∨ ∀ n slot d, e.who = .deal n slot → s.deal? n slot = some d → d.pending = []) →
    LoadsInTurn m.unit (memOrder f) (strongScope f) (memHint f != 1) segs bytes (s.leaveWalks e.who m.unit.col) (ls.filter (laneActive f)) t →
    exec (mk f) s = .next ((t.acquireOpt m.unit (acquireOf f)).commit e (laneOut f ls (fun lv =>
      let v := leNat (bytes lv)
      match f.modx.toNat with
      | 0 => setD lv f (BitVec.ofNat 32 v) | 1 => setD lv f ((BitVec.ofNat 8 v).signExtend 32)
      | 2 => setD lv f (BitVec.ofNat 32 v) | 3 => setD lv f ((BitVec.ofNat 16 v).signExtend 32)
      | 5 => setD64 lv f (BitVec.ofNat 64 v) | _ => setD lv f (BitVec.ofNat 32 v))) (wordsOf f))
  ) ∧ (
  ∀ mk ∈ [Instr.ld, Instr.ldMem, Instr.lda], ∀ (r : Row) (f : Fields) (s : State) (e : Env) (ls : List LaneView) (place : LaneView → Nat),
    Issues (mk f) r f s e ls → OwnPositions ls →
    let m := s.memCtx e
    let n := sizeBytes f.modx.toNat
    (∀ lv ∈ ls, laneActive f lv = true → Reaches s m .load (globalEa ls lv f) n (place lv) ∧ (r.mem = .lda → globalEa ls lv f % n = 0)
      ∧ ∀ i, i < n → OwnSector s m.unit.col ((place lv + i) / 32) ∧ PastL1 s m.unit (strongScope f) ((place lv + i) / 32)) →
    Room s m.unit.col (2 * ls.length) → s.mustWait m f = false →
    ∃ t, exec (mk f) s = .next ((t.acquireOpt m.unit (acquireOf f)).commit e (laneOut f ls (fun lv =>
        let v := leNat ((List.range n).map (fun i => s.seen m.unit (strongScope f) (place lv + i)))
        match f.modx.toNat with
        | 0 => setD lv f (BitVec.ofNat 32 v) | 1 => setD lv f ((BitVec.ofNat 8 v).signExtend 32)
        | 2 => setD lv f (BitVec.ofNat 32 v) | 3 => setD lv f ((BitVec.ofNat 16 v).signExtend 32)
        | 5 => setD64 lv f (BitVec.ofNat 64 v) | _ => setD lv f (BitVec.ofNat 32 v))) (wordsOf f))
      ∧ SameRegisters s t ∧ (∀ a, t.viewByte m.unit.col a = s.viewByte m.unit.col a)
      ∧ ((∀ x, strongScope f = some x → x < 4) → t.mem = s.mem)
  )

/-- R173, R174, R181 to R183, R286, R291: `st` and `strl` where every lane that stores passes its checks. The bytes of each lane's B, or pair B, go to the
places its address reaches, a later lane winning where two meet; a release comes first, and a strong store completes a release fence of its lane.
No register changes. Where only helpers are active nothing is stored.

R173, R174, R181 to R183, R275, R282: `st`, in both forms, and `strl` complete where every lane that stores reaches near memory that its agent may
write. The column sees, at each place, the byte of the last lane that stores there, and every other byte as before where no release comes first;
a store at die scope or wider stands at the home. No register changes. Where only helpers are active nothing is stored.

R183, R275: the bytes one instruction writes, as a rising list by place. A lane's segments are entered one after another, each with its share of
the lane's bytes; a segment's places hold its bytes in order, in place of an earlier lane's; every other place is as it was. Written to local memory,
each place reads as its byte and every other place as before; at die scope or wider the homes hold them. -/
def Obligations.GlobalStores : Prop :=
  (
  ∀ mk ∈ [Instr.st, Instr.stMem, Instr.strl], ∀ (r : Row) (f : Fields) (s : State) (e : Env) (ls : List LaneView) (segs : LaneView → List Seg),
    Issues (mk f) r f s e ls → OwnPositions ls →
    let m := s.memCtx e
    let n := sizeBytes f.modx.toNat
    (∀ lv ∈ storing f ls, s.checkForm m e (globalEa ls lv f) n .store (strongScope f) (r.mem = .strl) = .segs (segs lv)) →
    (storing f ls ≠ [] → s.mustWait m f = false →
      let data := fun lv => leBytes n (if f.modx = 5 then (srcB64 r ls lv f).toNat else (srcB r ls lv f).toNat)
      let w := (storing f ls).foldl (fun acc lv => addWrite acc (segs lv) (data lv)) []
      let release := fun sec => ((storing f ls).filter (fun lv => inSector (segs lv) sec)).foldl (fun a lv => widest a (s.releaseScope e f lv)) none
      let s1 := (s.leaveWalks e.who m.unit.col).releaseOpt m.unit (releaseOf f)
      let s2 := s1.storeWrites m.unit w (memOrder f) (strongScope f) release
      let s3 := if memOrder f = 0 then s2 else s2.setFence e (storing f ls) none
      exec (mk f) s = .next (s3.commit e (laneStored f ls) (wordsOf f)))
    ∧ (storing f ls = [] → exec (mk f) s = .next ((s.leaveWalks e.who m.unit.col).commit e (laneStored f ls) (wordsOf f)))
  ) ∧ (
  ∀ mk ∈ [Instr.st, Instr.stMem, Instr.strl], ∀ (r : Row) (f : Fields) (s : State) (e : Env) (ls : List LaneView) (place : LaneView → Nat),
    Issues (mk f) r f s e ls → OwnPositions ls →
    let m := s.memCtx e
    let n := sizeBytes f.modx.toNat
    let data := fun lv => leBytes n (if f.modx = 5 then (srcB64 r ls lv f).toNat else (srcB r ls lv f).toNat)
    let w := (storing f ls).foldl (fun acc lv => addWrite acc [⟨globalEa ls lv f, n, place lv, false⟩] (data lv)) []
    (∀ lv ∈ storing f ls, Reaches s m .store (globalEa ls lv f) n (place lv) ∧ (r.mem = .strl → globalEa ls lv f % n = 0)
      ∧ ∀ i, i < n → OwnSector s m.unit.col ((place lv + i) / 32)) →
    Room s m.unit.col (2 * ls.length) → s.mustWait m f = false →
    (storing f ls ≠ [] → ∃ t, exec (mk f) s = .next ((t.endFences e f (storing f ls)).commit e (laneStored f ls) (wordsOf f)) ∧ SameRegisters s t
      ∧ (∀ k b, mapGet? w k = some b → t.viewByte m.unit.col k = b ∧ (∀ x, strongScope f = some x → 4 ≤ x → t.homeByte k = b))
      ∧ ((∀ x, releaseOf f = some x → x < 4) → ∀ k, mapGet? w k = none → t.viewByte m.unit.col k = s.viewByte m.unit.col k))
    ∧ (storing f ls = [] → exec (mk f) s = .next ((s.leaveWalks e.who m.unit.col).commit e (laneStored f ls) (wordsOf f)))
  ) ∧ (
  (∀ (w : Writes) (segs : List Seg) (bs : List Byte) (k : Nat), (∀ x ∈ segs, ¬ (x.place ≤ k ∧ k < x.place + x.len)) →
    mapGet? (addWrite w segs bs) k = mapGet? w k)
  ∧ (∀ (w : Writes) (x : Seg) (bs : List Byte) (i : Nat), i < bs.length → i < x.len → mapGet? (addWrite w [x] bs) (x.place + i) = bs[i]?)
  ∧ (∀ (w : Writes) (x : Seg) (segs : List Seg) (bs : List Byte),
    addWrite w (x :: segs) bs = addWrite (addWrite w [x] (bs.take x.len)) segs (bs.drop x.len))
  ∧ (∀ (w : Writes) (segs : List Seg) (bs : List Byte), (w.map (·.1)).Pairwise (· < ·) → ((addWrite w segs bs).map (·.1)).Pairwise (· < ·))
  ∧ (∀ (s : State) (u : MemUnit) (w : Writes) (order : Nat) (scope : Option Nat) (release : Nat → Option Nat), (w.map (·.1)).Pairwise (· < ·) →
    (∀ x ∈ w, x.1 < 0x8000000000 ∧ ∀ y, s.slice? u.col (x.1 / 32) = some y → y.dirty &&& ~~~y.valid = 0) → Room s u.col w.length →
    let t := s.storeWrites u w order scope release
    (∀ x ∈ w, t.viewByte u.col x.1 = x.2 ∧ (∀ z, scope = some z → 4 ≤ z → t.homeByte x.1 = x.2))
    ∧ ((∀ x ∈ w, ∀ c, c ≠ u.col → s.slice? c (x.1 / 32) = none) → ∀ k, mapGet? w k = none → t.viewByte u.col k = s.viewByte u.col k)
    ∧ (∀ c k, (∀ x ∈ w, x.1 / 32 ≠ k / 32) → t.viewByte c k = s.viewByte c k ∧ t.homeByte k = s.homeByte k)
    ∧ (Memory.wf s.mem → Memory.wf t.mem))
  )

/-- R173, R174, R186: scratch loads. A lane whose bytes lie inside its scratch takes them; one outside faults with cause 3. Nothing is stored.

R173, R174, R181, R186, R286: scratch stores where every lane that stores is inside its scratch: lane after lane, so that a later lane wins; a strong
one completes its lane's release fence.

R173, R174, R186: `lds`, `ldc`, `sts` and `stc`, in both forms, complete where every active lane's bytes lie inside the scratch its address reaches:
the group's own, or that of the member of its gang named by the address's rank. A load's D takes the bytes there.

R173, R186: which scratch an address reaches, and that scratch written reads as written, every other byte of every scratch as before.

R189, R286: `atoms` where every lane that performs is inside its scratch and aligned: lane after lane, D takes the old value. Own scratch, or
at cluster scope that of the gang member the address names. -/
def Obligations.ScratchAccess : Prop :=
  (
  ∀ p ∈ [(Instr.lds, false), (Instr.ldsMem, false), (Instr.ldc, true), (Instr.ldcMem, true)], ∀ (r : Row) (f : Fields) (s : State) (e : Env)
    (ls : List LaneView), Issues (p.1 f) r f s e ls → OwnPositions ls →
    exec (p.1 f) s = .next (s.commit e (laneRes f ls (fun lv =>
      let ea := scratchEa ls lv f
      match s.scratchTarget e p.2 ea (sizeBytes f.modx.toNat) with
      | none => if lv.helper then .ok (zeroDest r lv f) 0 else .fail ⟨3, 0, e.pc, BitVec.ofNat 64 ea, 0, 0, 0⟩
      | some (q, off) =>
        let v := leNat (s.scratchRead q off (sizeBytes f.modx.toNat))
        .ok (if f.modx = 5 then setD64 lv f (BitVec.ofNat 64 v) else setD lv f (loadWord f.modx.toNat v)) 0)) (wordsOf f))
  ) ∧ (
  ∀ p ∈ [(Instr.sts, false), (Instr.stsMem, false), (Instr.stc, true), (Instr.stcMem, true)], ∀ (r : Row) (f : Fields) (s : State) (e : Env)
    (ls : List LaneView) (at_ : LaneView → ScratchAt × Nat), Issues (p.1 f) r f s e ls → OwnPositions ls →
    let n := sizeBytes f.modx.toNat
    (∀ lv ∈ storing f ls, s.scratchTarget e p.2 (scratchEa ls lv f) n = some (at_ lv)) →
    exec (p.1 f) s = .next ((((storing f ls).foldl (fun t lv => t.scratchWrite (at_ lv).1 (at_ lv).2
        (leBytes n (if f.modx = 5 then (srcB64 r ls lv f).toNat else (srcB r ls lv f).toNat))) s).endFences e f (storing f ls)).commit e
      (laneStored f ls) (wordsOf f))
  ) ∧ (
  ∀ (r : Row) (f : Fields) (s : State) (e : Env) (ls : List LaneView) (n g : Nat) (x : Group) (at_ : LaneView → ScratchAt × Nat),
    s.issueGroup e = some (n, g, x) → OwnPositions ls →
    let size := sizeBytes f.modx.toNat
    let scratch := 16384 * ((s.recOf x).part.toNat % 256)
    let gang := (s.recOf x).gang
    let own := ∀ lv ∈ ls, laneActive f lv = true → scratchEa ls lv f + size ≤ scratch ∧ at_ lv = (.grp n g, scratchEa ls lv f)
    let member := ∀ lv ∈ ls, laneActive f lv = true → scratchEa ls lv f % 2 ^ 24 + size ≤ scratch ∧ scratchEa ls lv f / 2 ^ 24 < gang
      ∧ s.findScratch x.inst (x.gflat / gang * gang + scratchEa ls lv f / 2 ^ 24) = some (at_ lv).1 ∧ (at_ lv).2 = scratchEa ls lv f % 2 ^ 24
    let loaded := s.commit e (laneOut f ls (fun lv =>
      let v := leNat (s.scratchRead (at_ lv).1 (at_ lv).2 size)
      if f.modx = 5 then setD64 lv f (BitVec.ofNat 64 v) else setD lv f (loadWord f.modx.toNat v))) (wordsOf f)
    let stored := (((storing f ls).foldl (fun t lv => t.scratchWrite (at_ lv).1 (at_ lv).2
        (leBytes size (if f.modx = 5 then (srcB64 r ls lv f).toNat else (srcB r ls lv f).toNat))) s).endFences e f (storing f ls)).commit e
      (laneStored f ls) (wordsOf f)
    (own → (Issues (.lds f) r f s e ls → exec (.lds f) s = .next loaded) ∧ (Issues (.ldsMem f) r f s e ls → exec (.ldsMem f) s = .next loaded)
      ∧ (Issues (.sts f) r f s e ls → exec (.sts f) s = .next stored) ∧ (Issues (.stsMem f) r f s e ls → exec (.stsMem f) s = .next stored))
    ∧ (member → (Issues (.ldc f) r f s e ls → exec (.ldc f) s = .next loaded) ∧ (Issues (.ldcMem f) r f s e ls → exec (.ldcMem f) s = .next loaded)
      ∧ (Issues (.stc f) r f s e ls → exec (.stc f) s = .next stored) ∧ (Issues (.stcMem f) r f s e ls → exec (.stcMem f) s = .next stored))
  ) ∧ (
  (∀ (s : State) (e : Env) (n g : Nat) (x : Group) (ea k : Nat), s.issueGroup e = some (n, g, x) →
    s.scratchTarget e false ea k = if ea + k ≤ 16384 * ((s.recOf x).part.toNat % 256) then some (.grp n g, ea) else none)
  ∧ (∀ (s : State) (n g : Nat) (x : Group) (off k m : Nat) (bs : List Byte), s.grp? n g = some x →
    (s.scratchWrite (.grp n g) off bs).scratchRead (.grp n g) k m = (List.range m).map (fun i =>
      if off ≤ k + i ∧ k + i < off + bs.length then bs[k + i - off]?.getD 0 else mapGet x.scratch (k + i) 0))
  ∧ (∀ (s : State) (n g n2 g2 off : Nat) (bs : List Byte), (n2, g2) ≠ (n, g) → (s.scratchWrite (.grp n g) off bs).grp? n2 g2 = s.grp? n2 g2)
  ∧ (∀ (s : State) (n g off : Nat) (bs : List Byte) (x : Group), s.grp? n g = some x →
    ∃ y, (s.scratchWrite (.grp n g) off bs).grp? n g = some y ∧ { y with scratch := x.scratch } = x)
  ) ∧ (
  (∀ (r : Row) (f : Fields) (s t : State) (e : Env) (ls : List LaneView) (at_ : LaneView → ScratchAt × Nat) (old : LaneView → Nat),
    Issues (.atoms f) r f s e ls → OwnPositions ls → storing f ls ≠ [] →
    let n := atomBytes f.modx.toNat
    let u := (s.memCtx e).unit
    (∀ lv ∈ storing f ls, s.scratchTarget e (memScope f = 3) (scratchEa ls lv f) n = some (at_ lv) ∧ (at_ lv).2 % n = 0) →
    ScratchAtomsInTurn n f.modx.toNat at_ (fun lv => if n = 8 then (srcB64 r ls lv f).toNat else (srcB r ls lv f).toNat) old
      (s.releaseOpt u (releaseOf f)) (storing f ls) t →
    exec (.atoms f) s = .next (((t.endFences e f (storing f ls)).acquireOpt u (acquireOf f)).commit e (laneOut f ls (fun lv =>
      if lv.helper then zeroDest r lv f
      else if n = 8 then setD64 lv f (BitVec.ofNat 64 (old lv)) else setD lv f (BitVec.ofNat 32 (old lv)))) (wordsOf f)))
  ∧ (∀ (r : Row) (f : Fields) (s : State) (e : Env) (ls : List LaneView) (c g : Nat) (x : Group), Issues (.atoms f) r f s e ls → OwnPositions ls →
    storing f ls ≠ [] → s.issueGroup e = some (c, g, x) → memScope f ≠ 3 →
    let n := atomBytes f.modx.toNat
    let u := (s.memCtx e).unit
    (∀ lv ∈ storing f ls, scratchEa ls lv f + n ≤ 16384 * ((s.recOf x).part.toNat % 256) ∧ scratchEa ls lv f % n = 0) →
    ∃ (t : State) (old : LaneView → Nat),
      ScratchAtomsInTurn n f.modx.toNat (fun lv => (.grp c g, scratchEa ls lv f))
        (fun lv => if n = 8 then (srcB64 r ls lv f).toNat else (srcB r ls lv f).toNat) old (s.releaseOpt u (releaseOf f)) (storing f ls) t
      ∧ exec (.atoms f) s = .next (((t.endFences e f (storing f ls)).acquireOpt u (acquireOf f)).commit e (laneOut f ls (fun lv =>
        if lv.helper then zeroDest r lv f
        else if n = 8 then setD64 lv f (BitVec.ofNat 64 (old lv)) else setD lv f (BitVec.ofNat 32 (old lv)))) (wordsOf f)))
  )

/-- R187 to R190, R286, R291: `atom` and `atomc` where every lane that performs passes its checks and reaches local memory: lane after lane, each
lane's D takes the old value; a helper's D takes 0.

R184, R187 to R190, R281, R284: one atomic at a place of near memory. It reads the value at its coherence point: what the column sees below die
scope, at die scope or wider the home's bytes under the slice's dirty ones; a release mark of the line widens the scope (R289). The column sees
the new value at once, and at die scope or wider the home holds it; an operation that stores nothing leaves every byte the column sees.

R173, R187 to R190: `atom` and `atomc` complete where every lane that performs is aligned and reaches near memory that its agent may read and
write. D, or pair D, takes an old value; for a lane whose 128-byte line no other lane names it is the value at its place, and the column sees the
operation's result there. A helper's D takes 0.

R187, R188: the operations, on values of their width: what each stores for an old value and an operand; `atomc` stores where the old value is the
one compared with, and else leaves it.

R191, R192: `meld` where every lane that performs passes its checks and reaches local memory. Each address takes one atomic, of the
operands of its lanes combined in the order of R105 up to the highest of them; the lowest lane's D takes the old value, each other lane's the old
value combined with the operands of the lower lanes at its address.

R191, R192: `meld` completes where every lane that performs is aligned and reaches near memory that its agent may read and write. Where every
lane names one address, the lowest lane's D takes the value there and the column sees it combined with every lane's operand. -/
def Obligations.GlobalAtomics : Prop :=
  (
  ∀ p ∈ [(Instr.atom, atomDo), (Instr.atomc, atomcDo)], ∀ (r : Row) (f : Fields) (s t : State) (e : Env) (ls : List LaneView)
    (segs : LaneView → Seg × List Seg) (old : LaneView → Nat), Issues (p.1 f) r f s e ls → OwnPositions ls → storing f ls ≠ [] →
    let m := s.memCtx e
    let act := fun lv => p.2 r f ls lv
    (∀ lv ∈ storing f ls, s.checkForm m e (globalEa ls lv f) (act lv).n .atomic (some (memScope f)) true = .segs ((segs lv).1 :: (segs lv).2)) →
    (∀ lv ∈ storing f ls, isRemote (segs lv).1.place = false) → s.mustWait m f = false →
    AtomsInTurn m.unit (memScope f) (s.releaseScope e f) act (fun lv => (segs lv).1.place) old
      ((s.leaveWalks e.who m.unit.col).releaseOpt m.unit (releaseOf f)) (storing f ls) t →
    exec (p.1 f) s = .next (((t.endFences e f (storing f ls)).acquireOpt m.unit (acquireOf f)).commit e (laneOut f ls (fun lv =>
      if lv.helper then zeroDest r lv f
      else if (act lv).n = 8 then setD64 lv f (BitVec.ofNat 64 (old lv % 2 ^ 64)) else setD lv f (BitVec.ofNat 32 (old lv % 2 ^ 32)))) (wordsOf f))
  ) ∧ (
  ∀ (s : State) (u : MemUnit) (k n scope : Nat) (release : Option Nat) (op : Nat → Option Nat), k % 32 + n ≤ 32 → 0 < n → k + n ≤ 0x8000000000 →
    OwnSector s u.col (k / 32) → Room s u.col 1 →
    let sc := max scope (mapGet s.marks (k / 128) 0)
    let r := s.localAtomic u k n scope release op
    r.1 = leNat ((List.range n).map (fun i => if sc < 4 then s.viewByte u.col (k + i) else s.peekByte u.col (k + i)))
    ∧ (∀ v, op r.1 = some v → (∀ i, i < n → r.2.viewByte u.col (k + i) = BitVec.ofNat 8 (v / 256 ^ i) ∧
        (4 ≤ sc → r.2.homeByte (k + i) = BitVec.ofNat 8 (v / 256 ^ i)))
      ∧ (∀ a, a / 32 ≠ k / 32 → ∀ c, r.2.viewByte c a = s.viewByte c a)
      ∧ (sc < 4 → ∀ a, ¬ (k ≤ a ∧ a < k + n) → r.2.viewByte u.col a = s.viewByte u.col a))
    ∧ (op r.1 = none → ∀ a, r.2.viewByte u.col a = s.viewByte u.col a)
    ∧ (Memory.wf s.mem → Memory.wf r.2.mem)
  ) ∧ (
  ∀ p ∈ [(Instr.atom, atomDo), (Instr.atomc, atomcDo)], ∀ (r : Row) (f : Fields) (s : State) (e : Env) (ls : List LaneView) (place : LaneView → Nat),
    Issues (p.1 f) r f s e ls → OwnPositions ls → storing f ls ≠ [] →
    let m := s.memCtx e
    let act := fun lv => p.2 r f ls lv
    (∀ lv ∈ storing f ls, Reaches s m .atomic (globalEa ls lv f) (act lv).n (place lv) ∧ globalEa ls lv f % (act lv).n = 0
      ∧ OwnSector s m.unit.col (place lv / 32)) →
    Room s m.unit.col (2 * ls.length) → s.mustWait m f = false →
    ∃ (t : State) (old : LaneView → Nat),
      exec (p.1 f) s = .next (((t.endFences e f (storing f ls)).acquireOpt m.unit (acquireOf f)).commit e (laneOut f ls (fun lv =>
        if lv.helper then zeroDest r lv f
        else if (act lv).n = 8 then setD64 lv f (BitVec.ofNat 64 (old lv)) else setD lv f (BitVec.ofNat 32 (old lv)))) (wordsOf f))
      ∧ SameRegisters s t
      ∧ (∀ lv ∈ storing f ls, (∀ l2 ∈ storing f ls, l2.pos ≠ lv.pos → place l2 / 128 ≠ place lv / 128) →
        let n := (act lv).n
        let sc := max (memScope f) (mapGet s.marks (place lv / 128) 0)
        old lv = leNat ((List.range n).map (fun i => if sc < 4 then s.viewByte m.unit.col (place lv + i) else s.peekByte m.unit.col (place lv + i)))
        ∧ ∀ v, (act lv).op (old lv) = some v → ∀ i, i < n → t.viewByte m.unit.col (place lv + i) = BitVec.ofNat 8 (v / 256 ^ i))
  ) ∧ (
  (∀ x y : W, let v := fun m => atomNew m x.toNat y.toNat
    v 0 = (x + y).toNat ∧ v 2 = (if x.toInt ≤ y.toInt then x else y).toNat ∧ v 3 = (if x.toInt ≤ y.toInt then y else x).toNat
    ∧ v 4 = min x.toNat y.toNat ∧ v 5 = max x.toNat y.toNat ∧ v 6 = (x &&& y).toNat ∧ v 7 = (x ||| y).toNat ∧ v 8 = (x ^^^ y).toNat ∧ v 9 = y.toNat)
  ∧ (∀ x y : D64, atomNew 10 x.toNat y.toNat = (x + y).toNat ∧ atomNew 11 x.toNat y.toNat = y.toNat)
  ∧ (∀ r f ls lv, f.modx = 0 → (atomcDo r f ls lv).n = 4
      ∧ ∀ old, (atomcDo r f ls lv).op old = if old = (lv.read f.dS f.d.toNat).toNat then some (srcB r ls lv f).toNat else none)
  ∧ (∀ r f ls lv, f.modx = 1 → (atomcDo r f ls lv).n = 8
      ∧ ∀ old, (atomcDo r f ls lv).op old = if old = (lv.read64 f.dS f.d.toNat).toNat then some (srcB64 r ls lv f).toNat else none)
  ) ∧ (
  ∀ (r : Row) (f : Fields) (s t : State) (e : Env) (ls : List LaneView) (segs : LaneView → Seg × List Seg) (place old : Nat → Nat),
    Issues (.meld f) r f s e ls → OwnPositions ls → storing f ls ≠ [] → (∀ lv ∈ ls, lv.pos < 32) →
    let m := s.memCtx e
    let op := f.modx.toNat
    let n := atomBytes op
    let ea := fun lv => globalEa ls lv f
    let mine := fun a => (storing f ls).filter (fun lv => ea lv == a)
    let scan := fun a => meldScan op ((List.range 32).map (fun i => ((mine a).find? (fun lv => lv.pos == i)).map (fun lv =>
      if n = 8 then (srcB64 r ls lv f).toNat else (srcB r ls lv f).toNat)))
    let last := fun a => (mine a).foldl (fun k lv => max k lv.pos) 0
    (∀ lv ∈ storing f ls, s.checkForm m e (ea lv) n .atomic (some (memScope f)) true = .segs ((segs lv).1 :: (segs lv).2)) →
    (∀ lv ∈ storing f ls, (segs lv).1.place = place (ea lv) ∧ isRemote (place (ea lv)) = false) → s.mustWait m f = false →
    MeldsInTurn m.unit op (memScope f) (fun a => (mine a).foldl (fun b lv => widest b (s.releaseScope e f lv)) none) place
      (fun a => ((scan a)[last a]?).join.getD 0) old
      ((s.leaveWalks e.who m.unit.col).releaseOpt m.unit (releaseOf f)) (meldAddrs ((storing f ls).map ea)) t →
    exec (.meld f) s = .next (((t.endFences e f (storing f ls)).acquireOpt m.unit (acquireOf f)).commit e (laneOut f ls (fun lv =>
      let was := old (ea lv) % 256 ^ n
      let low := (mine (ea lv)).all (fun x => lv.pos ≤ x.pos)
      let v := if low then was else match ((scan (ea lv))[lv.pos - 1]?).join with
        | some p => atomNew op was (p % 2 ^ 64)
        | none => was
      if lv.helper then zeroDest r lv f
      else if n = 8 then setD64 lv f (BitVec.ofNat 64 v) else setD lv f (BitVec.ofNat 32 v))) (wordsOf f))
  ) ∧ (
  ∀ (r : Row) (f : Fields) (s : State) (e : Env) (ls : List LaneView) (place : Nat → Nat),
    Issues (.meld f) r f s e ls → OwnPositions ls → storing f ls ≠ [] → (∀ lv ∈ ls, lv.pos < 32) →
    let m := s.memCtx e
    let op := f.modx.toNat
    let n := atomBytes op
    let ea := fun lv => globalEa ls lv f
    (∀ lv ∈ storing f ls, Reaches s m .atomic (ea lv) n (place (ea lv)) ∧ ea lv % n = 0 ∧ OwnSector s m.unit.col (place (ea lv) / 32)) →
    Room s m.unit.col (2 * ls.length) → s.mustWait m f = false →
    ∃ (t : State) (d : LaneView → LaneView), exec (.meld f) s = .next (((t.endFences e f (storing f ls)).acquireOpt m.unit (acquireOf f)).commit e
        (laneOut f ls d) (wordsOf f)) ∧ SameRegisters s t
      ∧ (∀ lv ∈ ls, lv.helper = true → d lv = zeroDest r lv f)
      ∧ (∀ lv ∈ storing f ls, (∀ l2 ∈ storing f ls, ea l2 = ea lv ∧ lv.pos ≤ l2.pos) →
        let sc := max (memScope f) (mapGet s.marks (place (ea lv) / 128) 0)
        let old := leNat ((List.range n).map (fun i =>
          if sc < 4 then s.viewByte m.unit.col (place (ea lv) + i) else s.peekByte m.unit.col (place (ea lv) + i)))
        let vals := (List.range 32).map (fun i => ((storing f ls).find? (fun x => x.pos == i)).map (fun x =>
          if n = 8 then (srcB64 r ls x f).toNat else (srcB r ls x f).toNat))
        let total := ((meldScan op vals)[(storing f ls).foldl (fun k x => max k x.pos) 0]?).join.getD 0
        d lv = (if n = 8 then setD64 lv f (BitVec.ofNat 64 old) else setD lv f (BitVec.ofNat 32 old))
        ∧ ∀ i, i < n → t.viewByte m.unit.col (place (ea lv) + i) = BitVec.ofNat 8 (atomNew op old total / 256 ^ i))
  )

/-- R193, R286, R291: `fence` performs the release of its scope, leaves it pending for the lanes' next strong store or atomic, and performs the
acquire. It changes no register.

R185, R291, R292, R377: a release at system scope, and a sequentially consistent access or fence of any scope, waits at its instruction while a write
of its agent to another package is not acknowledged; nothing of it is performed.

R278, R290, R291: a release at die scope or wider, of a group or of a column core, writes the dirty bytes of every line of the flush set to the
homes and empties the set; the copies stay, clean. One at cluster scope moves no byte and leaves the set: it only notes that the dirty bytes of the
set's lines are known to the cluster (R284; log 32). A narrower one does nothing. A set marked full stands for every dirty sector of the
cluster's slices, by the model's choice (log 45).

R276, R291, R377: an acquire at column scope or wider, of any core, leaves in its L1 only sectors it holds fully written, their masks cleared; at
die scope or wider the slice keeps no line foreign to its die; at system scope no line of another package stays in slice or L1. Its
agent's flush set is from then on taken as full (R290, by the model's reading, log 45).

That a fence leaves a release pending for the next strong store or atomic of the lane is R286. -/
def Obligations.Ordering : Prop :=
  (
  (∀ (r : Row) (f : Fields) (s : State) (e : Env) (ls : List LaneView), Issues (.fence f) r f s e ls → storing f ls ≠ [] →
    let m := s.memCtx e
    s.mustWait m f = false →
    let s1 := s.releaseOpt m.unit (releaseOf f)
    let s2 := match releaseOf f with
      | some x => (storing f ls).foldl (fun (t : State) lv => t.setFence e [lv] (some (max x ((t.pendingFence e lv).getD 0)))) s1
      | none => s1
    exec (.fence f) s = .next ((s2.acquireOpt m.unit (acquireOf f)).commit e (laneRes f ls (fun _ => .idle)) (wordsOf f)))
  ∧ (∀ (f0 : Fields) (s : State) (e : Env) (c : Nat) (lv : LaneView) (ls : List LaneView) (v : Option Nat), e.who = .col c →
      (s.setFence e ls v).pendingFence e lv = v ∧ (memOrder f0 ≠ 0 → (s.endFences e f0 ls).pendingFence e lv = none))
  ∧ (∀ (r : Row) (f : Fields) (s : State) (e : Env) (ls : List LaneView), Issues (.fence f) r f s e ls → storing f ls = [] →
      exec (.fence f) s = .next (s.advance e.who (wordsOf f)))
  ∧ (∀ (s : State) (m : MemCtx) (f : Fields), s.mustWait m f = true ↔
      ((isRelease (memOrder f) = true ∧ memScope f = 6) ∨ memOrder f = 5) ∧ ∃ l ∈ s.fabric.live, l.posted = true ∧ l.agent = m.unit.who)
  ∧ (∀ mk ∈ [Instr.ld, Instr.ldMem, Instr.lda, Instr.st, Instr.stMem, Instr.strl, Instr.atom, Instr.atomc, Instr.meld],
    ∀ (r : Row) (f : Fields) (s : State) (e : Env) (ls : List LaneView), Issues (mk f) r f s e ls → s.mustWait (s.memCtx e) f = true →
    accLanes r f ls ≠ [] → (∀ lv ∈ accLanes r f ls, ∃ segs, accCheck s r f e ls lv = .segs segs) → exec (mk f) s = .next (s.passOver e.who))
  ∧ (∀ (r : Row) (f : Fields) (s : State) (e : Env) (ls : List LaneView), Issues (.fence f) r f s e ls → s.mustWait (s.memCtx e) f = true →
    storing f ls ≠ [] → exec (.fence f) s = .next (s.passOver e.who))
  ) ∧ (
  (∀ (s : State) (u : MemUnit) (scope : Nat), scope < 3 → s.releaseAct u scope = s)
  ∧ (∀ (s : State) (u : MemUnit), let t := s.releaseAct u 3
    { t with cols := s.cols } = s ∧ t.flushSet u.who = s.flushSet u.who
    ∧ (∀ c, { t.col c with slice := (s.col c).slice } = s.col c)
    ∧ (∀ c sec, (t.slice? c sec).map (fun x => { x with wide := 0 }) = (s.slice? c sec).map (fun x => { x with wide := 0 }))
    ∧ (∀ c sec x, t.slice? c sec = some x → x.wide = if ((s.flushSet u.who).2 = true ∧ clusterOf c = clusterOf u.col)
        ∨ ((s.flushSet u.who).2 = false ∧ c = u.col ∧ sec / 4 ∈ (s.flushSet u.who).1) then x.dirty else (s.sliceView c sec).wide))
  ∧ (∀ (s : State) (u : MemUnit) (scope : Nat) (lines : List Nat) (full : Bool), 4 ≤ scope →
    (match u.who with
      | .col c => (s.cc c).flush = lines ∧ (s.cc c).flushFull = full
      | .grp n g => ∃ x, s.grp? n g = some x ∧ x.flush = lines ∧ x.flushFull = full) →
    let t := s.releaseAct u scope
    (match u.who with
      | .col c => (t.cc c).flush = [] ∧ (t.cc c).flushFull = false
      | .grp n g => ∃ x, t.grp? n g = some x ∧ x.flush = [] ∧ x.flushFull = false)
    ∧ (full = false → (∀ line ∈ lines, ∀ i, i < 4 → ∀ x, s.slice? u.col (4 * line + i) = some x →
        (∀ j, j < 32 → x.dirty.getLsbD j = true → t.homeByte (32 * (4 * line + i) + j) = x.data.extractLsb' (8 * j) 8)
        ∧ ∃ y, t.slice? u.col (4 * line + i) = some y ∧ y.dirty = 0 ∧ y.data = x.data ∧ y.valid = x.valid)
      ∧ (∀ a, a / 128 ∉ lines → t.homeByte a = s.homeByte a))
    ∧ (full = true → ∀ c ∈ clusterCols (clusterOf u.col), ∀ sec x, s.slice? c sec = some x → (∀ c2, c2 ≠ c → s.slice? c2 sec = none) →
        (∀ j, j < 32 → x.dirty.getLsbD j = true → t.homeByte (32 * sec + j) = x.data.extractLsb' (8 * j) 8)
        ∧ ∃ y, t.slice? c sec = some y ∧ y.dirty = 0)
    ∧ (Memory.wf s.mem → Memory.wf t.mem))
  ) ∧ (
  (∀ (s : State) (u : MemUnit), s.acquireAct u 0 = s)
  ∧ (∀ (s : State) (u : MemUnit) (scope : Nat), 2 ≤ scope → scope < 4 →
    (s.acquireAct u scope).l1 u.col u.unit = ((s.l1 u.col u.unit).filter (fun x => x.2.mask == 0xFFFFFFFF)).map (fun x => (x.1, ⟨x.2.data, 0⟩)))
  ∧ (∀ (s : State) (u : MemUnit) (scope sec : Nat), 4 ≤ scope → isForeign (dieOf u.col) (32 * sec) = true → (s.acquireAct u scope).slice? u.col sec = none)
  ∧ (∀ (s : State) (u : MemUnit) (scope sec : Nat), 6 ≤ scope → isRemote (32 * sec) = true →
    (s.acquireAct u scope).slice? u.col sec = none ∧ mapGet? ((s.acquireAct u scope).l1 u.col u.unit) sec = none)
  ∧ (∀ (s : State) (u : MemUnit) (c scope : Nat), u.who = .col c → 0 < scope → ((s.acquireAct u scope).cc c).flushFull = true)
  ∧ (∀ (s : State) (u : MemUnit) (n g scope : Nat) (x : Group), u.who = .grp n g → 0 < scope → s.grp? n g = some x →
    ∃ y, (s.acquireAct u scope).grp? n g = some y ∧ y.flushFull = true ∧ y.s = x.s ∧ y.q = x.q ∧ y.k = x.k ∧ y.scalar = x.scalar)
  )

/-- R195 to R197, R273: `cwb`, `cinv` and `pref` act on the lines their lanes name and change no register. `cwb` and `cinv` wait while an
access of their agent to the range is not acknowledged or answered. `cwb` at die scope or wider leaves no dirty
sector of the range in the scope's slices; `cinv` at column scope or wider leaves the range in no L1 and no block cache of the scope's columns, and at
die scope or wider in none of their slices; what a lone slice held dirty is then at the home. -/
def Obligations.CacheInstructions : Prop :=
  (∀ p ∈ [(Instr.cwb, false), (Instr.cinv, true)], ∀ (r : Row) (f : Fields) (s : State) (e : Env) (ls : List LaneView), Issues (p.1 f) r f s e ls →
    let m := s.memCtx e
    ((∃ lv ∈ storing f ls, s.rangePosted m (globalEa ls lv f) (srcB r ls lv f).toNat = true) → exec (p.1 f) s = .next (s.passOver e.who))
    ∧ ((∀ lv ∈ storing f ls, s.rangePosted m (globalEa ls lv f) (srcB r ls lv f).toNat = false) →
    let each := fun (t : State) lv => if p.2 then t.rangeInval m (memScope f) (globalEa ls lv f) (srcB r ls lv f).toNat
      else t.rangeClean m (memScope f) (globalEa ls lv f) (srcB r ls lv f).toNat
    exec (p.1 f) s = .next (((storing f ls).foldl each s).commit e (laneRes f ls (fun _ => .idle)) (wordsOf f))))
  ∧ (∀ (s : State) (m : MemCtx) (scope ea len c sec : Nat), 4 ≤ scope → len ≠ 0 → isRemote (32 * sec) = false → c ∈ scopeCols scope m.unit.col →
    sec ∈ s.rangeSectors m [sec] (s.rangePlaces m ea len) →
    (∀ x, (s.rangeClean m scope ea len).slice? c sec = some x → x.dirty = 0)
    ∧ (∀ x, s.slice? c sec = some x → (∀ c2, c2 ≠ c → s.slice? c2 sec = none) → ∀ j, j < 32 → x.dirty.getLsbD j = true →
      (s.rangeClean m scope ea len).homeByte (32 * sec + j) = x.data.extractLsb' (8 * j) 8
      ∧ (s.rangeInval m scope ea len).homeByte (32 * sec + j) = x.data.extractLsb' (8 * j) 8))
  ∧ (∀ (s : State) (m : MemCtx) (scope ea len c sec : Nat), 2 ≤ scope → len ≠ 0 → c ∈ scopeCols scope m.unit.col →
    sec ∈ s.rangeSectors m [sec] (s.rangePlaces m ea len) → let t := s.rangeInval m scope ea len
    (∀ n, coreColumn n = c → mapGet? (t.core n).blocks sec = none) ∧ (∀ u, u < 13 → mapGet? (t.l1 c u) sec = none)
    ∧ (4 ≤ scope → t.slice? c sec = none))
  ∧ (∀ mk ∈ [Instr.pref, Instr.prefMem], ∀ (r : Row) (f : Fields) (s : State) (e : Env) (ls : List LaneView), Issues (mk f) r f s e ls →
    exec (mk f) s = .next (((storing f ls).foldl (fun t lv => t.prefetch e (s.memCtx e) (globalEa ls lv f) (f.modx = 0)) s).commit e
      (laneRes f ls (fun _ => .idle)) (wordsOf f)))

/-- R204, R208, R209: `cpy`, `cpy2`, `cpyg`, `cpyr`, `fwrb` and `frdb`, in register and literal forms, where every lane that issues has a good command
record and the queue has room for all: each lane's command enters the copy queue, in lane order, and the instruction goes on. No register changes.

R204, R208, R209: the copy and fabric commands complete where every lane that issues points at a good command record in its group's scratch, both of
whose sides are global memory, and the queue has room: the commands that the records spell enter the queue in lane order. A good record has
its reserved fields, and the words its command does not use, zero; the two ranges of a `cpy` do not overlap.

R200, R204: an accepted command stands at the end of its queue under a fresh identifier, and the flag it is bound to reads set. -/
def Obligations.CopyCommands : Prop :=
  (
  ∀ mk ∈ [Instr.cpy, Instr.cpyLit, Instr.cpy2, Instr.cpy2Lit, Instr.cpyg, Instr.cpygLit, Instr.cpyr, Instr.cpyrLit, Instr.fwrb, Instr.fwrbLit,
      Instr.frdb, Instr.frdbLit],
    ∀ (r : Row) (f : Fields) (s : State) (e : Env) (ls : List LaneView) (n slot g : Nat) (x : Group) (d : Deal) (cmds : LaneView → Cmd),
    Issues (mk f) r f s e ls → OwnPositions ls → e.who = .deal n slot → s.deal? n slot = some d → s.issueGroup e = some (n, g, x) →
    (∀ lv ∈ storing f ls, buildCopy s x (Cmd.blank r.op g e.pc d.boundFlag) e (srcB r ls lv f).toNat (lv.read64 f.dS f.d.toNat) (srcA64 ls lv f)
      = .ok (cmds lv)) →
    (s.core n).copyq.length + (storing f ls).length ≤ 256 →
    exec (mk f) s = .next ((((storing f ls).map cmds).foldl (fun t q => t.acceptCmd n q) s).commit e (laneRes f ls (fun _ => .idle)) (wordsOf f))
  ) ∧ (
  ∀ (r : Row) (f : Fields) (s : State) (e : Env) (ls : List LaneView) (n slot g : Nat) (x : Group) (d : Deal), OwnPositions ls →
    e.who = .deal n slot → s.deal? n slot = some d → s.issueGroup e = some (n, g, x) →
    let b := fun lv => (srcB r ls lv f).toNat
    let word := fun lv (o : Nat) => BitVec.ofNat 32 (leNat ((List.range 4).map (fun j => mapGet x.scratch (b lv + o + j) 0)))
    let dst := fun lv => lv.read64 f.dS f.d.toNat
    let src := fun lv => srcA64 ls lv f
    let clear := fun lv (l : List Nat) => ∀ o ∈ l, word lv o = 0
    let ctrl := fun lv => (word lv 0x1C).toNat
    let base := ∀ lv ∈ storing f ls, b lv % 4 = 0 ∧ b lv + 32 ≤ 16384 * ((s.recOf x).part.toNat % 256) ∧ word lv 4 = 0 ∧ ctrl lv / 2 ^ 12 % 8 = 0
      ∧ ctrl lv % 2 ^ 12 = 0
    let apart := fun (p q : D64) (len : Nat) => len ≤ (q - p).toNat ∧ len ≤ (p - q).toNat
    let accepts := fun (i : Instr) => exec i s = .next ((((storing f ls).map (fun lv =>
      recordCmd x (b lv) (Cmd.blank r.op g e.pc d.boundFlag) (dst lv) (src lv))).foldl (fun t q => t.acceptCmd n q) s).commit e
        (laneRes f ls (fun _ => .idle)) (wordsOf f))
    base → (s.core n).copyq.length + (storing f ls).length ≤ 256 →
    (∀ mk ∈ [Instr.cpy, Instr.cpyLit], Issues (mk f) r f s e ls → (∀ lv ∈ storing f ls, clear lv [8, 0xC, 0x10, 0x14, 0x18]
      ∧ (word lv 0 = 0 ∨ apart (src lv) (dst lv) (word lv 0).toNat)) → accepts (mk f))
    ∧ (∀ mk ∈ [Instr.cpy2, Instr.cpy2Lit], Issues (mk f) r f s e ls → (∀ lv ∈ storing f ls, clear lv [0x14, 0x18] ∧ (word lv 8).toNat ≤ 2 ^ 24) →
      accepts (mk f))
    ∧ (∀ mk ∈ [Instr.cpyg, Instr.cpygLit], Issues (mk f) r f s e ls → (∀ lv ∈ storing f ls, clear lv [0x18] ∧ (word lv 8).toNat ≤ 2 ^ 24) →
      accepts (mk f))
    ∧ (∀ mk ∈ [Instr.cpyr, Instr.cpyrLit], Issues (mk f) r f s e ls → (∀ lv ∈ storing f ls, clear lv [0x10] ∧ (word lv 8).toNat ≤ 2 ^ 24
      ∧ (word lv 0).toNat ∈ [1, 2, 4, 8] ∧ (word lv 0x14).toNat % 4 = 0 ∧ (word lv 0x18).toNat % 4 = 0) → accepts (mk f))
    ∧ (∀ mk ∈ [Instr.fwrb, Instr.fwrbLit, Instr.frdb, Instr.frdbLit], Issues (mk f) r f s e ls →
      (∀ lv ∈ storing f ls, clear lv [8, 0xC, 0x10, 0x14, 0x18]) → accepts (mk f))
  ) ∧ (
  ∀ (s : State) (n : Nat) (c : Cmd),
    let t := s.acceptCmd n c
    (isMatrixOp c.op = false → (t.core n).copyq = (s.core n).copyq ++ [{ c with id := s.nextId }] ∧ (t.core n).matrix = (s.core n).matrix)
    ∧ (isMatrixOp c.op = true → (t.core n).matrix.cmds = (s.core n).matrix.cmds ++ [{ c with id := s.nextId }]
        ∧ (t.core n).copyq = (s.core n).copyq)
    ∧ t.nextId = s.nextId + 1 ∧ (t.core n).groups = (s.core n).groups ∧ (∀ m, m ≠ n → t.core m = s.core m)
    ∧ (∀ i x, c.flag = some i → s.grp? n c.grp = some x → t.flagSet n c.grp i = true)
    ∧ (∀ k a, t.viewByte k a = s.viewByte k a)
  )

/-- R208: what a command record of 32 bytes at offset b of group scratch makes of a command, where it is accepted.

R209 to R211: the moves of a command: one row; ROWS rows at the strides; rows named by an index list; rows of listed lengths packed together.

R201, R206, R210, R211: what a copy has written when it completes. Its moves are cut into pieces of one destination sector that cover every byte
once; each piece reads its bytes at the source, in global memory or in the scratch of a gang member, writes them at the destination and counts them
in the pot; `cpyr` then writes its mask words, a bit set where a row begins. A `cpy` from scratch to scratch is said whole.

R201, R212, R214, R373, R374: a completed `mstg` has put its source bytes into the operand buffer; a request of `fwrb` carries the source bytes; the
answer to a request of `frdb` is written at the destination, unless an error has been found; answers count in the pot, or say which error they bring. -/
def Obligations.CommandRecords : Prop :=
  (
  ∀ (s : State) (x : Group) (c : Cmd) (e : Env) (b : Nat) (d a : D64) (q : Cmd), buildCopy s x c e b d a = .ok q →
    let w := fun (o : Nat) => BitVec.ofNat 32 (leNat ((List.range 4).map (fun j => mapGet x.scratch (b + o + j) 0)))
    let ctrl := (w 0x1C).toNat
    b % 4 = 0 ∧ b + 32 ≤ 16384 * ((s.recOf x).part.toNat % 256)
    ∧ q.op = c.op ∧ q.grp = c.grp ∧ q.pc = c.pc ∧ q.flag = c.flag ∧ q.d = d ∧ q.a = a
    ∧ q.len = w 0 ∧ w 4 = 0 ∧ q.rows = w 8 ∧ q.sstride = w 0xC ∧ q.dstride = w 0x10 ∧ q.aux1 = w 0x14 ∧ q.aux2 = w 0x18
    ∧ q.wmask.toNat = ctrl / 2 ^ 20 ∧ q.pot = ctrl / 2 ^ 16 % 16 ∧ q.pen = ctrl.testBit 15 ∧ ctrl / 2 ^ 12 % 8 = 0
    ∧ q.dsp = ctrl / 2 ^ 10 % 4 ∧ q.ssp = ctrl / 2 ^ 8 % 4 ∧ ctrl % 256 = 0 ∧ q.dsp ≠ 3 ∧ q.ssp ≠ 3 ∧ q.phase = c.phase
  ) ∧ (
  ∀ (c : Cmd), c.len ≠ 0 →
    let n := c.len.toNat
    (c.op = 0x167 ∨ c.op = 0x16C ∨ c.op = 0x16D → c.moves = [⟨0, 0, n⟩])
    ∧ (c.op = 0x168 → c.moves = (List.range c.rows.toNat).map (fun (r : Nat) => ⟨(r : Int) * c.sstride.toInt, (r : Int) * c.dstride.toInt, n⟩))
    ∧ (c.op = 0x169 → c.moves = c.lists.zipIdx.map (fun w => ⟨(w.1.toNat : Int) * c.sstride.toInt, (w.2 : Int) * c.dstride.toInt, n⟩))
    ∧ (c.op = 0x16A → c.moves = ((List.range c.lists.length).filter (fun r => decide ((c.lists[r]?).getD 0 ≠ 0))).map (fun r =>
        ⟨(r : Int) * c.sstride.toInt, ((((c.lists.take r).map (fun w => w.toNat)).sum * n : Nat) : Int), ((c.lists[r]?).getD 0).toNat * n⟩))
  ) ∧ (
  (∀ (side : Side) (l : List Move),
    let ps := pendingPieces side l 0
    (∀ q ∈ ps, q.1 ∈ l ∧ 0 < q.2.2 ∧ q.2.1 + q.2.2 ≤ q.1.len ∧ (side.addr q.1.dst + q.2.1) % 32 + q.2.2 ≤ 32)
    ∧ (∀ m ∈ l, ∀ i, i < m.len → ∃ q ∈ ps, q.1 = m ∧ q.2.1 ≤ i ∧ i < q.2.1 + q.2.2)
    ∧ (ps.map (fun q => q.2.2)).sum = (l.map (fun m => m.len)).sum)
  ∧ (∀ (s t : State) (n : Nat) (c : Cmd) (x : Group), s.grp? n c.grp = some x → c.err = none → c.op ∈ [0x167, 0x168, 0x169, 0x16A] →
    MovesInTurn n x c s (pendingPieces (c.dst (s.rankOf x)) c.moves c.prog) t → s.runCmd n c = t.writeMasks n c)
  ∧ (∀ (s : State) (n g : Nat) (x : Group) (va : D64) (off : Int) (len k : Nat) (cr : Bool),
    let col := coreColumn n
    let a := (va + BitVec.ofInt 64 off).toNat
    0 < len → a % 2 ^ 16 + len ≤ 2 ^ 16 → s.engPage n x a len false false = .place k cr → k + len ≤ 0x8000000000 →
    (∀ i, i < len → OwnSector s col ((k + i) / 32)) → Room s col (len / 32 + 2) →
    ∃ t, s.sideLoad n x g (.global va) off len = (.ok ((List.range len).map (fun i => s.viewByte col (k + i))), t)
      ∧ ∀ c2 b, t.viewByte c2 b = s.viewByte c2 b)
  ∧ (∀ (s : State) (n g : Nat) (x : Group) (va : D64) (off : Int) (bs : List Byte) (k : Nat) (cr : Bool),
    let col := coreColumn n
    0 < bs.length → s.engPage n x (va + BitVec.ofInt 64 off).toNat bs.length true false = .place k cr → k % 32 + bs.length ≤ 32 → k < 0x8000000000 →
    OwnSector s col (k / 32) → Room s col 1 →
    ∃ t, s.sideStore n x g (.global va) off bs = .ok t
      ∧ ∀ b, t.viewByte col b = if k ≤ b then (bs[b - k]?).getD (s.viewByte col b) else s.viewByte col b)
  ∧ (∀ (s : State) (n g rank o n1 g1 : Nat) (x y : Group) (off : Nat) (bs : List Byte), s.gangScratch x rank = some (.grp n1 g1) →
    s.grp? n1 g1 = some y →
    s.sideLoad n x g (.scratch rank o) off bs.length = (.ok ((List.range bs.length).map (fun i => mapGet y.scratch (o + off + i) 0)), s)
    ∧ ∃ t z, s.sideStore n x g (.scratch rank o) off bs = .ok t ∧ t.grp? n1 g1 = some z ∧ CellsWritten y.scratch z.scratch (o + off) bs
      ∧ ∀ c b, t.viewByte c b = s.viewByte c b)
  ∧ (∀ (s : State) (n id n1 g1 n2 g2 r1 o1 r2 o2 : Nat) (c : Cmd) (x y1 y2 : Group), s.cmd? n id = some c → c.phase = .begun → c.op = 0x167 →
    c.err = none → c.prog = 0 → c.tags = [] → s.grp? n c.grp = some x → c.dst (s.rankOf x) = .scratch r1 o1 → c.src (s.rankOf x) = .scratch r2 o2 →
    Housed s x r1 n1 g1 y1 → Housed s x r2 n2 g2 y2 →
    let len := c.len.toNat
    (n1, g1) ≠ (n2, g2) ∨ o1 + len ≤ o2 ∨ o2 + len ≤ o1 → PotTakes x c len →
    ∃ t z1 z, exec (.engineCommandComplete n id) s = .next t ∧ t.cmd? n id = none ∧ t.grp? n1 g1 = some z1 ∧ t.grp? n c.grp = some z
      ∧ CellsWritten y1.scratch z1.scratch o1 ((List.range len).map (fun i => mapGet y2.scratch (o2 + i) 0)) ∧ PotCounted x z c len)
  ∧ (∀ (s : State) (n : Nat) (c : Cmd) (x : Group), s.grp? n c.grp = some x → c.op = 0x16A →
    let total := (c.lists.map (fun w => w.toNat)).sum
    let words := (total + 31) / 32
    PotTakes x c (4 * words) →
    (s.writeMasks n c).1 = .done ∧ ∃ z, (s.writeMasks n c).2.grp? n c.grp = some z ∧ PotCounted x z c (4 * words)
      ∧ (∀ a, (a < c.aux2.toNat ∨ c.aux2.toNat + 4 * words ≤ a) → mapGet z.scratch a 0 = mapGet x.scratch a 0)
      ∧ ∀ p, p < 32 * words → ((mapGet z.scratch (c.aux2.toNat + p / 8) 0).getLsbD (p % 8) = true ↔
          ∃ r, (∃ w, c.lists[r]? = some w ∧ w ≠ 0) ∧ ((c.lists.take r).map (fun w => w.toNat)).sum = p))
  ) ∧ (
  (∀ (s : State) (n id o rk n2 g2 : Nat) (c : Cmd) (x y : Group) (q : Rsv), s.cmd? n id = some c → c.phase = .begun → c.op = 0x163 → c.err = none →
    c.prog = 0 → c.tags = [] → c.rsvA = some q → (s.core n).matrix.fenced ≠ 0xF → s.grp? n c.grp = some x → c.src (s.rankOf x) = .scratch rk o →
    Housed s x rk n2 g2 y →
    let size := 256 * (q.sizeM1 + 1)
    PotTakes x c size →
    ∃ t z, exec (.engineCommandComplete n id) s = .next t ∧ t.cmd? n id = none ∧ t.grp? n c.grp = some z ∧ PotCounted x z c size
      ∧ CellsWritten (s.core n).matrix.buf (t.core n).matrix.buf (256 * q.base) ((List.range size).map (fun i => mapGet y.scratch (o + i) 0)))
  ∧ (∀ (s : State) (n off len p rank o n1 g1 : Nat) (cr : Bool) (c : Cmd) (x y : Group), c.op = 0x16C → s.grp? n c.grp = some x →
    s.engPage n x (c.d + BitVec.ofNat 64 off).toNat len true true = .place p cr → isRemote p = true → c.src (s.rankOf x) = .scratch rank o →
    s.gangScratch x rank = some (.grp n1 g1) → s.grp? n1 g1 = some y →
    let t := (s.fabricRequest n x c off len).2
    (s.fabricRequest n x c off len).1 = .done
    ∧ t.fabric.outq = s.fabric.outq ++ [⟨s.pkgId, placePkg p, s.fabric.nextTag, .write (placeAddr p)
        ((List.range len).map (fun i => some (mapGet y.scratch (o + off + i) 0))) 1 6 true []⟩]
    ∧ ∀ q, s.cmd? n c.id = some q → (t.cmd? n c.id).map (fun w => w.tags) = some (q.tags ++ [⟨s.fabric.nextTag, off, len, none⟩]))
  ∧ (∀ (s : State) (n : Nat) (c : Cmd) (k : CmdTag) (m : Msg) (x : Group), s.grp? n c.grp = some x → PotTakes x c k.len →
    let u := s.feedCmd n c k m
    (∀ q, s.cmd? n c.id = some q → (u.cmd? n c.id).map (fun w => w.tags) = some (q.tags.filter (fun y => y.tag != k.tag)))
    ∧ (m.body = .ack → (∃ z, u.grp? n c.grp = some z ∧ PotCounted x z c k.len ∧ z.scratch = x.scratch) ∧ ∀ c2 b, u.viewByte c2 b = s.viewByte c2 b)
    ∧ (∀ bs bulk, m.body = .data bs bulk [] → c.err = none →
      (∀ rank o n1 g1 y, k.place = none → c.dst (s.rankOf x) = .scratch rank o → s.gangScratch x rank = some (.grp n1 g1) → s.grp? n1 g1 = some y →
        ∃ z1 z, u.grp? n1 g1 = some z1 ∧ u.grp? n c.grp = some z ∧ CellsWritten y.scratch z1.scratch (o + k.off) bs ∧ PotCounted x z c k.len)
      ∧ (∀ p, k.place = some p → 0 < bs.length → p % 32 + bs.length ≤ 32 → p < 0x8000000000 → OwnSector s (coreColumn n) (p / 32) →
        Room s (coreColumn n) 1 → (∃ z, u.grp? n c.grp = some z ∧ PotCounted x z c k.len)
        ∧ ∀ b, u.viewByte (coreColumn n) b = if p ≤ b then (bs[b - p]?).getD (s.viewByte (coreColumn n) b) else s.viewByte (coreColumn n) b))
    ∧ (∀ bs bulk, m.body = .data bs bulk [] → c.err ≠ none → ∀ c2 b, u.viewByte c2 b = s.viewByte c2 b)
    ∧ (∀ q, s.cmd? n c.id = some q →
      (m.body = .poisoned ∨ (∃ bs bulk b bad, m.body = .data bs bulk (b :: bad)) → (u.cmd? n c.id).map (fun w => w.err) = some (some (q.err.getD 8)))
      ∧ (m.body = .error → (u.cmd? n c.id).map (fun w => w.err) = some (some (q.err.getD 1)))))
  )

/-- R214, R215: `mstg`, `mma` and `mzro` where every lane that issues has a good command word and the group's matrix entries have room.

R204, R214, R215: `mstg`, `mma` and `mzro` complete where the group owns the engine, every lane that issues has a command word whose reserved
fields are zero, which names reservations that match and tiles the group holds, and the group's matrix entries have room: one command for each
lane enters the engine's queue, in lane order. What a reservation's words must be for `mres` to take them is said last.

R213: `macq` takes the engine where it is free, queues where it is not, and answers 2 where the group has it or is queued; `mrel` gives up
ownership, or the place in the queue, or waits for the group's matrix commands; the engine is granted to the head of the queue. A new owner finds
the operand buffer zero and no reservation valid. -/
def Obligations.MatrixCommands : Prop :=
  (
  (∀ mk ∈ [Instr.mstg, Instr.mma, Instr.mzro], ∀ (r : Row) (f : Fields) (s : State) (e : Env) (ls : List LaneView) (n slot g : Nat) (x : Group)
      (d : Deal) (cmds : LaneView → Cmd), Issues (mk f) r f s e ls → OwnPositions ls → e.who = .deal n slot → s.deal? n slot = some d →
      s.issueGroup e = some (n, g, x) →
      (∀ lv ∈ storing f ls, matrixBuild s r f e ls n x (Cmd.blank r.op g e.pc d.boundFlag) lv = .ok (cmds lv)) →
      ((s.core n).matrix.cmds.filter (fun c => c.grp == g)).length + (storing f ls).length ≤ 32 →
      exec (mk f) s = .next ((((storing f ls).map cmds).foldl (fun t q => t.acceptCmd n q) s).commit e (laneRes f ls (fun _ => .idle)) (wordsOf f)))
  ∧ (∀ (s : State) (r : Row) (f : Fields) (e : Env) (ls : List LaneView) (n : Nat) (x : Group) (c : Cmd) (lv : LaneView),
      let w := (srcB r ls lv f).toNat
      let m := (s.core n).matrix
      let word := { c with wmask := BitVec.ofNat 12 (w / 2 ^ 20), pot := w / 2 ^ 16 % 16, pen := w.testBit 15 }
      m.owner = some c.grp →
      (∀ a, c.op = 0x163 → w % 2 ^ 11 = 0 → (w.testBit 14 = true → hiWord (srcA64 ls lv f) = 0) → mapGet? m.rsv (w / 2 ^ 11 % 8) = some a →
        matrixBuild s r f e ls n x c lv = .ok { word with a := srcA64 ls lv f, ssp := if w.testBit 14 then 1 else 0, rsvA := some a })
      ∧ (∀ a b, c.op = 0x164 → w.testBit 14 = false → w % 4 = 0 → mapGet? m.rsv (w / 2 ^ 11 % 8) = some a → mapGet? m.rsv (w / 2 ^ 8 % 8) = some b →
          a.k = b.k → fmtsMatch a.fmt b.fmt = true → w / 4 % 64 < x.tiles.length →
        matrixBuild s r f e ls n x c lv = .ok { word with rsvA := some a, rsvB := some b, z := w / 4 % 64 })
      ∧ (c.op = 0x165 → w / 2 ^ 8 % 128 = 0 → w % 4 = 0 → w / 4 % 64 < x.tiles.length →
        matrixBuild s r f e ls n x c lv = .ok { word with z := w / 4 % 64 }))
  ) ∧ (
  (∀ (r : Row) (f : Fields) (s : State) (e : Env) (ls : List LaneView) (n slot g : Nat) (x : Group) (d : Deal), OwnPositions ls →
    e.who = .deal n slot → s.deal? n slot = some d → s.issueGroup e = some (n, g, x) →
    let m := (s.core n).matrix
    let w := fun lv => (srcB r ls lv f).toNat
    let accepts := fun (i : Instr) => ∃ cmds : LaneView → Cmd, (∀ lv ∈ storing f ls, (cmds lv).op = r.op ∧ (cmds lv).grp = g
        ∧ (cmds lv).flag = d.boundFlag ∧ (cmds lv).wmask.toNat = w lv / 2 ^ 20 ∧ (cmds lv).pot = w lv / 2 ^ 16 % 16)
      ∧ exec i s = .next ((((storing f ls).map cmds).foldl (fun t q => t.acceptCmd n q) s).commit e (laneRes f ls (fun _ => .idle)) (wordsOf f))
    m.owner = some g → (m.cmds.filter (fun c => c.grp == g)).length + (storing f ls).length ≤ 32 →
    (Issues (.mstg f) r f s e ls → (∀ lv ∈ storing f ls, w lv % 2 ^ 11 = 0 ∧ (w lv / 2 ^ 14 % 2 = 1 → hiWord (srcA64 ls lv f) = 0)
      ∧ (mapGet? m.rsv (w lv / 2 ^ 11 % 8)).isSome = true) → accepts (.mstg f))
    ∧ (Issues (.mma f) r f s e ls → (∀ lv ∈ storing f ls, w lv / 2 ^ 14 % 2 = 0 ∧ w lv % 4 = 0 ∧ w lv / 4 % 64 < x.tiles.length
      ∧ ∃ a b, mapGet? m.rsv (w lv / 2 ^ 11 % 8) = some a ∧ mapGet? m.rsv (w lv / 2 ^ 8 % 8) = some b ∧ a.k = b.k
        ∧ (a.fmt, b.fmt) ∈ [(0, 0), (0, 1), (1, 0), (1, 1), (2, 2), (3, 3), (4, 4), (4, 5), (5, 4), (5, 5), (6, 6), (6, 7), (7, 6), (7, 7)]) →
      accepts (.mma f))
    ∧ (Issues (.mzro f) r f s e ls → (∀ lv ∈ storing f ls, w lv / 2 ^ 8 % 128 = 0 ∧ w lv % 4 = 0 ∧ w lv / 4 % 64 < x.tiles.length) →
      accepts (.mzro f)))
  ∧ (∀ w0 w1 : W, (rsvOf w0.toNat w1.toNat).isSome = true ↔
    let a := w0.toNat
    let b := w1.toNat
    let size := a / 2 ^ 6 % 1024 + 1
    let bits := if a / 8 % 8 = 2 ∨ a / 8 % 8 = 3 then 16 else if a / 8 % 8 = 6 ∨ a / 8 % 8 = 7 then 4 else 8
    let k := size * 2048 / (64 * bits)
    a / 2 ^ 16 % 1024 + size ≤ 1024 ∧ k % 32 = 0 ∧ a / 2 ^ 26 = 0 ∧ b / 2 ^ 24 % 64 = 0 ∧ b % 2 = 0
    ∧ (b / 2 ^ 30 = 0 ∨ a / 8 % 8 < 2 ∧ k % (if b / 2 ^ 30 = 1 then 32 else if b / 2 ^ 30 = 2 then 64 else 128) = 0))
  ) ∧ (
  (∀ (r : Row) (f : Fields) (s : State) (e : Env) (ls : List LaneView) (n g : Nat) (x : Group) (lv : LaneView), OnGroup s e ls n g x lv →
    let m := (s.core n).matrix
    (Issues (.macq f) r f s e ls →
      let a := (srcA ls lv f).toNat
      let done := fun (t : State) (v : W) => oneOut t f e lv (setD lv f v)
      (a < 12 ∨ a = 15 →
        (m.owner = some g ∨ (∃ q ∈ m.queue, q.1 = g) → exec (.macq f) s = .next (done s 2))
        ∧ (m.owner = none → m.queue = [] → exec (.macq f) s = .next (done (s.modCore n (fun y =>
            { y with matrix := { y.matrix with owner := some g, rsv := [], buf := [] } })) 1))
        ∧ (m.owner ≠ some g → (∀ q ∈ m.queue, q.1 ≠ g) → (m.owner ≠ none ∨ m.queue ≠ []) → exec (.macq f) s = .next (done (s.modCore n (fun y =>
            { y with matrix := { y.matrix with queue := y.matrix.queue ++ [(g, if a = 15 then none else some a)] } })) 0)))
      ∧ (12 ≤ a → a ≠ 15 → exec (.macq f) s = .next (oneArg s f e lv 1)))
    ∧ (Issues (.mrel f) r f s e ls →
      (m.owner = some g ∧ (∃ c ∈ m.cmds, c.grp = g) → exec (.mrel f) s = .next (s.waitOut e .mrel))
      ∧ (m.owner ≠ some g ∨ (∀ c ∈ m.cmds, c.grp ≠ g) → exec (.mrel f) s = .next (oneOut (s.modCore n (fun y =>
          { y with matrix := { y.matrix with owner := if y.matrix.owner = some g then none else y.matrix.owner,
                                             queue := y.matrix.queue.filter (fun q => q.1 != g) } })) f e lv lv)))
    ∧ (∀ mk ∈ [Instr.mres, Instr.mresLit], Issues (mk f) r f s e ls →
      let v := rsvOf (srcA ls lv f).toNat (srcB r ls lv f).toNat
      (m.owner ≠ some g → exec (mk f) s = .next (oneArg s f e lv 4))
      ∧ (m.owner = some g → v = none → exec (mk f) s = .next (oneArg s f e lv 5))
      ∧ (∀ i q, m.owner = some g → v = some (i, q) → exec (mk f) s = .next (oneOut (s.modCore n (fun y =>
          { y with matrix := { y.matrix with rsv := mapSet y.matrix.rsv i q } })) f e lv lv))))
  ∧ (∀ (s : State) (n : Nat) (q : Nat × Option Nat) (rest : List (Nat × Option Nat)),
    ((s.core n).matrix.owner = none → (s.core n).matrix.queue = q :: rest → exec (.matrixOwnershipGrant n) s = .next (s.modCore n (fun y =>
      { y with matrix := { y.matrix with owner := some q.1, rsv := [], buf := [], queue := rest } })))
    ∧ ((s.core n).matrix.owner ≠ none → exec (.matrixOwnershipGrant n) s = .next s))
  )

/-- R216: `mrd` where no unfinished command of the group writes a tile its lanes name and every active lane's word is good: D takes the pair of elements
(row A[5:0], columns 2t and 2t + 1 for lane t) as they stand, or each converted to the format MODX names.

R100, R102, R215: the tile product of integer formats adds the exact sum of the products modulo 2^32; `mzro` and a fresh tile read 0. `mma` gives its
tile the product of two staged reservations; where scales lie outside the scratch it is an error of code 4 and changes nothing.

R100, R101: the tile product of floating-point formats goes over the chunks of 32 in ascending order, each with the scales that cover it. What a chunk
makes of the accumulator: the canonical NaN for a NaN or an infinity among its products and scales or a NaN before it; else the products truncated to
60 bits below the largest are summed exactly and rounded (t1), multiplied by both scales and rounded (t2), and added and rounded. -/
def Obligations.MatrixResults : Prop :=
  (
  ∀ (r : Row) (f : Fields) (s : State) (e : Env) (ls : List LaneView) (n g : Nat) (x : Group), Issues (.mrd f) r f s e ls →
    s.issueGroup e = some (n, g, x) →
    let a := fun lv => (srcA ls lv f).toNat
    (∀ lv ∈ ls, laneActive f lv = true → a lv / 2 ^ 14 = 0 ∧ a lv / 64 % 4 = 0 ∧ a lv / 256 < x.tiles.length) →
    (∀ c ∈ (s.core n).matrix.cmds, c.grp = g → c.op = 0x164 ∨ c.op = 0x165 → ∀ lv ∈ ls, laneActive f lv = true → a lv / 256 ≠ c.z) →
    let at_ := fun lv => getReg ((x.tiles[a lv / 256]?).getD []) (64 * (a lv % 64) + 2 * lv.pos)
    let next := fun lv => getReg ((x.tiles[a lv / 256]?).getD []) (64 * (a lv % 64) + 2 * lv.pos + 1)
    (f.modx = 0 ∨ f.modx = 5 → exec (.mrd f) s = .next (s.commit e (laneOut f ls (fun lv => setD64 lv f (next lv ++ at_ lv))) (wordsOf f)))
    ∧ (∀ F, (f.modx, F) ∈ [((1 : BitVec 4), fmtBf16), (2, fmtF16), (3, fmtE4m3), (4, fmtE5m2)] →
      exec (.mrd f) s = .next (s.commit e (laneRes f ls (fun lv =>
        let p := fconv fmtF32 F e.fmode (at_ lv).toNat
        let q := fconv fmtF32 F e.fmode (next lv).toNat
        floatRes e lv (setD lv f (BitVec.ofNat 32 (p.1 + (if f.modx.toNat ≤ 2 then 65536 else 256) * q.1))) (p.2 ||| q.2))) (wordsOf f))
      ∧ (fmEnables e.fmode = 0 → exec (.mrd f) s = .next (s.commit e (laneRes f ls (fun lv =>
        let p := fconv fmtF32 F e.fmode (at_ lv).toNat
        let q := fconv fmtF32 F e.fmode (next lv).toNat
        .ok (setD lv f (BitVec.ofNat 32 (p.1 + (if f.modx.toNat ≤ 2 then 65536 else 256) * q.1))) (if lv.helper then 0 else p.2 ||| q.2))) (wordsOf f))))
  ) ∧ (
  (∀ (acc : W) (a b : List Int), mmaInt acc a b = BitVec.ofInt 32 (acc.toInt + (List.zipWith (· * ·) a b).sum))
  ∧ (∀ (s : State) (n : Nat) (c : Cmd) (x : Group), s.grp? n c.grp = some x → c.pen = false → c.z < x.tiles.length →
    (s.runMzro n c).1 = .done ∧ (((s.runMzro n c).2.grp? n c.grp).map (fun y => y.tiles)) = some (x.tiles.set c.z []))
  ∧ (∀ (buf scratch : List Host.Cell) (bytes : Nat) (ra rb : Rsv) (t : Regs) (i j : Nat), i < 64 → j < 64 → rsvFloat ra.fmt = false →
    getReg (mmaTile buf scratch bytes ra rb t) (64 * i + j) = BitVec.ofInt 32 ((getReg t (64 * i + j)).toInt
      + (List.zipWith (· * ·) ((bufLine buf ra i).map (elementInt ra.fmt)) ((bufLine buf rb j).map (elementInt rb.fmt))).sum))
  ∧ (∀ (buf : List Host.Cell) (q : Rsv) (m k : Nat), k < q.k →
    let p := m * q.k + k
    let byte := fun (o : Nat) => (mapGet buf (256 * q.base + o) 0).toNat
    (bufLine buf q m)[k]? = some (if q.fmt = 2 ∨ q.fmt = 3 then byte (2 * p) + 256 * byte (2 * p + 1)
      else if q.fmt = 6 ∨ q.fmt = 7 then byte (p / 2) / 16 ^ (p % 2) % 16 else byte p))
  ∧ (∀ (s : State) (n : Nat) (c : Cmd) (x : Group) (ra rb : Rsv), s.grp? n c.grp = some x → c.rsvA = some ra → c.rsvB = some rb → c.pen = false →
    c.z < x.tiles.length →
    let bytes := 16384 * ((s.recOf x).part.toNat % 256)
    let inside := ∀ q ∈ [ra, rb], q.bl = 0 ∨ q.soff + 2 * (64 * (q.k / scaleBlock q.bl)) ≤ bytes
    (inside → (s.runMma n x c).1 = .done ∧ (((s.runMma n x c).2.grp? n c.grp).map (fun y => y.tiles))
      = some (x.tiles.set c.z (mmaTile (s.core n).matrix.buf x.scratch bytes ra rb ((x.tiles[c.z]?).getD []))))
    ∧ (¬ inside → s.runMma n x c = (.error 4, s)))
  ) ∧ (
  (∀ (buf scratch : List Host.Cell) (bytes : Nat) (ra rb : Rsv) (t : Regs) (i j : Nat), i < 64 → j < 64 → ra.k = rb.k →
    (∀ q ∈ [ra, rb], q.fmt < 4 ∧ (q.bl ≠ 0 → q.k % scaleBlock q.bl = 0 ∧ q.soff + 2 * (64 * (q.k / scaleBlock q.bl)) ≤ bytes)) →
    let value := fun (q : Rsv) (m k : Nat) =>
      fdec (if q.fmt = 0 then fmtE4m3 else if q.fmt = 1 then fmtE5m2 else if q.fmt = 2 then fmtBf16 else fmtF16) (((bufLine buf q m)[k]?).getD 0) false
    let scale := fun (q : Rsv) (m c : Nat) => if q.bl = 0 then Datum.fin false 1 0 false
      else let at_ := q.soff + 2 * (m * (q.k / scaleBlock q.bl) + 32 * c / scaleBlock q.bl)
        fdec fmtBf16 ((mapGet scratch at_ 0).toNat + 256 * (mapGet scratch (at_ + 1) 0).toNat) false
    getReg (mmaTile buf scratch bytes ra rb t) (64 * i + j) = BitVec.ofNat 32 ((List.range (ra.k / 32)).foldl (fun acc c =>
      chunkStep acc ((List.range 32).map (fun k => dmul (value ra i (32 * c + k)) (value rb j (32 * c + k)))) (scale ra i c) (scale rb j c))
      (getReg t (64 * i + j)).toNat))
  ∧ (scaleBlock 1, scaleBlock 2, scaleBlock 3) = (32, 64, 128)
  ∧ (∀ (acc : Nat) (ps : List Datum) (sa sb : Datum),
    (fdec fmtF32 acc false).isNan = true ∨ (∃ p ∈ ps, p.isNan = true ∨ p.isInf = true) ∨ sa.isNan = true ∨ sa.isInf = true ∨ sb.isNan = true
      ∨ sb.isInf = true → chunkStep acc ps sa sb = 0x7FC00000)
  ∧ (∀ (acc : Nat) (ps : List Datum) (sa sb : Datum),
    let number := fun (d : Datum) => d.isNum ∧ (d.isZero = true ∨ d.val ≠ 0)
    let A := fdec fmtF32 acc false
    A.isNan = false → (∀ p ∈ ps, number p) → number sa → number sb →
    ∃ (t1 t2 : Nat) (f1 f2 f3 : FFlags),
      let T1 := fdec fmtF32 t1 false
      let T2 := fdec fmtF32 t2 false
      let product := (T1.neg != sa.neg) != sb.neg
      ((∀ p ∈ ps, p.val = 0) → t1 = 0)
      ∧ (∀ e : Int, (∀ p ∈ ps, |p.val| < 2 ^ (e + 1)) → (∃ p ∈ ps, 2 ^ e ≤ |p.val|) →
          let g : Rat := 2 ^ (e - 60)
          let toward0 := fun (v : Rat) => if 0 ≤ v then ⌊v⌋ else ⌈v⌉
          Delivers fmtF32 0 (((ps.map (fun p => (toward0 (p.val / g) : Rat) * g)).sum : Rat) : ℝ) false (t1, f1))
      ∧ (T1.isNum → Delivers fmtF32 0 ((T1.val * sa.val * sb.val : Rat) : ℝ) product (t2, f2))
      ∧ (T1.isInf = true → sa.isZero = true ∨ sb.isZero = true → t2 = 0x7FC00000)
      ∧ (T1.isInf = true → sa.isZero = false → sb.isZero = false → t2 = fmtF32.withSign product fmtF32.infBits)
      ∧ (A.isNum → T2.isNum → Delivers fmtF32 0 ((A.val + T2.val : Rat) : ℝ) (A.isZero && T2.isZero && A.neg && T2.neg) (chunkStep acc ps sa sb, f3))
      ∧ (A.isNum → T2.isInf = true → chunkStep acc ps sa sb = fmtF32.withSign T2.neg fmtF32.infBits)
      ∧ (A.isInf = true → T2.isNum ∨ (T2.isInf = true ∧ T2.neg = A.neg) → chunkStep acc ps sa sb = fmtF32.withSign A.neg fmtF32.infBits)
      ∧ (A.isInf = true → T2.isInf = true → T2.neg ≠ A.neg → chunkStep acc ps sa sb = 0x7FC00000)
      ∧ (T2.isNan = true → chunkStep acc ps sa sb = 0x7FC00000))
  )

/-- R201 to R203: `potarm` binds the pot to a flag and adds B; `fset` sets or clears the flags of B for each lane that is no helper. An argument with a
reserved field is an engine-argument fault; a lane of `fset` with B[31:12] not zero faults, and the lanes of its unit change no flag.

R221 to R223: `setfm` sets `fmode` of the scalar context or the column core and, with `.clr`, clears `fstat` and the block's flags; `getsr` reads flags, engine state
and pots, and 0 on a column core; `tick` and `cyc` read the clocks. -/
def Obligations.FlagsAndPots : Prop :=
  (
  (∀ mk ∈ [Instr.potarm, Instr.potarmLit], ∀ (r : Row) (f : Fields) (s : State) (e : Env) (ls : List LaneView) (n g : Nat) (x : Group) (lv : LaneView),
    Issues (mk f) r f s e ls → OnGroup s e ls n g x lv →
    let a := (srcA ls lv f).toNat
    let pot := mapGet x.pots (a % 16) ⟨0, 0⟩
    (256 ≤ a ∨ 12 ≤ a / 16 % 16 → exec (mk f) s = .next (oneArg s f e lv 1))
    ∧ (a < 256 → a / 16 < 12 → 0 < pot.rem → pot.flag ≠ a / 16 → exec (mk f) s = .next (oneArg s f e lv 2))
    ∧ (a < 256 → a / 16 < 12 → pot.rem ≤ 0 ∨ pot.flag = a / 16 → exec (mk f) s = .next (oneOut
        ((s.modGrp n g (fun y => { y with pots := mapSet y.pots (a % 16) { pot with flag := a / 16 } })).potAdd n g (a % 16) (srcB r ls lv f).toNat e.pc)
        f e lv lv)))
  ∧ (∀ (s : State) (n g p : Nat) (v : Int) (pc : D64) (x : Group), s.grp? n g = some x →
    let sum := (mapGet x.pots p ⟨0, 0⟩).rem + v
    sum < 2 ^ 47 → -(2 ^ 47 : Int) ≤ sum →
    s.potAdd n g p v pc = s.modGrp n g (fun y => { y with pots := mapSet y.pots p { mapGet x.pots p ⟨0, 0⟩ with rem := sum } }))
  ∧ (∀ q ∈ [(Instr.fsetSet, false), (Instr.fsetSetLit, false), (Instr.fsetClr, true), (Instr.fsetClrLit, true)],
    ∀ (r : Row) (f : Fields) (s : State) (e : Env) (ls : List LaneView) (n g : Nat) (x : Group), Issues (q.1 f) r f s e ls →
    s.issueGroup e = some (n, g, x) → (∀ lv ∈ storing f ls, (srcB r ls lv f).toNat < 4096) →
    exec (q.1 f) s = .next (((storing f ls).foldl (fun t lv => t.modGrp n g (fun y =>
      { y with soft := if q.2 then y.soft &&& ~~~((srcB r ls lv f).setWidth 12) else y.soft ||| (srcB r ls lv f).setWidth 12 })) s).commit e
      (laneRes f ls (fun _ => .idle)) (wordsOf f)))
  ∧ (∀ q ∈ [(Instr.fsetSet, false), (Instr.fsetSetLit, false), (Instr.fsetClr, true), (Instr.fsetClrLit, true)],
    ∀ (r : Row) (f : Fields) (s : State) (e : Env) (ls : List LaneView) (n g : Nat) (x : Group), Issues (q.1 f) r f s e ls → OwnPositions ls →
    s.issueGroup e = some (n, g, x) →
    let bad := fun (lv : LaneView) => decide ((srcB r ls lv f).toNat / 2 ^ 12 ≠ 0)
    let fine := fun (lv : LaneView) => (storing f ls).all (fun y => !(bad y) || y.tidx / e.unit != lv.tidx / e.unit)
    exec (q.1 f) s = .next ((((storing f ls).filter fine).foldl (fun t lv => t.modGrp n g (fun y =>
      { y with soft := if q.2 then y.soft &&& ~~~((srcB r ls lv f).setWidth 12) else y.soft ||| (srcB r ls lv f).setWidth 12 })) s).commit e
      (laneRes f ls (fun lv => if lv.helper = false ∧ bad lv = true then .fail ⟨9, 1, e.pc, 0, 0, 0, 0⟩ else .idle)) (wordsOf f)))
  ∧ (∀ (s : State) (n g i : Nat) (x : Group), s.grp? n g = some x → (s.flagSet n g i = true ↔
      x.soft.getLsbD i = true ∨ (∃ c ∈ (s.core n).copyq ++ (s.core n).matrix.cmds, c.grp = g ∧ c.flag = some i)
      ∨ (∃ p ∈ x.pots, p.2.flag = i ∧ 0 < p.2.rem) ∨ (g, some i) ∈ (s.core n).matrix.queue))
  ) ∧ (
  (∀ mk ∈ [Instr.setfm, Instr.setfmLit], ∀ (r : Row) (f : Fields) (s : State) (e : Env) (lv : LaneView), Issues (mk f) r f s e [lv] →
    let v := fmodeMask (srcB r [lv] lv f)
    let clr := f.modx = 1
    (∀ c, e.who = .col c → exec (mk f) s = .next (oneOut (s.modCc c (fun x => { x with fmode := v, fstat := if clr then 0 else x.fstat,
                                                                                       acc := if clr then 0 else x.acc })) f e lv lv))
    ∧ (∀ n slot d, e.who = .deal n slot → s.deal? n slot = some d → exec (mk f) s = .next (oneOut
        ((s.modGrp n d.grp (fun x => { x with fmode := v, fstat := if clr then 0 else x.fstat })).setDeal n slot (some { d with acc := if clr then 0 else d.acc }))
        f e lv lv)))
  ∧ (∀ (r : Row) (f : Fields) (s : State) (e : Env) (ls : List LaneView), Issues (.tick f) r f s e ls →
    exec (.tick f) s = .next (s.commit e (laneOut f ls (fun lv => setD64 lv f (BitVec.ofNat 64 s.tick))) (wordsOf f)))
  ∧ (∀ (r : Row) (f : Fields) (s : State) (e : Env) (ls : List LaneView), Issues (.cyc f) r f s e ls →
    let die := match e.who with | .col c => c / 8 | .deal n _ => n / 12 / 8
    exec (.cyc f) s = .next (s.commit e (laneOut f ls (fun lv => setD64 lv f (BitVec.ofNat 64 (s.cyc die)))) (wordsOf f)))
  ∧ (∀ (r : Row) (f : Fields) (s : State) (e : Env) (ls : List LaneView) (n g : Nat) (x : Group), Issues (.getsr f) r f s e ls →
    s.issueGroup e = some (n, g, x) →
    exec (.getsr f) s = .next (s.commit e (laneOut f ls (fun lv =>
      let a := (srcA ls lv f).toNat
      let t := if e.kind = 2 ∨ lv.helper = true then none else (mapGet? x.threads lv.tidx).bind (fun y => y.trap)
      let of := fun (g : FaultInfo → W) => (t.map g).getD 0
      setD lv f (match a % 256 with
        | 0 => of (fun z => BitVec.ofNat 32 z.cause) | 1 => of (fun z => BitVec.ofNat 32 z.code)
        | 2 => of (fun z => z.pc.extractLsb' 0 32) | 3 => of (fun z => z.pc.extractLsb' 32 32)
        | 4 => of (fun z => z.next.extractLsb' 0 32) | 5 => of (fun z => z.next.extractLsb' 32 32)
        | 6 => of (fun z => BitVec.ofNat 32 (256 * (z.pos % 4) + z.flags.toNat))
        | 0x10 => BitVec.ofNat 32 (((List.range 12).map (fun i => if s.flagSet n g i then 2 ^ i else 0)).sum)
        | 0x11 => if (s.core n).matrix.owner = some g then 2 else if (s.core n).matrix.queue.any (fun q => q.1 == g) then 1 else 0
        | 0x20 => BitVec.ofInt 32 (mapGet x.pots (a / 256 % 16) ⟨0, 0⟩).rem
        | 0x21 => BitVec.ofInt 32 ((mapGet x.pots (a / 256 % 16) ⟨0, 0⟩).rem / 2 ^ 32)
        | _ => 0))) (wordsOf f)))
  ∧ (∀ (r : Row) (f : Fields) (s : State) (e : Env) (ls : List LaneView) (c : Nat), Issues (.getsr f) r f s e ls → e.who = .col c →
    exec (.getsr f) s = .next (s.commit e (laneOut f ls (fun lv => setD lv f 0)) (wordsOf f)))
  )

/-- R217, R218: `spawn` puts each lane's task in the shoe, in lane order, while it holds fewer than 1,024, and answers 1, or 0 for the lanes that find it
full and for helpers; `tstat` reads the shoe's count and the instance's bits.

R219, R258, R286: `gbar` releases at its scope, marks its group as arrived and lets the scalar context wait outside its slot for the episode; once
every member has arrived or retired the episode ends, and each cluster that holds waiting groups has its release time; the waiting groups whose
cluster's release time has come, in the order of residence, acquire and receive the episode. -/
def Obligations.TasksAndBarriers : Prop :=
  (
  (∀ (r : Row) (f : Fields) (s : State) (e : Env) (ls : List LaneView) (n g : Nat) (x : Group), Issues (.spawn f) r f s e ls → OwnPositions ls →
    s.issueGroup e = some (n, g, x) → s.grp? n g = some x → (∀ lv ∈ storing f ls, (srcA64 ls lv f).toNat % 4 = 0) →
    let room := 1024 - x.shoe.length
    exec (.spawn f) s = .next ((((storing f ls).take room).foldl (fun t lv => t.modGrp n g (fun z =>
      { z with shoe := z.shoe ++ [(srcA64 ls lv f, srcB64 r ls lv f)] })) s).commit e (laneOut f ls (fun lv =>
        setD lv f (if lv.helper = false ∧ (storing f ls).findIdx (fun y => y.pos == lv.pos) < room then 1 else 0))) (wordsOf f)))
  ∧ (∀ (r : Row) (f : Fields) (s : State) (e : Env) (ls : List LaneView) (n g : Nat) (x : Group), Issues (.tstat f) r f s e ls →
    s.issueGroup e = some (n, g, x) →
    exec (.tstat f) s = .next (s.commit e (laneOut f ls (fun lv => setD lv f (BitVec.ofNat 32 (65536 * x.shoe.length
      + (if (s.recOf x).flags.getLsbD 2 then 2 else 0) + (if (s.instOf x).quiet then 1 else 0))))) (wordsOf f)))
  ) ∧ (
  (∀ q ∈ [(Instr.gbarGang, false), (Instr.gbarGrid, true)], ∀ (r : Row) (f : Fields) (s : State) (e : Env) (ls : List LaneView) (n slot g : Nat)
      (x : Group) (d : Deal) (lv : LaneView), Issues (q.1 f) r f s e ls → OnGroup s e ls n g x lv → e.who = .deal n slot →
    let gang := x.gflat / (s.recOf x).gang
    let ep := ((s.instOf x).bar q.2 gang).ep
    let s1 := (s.releaseAct ⟨coreColumn n, coreInCol n, .grp n g⟩ (if q.2 then 5 else 3)).modInst x.inst (fun i =>
      i.setBar q.2 gang { i.bar q.2 gang with arrived := insNat x.gflat (i.bar q.2 gang).arrived })
    s1.deal? n slot = some d →
    exec (q.1 f) s = .next ((s1.scalarWait n slot d (.gbar q.2 ep)).barrierTest x.inst q.2 gang))
  ∧ (∀ (s : State) (inst : Nat) (grid : Bool) (gang : Nat) (i : Inst), s.inst? inst = some i →
    let b := i.bar grid gang
    ((∃ m ∈ barMembers i.lrec grid gang, m ∉ b.arrived ∧ m ∉ i.retired) → s.barrierTest inst grid gang = s)
    ∧ ((∀ m ∈ barMembers i.lrec grid gang, m ∈ b.arrived ∨ m ∈ i.retired) → b.arrived ≠ [] →
      ∃ j, (s.barrierTest inst grid gang).inst? inst = some j ∧ (j.bar grid gang).ep = b.ep + 1 ∧ (j.bar grid gang).arrived = []
        ∧ ∃ cls : List Nat, cls.Pairwise (· < ·)
          ∧ (∀ cl, cl ∈ cls ↔ ∃ q ∈ s.residents inst, clusterOf (coreColumn q.1) = cl ∧ q.2.2.gflat ∈ b.arrived
              ∧ ∃ d, q.2.2.scalar = .waiting (.gbar grid b.ep) d)
          ∧ (j.bar grid gang).release = cls.zipIdx.map (fun c => (c.1, s.tick + (((c.2 : Int) - b.ep) % cls.length).toNat * s.gbarGap))))
  ∧ (∀ (s : State) (inst n g : Nat) (x : Group) (grid : Bool) (ep : Nat) (d : Deal) (i : Inst), s.residents inst = [(n, g, x)] →
    x.scalar = .waiting (.gbar grid ep) d → s.inst? inst = some i →
    let b := i.bar grid (x.gflat / i.lrec.gang)
    let due := ep < b.ep ∧ ∀ q ∈ b.release, q.1 = clusterOf (coreColumn n) → q.2 ≤ s.tick
    (due → exec (.gbarClusterRelease inst) s = .next ((s.acquireAct ⟨coreColumn n, coreInCol n, .grp n g⟩ (if grid then 5 else 3)).modGrp n g
        (fun y => { y with scalar := .ready d (some (BitVec.ofNat 32 ep)) })))
    ∧ (¬ due → exec (.gbarClusterRelease inst) s = .next s))
  ∧ (∀ (s : State) (inst : Nat) (i : Inst), s.inst? inst = some i →
    let due := fun (q : Nat × Nat × Group) => match q.2.2.scalar with
      | .waiting (.gbar grid ep) _ => let b := i.bar grid (q.2.2.gflat / i.lrec.gang)
          decide (ep < b.ep) && b.release.all (fun r => r.1 != clusterOf (coreColumn q.1) || decide (r.2 ≤ s.tick))
      | _ => false
    let serve := fun (t : State) (q : Nat × Nat × Group) => match q.2.2.scalar with
      | .waiting (.gbar grid ep) d => (t.acquireAct ⟨coreColumn q.1, coreInCol q.1, .grp q.1 q.2.1⟩ (if grid then 5 else 3)).modGrp q.1 q.2.1
          (fun y => { y with scalar := .ready d (some (BitVec.ofNat 32 ep)) })
      | _ => t
    exec (.gbarClusterRelease inst) s = .next (((s.residents inst).filter due).foldl serve s))
  )

/-- R220, R24: `rxacq`, `zacq`, `rxrel` and `zrel`: a holding is granted where enough granules are free and no context admitted earlier waits; a group
that holds something is refused instead of waiting; the others wait, and are served in the order of admission. -/
def Obligations.Holdings : Prop :=
  (∀ (r : Row) (f : Fields) (s : State) (e : Env) (ls : List LaneView) (n g : Nat) (x : Group) (lv : LaneView), OnGroup s e ls n g x lv →
    let done := fun (t : State) (v : W) => oneOut t f e lv (setD lv f v)
    let free := fun (need : Nat) => need ≤ s.freeGranules n ∧ ∀ w ∈ (s.core n).holdWaiters, x.admitSeq ≤ w.2.1.admitSeq
    let need := (s.recOf x).xGranules
    let k := (srcA ls lv f).toNat
    (Issues (.rxacq f) r f s e ls →
      ((s.recOf x).xreg = 0 ∨ x.xheld = true → exec (.rxacq f) s = .next (done s 2))
      ∧ ((s.recOf x).xreg ≠ 0 → x.xheld = false → free need → exec (.rxacq f) s = .next (done (s.modGrp n g (fun y => { y with xheld := true })) 0))
      ∧ ((s.recOf x).xreg ≠ 0 → x.xheld = false → ¬ free need → x.tiles ≠ [] → exec (.rxacq f) s = .next (done s 1))
      ∧ ((s.recOf x).xreg ≠ 0 → x.xheld = false → ¬ free need → x.tiles = [] → exec (.rxacq f) s = .next (s.waitOut e .rxacq)))
    ∧ (Issues (.zacq f) r f s e ls →
      (k = 0 ∨ (s.recOf x).zmax < x.tiles.length + k → exec (.zacq f) s = .next (done s 3))
      ∧ (k ≠ 0 → x.tiles.length + k ≤ (s.recOf x).zmax → free k →
          exec (.zacq f) s = .next (done (s.modGrp n g (fun y => { y with tiles := y.tiles ++ List.replicate k [] })) 0))
      ∧ (k ≠ 0 → x.tiles.length + k ≤ (s.recOf x).zmax → ¬ free k → x.xheld = true ∨ x.tiles ≠ [] → exec (.zacq f) s = .next (done s 1))
      ∧ (k ≠ 0 → x.tiles.length + k ≤ (s.recOf x).zmax → ¬ free k → x.xheld = false → x.tiles = [] →
          exec (.zacq f) s = .next (s.waitOut e (.zacq k))))
    ∧ (Issues (.rxrel f) r f s e ls →
      (x.xheld = true → exec (.rxrel f) s = .next (oneOut (s.modGrp n g (fun y => { y with xheld := false, threads := y.threads.map (fun t =>
          (t.1, { t.2 with v := t.2.v.filter (fun z => decide (z.1 < (s.recOf x).base)) })) })) f e lv lv))
      ∧ (x.xheld = false → exec (.rxrel f) s = .next (oneOut s f e lv lv)))
    ∧ (Issues (.zrel f) r f s e ls →
      (∀ c ∈ (s.core n).matrix.cmds, c.grp = g → c.op = 0x164 ∨ c.op = 0x165 → c.z < x.tiles.length - k) →
      exec (.zrel f) s = .next (oneOut (s.modGrp n g (fun y => { y with tiles := y.tiles.take (x.tiles.length - k) })) f e lv lv)))
  ∧ (∀ (s : State) (n g need : Nat) (x : Group) (w : ScalarWait) (d : Deal), (s.core n).holdWaiters = [(g, x, w, d)] →
    (w = .rxacq ∧ need = (s.recOf x).xGranules ∨ w = .zacq need) →
    (s.freeGranules n < need → exec (.holdingGrant n) s = .next s)
    ∧ (need ≤ s.freeGranules n → exec (.holdingGrant n) s = .next (s.modGrp n g (fun y =>
        { (if w = .rxacq then { y with xheld := true } else { y with tiles := y.tiles ++ List.replicate need [] }) with scalar := .ready d (some 0) }))))

/-- R205, R207, R210, R300, R305: a command begins when its wait mask reads clear: its lists are read, its ranges checked, and its locks asked for; a
fabric command that has begun makes its requests. One whose mask does not read clear stays. An error found then stands for its own turn. With its
locks granted a command begins with an acquire at column scope.

R200, R204, R207, R310: how a begun command ends. Its work done and nothing owed by another package, it leaves its queue with its locks; a page it
cannot use suspends it, its locks released and a record of SRC 2 posted, and what an `frdb` has still to get asked for again; an error stops its group
with a record of SRC 1, and no request of it that has not left is made. The bursts of a copy count toward the column's signature (R392): that all of
them count where the command completes, at most 15, is the model's choice (log 27). -/
def Obligations.CommandProgress : Prop :=
  (
  (∀ (s : State) (n id : Nat) (c : Cmd) (x : Group), s.cmd? n id = some c → s.grp? n c.grp = some x → c.phase = .accepted → c.started = false →
    (isMatrixOp c.op = true → ((s.core n).matrix.cmds.head?).map (fun q => q.id) = some id) →
    (s.flagsClear n c.grp c.wmask = false → exec (.engineCommandBegin n id) s = .next s)
    ∧ (s.flagsClear n c.grp c.wmask = true →
      (∀ code, s.withLists x c = .error code →
        exec (.engineCommandBegin n id) s = .next (s.modCmd n id (fun q => { q with phase := .begun, started := true, err := some code })))
      ∧ (∀ c1 code, s.withLists x c = .ok c1 → s.planError x c1 = some code →
        exec (.engineCommandBegin n id) s = .next (s.modCmd n id (fun q => { q with phase := .begun, started := true, err := some code })))
      ∧ (∀ c1, s.withLists x c = .ok c1 → s.planError x c1 = none →
        let t := (s.modCmd n id (fun _ => { c1 with phase := .waitingLock, started := true })).requestLocks ⟨.cmd n id, s.cmdEntries n x c1⟩
        exec (.engineCommandBegin n id) s = .next (match t.cmd? n id with
          | some q =>
            if q.phase = .begun ∧ (q.op = 0x16C ∨ q.op = 0x16D) ∧ q.err = none then
              match t.runCmd n q with
              | (.error code, u) => (match u.cmd? n id with | some v => u.markErr n v code | none => u)
              | (_, u) => u
            else t
          | none => t))))
  ∧ (∀ (s : State) (n id : Nat) (c : Cmd), s.cmd? n id = some c →
    ((s.onGrant (.cmd n id)).cmd? n id).map (fun q => q.phase) = some .begun
    ∧ (s.onGrant (.cmd n id)).l1 (coreColumn n) (coreInCol n) =
        ((s.l1 (coreColumn n) (coreInCol n)).filter (fun x => x.2.mask == 0xFFFFFFFF)).map (fun x => (x.1, ⟨x.2.data, 0⟩)))
  ) ∧ (
  ∀ (s : State) (n id : Nat) (c : Cmd), s.cmd? n id = some c → c.phase = .begun →
    (∀ t, s.runCmd n c = (.done, t) → t.cmdOwed n id = false → exec (.engineCommandComplete n id) s = .next (if 0x163 ≤ c.op ∧ c.op ≤ 0x165 then t.endCmd n c
        else (t.endCmd n c).noteIssue (coreColumn n) 2 (min 15 ((movesBytes c.moves + 255) / 256)))
      ∧ (c.id = id → (t.endCmd n c).cmd? n id = none))
    ∧ (∀ t cause code va wr x, s.runCmd n c = (.suspend cause code va wr, t) →
      let tags := match t.cmd? n id with | some q => if q.op = 0x16D then q.tags else [] | none => []
      let t1 := ((t.unsend (tags.map (·.tag))).modCmd n id (fun q => { q with
        phase := .suspended, tags := if q.op = 0x16D then [] else q.tags, redo := q.redo ++ tags.map (fun k => (k.off, k.len)) })).releaseLocks (.cmd n id)
      t1.grp? n c.grp = some x → exec (.engineCommandSuspend n id) s = .next (t1.postRec (coreColumn n)
        { cause := cause, code := code, recid := 0, flags := 0, pos := if wr then 128 else 0, pc := c.pc, next := 0, vaddr := BitVec.ofNat 64 va,
          nthr := 0, slot := x.slotBase, core := n % 12, ctx := t1.ctxOf x, grp := c.grp, src := 2, tick := 0, threads := [], cmd := id, attached := true }))
    ∧ (∀ t code, s.runCmd n c = (.error code, t) → exec (.engineError n id) s = .next
      (((t.unsend (c.tags.map (·.tag))).endCmd n c).stopGroup n c.grp ⟨19, code, c.pc, 0, 0, 0, 0⟩ 0))
  )

/-- R304, R306: range locks. Two entries conflict where one ASID's ranges meet and one of them is a destination or a system lock. A table grants a request
where 64 entries hold it, no entry there conflicts with it, and no request that waits there before it would conflict with it or waits for free
entries. A request enters the tables it needs at once where each grants it, that of a command the table of its column, that of the swap engine all
32; else it enters none and waits in the order of each.

R305: the sectors a command locks are those its sides span; a span that wraps at 2^64 takes two entries.

R310, R311: a release takes every entry and every waiting request of its owner out of the tables, and leaves those of others; in the same step what
then can be granted is: each request that waited either waits on, and some table does not grant it, or has its entries in every table it needs. The
release of a swap lets the scalar contexts that wait on its entries go on, under the ASID their access had, and marks the threads that do resolved. -/
def Obligations.RangeLocks : Prop :=
  (∀ a b : LockEntry, a.conflicts b = true ↔
    a.asid = b.asid ∧ a.first ≤ b.last ∧ b.first ≤ a.last ∧ (a.dst = true ∨ b.dst = true ∨ a.sys = true ∨ b.sys = true))
  ∧ (∀ (s : State) (n id : Nat) (es : List LockEntry), es ≠ [] →
    let y := s.col (coreColumn n)
    let t := s.requestLocks ⟨.cmd n id, es⟩
    (y.lockWait = [] →
      (y.locks.length + es.length ≤ 64 → (∀ a ∈ es, ∀ b ∈ y.locks, a.conflicts b = false) →
        (t.col (coreColumn n)).locks = y.locks ++ es ∧ (∀ c, t.cmd? n id = some c → c.phase = .begun))
      ∧ (64 < y.locks.length + es.length ∨ (∃ a ∈ es, ∃ b ∈ y.locks, a.conflicts b = true) →
        (t.col (coreColumn n)).locks = y.locks ∧ (t.col (coreColumn n)).lockWait = [⟨.cmd n id, es⟩])))
  ∧ (∀ (y : Column) (q : LockReq),
    let before := y.lockWait.takeWhile (fun r => r.owner != q.owner)
    y.grants q = true ↔ y.locks.length + q.entries.length ≤ 64 ∧ (∀ a ∈ q.entries, ∀ b ∈ y.locks, a.conflicts b = false)
      ∧ ∀ r ∈ before, y.locks.length + r.entries.length ≤ 64 ∧ ∀ a ∈ q.entries, ∀ b ∈ r.entries, a.conflicts b = false)
  ∧ (∀ n id c, (LockOwner.cmd n id).columns = [coreColumn n] ∧ (LockOwner.swap c id).columns = List.range 32)
  ∧ (∀ (s : State) (q : LockReq), q.entries ≠ [] → (∀ k, ∀ r ∈ (s.col k).lockWait, r.owner ≠ q.owner) →
    let t := s.requestLocks q
    ((∀ k ∈ q.owner.columns, (s.col k).grants q = true) → ∀ k ∈ q.owner.columns, (t.col k).lockWait = (s.col k).lockWait
      ∧ ∃ es, (t.col k).locks = (s.col k).locks ++ es ∧ es.map LockEntry.plain = q.entries.map LockEntry.plain)
    ∧ ((∃ k ∈ q.owner.columns, (s.col k).grants q = false) → ∀ k ∈ q.owner.columns, (t.col k).locks = (s.col k).locks
      ∧ (t.col k).lockWait = (s.col k).lockWait ++ [q])
    ∧ (∀ k, k ∉ q.owner.columns → (t.col k).locks = (s.col k).locks ∧ (t.col k).lockWait = (s.col k).lockWait))
  ∧ (∀ (asid : Nat) (dst : Bool) (o : LockOwner) (va : D64) (lo hi : Int), lo ≤ hi → hi - lo < 2 ^ 64 →
    let es := sideEntry asid dst o (.global va) (some (lo, hi))
    (∀ e ∈ es, e.asid = asid ∧ e.dst = dst ∧ e.sys = false ∧ e.owner = o)
    ∧ ∀ k, k < 2 ^ 59 → ((∃ e ∈ es, e.first ≤ k ∧ k ≤ e.last) ↔ ∃ i : Int, lo ≤ i ∧ i ≤ hi ∧ (va + BitVec.ofInt 64 i).toNat / 32 = k))
  ∧ (∀ (s : State) (o : LockOwner), LockOrder s →
    let t := s.releaseLocks o
    (∀ k ∈ o.columns, (∀ l ∈ (t.col k).locks, l.owner ≠ o) ∧ ∀ q ∈ (t.col k).lockWait, q.owner ≠ o)
    ∧ (∀ k, ∀ l ∈ (s.col k).locks, l.owner ≠ o → l ∈ (t.col k).locks)
    ∧ (∀ k, k < 32 → ∀ q ∈ (t.col k).lockWait, q ∈ (s.col k).lockWait ∧ ∃ c ∈ q.owner.columns, (t.col c).grants q = false)
    ∧ (∀ k, k < 32 → ∀ q ∈ (s.col k).lockWait, q.owner ≠ o → q ∈ (t.col k).lockWait
        ∨ ∀ c ∈ q.owner.columns, ∀ a ∈ q.entries, ∃ l ∈ (t.col c).locks, l.plain = a.plain))
  ∧ (∀ (s : State) (c id n g asid : Nat) (va : D64) (x : Group) (d : Deal) (l : LockEntry), s.grp? n g = some x →
    x.scalar = .waiting (.sysLock va asid) d → (∀ e ∈ s.cores, e.1 = n → ∀ q ∈ e.2.groups, q.1 = g → q.2.scalar = x.scalar) →
    ((s.col 0).locks.filter (fun a => decide (a.owner = .swap c id))) = [l] → l.sys = true →
    let t := s.releaseLocks (.swap c id)
    (l.asid = asid → l.first ≤ (va.toNat + 7) / 32 → va.toNat / 32 ≤ l.last → (t.grp? n g).map (fun y => y.scalar) = some (.ready d none))
    ∧ (l.asid ≠ asid ∨ (va.toNat + 7) / 32 < l.first ∨ l.last < va.toNat / 32 → (t.grp? n g).map (fun y => y.scalar) = some x.scalar))
  ∧ (∀ (s : State) (c id n g i asid : Nat) (th : Thread) (p : Park) (l : LockEntry), s.thr? n g i = some th → th.park = some p →
    p.kind = .sysLock asid → l ∈ (s.col 0).locks → l.owner = .swap c id → l.stops asid p.info.vaddr = true →
    ∃ y, (s.releaseLocks (.swap c id)).thr? n g i = some y ∧ ∀ q, y.park = some q → q.resolved = true)
  ∧ (∀ (asid : Nat) (l : LockEntry) (va : D64),
    l.stops asid va = true ↔ l.sys = true ∧ l.asid = asid ∧ l.first ≤ (va.toNat + 7) / 32 ∧ va.toNat / 32 ≤ l.last)

/-- R232 to R234: `sysrd` and `syswr`, and the rows of the opcode table that name one register each. A reserved number traps with reason 4, a privilege too low
with reason 7, a write of a register that cannot be written with reason 4, a write of `rsm_go` with [63:5] nonzero with reason 6; otherwise the
value is read into the pair D, or the pair A written. The registers with their privileges, what a read of each gives, and what a read after a write
gives (R5).

That a word which names a reserved register and has a nonzero field that must be zero reports reason 6, the checks of R232 coming after those of the
table, is the model's choice (log 55); so is that REQ of `swallow_col` reads as it was last written at once (log 26). The counters of a memory-side
cache count what log 44 says. -/
def Obligations.SystemRegisters : Prop :=
  (∀ (mk : Fields → Instr) (r : Row) (f : Fields) (s : State) (e : Env) (ls : List LaneView) (c : Nat) (lv : LaneView),
    Issues (mk f) r f s e ls → OnColumn e ls c lv →
    let n := (srcB r ls lv f).toNat
    let v := srcA64 ls lv f
    let traps := fun (reason : Nat) => s.takeTrap c 1 reason e.addr e.pc 0
    (mk ∈ [Instr.sysrd, Instr.sysrdLit, Instr.calDataRead] →
      (sysRule n = none → exec (mk f) s = .next (traps 4))
      ∧ (∀ rd wr, sysRule n = some (rd, wr) →
        (e.priv < rd → exec (mk f) s = .next (traps 7))
        ∧ (rd ≤ e.priv → n ≠ 0x071 → exec (mk f) s = .next (oneOut s f e lv (setD64 lv f (s.sysRead c n))))
        ∧ (rd ≤ e.priv → n = 0x071 → exec (mk f) s = .next (oneOut (s.modCol c (fun y => { y with calIdx := (y.calIdx + 1) % 1024 })) f e lv
            (setD64 lv f ((mapGet s.fabric.cal (s.col c).calIdx 0).zeroExtend 64))))))
    ∧ (mk ∈ [Instr.syswr, Instr.syswrLit, Instr.rsmGoWrite, Instr.swallowColWrite, Instr.thrEventsWrite, Instr.evpendWrite, Instr.polDealWrite] →
      (sysRule n = none → exec (mk f) s = .next (traps 4)) ∧ (∀ rd, sysRule n = some (rd, none) → exec (mk f) s = .next (traps 4))
      ∧ (∀ rd wr, sysRule n = some (rd, some wr) →
        (e.priv < wr → exec (mk f) s = .next (traps 7))
        ∧ (wr ≤ e.priv → n = 0x043 → 32 ≤ v.toNat → exec (mk f) s = .next (traps 6))
        ∧ (wr ≤ e.priv → n ≠ 0x043 ∨ v.toNat < 32 → exec (mk f) s = .next ((oneOut s f e lv lv).sysWrite c n v)))))
  ∧ (∀ n, sysRule n = (([(0x000, 0x000, 0, none), (0x010, 0x01A, 1, some 1), (0x020, 0x029, 3, some 3), (0x030, 0x031, 1, some 1),
      (0x040, 0x040, 1, some 1), (0x041, 0x041, 0, some 3), (0x042, 0x043, 3, some 3), (0x050, 0x050, 0, some 3), (0x051, 0x051, 0, some 1),
      (0x052, 0x053, 0, none), (0x060, 0x06B, 0, none), (0x070, 0x070, 1, some 1), (0x071, 0x071, 1, none), (0x080, 0x082, 1, some 1),
      (0x090, 0x092, 0, none), (0x0A0, 0x0A0, 1, none), (0x100, 0x13F, 1, some 1)] : List (Nat × Nat × Nat × Option Nat)).find?
        (fun t => t.1 ≤ n && n ≤ t.2.1)).map (fun t => (t.2.2.1, t.2.2.2)))
  ∧ (∀ (s : State) (c : Nat),
    let y := s.col c
    let x := y.core
    let g := y.gov
    let die := s.die (c / 8)
    let w := fun (v : Nat) => BitVec.ofNat 64 v
    let reads := fun (n : Nat) (v : D64) => s.sysRead c n = v
    reads 0x000 (w x.priv)
    ∧ (∀ q ∈ [(0x010, x.trapS), (0x020, x.trapM)], reads q.1 q.2.vec ∧ reads (q.1 + 1) q.2.cause ∧ reads (q.1 + 2) q.2.blk ∧ reads (q.1 + 3) q.2.next
      ∧ reads (q.1 + 4) q.2.info ∧ reads (q.1 + 5) q.2.q0 ∧ reads (q.1 + 6) q.2.q1 ∧ reads (q.1 + 7) q.2.q2 ∧ reads (q.1 + 8) q.2.q3
      ∧ reads (q.1 + 9) q.2.scr)
    ∧ reads 0x01A (if x.eie then 1 else 0) ∧ reads 0x030 x.ptbase ∧ reads 0x031 (x.asid.setWidth 64) ∧ reads 0x040 (w (256 * y.policy + y.age))
    ∧ reads 0x041 (w s.gbarGap) ∧ reads 0x042 x.rsmAddr
    ∧ reads 0x050 (w (65536 * g.req.toNat + (g.settled (s.cyc (c / 8))).eff.toNat))
    ∧ reads 0x051 (w (2 ^ 56 * g.thrLast + g.thrCount))
    ∧ reads 0x052 (w (if g.vbusSlow = 0 then 0 else 2 ^ 32 + g.vbusSlow.toNat))
    ∧ reads 0x053 (w (2 ^ 32 * g.eccUncorr + g.eccCorr))
    ∧ (∀ i, i < 4 → match die.log[i]? with
        | some r => reads (0x060 + 3 * i) (w r.tick) ∧ reads (0x061 + 3 * i) (w r.cyc) ∧ reads (0x062 + 3 * i) (w (r.seq % 2 ^ 32 * 2 ^ 32 + r.mhz % 4096))
        | none => reads (0x060 + 3 * i) 0 ∧ reads (0x061 + 3 * i) 0 ∧ reads (0x062 + 3 * i) 0)
    ∧ reads 0x070 (w y.calIdx) ∧ reads 0x071 ((mapGet s.fabric.cal y.calIdx 0).setWidth 64)
    ∧ reads 0x080 ((y.evLatched &&& 0x76) ||| (if y.fq = [] then 0 else 1) ||| (if y.tickcmp.toNat ≤ s.tick then 8 else 0))
    ∧ reads 0x081 y.evmask ∧ reads 0x082 y.tickcmp ∧ reads 0x090 die.mscHit ∧ reads 0x091 die.mscMiss ∧ reads 0x092 die.mscWb
    ∧ reads 0x0A0 (w ((if 256 ≤ y.fq.length ∧ y.fqWait ≠ [] then 2 ^ 16 else 0) + y.fq.length))
    ∧ (∀ i, i < 64 → reads (0x100 + i) (s.ctxroot i)))
  ∧ (∀ (s : State) (c n : Nat) (v mask : D64),
    ((n = 0x010 ∨ n = 0x020 ∨ n = 0x042) ∧ mask = ~~~3 ∨ (n = 0x011 ∨ n = 0x021) ∧ mask = 0xFFFF1CFF
      ∨ (0x012 ≤ n ∧ n ≤ 0x019 ∨ 0x022 ≤ n ∧ n ≤ 0x029 ∨ n = 0x082 ∨ 0x100 ≤ n ∧ n ≤ 0x13F) ∧ mask = ~~~0
      ∨ n = 0x01A ∧ mask = 1 ∨ n = 0x030 ∧ mask = ~~~0xFFFF ∨ (n = 0x031 ∨ n = 0x041) ∧ mask = 0xFFFF ∨ n = 0x070 ∧ mask = 0x3FF
      ∨ n = 0x081 ∧ mask = 0x7F) →
    (s.sysWrite c n v).sysRead c n = v &&& mask)
  ∧ (∀ (s : State) (c : Nat) (v : D64), (s.sysWrite c 0x040 v).sysRead c 0x040 =
      if v.toNat / 256 % 4 < 2 ∧ v.toNat % 256 ≠ 0 then v &&& 0x1FF else s.sysRead c 0x040)
  ∧ (∀ (s : State) (c : Nat) (v : D64), (s.sysWrite c 0x080 v).sysRead c 0x080 = s.sysRead c 0x080 &&& ~~~(v &&& 0x76))
  ∧ (∀ (s : State) (c : Nat) (v : D64), (s.sysWrite c 0x050 v).gov c = if popNat 16 (v.toNat % 65536) < 4 then s.gov c
      else
        let g := (s.gov c).settled (s.cyc (dieOf c))
        { g with req := v.setWidth 16, patAt := some (g.patAt.getD (16 * (s.cyc (dieOf c) / 16 + 1))) })
  ∧ (∀ (s : State) (c : Nat) (v : D64), 4 ≤ popNat 16 (v.toNat % 65536) →
      (s.sysWrite c 0x050 v).sysRead c 0x050 = BitVec.ofNat 64 (65536 * (v.toNat % 65536) + (s.sysRead c 0x050).toNat % 65536))
  ∧ (∀ (s : State) (c : Nat) (v : D64), (s.sysWrite c 0x051 v).gov c = { s.gov c with thrCount := 0 })
  ∧ (∀ (s : State) (c n : Nat) (v : D64), n ≠ 0x043 → (s.sysWrite c n v).mem = s.mem ∧ (s.sysWrite c n v).cores = s.cores)

/-- R230, R228, R229, R235, R237: `wfe`, `halt`, `tlbi`, `mscf`, the resumption of a column core, and the tick comparison. `tlbi` performs a release at
package scope, drops the entries and the walks under way that could end in one, and completes once the accesses then under way have been performed:
of all of them, by the model's choice (log 38). `mscf` writes the dirty lines of the memory-side caches named to memory, each counted, and `.wbi`
empties them; nothing else changes (what a memory-side cache holds is log 44).

That `tlbi` waits for every access under way is log 38; when its literal is tested is log 39. -/
def Obligations.CoreControl : Prop :=
  (∀ (r : Row) (f : Fields) (s : State) (e : Env) (ls : List LaneView) (c : Nat) (lv : LaneView), OnColumn e ls c lv →
    let pending := s.evpend c &&& (s.col c).evmask
    (Issues (.wfe f) r f s e ls → exec (.wfe f) s = .next (if pending = 0 then s else oneOut s f e lv lv))
    ∧ (Issues (.halt f) r f s e ls → exec (.halt f) s = .next (if s.postedPending (.col c) then s
        else (oneOut s f e lv lv).modCc c (fun x => { x with run := .haltedByHalt })))
    ∧ (∀ q ∈ [(Instr.tlbiAll, 0), (Instr.tlbiAsid, 1), (Instr.tlbiAsidLit, 1), (Instr.tlbiPage, 2), (Instr.tlbiPageLit, 2)], Issues (q.1 f) r f s e ls →
      let b := (srcB r ls lv f).toNat
      (q.2 ≠ 0 → 65536 ≤ b → exec (q.1 f) s = .next (s.takeTrap c 1 6 e.addr e.pc 0))
      ∧ (q.2 = 0 ∨ b < 65536 →
        let t := (s.releaseAct ⟨c, 12, .col c⟩ 5).tlbDrop (fun t =>
          if q.2 = 0 then true else if q.2 = 1 then t.asid = b else t.covers b (srcA64 ls lv f).toNat)
        ((s.cc c).tlbi = none → t.underWay = [] → exec (q.1 f) s = .next (oneOut t f e lv lv))
        ∧ ((s.cc c).tlbi = none → t.underWay ≠ [] → exec (q.1 f) s = .next (t.modCc c (fun x => { x with tlbi := some t.underWay })))
        ∧ (∀ tags, (s.cc c).tlbi = some tags →
          ((∃ a ∈ s.underWay, a ∈ tags) → exec (q.1 f) s = .next s)
          ∧ ((∀ a ∈ s.underWay, a ∉ tags) → exec (q.1 f) s = .next (oneOut (s.modCc c (fun x => { x with tlbi := none })) f e lv lv)))))
    ∧ (∀ mk ∈ [Instr.mscfWb, Instr.mscfWbi], Issues (mk f) r f s e ls →
      let b := (srcB r ls lv f).toNat
      (16 ≤ b → exec (mk f) s = .next (s.takeTrap c 1 6 e.addr e.pc 0))
      ∧ (b < 16 → ∃ t, exec (mk f) s = .next (oneOut t f e lv lv) ∧ { t with dies := s.dies } = s
        ∧ (∀ d, 4 ≤ d ∨ b.testBit d = false → t.die d = s.die d)
        ∧ ∀ d, d < 4 → b.testBit d = true →
          let dirty := (((s.die d).msc.map (fun l => l.1)).dedup.filter (fun l => mapGet (s.die d).msc l false)).length
          (t.die d).mscWb = (s.die d).mscWb + BitVec.ofNat 64 dirty ∧ (t.die d).mscHit = (s.die d).mscHit ∧ (t.die d).mscMiss = (s.die d).mscMiss
          ∧ ∀ l, mapGet? (t.die d).msc l = if f.modx = 1 then none else (mapGet? (s.die d).msc l).map (fun _ => false))))
  ∧ (∀ (s : State) (p : TlbEntry → Bool), let t := s.tlbDrop p
    (∀ n, (t.core n).dtlb = (s.core n).dtlb.filter (fun x => !(p x)) ∧ (t.core n).ftlb = (s.core n).ftlb.filter (fun x => !(p x)))
    ∧ (∀ c, (t.cc c).tlb = (s.cc c).tlb.filter (fun x => !(p x)) ∧ (t.col c).wtlb = (s.col c).wtlb.filter (fun x => !(p x)))
    ∧ (∀ c, (t.col c).walks = (s.col c).walks.filter (fun w => !(p (tlbOf w.asid w.va.toNat 0 0) || p (tlbOf w.asid w.va.toNat 0 1)
        || p (tlbOf w.asid w.va.toNat 0 2))))
    ∧ t.mem = s.mem)
  ∧ (∀ (s : State) (c : Nat) (start : D64), c < 32 →
    ((s.cc c).run = .running → exec (.abavoResume c start) s = .next s)
    ∧ ((s.cc c).run = .haltedByHalt → exec (.abavoResume c start) s = .next (s.modCc c (fun y => { y with run := .running })))
    ∧ ((s.cc c).run = .haltedReset ∨ (s.cc c).run = .haltedVector → start ≠ 0 → ∃ t, exec (.abavoResume c start) s = .next t
      ∧ (t.cc c).run = .running ∧ (t.cc c).fetch = .start ∧ (t.cc c).priv = 3 ∧ (t.cc c).addr = start ∧ (t.cc c).body = none ∧ (t.cc c).s = [] ∧ (t.cc c).q = []
      ∧ (t.cc c).k = 0 ∧ (t.cc c).fstat = 0 ∧ (t.cc c).fmode = 0x10 ∧ (t.cc c).trapM = (s.cc c).trapM ∧ t.mem = s.mem)
    ∧ exec (.abavoMessage c) s = .next (s.latchEvent c 5))
  ∧ (∀ (s : State) (c v : Nat), s.sysWrite c 0x043 (BitVec.ofNat 64 (v % 32)) = s.resumeCore (v % 32) (s.cc c).rsmAddr)
  ∧ (∀ (s : State) (c : Nat), exec (.tickcmpMatch c) s = .next s ∧ ((s.evpend c).getLsbD 3 = true ↔ (s.col c).tickcmp.toNat ≤ s.tick)
    ∧ ((s.evpend c).getLsbD 0 = true ↔ (s.col c).fq ≠ []) ∧ (∀ b, b < 64 → ((s.latchEvent c b).evpend c).getLsbD b = decide (b ∈ [1, 2, 4, 5, 6] ∨ (s.evpend c).getLsbD b = true)))

/-- R238 to R241: records enter the queue in order under fresh identifiers, `fqpop` stores the 64 bytes of the record at the head, and `kres` resolves a
popped record once, after a release at package scope of the column core's stores (R351). To retire a group takes what its other records name from
them: to resolve one of those then changes nothing more. -/
def Obligations.FaultQueue : Prop :=
  (∀ (s : State) (c : Nat) (rc : Rec) (rest : List Rec), (s.col c).fqWait = rc :: rest →
    (256 ≤ (s.col c).fq.length → exec (.faultRecordPost c) s = .next s)
    ∧ ((s.col c).fq.length < 256 → ((s.col c).fq ++ (s.col c).popped).length < 65536 → ∃ t id, exec (.faultRecordPost c) s = .next t ∧ id < 65536
      ∧ (∀ x ∈ (s.col c).fq ++ (s.col c).popped, x.recid ≠ id) ∧ (t.col c).fq = (s.col c).fq ++ [{ rc with recid := id, tick := s.tick }]
      ∧ (t.col c).fqWait = rest ∧ (t.col c).popped = (s.col c).popped ∧ t.mem = s.mem))
  ∧ (∀ (rc : Rec), rc.bytes.length = 64 ∧ ∀ e ∈ [(0x00, 2, rc.cause), (0x02, 2, rc.code), (0x04, 2, rc.recid), (0x06, 1, rc.flags.toNat), (0x07, 1, rc.pos),
      (0x08, 8, rc.pc.toNat), (0x10, 8, rc.next.toNat), (0x18, 8, rc.vaddr.toNat), (0x20, 2, rc.nthr), (0x22, 2, rc.slot), (0x24, 1, rc.core),
      (0x25, 1, rc.ctx), (0x26, 1, rc.grp), (0x27, 1, rc.src), (0x28, 8, rc.tick), (0x30, 8, 0), (0x38, 8, 0)],
      leNat ((rc.bytes.drop e.1).take e.2.1) = e.2.2 % 256 ^ e.2.1)
  ∧ (∀ (r : Row) (f : Fields) (s : State) (e : Env) (ls : List LaneView) (c : Nat) (lv : LaneView), Issues (.fqpop f) r f s e ls → OnColumn e ls c lv →
    let a := (srcA64 ls lv f).toNat
    (a % 64 ≠ 0 → exec (.fqpop f) s = .next (s.takeTrap c 4 0 e.addr e.pc (srcA64 ls lv f)))
    ∧ (a % 64 = 0 → (s.col c).fq = [] → exec (.fqpop f) s = .next (oneOut s f e lv (setD lv f 0)))
    ∧ (∀ rc rest segs, a % 64 = 0 → (s.col c).fq = rc :: rest → s.checkGlobal (s.memCtx e) e a 64 .store none = .segs segs →
      exec (.fqpop f) s = .next (oneOut (((s.leaveWalks e.who c).storeWrites (s.memCtx e).unit (addWrite [] segs rc.bytes) 0 none (fun _ => none)).modCol c
        (fun y => { y with fq := rest, popped := y.popped ++ [rc] })) f e lv (setD lv f 1)))
    ∧ (∀ rc rest i, a % 64 = 0 → (s.col c).fq = rc :: rest → s.checkGlobal (s.memCtx e) e a 64 .store none = .fail i → i.cause ≠ 7 →
      exec (.fqpop f) s = .next ((s.leaveWalks e.who c).takeTrap c i.cause i.code e.addr e.pc i.vaddr)))
  ∧ (∀ mk ∈ [Instr.kresRetry, Instr.kresContinue, Instr.kresRetire], ∀ (r : Row) (f : Fields) (s : State) (e : Env) (ls : List LaneView) (c : Nat)
    (lv : LaneView), Issues (mk f) r f s e ls → OnColumn e ls c lv →
    let a := (srcA ls lv f).toNat
    let b := (srcB r ls lv f).toNat
    (65536 ≤ a ∨ 3 ≤ b → exec (mk f) s = .next (s.takeTrap c 1 6 e.addr e.pc 0))
    ∧ (a < 65536 → b < 3 →
      ((s.col c).popped.find? (fun x => x.recid == a) = none → exec (mk f) s = .next (oneOut s f e lv (setD lv f 1)))
      ∧ (∀ rc, (s.col c).popped.find? (fun x => x.recid == a) = some rc →
        (let u := s.releaseAct ⟨c, 12, .col c⟩ 5
        (u.resolve c rc b = none → exec (mk f) s = .next (oneOut s f e lv (setD lv f 2)))
        ∧ (∀ t, u.resolve c rc b = some t → exec (mk f) s = .next (oneOut (t.modCol c (fun y =>
            { y with popped := y.popped.filter (fun z => z.recid != a) })) f e lv (setD lv f 0)))))))
  ∧ (∀ (s : State) (c : Nat) (rc : Rec), ((s.resolve c rc 0).isSome ↔ rc.src = 0 ∨ rc.src = 2 ∨ rc.src = 3)
    ∧ ((s.resolve c rc 1).isSome ↔ rc.src = 0 ∧ rc.next ≠ 0) ∧ (s.resolve c rc 2).isSome
    ∧ (rc.attached = false → ∀ b t, s.resolve c rc b = some t → t = s)
    ∧ (rc.attached = true → rc.src = 0 → s.resolve c rc 0 = some (rc.threads.foldl (fun t i => t.resolveThread (12 * c + rc.core) rc.grp i) s))
    ∧ (rc.attached = true → rc.src = 2 → s.resolve c rc 0 = some (s.modCmd (12 * c + rc.core) rc.cmd (fun q => if q.phase = .suspended then { q with phase := .accepted } else q)))
    ∧ (∀ q, rc.attached = true → rc.src = 2 → s.cmd? (12 * c + rc.core) rc.cmd = some q → s.resolve c rc 2 = some (s.failCmd (12 * c + rc.core) q 12))
    ∧ (∀ x, rc.attached = true → rc.src = 1 ∨ rc.src = 3 → rc.core < 12 → s.grp? (12 * c + rc.core) rc.grp = some x →
        ∃ t y, s.resolve c rc 2 = some t ∧ t.grp? (12 * c + rc.core) rc.grp = some y ∧ y.scalar = .idle ∧ y.shoe = [] ∧ y.disposed = true
          ∧ (∀ i th, mapGet? y.threads i = some th → th.st = .retired)
          ∧ ∀ q ∈ (t.col c).fqWait ++ (t.col c).fq ++ (t.col c).popped, q.core = rc.core → q.grp = rc.grp → q.attached = false)
    ∧ (rc.attached = true → rc.src = 3 → s.resolve c rc 0 = some (s.modGrp (12 * c + rc.core) rc.grp (fun x => match x.scalar with
        | .stopped i addr => { x with scalar := .restart addr i.pc }
        | _ => x))))

/-- R236, R357, R411: `swpg` reads a descriptor and answers 2 where it is invalid or moves a page into the range of a retired channel, 1 where the queue of 16 is full, else 0 with the command queued; the engine takes
up the oldest, and ends it with DONE 2 where a page is absent or of another size; with its locks held it moves or exchanges the pages.

That the command in work counts among the queue is log 40. -/
def Obligations.SwapEngine : Prop :=
  (∀ q ∈ [(Instr.swpgMv, false), (Instr.swpgXch, true)], ∀ (r : Row) (f : Fields) (s : State) (e : Env) (ls : List LaneView) (c : Nat) (lv : LaneView),
    Issues (q.1 f) r f s e ls → OnColumn e ls c lv →
    let a := (srcA64 ls lv f).toNat
    let m := s.memCtx e
    (a % 32 ≠ 0 → exec (q.1 f) s = .next ((s.leaveWalks e.who c).takeTrap c 4 0 e.addr e.pc (srcA64 ls lv f)))
    ∧ (∀ g more bs t, s.checkForm m e a 32 .load none true = .segs (g :: more) →
      (s.leaveWalks e.who c).loadSegs m.unit (g :: more) 0 none true = t → gather 0 t.1 = .bytes bs →
      let done := fun (u : State) (v : W) => exec (q.1 f) s = .next (oneOut u f e lv (setD lv f v))
      let word := fun (o n : Nat) => leNat ((bs.drop o).take n)
      let page := pageBytes (word 0x12 1)
      let bad := 2 < word 0x12 1 ∨ word 0x13 1 ≠ 0 ∨ word 0x14 4 ≠ 0 ∨ word 0 8 % page ≠ 0 ∨ word 8 8 % page ≠ 0
        ∨ q.2 = false ∧ ((isNear (word 8 8) = false ∧ isFar (word 8 8) = false) ∨ t.2.channelGone (word 8 8) = true)
      (bad → done t.2 2)
      ∧ (¬ bad → 16 ≤ (t.2.col c).swaps.length → done t.2 1)
      ∧ (¬ bad → (t.2.col c).swaps.length < 16 → done (({ t.2 with nextId := t.2.nextId + 1 } : State).modCol c (fun y =>
          { y with swaps := y.swaps ++ [{ id := t.2.nextId, xch := q.2, first := BitVec.ofNat 64 (leNat (bs.take 8)),
                                          second := BitVec.ofNat 64 (leNat ((bs.drop 8).take 8)), size := leNat ((bs.drop 0x12).take 1),
                                          asid := leNat ((bs.drop 0x10).take 2), doneAt := g.place + 0x18, root := 0, taken := false, active := false }] })) 0)))
  ∧ (∀ (s : State) (c : Nat) (w : Swap) (rest : List Swap), (s.col c).swaps = w :: rest →
    let found := fun (root : Nat) => (s.swapLeaf c root w.first w.size).isSome ∧ (w.xch = true → (s.swapLeaf c root w.second w.size).isSome)
    (w.taken = true → exec (.swapTakeUp c) s = .next s)
    ∧ (∀ root, w.taken = false → s.rootOfAsid w.asid = some root → found root →
      let page := pageBytes w.size
      let lock := fun (va : D64) => LockEntry.mk true true w.asid (va.toNat / 32) ((va.toNat + page - 1) / 32) [] (.swap c w.id)
      exec (.swapTakeUp c) s = .next ((s.modCol c (fun y => { y with swaps := y.swaps.map (fun x =>
        if x.id = w.id then { x with taken := true, root := root } else x) })).requestLocks
          ⟨.swap c w.id, lock w.first :: (if w.xch then [lock w.second] else [])⟩))
    ∧ (w.taken = false → (s.rootOfAsid w.asid = none ∨ ∃ root, s.rootOfAsid w.asid = some root ∧ ¬ found root) →
      exec (.swapTakeUp c) s = .next (s.swapEnd c w 2))
    ∧ (w.active = false → exec (.swapDone c) s = .next s)
    ∧ (∀ a, w.active = true → w.xch = false → s.swapLeaf c w.root w.first w.size = some a →
      let page := pageBytes w.size
      let s1 := (s.flushRange (pteFrame a) page).flushRange w.second.toNat page
      exec (.swapDone c) s = .next ((((s1.copyRange s1 (pteFrame a) w.second.toNat page).repoint c w.root w.first w.second.toNat).tlbDrop
        (fun x => x.covers w.asid w.first.toNat)).swapEnd c w 1))
    ∧ (∀ a b, w.active = true → w.xch = true → s.swapLeaf c w.root w.first w.size = some a → s.swapLeaf c w.root w.second w.size = some b →
      let page := pageBytes w.size
      let s1 := (s.flushRange (pteFrame a) page).flushRange (pteFrame b) page
      let s2 := (s1.copyRange s1 (pteFrame a) (pteFrame b) page).copyRange s1 (pteFrame b) (pteFrame a) page
      exec (.swapDone c) s = .next ((((((s2.repoint c w.root w.first (pteFrame b)).repoint c w.root w.second (pteFrame a)).tlbDrop
        (fun x => x.covers w.asid w.first.toNat))).tlbDrop (fun x => x.covers w.asid w.second.toNat)).swapEnd c w 1)))

/-- R33, R38, R366, R373: a load by one active lane of a page of another package that is not cacheable: its request joins those waiting to leave. A column
core waits at the instruction. A deal notes that D is pending, with the registers its lane had, and goes on. LOAD_COMPLETE, once every part has
arrived, delivers each lane's bytes; before that it changes nothing. Flags that later instructions of the trick raised meanwhile stay with the pending
instruction before them, and join the deal's accumulator once none is left.

R283: a strong load waits at its instruction while an earlier access of its lane to its sectors is unanswered.

How the step lets an agent wait is log 14; where a late fault finds its lane is log 31. -/
def Obligations.RemoteLoads : Prop :=
  (∀ mk ∈ [Instr.ld, Instr.ldMem, Instr.lda], ∀ (r : Row) (f : Fields) (s : State) (e : Env) (ls : List LaneView) (lv : LaneView) (g : Seg),
    Issues (mk f) r f s e ls → ls = [lv] →
    let m := s.memCtx e
    let ea := globalEa ls lv f
    let acc : RAccess := ⟨lv.pos, f.dS, f.d.toNat, .load f.modx.toNat, BitVec.ofNat 64 ea, [⟨s.fabric.nextTag, 0, g.len, none, none⟩], none⟩
    s.checkForm m e ea (sizeBytes f.modx.toNat) .load (strongScope f) (r.mem = .lda) = .segs [g] → isRemote g.place = true → g.cr = false →
    0 < g.len → g.place % 256 + g.len ≤ 256 → s.mustWait m f = false →
    let earlier := fun (d : Deal) => memOrder f ≠ 0 ∧ ∃ p ∈ d.pend, p.trick = d.trick ∧ ∃ a ∈ p.wait.accs, a.lane = lv.pos ∧ ∃ q ∈ a.parts, q.got = none
      ∧ ∃ l ∈ s.fabric.live, l.tag = q.tag ∧ l.pkg = placePkg g.place ∧ l.first ≤ (placeAddr g.place + g.len - 1) / 32 ∧ placeAddr g.place / 32 ≤ l.last
    (∀ n slot d, e.who = .deal n slot → s.deal? n slot = some d → earlier d → exec (mk f) s = .next (s.passOver e.who))
    ∧ ((∀ n slot d, e.who = .deal n slot → s.deal? n slot = some d → ¬ earlier d) → ∃ t, exec (mk f) s = .next t
      ∧ t.fabric.outq = s.fabric.outq ++ [⟨s.pkgId, placePkg g.place, s.fabric.nextTag,
          .read (placeAddr g.place) g.len (memOrder f) ((strongScope f).getD 0) false⟩]
      ∧ t.fabric.nextTag = s.fabric.nextTag + 1 ∧ t.mem = s.mem ∧ (∀ n g2 i, t.thr? n g2 i = s.thr? n g2 i)
      ∧ (∀ c, e.who = .col c → (t.cc c).wait = some ⟨[acc], acquireOf f⟩ ∧ (t.cc c).s = (s.cc c).s ∧ (t.cc c).pos = (s.cc c).pos)
      ∧ (∀ n slot d, e.who = .deal n slot → s.deal? n slot = some d → d.empty = false → ∃ u, t.deal? n slot = some u
        ∧ u.pend = d.pend ++ [⟨d.trick, d.pos, ⟨[acc], acquireOf f⟩, [⟨lv.tidx, lv.v, lv.s, lv.q, lv.k⟩], []⟩]
        ∧ u.pos = (d.advance (wordsOf f)).pos ∧ u.trick = (d.advance (wordsOf f)).trick ∧ u.todo = (d.advance (wordsOf f)).todo ∧ u.tricks = d.tricks)))
  ∧ (∀ (s : State) (who : Issuer), (∀ w ∈ s.waitsOf who, ∃ a ∈ w.accs, a.arrived = false) → exec (.loadComplete who) s = .next s)
  ∧ (∀ (d : Deal) (change : Pend → Option Pend) (drops : Pend → Nat → Bool),
    ((∀ p ∈ d.pend, p.flags = []) → d.refile change drops = { d with pend := d.pend.filterMap (fun p => (change p).map (fun q => { q with flags := [] })) })
    ∧ (∀ p, d.pend = [p] → change p = none → d.refile change drops =
        { d with pend := [], acc := (p.flags.filter (fun x => !(drops p x.1))).foldl (fun a x => a ||| x.2) d.acc }))
  ∧ (∀ (s : State) (c : Nat) (w : RWait) (e : Env) (ls : List LaneView) (r : Row) (f : Fields) (bytes : RAccess → List Byte), (s.cc c).wait = some w →
    let s1 := { (s.modCc c (fun x => { x with wait := none })) with cur := .col c }
    issueCtx s1 = some (e, ls) → (s1.cc c).body.bind (fun b => standsAt b (s1.cc c).pos) = some (r, f) →
    (∀ a ∈ w.accs, gather 0 a.parts = .bytes (bytes a) ∧ ∀ x, a.use ≠ .descriptor x) →
    exec (.loadComplete (.col c)) s = .next ((s1.acquireOpt (s1.memCtx e).unit w.acquire).commit e (ls.map (fun lv =>
      (lv, match w.accs.find? (fun a => a.lane == lv.pos) with
        | some a => .ok (a.deliver (bytes a) lv) 0
        | none => .idle))) (wordsOf f)))
  ∧ (∀ (s : State) (n slot : Nat) (d : Deal) (p : Pend) (rest : List Pend) (x : Group) (r : Row) (f : Fields) (bytes : RAccess → List Byte),
    s.deal? n slot = some d → d.pend = p :: rest → s.grp? n d.grp = some x → standsAt d.body p.pos = some (r, f) → hdrKind d.hdr ≠ 2 →
    (∀ a ∈ p.wait.accs, gather 0 a.parts = .bytes (bytes a) ∧ a.late = none) →
    let e := d.envAt n slot p.pos
    let ls := (d.trickLanes p.trick).map (laneView s n d x)
    OwnPositions ls →
    let d1 := d.refile (fun q => if q = p then none else q.follow p.trick (d.trickLanes p.trick) (fun _ => false) p.wait.accs) (fun _ _ => false)
    let u := ((s.setDeal n slot (some d1)).acquireOpt (s.memCtx e).unit p.wait.acquire).commitThreads n slot d e (ls.map (fun lv =>
      (lv, match p.wait.accs.find? (fun a => a.lane == lv.pos) with
        | some a => .ok (a.deliver (bytes a) lv) 0
        | none => .idle)))
    exec (.loadComplete (.deal n slot)) s = .next (match u.deal? n slot with
      | some d3 => if d3.empty then u.setDeal n slot (some { d3 with done := true, pend := [] }) else u
      | none => u))

/-- R358 to R369, R412, R416: the slot clock, the calendar and the ports. A calendar written names every entry: one that no item of the list names is
invalid, and of two items for one entry the later stands.

R363, R365, R366: a message takes the next SEQ numbers of the port it leaves by, each flit with the ACKSEQ of what has then arrived there, and the
credit of its flits. A request that comes under a tag its sender has retired is a new one: the old record goes first.

That the first calendar starts the slot clock at its EPOCH, and what the flits hold beyond the rules, is log 20. -/
def Obligations.FabricPorts : Prop :=
  (∀ (s : State) (epoch : Nat) (es : List (Nat × BitVec 16)),
    (epoch % 8 ≠ 0 → exec (.abavoCalendarRewrite epoch es) s = .next (s.report (.calendarRefused epoch)))
    ∧ (s.fabric.loaded = true → epoch ≤ s.fabric.epoch + (s.tick - s.fabric.slotStart) / 3000 →
        exec (.abavoCalendarRewrite epoch es) s = .next (s.report (.calendarRefused epoch)))
    ∧ (epoch % 8 = 0 → (s.fabric.loaded = true → s.fabric.epoch + (s.tick - s.fabric.slotStart) / 3000 < epoch) → ∃ t l,
        exec (.abavoCalendarRewrite epoch es) s = .next t ∧ t.fabric.cal = s.fabric.cal
        ∧ t.fabric.calNext = s.fabric.calNext.takeWhile (fun q => q.1 ≤ epoch) ++ (epoch, l) :: s.fabric.calNext.dropWhile (fun q => q.1 ≤ epoch)
        ∧ ∀ i, mapGet l i 0 = if i < 1024 then (match es.reverse.find? (fun q => q.1 == i) with | some q => q.2 &&& 0x83FF | none => 0) else 0))
  ∧ (∀ (s : State), s.fabric.calNext = [] → exec .calendarSwitch s = .next s)
  ∧ (∀ (s : State), s.fabric.loaded = true →
    let due := s.fabric.calNext.takeWhile (fun q => q.1 ≤ s.fabric.epoch)
    (due = [] → exec .calendarSwitch s = .next s)
    ∧ (∀ q, due.getLast? = some q → ∃ t, exec .calendarSwitch s = .next t ∧ t.fabric.cal = q.2
      ∧ t.fabric.calNext = s.fabric.calNext.dropWhile (fun q => q.1 ≤ s.fabric.epoch) ∧ t.fabric.epoch = s.fabric.epoch
      ∧ ∀ c, c < 32 → (t.col c).evLatched.getLsbD 6 = true))
  ∧ (∀ (s : State) (epoch : Nat) (l : List (Nat × BitVec 16)) (rest : List (Nat × List (Nat × BitVec 16))), s.fabric.loaded = false →
    s.fabric.calNext = (epoch, l) :: rest → (∀ q, rest.head? = some q → epoch < q.1) → ∃ t, exec .calendarSwitch s = .next t ∧ t.fabric.cal = l
      ∧ t.fabric.calNext = rest ∧ t.fabric.loaded = true ∧ t.fabric.epoch = epoch ∧ t.fabric.slotStart = s.tick
      ∧ ∀ c, c < 32 → (t.col c).evLatched.getLsbD 6 = true)
  ∧ (∀ (s : State) (v : Nat), (s.pkgIdWritten = true → exec (.abavoPkgIdWrite v) s = .next (s.report (.pkgIdRefused v)))
    ∧ (s.pkgIdWritten = false → exec (.abavoPkgIdWrite v) s = .next { s with pkgId := v % 1024, pkgIdWritten := true }))
  ∧ (∀ (s : State), (s.fabric.loaded = false ∨ s.tick < s.fabric.slotStart + 3000 → exec .slotBoundary s = .next s)
    ∧ (s.fabric.loaded = true → s.fabric.slotStart + 3000 ≤ s.tick → s.fabric.calNext = [] → ∃ t, exec .slotBoundary s = .next t
      ∧ t.fabric.epoch = (s.fabric.epoch + 1) % 2 ^ 48 ∧ t.fabric.slotStart = s.fabric.slotStart + 3000
      ∧ (∀ p, p < 128 → (t.port p).isOpen = false ∧ (t.port p).sent = [])))
  ∧ (∀ (s : State) (p : Nat), ((s.port p).failed < 8 → exec (.planeLost p) s = .next s)
    ∧ (8 ≤ (s.port p).failed → (s.port p).lost = false → ∃ t, exec (.planeLost p) s = .next t ∧ (t.port p).lost = true ∧ (t.port p).isOpen = false
      ∧ t.reports = s.reports ++ [.planeLost p]))
  ∧ (∀ (s : State) (p : Nat) (bs : List Byte), (flitGood bs = false → exec (.openingFlit p bs) s = .next s)
    ∧ (flitGood bs = true → s.fabric.loaded = true → p < 128 → s.carrying = false → (s.port p).isOpen = false →
      let field := fun (off n : Nat) => leNat ((bs.drop off).take n)
      ∃ t, exec (.openingFlit p bs) s = .next t ∧ mapGet? t.fabric.heard (field 0x10 2 % 1024) = some (flitHolds bs)
        ∧ mapGet? t.fabric.direct (field 0x10 2 % 1024) = some (decide (field 0x10 2 % 1024 ∈ flitHolds bs))
        ∧ (∀ d, d ≠ field 0x10 2 % 1024 → mapGet? t.fabric.direct d = mapGet? s.fabric.direct d)
        ∧ (field 8 8 = s.fabric.epoch → s.calPeer p (s.fabric.epoch % 8) = some (field 0x10 2) → field 0x10 2 ≠ s.pkgId →
            (t.port p).isOpen = true ∧ (t.port p).peer = field 0x10 2 ∧ (t.port p).rfree = field 0x12 2 ∧ (t.port p).dcred = field 0x14 2
            ∧ (t.port p).rcred = field 0x16 2)
        ∧ (field 8 8 ≠ s.fabric.epoch → (t.port p).isOpen = false)))
  ∧ (∀ (s : State) (p : Nat), (s.openingFlit p).length = 256 ∧ flitGood (s.openingFlit p) = true
    ∧ flitHolds (s.openingFlit p) = (List.range 1024).filter (fun d => if d = s.pkgId then s.fabric.hold else mapGet s.fabric.direct d false))
  ∧ (∀ (ack seq : Nat) (payload : List Byte), payload.length ≤ 240 → ack < 2 ^ 32 → seq < 2 ^ 32 →
    let bs := dataFlit ack seq payload
    bs.length = 256 ∧ dataGood bs = true ∧ flitAck bs = ack ∧ flitSeq bs = seq ∧ flitFill bs = payload.length ∧ (bs.drop 16).take payload.length = payload)
  ∧ (∀ (s : State) (p : Nat) (fl : Flit), ((s.port p).isOpen = false ∨ (s.port p).rxBad = true → exec (.dataFlit p fl) s = .next s)
    ∧ ((s.port p).isOpen = true → (s.port p).rxBad = false → dataGood fl.bytes = false ∨ flitSeq fl.bytes ≠ (s.port p).rxSeq →
      exec (.dataFlit p fl) s = .next (s.modPort p (fun y => { y with rxBad := true })))
    ∧ (∀ m, (s.port p).isOpen = true → (s.port p).rxBad = false → dataGood fl.bytes = true → flitSeq fl.bytes = (s.port p).rxSeq →
      flitFill fl.bytes ≠ 0 → fl.msgs = [m] → s.carrying = false →
      ∃ t, exec (.dataFlit p fl) s = .next t ∧ (t.port p).rxSeq = (s.port p).rxSeq + 1
        ∧ (t.port p).sent = (if flitAck fl.bytes = 0xFFFFFFFF then (s.port p).sent else (s.port p).sent.filter (fun x => flitAck fl.bytes < x.seq))
        ∧ (m.dst ≠ s.pkgId → t.fabric.relay = s.fabric.relay ++ [(p / 32, m)])
        ∧ (m.dst = s.pkgId → m.isRequest = true → (m.src, m.tag) ∉ s.fabric.retiring →
            t.fabric.inq = s.fabric.inq ++ [m] ∧ t.fabric.done = s.fabric.done ∧ t.fabric.retiring = s.fabric.retiring)
        ∧ (m.dst = s.pkgId → m.isRequest = true → (m.src, m.tag) ∈ s.fabric.retiring →
            t.fabric.inq = s.fabric.inq.filter (fun d => !(d.src == m.src && d.tag == m.tag)) ++ [m]
            ∧ t.fabric.done = s.fabric.done.filter (fun d => !(d.dst == m.src && d.tag == m.tag))
            ∧ t.fabric.retiring = s.fabric.retiring.filter (fun r => r != (m.src, m.tag)))
        ∧ (∀ tags, m.dst = s.pkgId → m.body = .retire tags → t.fabric.retiring = s.fabric.retiring ++ tags.map (fun k => (m.src, k)))
        ∧ (∀ bs bulk bad, m.dst = s.pkgId → m.body = .data bs bulk bad ∨ m.body = .poisoned ∨ m.body = .error ∨ m.body = .ack →
            t.fabric.respq = s.fabric.respq ++ [m])))
  ∧ (∀ (s : State) (p : Nat) (m : Msg) (relay : Bool) (die : Option Nat),
    let x := s.port p
    let y := (s.sendOn p m relay die).port p
    y.txSeq = x.txSeq + m.flits
    ∧ y.out = x.out ++ (List.range m.flits).map (fun i =>
        ⟨if x.rxSeq = 0 then 0xFFFFFFFF else x.rxSeq - 1, x.txSeq + i, min 240 (m.bytes + 16 - 240 * i), s.fabric.flits + i⟩)
    ∧ 240 * (m.flits - 1) < m.bytes + 16 ∧ m.bytes + 16 ≤ 240 * m.flits
    ∧ (relay = true → y.rcred = x.rcred - m.flits ∧ y.dcred = x.dcred) ∧ (relay = false → y.dcred = x.dcred - m.flits ∧ y.rcred = x.rcred))
  ∧ (∀ (o : OutFlit), o.fill ≤ 240 → o.ack < 2 ^ 32 → o.seq < 2 ^ 32 →
    o.bytes.length = 256 ∧ dataGood o.bytes = true ∧ flitAck o.bytes = o.ack ∧ flitSeq o.bytes = o.seq ∧ flitFill o.bytes = o.fill)

/-- R182, R190, R277, R308, R366, R372 to R374, R377, R409: requests of other packages are performed at their homes and answered once, and tags retire. A
response brings its data, or that it failed, to every part of an access that waits for its tag; one for an engine command is that command's, as
`CommandRecords` says. A write puts its bytes at their homes, and no clean copy of the home die keeps old ones. An atomic performs the
operations of its lanes one after another on one old value, with nothing between, and answers each with the value it found.

How several atomics of one request are written, and the marks a home sets, are log 20. -/
def Obligations.FabricTransactions : Prop :=
  (∀ (s : State), (∀ m ∈ s.fabric.inq, s.requestHeld m = true) → exec .remoteRequest s = .next s)
  ∧ (∀ (s : State) (m : Msg) (rest : List Msg), s.fabric.inq = m :: rest → s.requestHeld m = false → s.carrying = false →
    (∀ d ∈ s.fabric.done, ¬ (d.dst = m.src ∧ d.tag = m.tag)) →
    let answers := fun (t : State) (body : Payload) => exec .remoteRequest s = .next t ∧ t.fabric.inq = rest
      ∧ t.fabric.outq = s.fabric.outq ++ [⟨s.pkgId, m.src, m.tag, body⟩] ∧ t.fabric.done = s.fabric.done ++ [⟨s.pkgId, m.src, m.tag, body⟩]
    (∀ pa n order scope bulk, m.body = .read pa n order scope bulk → ∃ t,
      answers t (if s.noRemote pa n false then .error else s.homeRead pa n bulk) ∧ t.mem = s.mem)
    ∧ (∀ pa n bulk, isWindow pa = false → s.homeRead pa n bulk = .data ((List.range n).map (fun i => s.homeByte (pa + i))) bulk
        ((List.range n).filter (fun i => s.poison.contains ((pa + i) / 32))))
    ∧ (∀ pa bs order scope bulk bad, m.body = .write pa bs order scope bulk bad → ∃ t, answers t .ack
      ∧ (s.noRemote pa bs.length true = true → t.mem = s.mem ∧ t.reports = s.reports ++ [.postedError m.tag])
      ∧ (s.noRemote pa bs.length true = false → pa + bs.length ≤ 0x8000000000 →
        (∀ i b, bs[i]? = some (some b) → t.homeByte (pa + i) = b ∧ ∀ c, dieOf c = homeDie (pa + i) →
          (∀ k ∈ clusterCols (clusterOf c), ∀ x, s.slice? k ((pa + i) / 32) = some x → x.dirty.getLsbD ((pa + i) % 32) = false) →
          t.viewByte c (pa + i) = b)
        ∧ (∀ a, (∀ i b, bs[i]? = some (some b) → a ≠ pa + i) → t.homeByte a = s.homeByte a)
        ∧ (Memory.wf s.mem → Memory.wf t.mem)))
    ∧ (∀ kind pa ops order scope, m.body = .atomic kind pa ops order scope →
      let n := atomWidth kind
      (s.noRemote pa n true = true → ∃ t, answers t .error ∧ t.mem = s.mem)
      ∧ (s.noRemote pa n true = false → pa + n ≤ 0x8000000000 → pa % 32 + n ≤ 32 → 0 < n →
        (s.poison.contains (pa / 32) = true → ∃ t, answers t .poisoned ∧ t.mem = s.mem)
        ∧ (s.poison.contains (pa / 32) = false →
          let run := atomRun kind (leNat ((List.range n).map (fun i => s.homeByte (pa + i)))) ops
          ∃ t, answers t (.data (run.1.flatMap (leBytes n)) false [])
            ∧ (run.2.2 = false → t.mem = s.mem)
            ∧ (run.2.2 = true → ∀ a, t.homeByte a = if pa ≤ a ∧ a < pa + n then BitVec.ofNat 8 (run.2.1 / 256 ^ (a - pa)) else s.homeByte a)))))
  ∧ (∀ (kind : AtomKind) (old : Nat), atomRun kind old [] = ([], old, false)
    ∧ ∀ l o, let q := atomRun kind old l
      atomRun kind old (l ++ [o]) = (q.1 ++ [q.2.1], (atomResult kind o.1 o.2 q.2.1).getD q.2.1, q.2.2 || (atomResult kind o.1 o.2 q.2.1).isSome))
  ∧ (∀ (s : State) (m d : Msg) (rest : List Msg), s.fabric.inq = m :: rest → s.requestHeld m = false → s.carrying = false →
    s.fabric.done.find? (fun x => x.dst == m.src && x.tag == m.tag) = some d → ∃ t, exec .remoteRequest s = .next t ∧ t.mem = s.mem
      ∧ t.fabric.outq = s.fabric.outq ++ [d] ∧ t.fabric.done = s.fabric.done)
  ∧ (∀ (s : State), s.fabric.respq = [] → exec .remoteResponse s = .next s)
  ∧ (∀ (s : State) (m : Msg) (rest : List Msg), s.fabric.respq = m :: rest → (∀ l ∈ s.fabric.live, l.tag ≠ m.tag) →
    exec .remoteResponse s = .next (s.modFab (fun f => { f with respq := rest })))
  ∧ (∀ (s : State) (m : Msg) (rest : List Msg), s.fabric.respq = m :: rest → (∃ l ∈ s.fabric.live, l.tag = m.tag) → m.tag < s.fabric.nextTag →
    ∃ t, exec .remoteResponse s = .next t ∧ t.fabric.respq = rest ∧ ∀ l ∈ t.fabric.live, l.tag ≠ m.tag)
  ∧ (∀ (s : State) (m : Msg) (rest : List Msg), s.fabric.respq = m :: rest → (∃ l ∈ s.fabric.live, l.tag = m.tag) →
    let brought : RData := match m.body with
      | .data bs _ bad => .bytes bs bad
      | .poisoned => .poisoned
      | _ => .failed
    let seen := fun (w : RWait) => w.accs.map (fun a => (a.lane, a.dX, a.dIdx, a.parts.map (fun p => (p.tag, p.off, p.len, p.got))))
    let filled := fun (w : RWait) => w.accs.map (fun a => (a.lane, a.dX, a.dIdx, a.parts.map (fun p =>
      (p.tag, p.off, p.len, if p.tag = m.tag ∧ p.got = none ∧ p.len ≠ 0 then some brought else p.got))))
    ∃ t, exec .remoteResponse s = .next t
      ∧ (∀ c w, (s.cc c).wait = some w → ∃ v, (t.cc c).wait = some v ∧ seen v = filled w)
      ∧ (∀ n slot d, slot < 2 → s.deal? n slot = some d → ∃ d2, t.deal? n slot = some d2
          ∧ d2.pend.map (fun p => (p.trick, p.pos, seen p.wait)) = d.pend.map (fun p => (p.trick, p.pos, filled p.wait))))
  ∧ (∀ (s : State) (m : Msg) (rest : List Msg) (n : Nat) (q : Cmd) (k : CmdTag), s.fabric.respq = m :: rest → (∃ l ∈ s.fabric.live, l.tag = m.tag) →
    s.carrying = false → s.owedTag m.tag = false → (∀ c w, (s.cc c).wait = some w → w.awaits m.tag = false) →
    (∀ i slot d, s.deal? i slot = some d → ∀ p ∈ d.pend, p.wait.awaits m.tag = false) →
    (s.cores.flatMap (fun e => (e.2.copyq ++ e.2.matrix.cmds).map (fun y => (e.1, y)))).filter (fun e => e.2.tags.any (fun y => y.tag == m.tag)) = [(n, q)] →
    q.tags.find? (fun y => y.tag == m.tag) = some k →
    exec .remoteResponse s = .next (((s.modFab (fun f => { f with respq := rest })).retireTag m.src m.tag).feedCmd n q k m))
  ∧ (∀ (s : State) (src tag : Nat), ((src, tag) ∉ s.fabric.retiring → exec (.tagRetirement src tag) s = .next s)
    ∧ ((src, tag) ∈ s.fabric.retiring →
      let left := s.fabric.inq.filter (fun d => !(d.src == src && d.tag == tag))
      let staged := (left.map (fun m => m.bytes + 16)).sum
      exec (.tagRetirement src tag) s = .next (s.modFab (fun f =>
        { f with retiring := f.retiring.filter (fun r => r != (src, tag)), inq := left,
                 done := f.done.filter (fun d => !(d.dst == src && d.tag == tag)),
                 hold := if 6 * 2 ^ 20 < staged then true else if staged < 4 * 2 ^ 20 then false else f.hold }))))
  ∧ (∀ (s : State) (dst : Nat), (s.fabric.retire.find? (fun r => r.1 == dst) = none → exec (.tagRetireTimeout dst) s = .next s)
    ∧ (∀ since tags, s.fabric.retire.find? (fun r => r.1 == dst) = some (dst, since, tags) →
      (s.tick < since + 200000 → exec (.tagRetireTimeout dst) s = .next s)
      ∧ (since + 200000 ≤ s.tick → s.carrying = false → ∃ t, exec (.tagRetireTimeout dst) s = .next t
        ∧ t.fabric.outq = s.fabric.outq ++ [⟨s.pkgId, dst, 0, .retire tags⟩] ∧ ∀ r ∈ t.fabric.retire, r.1 ≠ dst)))
  ∧ (∀ (s : State) (n id : Nat) (c : Cmd) (since : Nat), s.noteRoutes.cmd? n id = some c → c.noRoute = some since →
    exec (.engineRouteTimeout n id) s = .next (if since + 10000000 ≤ s.tick then s.noteRoutes.failCmd n c 5 else s.noteRoutes))

/-- R254 to R258, R261, R264: the hand a decision chooses. It is a dealable one; a group whose ante is due comes first, the one dealt longest ago; then the hands
passed over AGE times, the most passed first; then the highest priority; then the most ready units, or under policy 1 the lowest address.

The ties are log 36. -/
def Obligations.DealChoice : Prop :=
  (∀ (s : State) (n : Nat), ((s.choice n).isSome ↔ s.candidatesOf n ≠ []))
  ∧ (∀ (s : State) (n : Nat) (c : Cand), s.choice n = some c →
    let y := s.col (coreColumn n)
    c ∈ s.candidatesOf n ∧ c.1 ∈ (s.core n).deck ∧ c.2.2 ≠ [] ∧ s.grp? n c.1.grp = some c.2.1
    ∧ c.2.1.active = true ∧ c.2.1.stopped = false ∧ c.2.1.saving = false
    ∧ (∀ d ∈ s.candidatesOf n, s.anteDueNow n d.2.1 = true → s.anteDueNow n c.2.1 = true ∧ dealAge c.2.1 ≤ dealAge d.2.1)
    ∧ ((∀ d ∈ s.candidatesOf n, s.anteDueNow n d.2.1 = false) →
      (∀ d ∈ s.candidatesOf n, y.age ≤ d.1.pass → y.age ≤ c.1.pass ∧ min 255 d.1.pass ≤ min 255 c.1.pass)
      ∧ ((∀ d ∈ s.candidatesOf n, d.1.pass < y.age) →
        (∀ d ∈ s.candidatesOf n, min 3 (s.recOf d.2.1).prio ≤ min 3 (s.recOf c.2.1).prio)
        ∧ (∀ d ∈ s.candidatesOf n, min 3 (s.recOf d.2.1).prio = min 3 (s.recOf c.2.1).prio →
          (y.policy = 0 → min 1024 d.2.2.length ≤ min 1024 c.2.2.length) ∧ (y.policy ≠ 0 → c.1.addr.toNat ≤ d.1.addr.toNat)))))
  ∧ (∀ (s : State) (n g : Nat) (x : Group) (h : Hand) (hdr : D64), h.ret = none → h.header s n x = some hdr →
    let ready := fun (t : Nat) (th : Thread) => t ∈ h.bits ∧ th.st = .waiting ∧ th.ret = none ∧ th.next = h.addr ∧ s.flagsClear n g th.parkMask = true
    (s.flagsClear n g (hdrWait hdr) = false → s.handUnits n g x h false = [])
    ∧ (s.flagsClear n g (hdrWait hdr) = true →
      (unitSize hdr = 1 → hdrKind hdr ≠ 2 → ∀ u, (u ∈ s.handUnits n g x h false ↔ ∃ t th, u = [t] ∧ (t, th) ∈ x.threads ∧ ready t th))
      ∧ (unitSize hdr ≠ 1 → hdrKind hdr ≠ 2 → ∀ u, (u ∈ s.handUnits n g x h false ↔ ∃ k, k * unitSize hdr < 1024
          ∧ u = (x.unitOf (unitSize hdr) k).map (·.1) ∧ u ≠ [] ∧ ∀ e ∈ x.unitOf (unitSize hdr) k, ready e.1 e.2))
      ∧ (hdrKind hdr = 2 → ∀ u, (u ∈ s.handUnits n g x h false ↔ u = x.live.map (·.1) ∧ u ≠ [] ∧ s.inFlight n g = false ∧ ∀ e ∈ x.live, ready e.1 e.2))))
  ∧ (∀ (s : State) (n g : Nat) (x : Group) (h : Hand) (hd hdr : D64), h.ret = some hd → h.header s n x = some hdr → hdrKind hdr = 2 →
    ∀ u, (u ∈ s.handUnits n g x h false ↔ u = x.live.map (·.1) ∧ u ≠ [] ∧ s.inFlight n h.grp = false ∧ ∀ e ∈ x.live,
      (e.1 ∈ h.bits ∧ e.2.st = .waiting ∧ e.2.next = hd ∧ e.2.ret = some h.addr)
      ∨ (h.addr = hd ∧ e.2.st = .waiting ∧ e.2.next = hd ∧ e.2.ret = none ∧ s.flagsClear n h.grp e.2.parkMask = true
        ∧ ∃ k ∈ (s.core n).deck, k.grp = h.grp ∧ k.addr = hd ∧ k.ret = none ∧ e.1 ∈ k.bits)))
  ∧ (∀ (s : State) (n g : Nat) (x : Group) (h : Hand) (hd hdr : D64), h.ret = some hd → h.header s n x = some hdr → hdrKind hdr ≠ 2 →
    (unitSize hdr = 1 → ∀ u, (u ∈ s.handUnits n g x h false ↔ ∃ t ∈ h.bits, u = [t]))
    ∧ (unitSize hdr ≠ 1 → h.addr = hd → ∀ u, (u ∈ s.handUnits n g x h false ↔ u ≠ [] ∧ ∃ t ∈ h.bits,
        u = (x.unitOf (unitSize hdr) (t / unitSize hdr)).map (·.1) ∧ ∀ e ∈ x.unitOf (unitSize hdr) (t / unitSize hdr),
        (e.1 ∈ h.bits ∧ e.2.st = .waiting ∧ e.2.next = hd ∧ e.2.ret = some hd)
        ∨ (e.2.st = .waiting ∧ e.2.next = hd ∧ e.2.ret = none ∧ s.flagsClear n h.grp e.2.parkMask = true
          ∧ ∃ k ∈ (s.core n).deck, k.grp = h.grp ∧ k.addr = hd ∧ k.ret = none ∧ e.1 ∈ k.bits)))
    ∧ (unitSize hdr ≠ 1 → h.addr ≠ hd → ∀ u, (u ∈ s.handUnits n g x h false ↔ u ≠ [] ∧ ∃ t ∈ h.bits,
        (∀ e ∈ x.unitOf (unitSize hdr) (t / unitSize hdr), ¬ (e.2.st = .parked ∧ e.2.next = hd))
        ∧ u = ((x.unitOf (unitSize hdr) (t / unitSize hdr)).filter (fun e => h.bits.contains e.1 && e.2.st == .waiting && e.2.next == hd
          && e.2.ret == some h.addr)).map (·.1))))
  ∧ (∀ (s : State) (n : Nat) (x : Group) (h : Hand), h.header s n x = (match h.hdr with
      | some v => some v
      | none => s.headerAt n x (h.ret.getD h.addr)))

/-- R31, R37, R43, R255, R257, R266: making a deal. DEAL and RETURN_DEAL look at the core and, with a slot free and no scalar context waiting for it, deal the chosen hand
where it is of their kind: the block is fetched and checked, and the units, up to 1,024 threads or 32 crews, leave the deck and are dealt. Where the
header fetched is not the one the dealer holds for the hand, no deal is made and the hand takes the new one (R273). A header that cannot be read stops
the scalar context of a hand held as group-scalar, with no deal; of any other hand every thread parks there. A block at TRAPENT that could not be read
when threads were delivered to it, and is then none of its kind, stops the group, and the threads have their own faults again (R137; log 34).

How threads that park so share records is log 48. -/
def Obligations.MakingADeal : Prop :=
  (∀ (q : (Nat → Instr) × Bool), q ∈ [(Instr.deal, false), (Instr.returnDeal, true)] → ∀ (s0 : State) (n : Nat),
    let s := s0.observe n
    (s.freeSlot n = none ∨ (s.core n).scalarReady.isSome ∨ (∀ c, s.choice n = some c → c.1.ret.isSome ≠ q.2) → exec (q.1 n) s0 = .next s)
    ∧ (∀ slot c hd body, s.freeSlot n = some slot → (s.core n).scalarReady = none → s.choice n = some c → c.1.ret.isSome = q.2 →
      let addr := c.1.ret.getD c.1.addr
      let off := c.1.addr.toNat - addr.toNat
      let held := fun (t : State) => (t.core n).deck.find? (fun k => k.is c.1.grp c.1.addr c.1.ret)
      (s.countPasses n c.1).fetchBlock (coreColumn n) ((s.countPasses n c.1).fetchXlate n c.2.1) false addr = .ok hd body →
      (c.1.header s n c.2.1 ≠ some hd → ∃ t, exec (q.1 n) s0 = .next t ∧ t.deal? n slot = none ∧ held t = (held s).map (fun k => { k with hdr := some hd }))
      ∧ ∀ pos, (c.1.addr = addr ∧ pos = 0) ∨ (c.1.addr ≠ addr ∧ addr.toNat < c.1.addr.toNat ∧ off % 4 = 0 ∧ off = 8 + 4 * pos
        ∧ isBoundary (body.length + 1) body pos = true) →
      hdrVhigh hd < s.holding c.2.1 → c.1.header s n c.2.1 = some hd →
      (c.2.1.trapCheck ≠ .unreadable ∨ addr ≠ (s.recOf c.2.1).trapEnt ∨ hdrKind hd = 4) →
      let tricks := if hdrKind hd = 2 then [[threadLane 0 0]] else tricksOf c.2.1 (s.recOf c.2.1).nt hd (c.1.addr != addr) (takeUnits hd c.2.2)
      ∃ t, exec (q.1 n) s0 = .next t
        ∧ t.deal? n slot = some
          { grp := c.1.grp, addr := addr, hdr := hd, body := body, pos := pos,
            tricks := tricks, trick := 0, todo := (List.range tricks.length).tail,
            fmode := c.2.1.fmode, fstat := c.2.1.fstat, acc := 0, isReturn := q.2, pend := [], done := false, held := false }
        ∧ (∃ y, t.grp? n c.1.grp = some y ∧ y.lastDeal = some s.tick ∧ y.anteFrom = some s.tick ∧ y.anteDue = false ∧ y.s = c.2.1.s
          ∧ y.scalar = if hdrKind hd = 2 then .running else c.2.1.scalar)
        ∧ (∀ i ∈ (takeUnits hd c.2.2).flatten, ∀ th, s.thr? n c.1.grp i = some th → t.thr? n c.1.grp i =
            some { th with st := .dealt, ret := none, parkMask := 0, entering := none, q := if c.1.addr = addr then [] else th.q })
        ∧ (∀ i, i ∉ (takeUnits hd c.2.2).flatten → t.thr? n c.1.grp i = s.thr? n c.1.grp i)
        ∧ t.mem = s.mem)
    ∧ (∀ slot c hd body, s.freeSlot n = some slot → (s.core n).scalarReady = none → s.choice n = some c → c.1.ret.isSome = q.2 →
      let addr := c.1.ret.getD c.1.addr
      (s.countPasses n c.1).fetchBlock (coreColumn n) ((s.countPasses n c.1).fetchXlate n c.2.1) false addr = .ok hd body →
      c.1.header s n c.2.1 = some hd → c.2.1.trapCheck = .unreadable → addr = (s.recOf c.2.1).trapEnt → hdrKind hd ≠ 4 →
      ∃ t y, exec (q.1 n) s0 = .next t ∧ t.deal? n slot = none ∧ t.grp? n c.1.grp = some y ∧ y.trapCheck = .bad ∧ y.stopped = true
        ∧ ∀ i ∈ c.1.bits, ∀ th f, mapGet? c.2.1.threads i = some th → th.entering = some f →
          ∃ th2, t.thr? n c.1.grp i = some th2 ∧ th2.st = .parked ∧ th2.park.map (fun p => p.info) = some f)
    ∧ (∀ slot c cause code va, s.freeSlot n = some slot → (s.core n).scalarReady = none → s.choice n = some c → c.1.ret.isSome = q.2 →
      let addr := c.1.ret.getD c.1.addr
      (s.countPasses n c.1).fetchBlock (coreColumn n) ((s.countPasses n c.1).fetchXlate n c.2.1) false addr = .fail cause code va →
      let f : FaultInfo := ⟨cause, code, addr, va, 64, 0, 0⟩
      let scalar := ∃ hd, c.1.header s n c.2.1 = some hd ∧ hdrKind hd = 2
      ∃ t y, exec (q.1 n) s0 = .next t ∧ t.grp? n c.1.grp = some y ∧ y.lastDeal = c.2.1.lastDeal
        ∧ (scalar → y.scalar = .stopped f addr ∧ t.deal? n slot = none)
        ∧ (¬ scalar → y.scalar = c.2.1.scalar ∧ ∀ i ∈ c.1.bits, (s.thr? n c.1.grp i).isSome →
          ∃ th, t.thr? n c.1.grp i = some th ∧ th.st = .parked ∧ th.park.map (fun p => p.info) = some f)))
  ∧ (∀ (hdr : D64) (units : List (List Nat)), takeUnits hdr units = units.take (if hdrKind hdr = 1 then 32 else if hdrQH hdr then 256 else 1024))

/-- R38, R258, R264: the end of a deal. Before every trick has passed it changes nothing; then the deal's flags join the group's `fstat`, and a slot
without parked threads frees. That is where the other slot is not held for kitty entries; one that is, is served first.

R253, R252: the rescan. It is due from the first beat of 4,096 cycles at which a thread waits without an entry, and while an entry is free: such
threads get one, in slot order from the one after the last served. Where the deck is full the entry held longest, for 4,096 cycles at least, is
reclaimed: its threads wait without one. A rescan ends with no such thread left, or with a full deck of which no entry has been held so long.

The slot of the first rescan and the tie of equal HELD are log 35. -/
def Obligations.DealEnds : Prop :=
  (
  ∀ (s : State) (n slot : Nat),
    (s.deal? n slot = none → exec (.dealEnd n slot) s = .next s)
    ∧ (∀ d, s.deal? n slot = some d →
      (d.done = false → exec (.dealEnd n slot) s = .next s)
      ∧ (d.done = true → (d.held = true ∨ s.slotHeld n (1 - slot) = false) → ∃ t, exec (.dealEnd n slot) s = .next t
        ∧ (∀ x, s.grp? n d.grp = some x → ∃ y, t.grp? n d.grp = some y ∧ y.fstat = x.fstat ||| flagsWord d.acc)
        ∧ (d.parkedHere = [] → t.deal? n slot = none)
        ∧ t.mem = s.mem))
  ) ∧ (
  ∀ (s0 : State) (n : Nat),
    let s := s0.observe n
    let due := (s.core n).rescanDue = true ∨ (s.core n).deck.length < 128
    ((s.core n).rescanDue = true ↔ (s0.core n).rescanDue = true
      ∨ ((s0.core n).lastRescan / 4096 < s0.ecyc (coreColumn n) / 4096 ∧ s0.owedSlots n ≠ []))
    ∧ (s.owedSlots n = [] ∨ ¬ due → exec (.deckRescan n) s0 = .next s)
    ∧ (∀ slot g i th, s.owedSlots n = [(slot, g, i)] → s.thr? n g i = some th → (s.core n).deck.length < 127 →
      ∃ t, exec (.deckRescan n) s0 = .next t ∧ t.thr? n g i = some { th with owed := false } ∧ (t.core n).rescanPtr = slot
        ∧ (t.core n).rescanDue = false ∧ ∃ h ∈ (t.core n).deck, h.is g th.key.1 th.key.2 = true ∧ i ∈ h.bits)
    ∧ (∀ last, (s.owedSlots n).getLast? = some last → (s.owedSlots n).length + (s.core n).deck.length < 128 →
      ∃ t, exec (.deckRescan n) s0 = .next t ∧ (t.core n).rescanPtr = last.1 ∧ (t.core n).rescanDue = false
        ∧ ∀ o ∈ s.owedSlots n, ∀ th, s.thr? n o.2.1 o.2.2 = some th → t.thr? n o.2.1 o.2.2 = some { th with owed := false }
          ∧ ∃ h ∈ (t.core n).deck, h.is o.2.1 th.key.1 th.key.2 = true ∧ o.2.2 ∈ h.bits)
    ∧ (s.owedSlots n ≠ [] → due → (s.core n).deck.length ≤ 128 →
      ∃ t, exec (.deckRescan n) s0 = .next t ∧ (t.core n).rescanDue = false
        ∧ (t.owedSlots n = [] ∨ (t.core n).deck.length = 128 ∧ ∀ h ∈ (t.core n).deck, h.heldAt (s.ecyc (coreColumn n)) < 4096))
  ) ∧ (
  ∀ (s : State) (n : Nat),
    let held := fun (h : Hand) => min (2 ^ 64) (h.heldAt (s.ecyc (coreColumn n)))
    ((∀ h ∈ (s.core n).deck, held h < 4096) → s.reclaim n = s)
    ∧ ((∃ h ∈ (s.core n).deck, 4096 ≤ held h) → ∃ h ∈ (s.core n).deck, 4096 ≤ held h ∧ (∀ k ∈ (s.core n).deck, held k ≤ held h)
      ∧ ((s.reclaim n).core n).deck = (s.core n).deck.filter (fun k => !(k.is h.grp h.addr h.ret))
      ∧ ∀ i th, s.thr? n h.grp i = some th → (s.reclaim n).thr? n h.grp i = some (if i ∈ h.bits then { th with owed := true } else th))
    ∧ ((s.owedSlots n).map (fun o => (o.1 + 4096 - ((s.core n).rescanPtr + 1) % 4096) % 4096)).Pairwise (· ≤ ·)
  )

/-- R258, R241, R43: a scalar context whose wait has ended takes the next free slot: it goes on at its instruction, or behind it with the result of
its wait; one that stopped is dealt again at the instruction its record names.

R186, R213, R251, R259: a group retires when nothing of it is left to run, a stopped one once the column core has disposed of it: what it holds goes,
and its instance counts it.

Which of several ready contexts takes the slot is log 36. -/
def Obligations.ScalarsAndRetirement : Prop :=
  (
  ∀ (s : State) (n : Nat),
    (s.freeSlot n = none ∨ (s.core n).scalarReady = none → exec (.scalarContextResume n) s = .next s)
    ∧ (∀ slot g x, s.freeSlot n = some slot → (s.core n).scalarReady = some (g, x) → s.grp? n g = some x →
      (∀ d, x.scalar = .ready d none → ∃ t, exec (.scalarContextResume n) s = .next t ∧ t.deal? n slot = some d
        ∧ t.grp? n g = some { x with scalar := .running } ∧ t.cur = .deal n slot ∧ t.mem = s.mem)
      ∧ (∀ d w e lv rest r f, x.scalar = .ready d (some w) →
        let s1 := { ((s.setDeal n slot (some d)).modGrp n g (fun y => { y with scalar := .running })) with cur := .deal n slot }
        issueCtx s1 = some (e, lv :: rest) → standsAt d.body d.pos = some (r, f) →
        exec (.scalarContextResume n) s = .next (oneOut s1 f e lv (setD lv f w)))
      ∧ (∀ addr pc hd body, x.scalar = .restart addr pc → s.fetchBlock (coreColumn n) (s.fetchXlate n x) false addr = .ok hd body →
        hdrVhigh hd < s.holding x → hdrKind hd = 2 →
        ∀ pos, (pc = addr ∧ pos = 0) ∨ (pc ≠ addr ∧ addr.toNat < pc.toNat ∧ pc.toNat - addr.toNat = 8 + 4 * pos
          ∧ isBoundary (body.length + 1) body pos = true) →
        ∃ t, exec (.scalarContextResume n) s = .next t
          ∧ t.deal? n slot = some
            { grp := g, addr := addr, hdr := hd, body := body, pos := pos, tricks := [[threadLane 0 0]], trick := 0, todo := [],
              fmode := x.fmode, fstat := x.fstat, acc := 0, isReturn := decide (pc ≠ addr), pend := [], done := false, held := false }
          ∧ ∃ y, t.grp? n g = some y ∧ y.scalar = .running ∧ y.q = (if pc = addr then [] else x.q) ∧ y.lastDeal = some s.tick)
      ∧ (∀ addr pc cause code va, x.scalar = .restart addr pc →
        s.fetchBlock (coreColumn n) (s.fetchXlate n x) false addr = .fail cause code va →
        ∃ t, exec (.scalarContextResume n) s = .next t ∧ ∃ y, t.grp? n g = some y ∧ y.scalar = .stopped ⟨cause, code, addr, va, 64, 0, 0⟩ addr))
  ) ∧ (
  ∀ (s : State) (n g : Nat),
    (s.grp? n g = none → exec (.groupRetire n g) s = .next s)
    ∧ (∀ x, s.grp? n g = some x →
      ((s.mayRetire n g x = true ↔ (x.stopped = false ∨ x.disposed = true) ∧ x.live = [] ∧ x.shoe = [] ∧ x.saving = false ∧ (∀ slot d, s.deal? n slot = some d → d.grp ≠ g)
        ∧ x.scalar = .idle ∧ (s.core n).cmdsOf g = []))
      ∧ (s.mayRetire n g x = false → exec (.groupRetire n g) s = .next s)
      ∧ (s.mayRetire n g x = true → (s.recOf x).scope = 6 → s.postedPending (.grp n g) = true → exec (.groupRetire n g) s = .next s)
      ∧ (s.mayRetire n g x = true → ((s.recOf x).scope = 6 → s.postedPending (.grp n g) = false) → ∃ t, exec (.groupRetire n g) s = .next t
        ∧ t.grp? n g = none ∧ (∀ h ∈ (t.core n).deck, h.grp ≠ g) ∧ (t.core n).matrix.owner ≠ some g
        ∧ (∀ g', g' ≠ g → (t.grp? n g').isSome = (s.grp? n g').isSome)
        ∧ (∀ i, s.inst? x.inst = some i → ∃ j, t.inst? x.inst = some j ∧ x.gflat ∈ j.retired ∧ ∀ k ∈ i.retired, k ∈ j.retired)))
  )

/-- R267, R268: a crew of up to 32 tasks with one entry is formed at the lowest crew that holds no thread, each thread with its argument in `v0` and
`v1`; a bad header of an entry stops the group. QUIET is set after a first moment at which every shoe of a grid with TASKS is empty and no task thread is left.

That a task header that can be read but is bad stops the group at the former is log 16; that the first quiet moment is latched is log 42. -/
def Obligations.TaskCrews : Prop :=
  (∀ (s : State) (n g : Nat), (s.grp? n g = none → exec (.taskFormer n g) s = .next s)
    ∧ (∀ x, s.grp? n g = some x →
      (x.stopped = true ∨ x.saving = true ∨ x.shoe = [] ∨ x.freeCrew (s.recOf x).crews = none → exec (.taskFormer n g) s = .next s)
      ∧ (∀ e a rest c, x.stopped = false → x.saving = false → x.shoe = (e, a) :: rest → x.freeCrew (s.recOf x).crews = some c →
        (s.taskFits n x e = none → exec (.taskFormer n g) s = .next (s.stopGroup n g (plainFault 18 0 e) 0))
        ∧ (s.taskFits n x e = some true →
          let mine := (x.shoe.filter (fun t => t.1 == e)).take 32
          ∃ t y, exec (.taskFormer n g) s = .next t ∧ t.grp? n g = some y ∧ y.skip = 0
            ∧ (∀ j arg, mine[j]? = some (e, arg) → ∃ th, t.thr? n g (32 * c + j) = some th ∧ th.st = .waiting ∧ th.next = e ∧ th.ret = none
              ∧ th.isTask = true ∧ th.parkMask = 0 ∧ (∀ i, getReg th.v i = if i = 0 then loWord arg else if i = 1 then hiWord arg else 0)
              ∧ th.k = 0 ∧ th.park = none)
            ∧ y.shoe.filter (fun t => t.1 == e) = (x.shoe.filter (fun t => t.1 == e)).drop 32
            ∧ y.shoe.filter (fun t => t.1 != e) = x.shoe.filter (fun t => t.1 != e))
        ∧ (s.taskFits n x e = some false → 64 ≤ x.skip → exec (.taskFormer n g) s = .next s))))
  ∧ (∀ (s : State) (i : Nat), (s.inst? i = none → exec (.quietReport i) s = .next s)
    ∧ (∀ y, s.inst? i = some y →
      let quiet := fun (x : Group) => x.shoe = [] ∧ ∀ t ∈ x.threads, t.2.st ≠ .retired → t.2.isTask = false
      let all := y.lrec.tasks = true ∧ (∀ e ∈ s.residents i, quiet e.2.2) ∧ (∀ v ∈ s.saves, ∀ m ∈ v.members, m.grp.inst = i → quiet m.grp)
      (y.quietSeen = true ∨ all → exec (.quietReport i) s = .next (s.modInst i (fun z => { z with quietSeen := true, quiet := true })))
      ∧ (y.quietSeen = false → ¬ all → exec (.quietReport i) s = .next s)
      ∧ (all → (s.noteQuiet i y).inst? i = some { y with quietSeen := true }) ∧ (¬ all → s.noteQuiet i y = s)))

/-- R259, R261: an active group idle for 2,048 cycles gives its place to the oldest pending group with a dealable hand; a pending group whose ante is due takes
the place of the active group that entered first and has no deal in flight; a due ante is remembered. An ante is due 3,000 ticks after the tick it
counts from, which time that does not count moves on. A group whose scalar context waits has no dealable hand.

Which of several idle groups leaves, and ties of the starvation swap, are log 49. -/
def Obligations.ActiveSet : Prop :=
  (∀ (s0 : State) (n : Nat),
    let s := s0.observe n
    let now := s.ecyc (coreColumn n)
    let idle := fun (e : Nat × Group) => ∃ t, e.2.idleSince = some t ∧ t + 2048 ≤ now
    ((∀ e ∈ (s.core n).groups, e.2.active = true → ¬ idle e) ∨ (∀ e ∈ (s.core n).pending, s.wouldDeal n e.1 = false) →
      exec (.activeSetIdleSwap n) s0 = .next s)
    ∧ ((∃ e ∈ (s.core n).groups, e.2.active = true ∧ idle e) → (∃ e ∈ (s.core n).pending, s.wouldDeal n e.1 = true) →
      ∃ o ∈ (s.core n).groups, ∃ i ∈ (s.core n).pending, o.2.active = true ∧ idle o ∧ s.wouldDeal n i.1 = true
        ∧ (∀ e ∈ (s.core n).pending, s.wouldDeal n e.1 = true → i.2.admitSeq ≤ e.2.admitSeq)
        ∧ exec (.activeSetIdleSwap n) s0 = .next ((s.modGrp n o.1 (fun x => { x with active := false })).modGrp n i.1 (fun x =>
            { x with active := true, activeSince := s.tick, idleSince := none }))))
  ∧ (∀ (s0 : State) (n : Nat),
    let s := s0.observe n
    let due := fun (e : Nat × Group) => s.wouldDeal n e.1 = true ∧ s.anteDueNow n e.2 = true
    let free := fun (e : Nat × Group) => e.2.active = true ∧ ∀ slot d, s.deal? n slot = some d → d.grp ≠ e.1
    ((∀ e ∈ (s.core n).pending, ¬ due e) ∨ (∀ e ∈ (s.core n).groups, ¬ free e) → exec (.activeSetStarvationSwap n) s0 = .next s)
    ∧ ((∃ e ∈ (s.core n).pending, due e) → (∃ e ∈ (s.core n).groups, free e) →
      ∃ o ∈ (s.core n).groups, ∃ i ∈ (s.core n).pending, free o ∧ due i
        ∧ (∀ e ∈ (s.core n).groups, free e → o.2.activeSince ≤ e.2.activeSince)
        ∧ (∀ e ∈ (s.core n).pending, due e → i.2.admitSeq ≤ e.2.admitSeq)
        ∧ exec (.activeSetStarvationSwap n) s0 = .next ((s.modGrp n o.1 (fun x => { x with active := false })).modGrp n i.1 (fun x =>
            { x with active := true, activeSince := s.tick, idleSince := none }))))
  ∧ (∀ (s : State) (n g : Nat), s.wouldDeal n g = true ↔ (∃ c ∈ s.openHands n, c.1.grp = g)
      ∧ ∃ x, s.grp? n g = some x ∧ ∀ w d, x.scalar ≠ .waiting w d)
  ∧ (∀ (s0 : State) (n g : Nat) (x : Group), s0.grp? n g = some x →
    let s := s0.observe n
    let idle := x.active = true ∧ ((∃ w d, x.scalar = .waiting w d) ∨ ∀ c ∈ s.openHands n, c.1.grp ≠ g) ∧ ∀ slot d, s0.deal? n slot = some d → d.grp ≠ g
    ∃ y, s.grp? n g = some y ∧ (idle → y.idleSince = some (x.idleSince.getD (s0.ecyc (coreColumn n)))) ∧ (¬ idle → y.idleSince = none))
  ∧ (∀ (s0 : State) (n g : Nat),
    let s := s0.observe n
    ((∀ x, s.grp? n g = some x → s.anteDueNow n x = false) → exec (.anteDue n g) s0 = .next s)
    ∧ (∀ x, s.grp? n g = some x → s.anteDueNow n x = true → exec (.anteDue n g) s0 = .next (s.modGrp n g (fun y => { y with anteDue := true })))
    ∧ (∀ x, s.anteDueNow n x = true ↔ x.anteDue = true ∨ ∃ t, x.anteFrom = some t ∧ t + 3000 ≤ s.tick)
    ∧ (∀ x t, s0.grp? n g = some x → x.anteFrom = some t → ∃ y, s.grp? n g = some y
      ∧ y.anteFrom = some (if (s0.core n).antePaused = true then t + (s0.tick - (s0.core n).looked) else t)))

/-- R326 to R332: the launch engine takes the oldest GO of a window. RADDR not a multiple of 8, or a record that cannot be read, is REASON 1; the first check the
record fails gives its REASON; a line that cannot take the launch refuses it; otherwise an instance is made and the line counts it. A chained GO
is made once, when every group has been admitted and SUCC names a line.

That U is not asked of the pages of a record is log 17. -/
def Obligations.LaunchLines : Prop :=
  (∀ (s : State) (c ctx : Nat), (s.window c ctx).gos = [] → exec (.launchGo c ctx) s = .next s)
  ∧ (∀ (s : State) (c ctx k : Nat) (raddr : D64) (rest : List (Nat × D64)), (s.window c ctx).gos = (k, raddr) :: rest →
    let s1 := s.modWindow c ctx (fun w => { w with gos := rest })
    exec (.launchGo c ctx) s = .next (s1.goOn c ctx k raddr none))
  ∧ (∀ (s : State) (c ctx k : Nat) (raddr : D64) (ch : Option Nat),
    let line := fun (t : State) => mapGet (t.window c ctx).lines k Line.idle
    let q := s.engineRead c ctx raddr.toNat 256
    let t := s.goOn c ctx k raddr ch
    (t.col c).evLatched.getLsbD 1 = true
    ∧ (raddr.toNat % 8 ≠ 0 ∨ q.1 = none → (line t).st = 5 ∧ (line t).reason = 1 ∧ t.insts = s.insts)
    ∧ (∀ bs, raddr.toNat % 8 = 0 → q.1 = some bs →
      (∀ reason, recordFault bs (s.window c ctx).winva c = some reason → (line t).st = 5 ∧ (line t).reason = reason ∧ t.insts = s.insts)
      ∧ (∀ reason, recordFault bs (s.window c ctx).winva c = none → q.2.refusal c ctx k (recordOf bs) = some reason →
        (line t).st = 4 ∧ (line t).reason = reason ∧ t.insts = s.insts)
      ∧ (recordFault bs (s.window c ctx).winva c = none → q.2.refusal c ctx k (recordOf bs) = none →
        (line t).st = 1 ∧ (line t).reason = 0 ∧ (line t).live = (line s).live + 1 ∧ (line t).gseq = ((line s).gseq + 1) % 65536
        ∧ ∃ x copy, (s.window c ctx).freeCopy = some copy ∧ t.inst? s.nextInst = some x ∧ x.lrec = recordOf bs ∧ x.col = c ∧ x.ctx = ctx ∧ x.line = k
          ∧ x.copy = copy ∧ x.admitted = 0 ∧ x.retired = [] ∧ x.isNewest = true ∧ x.chainedFrom = ch ∧ x.quiet = false
          ∧ (mapGet (t.window c ctx).copies copy ⟨[], false⟩).used = true)))
  ∧ (∀ (s : State) (i : Nat), (s.inst? i = none → exec (.chainedGo i) s = .next s)
    ∧ (∀ x, s.inst? i = some x →
      (x.chainDone = true ∨ x.admitted ≠ x.lrec.groups → exec (.chainedGo i) s = .next s)
      ∧ (x.chainDone = false → x.admitted = x.lrec.groups →
        let s1 := s.modInst i (fun y => { y with chainDone := true })
        let k := x.lrec.succ % 16
        exec (.chainedGo i) s = .next (if x.lrec.succ / 128 = 0 then s1
          else s1.goOn x.col x.ctx k (mapGet (s.window x.col x.ctx).lines k Line.idle).raddr (some i)))))

/-- R15, R18, R250, R328, R335, R337, R340: a group that can be placed becomes resident, with its threads waiting at the entry and its slots and index; one
that has room and that thermal headroom refuses is tested again at the next moment for it; an instance is complete when every group has
retired. -/
def Obligations.AdmissionAndCompletion : Prop :=
  (∀ (s : State), (∀ e ∈ s.headsToTest, s.place e.2 = none ∧ s.placeIf false e.2 = none) → exec .groupAdmission s = .next s)
  ∧ (∀ (s : State) (i : Nat) (x : Inst), s.headsToTest = [(i, x)] → s.place x = none → (s.placeIf false x).isSome = true →
    exec .groupAdmission s = .next (s.modInst i (fun y => { y with heatAt := some s.heatCount })))
  ∧ (∀ (s t : State) (i : Nat) (x : Inst), (i, x) ∈ s.headsToTest → (∀ e ∈ s.headsToTest, e.1 = i → e.2 = x) → s.inst? i = some x →
    s.place x = none → (s.placeIf false x).isSome = true → exec .groupAdmission s = .next t → ∃ y, t.inst? i = some y ∧ y.heatAt = some s.heatCount)
  ∧ (∀ (s : State) e, e ∈ s.headsToTest ↔ e ∈ openHeads [] s.admissionOrder ∧ e.2.heatAt ≠ some s.heatCount)
  ∧ (∀ (s : State) (c addMw : Nat), s.coolEnough c addMw = true ↔ (s.gov c).temp * 64000 + Config.kcol c *
      ((s.gov c).measMw + ((s.gov c).addPrev + (s.gov c).addMw + addMw) - (s.gov c).refMw) ≤ 105 * 1024000)
  ∧ (∀ (s : State) (i : Nat) (x : Inst) (n b g : Nat), s.headsToTest.head? = some (i, x) → s.place x = some [(n, b, g)] →
    s.inst? i = some x → x.admitted + 1 < x.lrec.groups →
    ∃ t y j, exec .groupAdmission s = .next t ∧ t.grp? n g = some y ∧ y.inst = i ∧ y.gflat = x.admitted ∧ y.slotBase = b ∧ y.fmode = 0x10 ∧ y.fstat = 0
      ∧ y.s = [] ∧ y.scalar = .idle ∧ y.xheld = false ∧ y.tiles = [] ∧ y.stopped = false
      ∧ t.inst? i = some j ∧ j.admitted = x.admitted + 1
      ∧ (∀ k, k < x.lrec.nt → ∃ th, t.thr? n g k = some th ∧ th.st = .waiting ∧ th.next = x.lrec.entry ∧ th.ret = none ∧ th.v = [] ∧ th.k = 0 ∧ th.isTask = false)
      ∧ (∀ k, x.lrec.nt ≤ k → t.thr? n g k = none)
      ∧ (x.admitted = 0 → x.isNewest = true → (mapGet (t.window x.col x.ctx).lines x.line Line.idle).st = 2))
  ∧ (∀ (s : State) (n : Nat) (r : LaunchRec) (b g : Nat), s.roomOn n r = some (b, g) →
    b % 32 = 0 ∧ b + r.capacity ≤ 4096 ∧ g < 64 ∧ s.grp? n g = none ∧ (s.core n).outOfService = false ∧ r.static ≤ s.freeGranules n
    ∧ (∀ e ∈ (s.core n).groups, e.2.slotBase + (s.recOf e.2).capacity ≤ b ∨ b + r.capacity ≤ e.2.slotBase))
  ∧ (∀ (s : State) (i : Nat), (s.inst? i = none → exec (.instanceComplete i) s = .next s)
    ∧ (∀ x, s.inst? i = some x →
      (x.retired.length < x.lrec.groups → exec (.instanceComplete i) s = .next s)
      ∧ (x.lrec.groups ≤ x.retired.length →
        let line := fun (t : State) => mapGet (t.window x.col x.ctx).lines x.line Line.idle
        ∃ t, exec (.instanceComplete i) s = .next t ∧ t.inst? i = none ∧ (line t).live = (line s).live - 1
          ∧ (line t).dseq = ((line s).dseq + 1) % 65536 ∧ (line t).ctick = BitVec.ofNat 64 s.tick
          ∧ ((line s).live ≤ 1 → (line t).st = 3) ∧ (1 < (line s).live → (line t).st = (line s).st)
          ∧ (mapGet (t.window x.col x.ctx).copies x.copy ⟨[], false⟩).used = false ∧ (t.col x.col).evLatched.getLsbD 1 = true)))

/-- R242, R338, R353 to R355: a save by `gsave`, and by the launch engine. `gsave` of a misaligned area traps; it answers 1 where B names no resident group; else it stops the
dealing of the group's gang, and once no deal of it runs the areas are written, the groups leave their cores, and D is 0. SAVE_COMPLETE does the same for a save of the launch
engine, which PREEMPT starts for the head of the admission order where it lacks room.

R243, R339, R354 to R356: restoring. `grest` of a misaligned area traps. While words are owed it waits, and for room in the copy queue (R204). It answers 1
where no save, one restored before among them, has the header that the area shows, where an area no longer holds what was written, where the column
is another, or where a resource is taken; else the groups are back and D is 0. GROUP_RESTORE does so for the oldest save of the launch engine that can be restored. A word owed to a withdrawn thread reaches its save
when its response arrives.

That a misaligned area traps with misalignment, how a save is found again, and that a restore waits for room in the copy queue, are the model's
(logs 13, 24). -/
def Obligations.SavesAndRestores : Prop :=
  (
  (∀ (r : Row) (f : Fields) (s : State) (e : Env) (ls : List LaneView) (c : Nat) (lv : LaneView), Issues (.gsave f) r f s e ls → OnColumn e ls c lv →
    let a := (srcA64 ls lv f).toNat
    let b := (srcB r ls lv f).toNat
    let n := 12 * c + b / 4096 % 16
    let g := b % 64
    let bad := 65536 ≤ b ∨ b / 64 % 64 ≠ 0 ∨ 12 ≤ b / 4096 % 16 ∨ s.grp? n g = none
    ((∀ v ∈ s.savings, v.byEngine = true ∨ v.col ≠ c) →
      (a % 4096 ≠ 0 → exec (.gsave f) s = .next (s.takeTrap c 4 0 e.addr e.pc (srcA64 ls lv f)))
      ∧ (a % 4096 = 0 → bad → exec (.gsave f) s = .next (oneOut s f e lv (setD lv f 1)))
      ∧ (∀ x, a % 4096 = 0 → ¬ bad → s.grp? n g = some x → (s.recOf x).gang = 1 → x.saving = false → s.residents x.inst = [(n, g, x)] →
        ∃ t, exec (.gsave f) s = .next t ∧ t.grp? n g = some { x with saving := true }
          ∧ t.savings = s.savings ++ [⟨c, [(n, g)], s.tick, false, 0, 0, 0, []⟩] ∧ (t.cc c).pos = (s.cc c).pos ∧ t.mem = s.mem))
    ∧ (∀ v x (areas : List ((Nat × Nat) × List Seg)), s.savings = [v] → v.byEngine = false → v.col = c → v.owed = [] → s.tick < v.start + 20000 → s.saveReady v.groups = true →
      v.groups.head?.bind (fun q => s.grp? q.1 q.2) = some x →
      let size := (s.recOf x).areaSize
      (v.groups.map (fun q => (q, s.areaCheck (s.memCtx e) e (a + size * s.rankAt q) size .store))) = areas.map (fun p => (p.1, AccRes.segs p.2)) →
      let places := areas.map (fun p => (p.1, p.2.map (fun q => (q.place, q.len))))
      exec (.gsave f) s = .next (oneOut ((s.leaveWalks e.who c).finishSave v places (((places.head?.bind (fun p => p.2.head?)).map (·.1)).getD 0) size (s.ctxOf x))
        f e lv (setD lv f 0))))
  ∧ (∀ (s : State) (groups : List (Nat × Nat)), s.saveReady groups = true ↔ ∀ q ∈ groups,
      (∀ d, (s.core q.1).deal0 = some d ∨ (s.core q.1).deal1 = some d → d.grp = q.2 → d.held = true ∨ (d.done = true ∧ s.kittyShort q.1 d = true))
      ∧ ∀ m ∈ (s.core q.1).matrix.cmds, m.grp = q.2 → m.phase = .begun → m.err ≠ none)
  ∧ (∀ (s : State) (v : Saving) (n g : Nat) (x : Group) (places : List (Nat × Nat)) (area size ctx : Nat), s.grp? n g = some x → v.groups = [(n, g)] →
    let t := s.finishSave v [((n, g), places)] area size ctx
    t.grp? n g = none ∧ (∀ h ∈ (t.core n).deck, h.grp ≠ g)
    ∧ ∃ m, t.saves = s.saves ++ [⟨s.nextId, ctx, area, size, v.byEngine, v.slots, v.decision, [m], v.owed⟩]
      ∧ m.core = n ∧ m.idx = g ∧ m.places = places ∧ m.hands = (s.core n).deck.filter (fun h => h.grp == g)
      ∧ m.grp.threads = x.threads ∧ m.grp.s = x.s ∧ m.grp.scratch = x.scratch ∧ m.grp.slotBase = x.slotBase ∧ m.grp.scalar = x.scalar
      ∧ m.cmds.map (·.id) = ((s.core n).cmdsOf g).map (·.id))
  ∧ (∀ (s : State) (c a n : Nat) (bs : List Byte), isWindow a = true → s.areaRead c [(a, n)] = s.windowLoad a n
    ∧ s.areaStore a bs = s.storeBytes ⟨0, 12, .col 0⟩ a bs none none)
  ∧ (∀ (s : State) (a : Nat) (bs : List Byte), a % 4096 = 0 → bs.length % 4096 = 0 → isWindow a = false →
    (∀ j, j < bs.length → (s.areaStore a bs).homeByte (a + j) = bs[j]?.getD 0)
    ∧ (∀ c sec, c < 32 → a ≤ 32 * sec → 32 * sec < a + bs.length → (s.areaStore a bs).slice? c sec = none))
  ∧ (∀ (r : LaunchRec), r.areaSize = 49152 + roundPage (16 * r.capacity) + roundPage (64 * r.capacity)
      + roundPage (4 * r.capacity * (r.base + 16 * r.xreg)) + 16384 * r.scr + 16384 * r.zmax)
  ∧ (∀ (s : State), (s.savings.all (fun v => !v.byEngine) = true → exec .saveComplete s = .next s)
    ∧ (∀ v x, s.savings = [v] → v.byEngine = true → v.owed = [] → s.tick < v.start + 20000 → s.saveReady v.groups = true →
      v.groups.head?.bind (fun q => s.grp? q.1 q.2) = some x →
      let size := (s.recOf x).areaSize
      exec .saveComplete s = .next (s.finishSave v (v.groups.map (fun q => (q, [(v.area + size * s.rankAt q, size)]))) v.area size (s.ctxOf x)).heatMoment.admitNext)
    ∧ (∀ v, s.savings = [v] → v.byEngine = true → v.owed = [] → s.tick < v.start + 20000 → s.saveReady v.groups = false →
      exec .saveComplete s = .next s))
  ∧ (∀ (s : State), (s.admissionOrder = [] → exec .preempt s = .next s)
    ∧ (∀ i x rest, s.admissionOrder = (i, x) :: rest →
      (s.headRoom x (fun _ _ => false) = true → exec .preempt s = .next s)
      ∧ (∀ w slot, s.chooseVictims x = [w] → s.slotRun x.col w.ctx w.gang w.size [] = some slot →
        let b := s.slotBlock x.col w.ctx
        ∃ t, exec .preempt s = .next t ∧ t.savings = s.savings ++ [⟨x.col, w.groups, s.tick, true, b.1 + slot * b.2.1, slot, s.nextId, []⟩]
          ∧ ∀ q ∈ w.groups, ∀ y, s.grp? q.1 q.2 = some y → ∃ z, t.grp? q.1 q.2 = some z ∧ z.saving = true)))
  ) ∧ (
  (∀ (r : Row) (f : Fields) (s : State) (e : Env) (ls : List LaneView) (c : Nat) (lv : LaneView), Issues (.grest f) r f s e ls → OnColumn e ls c lv →
    let a := (srcA64 ls lv f).toNat
    let done := fun (t : State) (v : W) => exec (.grest f) s = .next (oneOut t f e lv (setD lv f v))
    (a % 4096 ≠ 0 → exec (.grest f) s = .next (s.takeTrap c 4 0 e.addr e.pc (srcA64 ls lv f)))
    ∧ (∀ head, a % 4096 = 0 → s.areaCheck (s.memCtx e) e a 4096 .load = .segs head →
      let t := s.leaveWalks e.who c
      let places := head.map (fun g => (g.place, g.len))
      (s.areaWord c places 0x30 ≠ 0 → exec (.grest f) s = .next s)
      ∧ (s.areaWord c places 0x30 = 0 → t.savesOf (t.areaRead c places) = [] → done t 1)
      ∧ (∀ k l all, s.areaWord c places 0x30 = 0 → t.savesOf (t.areaRead c places) = k :: l →
        s.areaCheck (s.memCtx e) e a (k.size * k.members.length) .load = .segs all →
        let areas := cutAreas k.size k.members.length (all.map (fun g => (g.place, g.len)))
        ((∃ p ∈ areas, t.areaWord c p 0x30 ≠ 0) → exec (.grest f) s = .next t)
        ∧ ((∀ p ∈ areas, t.areaWord c p 0x30 = 0) →
          ((∀ v ∈ k :: l, t.areasHold c areas v = false) → done t 1)
          ∧ (∀ before v after, k :: l = before ++ v :: after → t.areasHold c areas v = true → (∀ w ∈ before, t.areasHold c areas w = false) →
            (v.owed ≠ [] → exec (.grest f) s = .next t)
            ∧ (v.owed = [] → (∃ m ∈ v.members, t.canRestore m = false) → done t 1)
            ∧ (v.owed = [] → (∀ m ∈ v.members, t.canRestore m = true) → (∃ m ∈ v.members, t.roomBack m = false) → exec (.grest f) s = .next t)
            ∧ (v.owed = [] → (∀ m ∈ v.members, t.canRestore m = true ∧ t.roomBack m = true) → done (t.restoreSave v) 0))))))
  ∧ (∀ (s : State) (bs : List Byte) (v : Save), v ∈ s.savesOf bs ↔ (v ∈ s.restored ∨ v ∈ s.saves) ∧ ∃ m rest, v.members = m :: rest
      ∧ putWordAt (putWordAt (bs.take 0x34) 4 0) 0x30 0 = (s.areaHeader m v.size).take 0x34)
  ∧ (∀ (s : State) (c : Nat) (areas : List (List (Nat × Nat))) (v : Save), s.areasHold c areas v = true ↔
      (∃ m rest, v.members = m :: rest ∧ coreColumn m.core = c) ∧ v.members.length = areas.length
        ∧ ∀ k ∈ v.members.zip areas, s.areaMatches c v k.1 k.2 = true)
  ∧ (∀ (s : State) (c : Nat) (v : Save) (m : SavedGroup) (places : List (Nat × Nat)), s.areaMatches c v m places = true ↔
      unsealed m.owedAt (s.areaRead c places) = s.areaBytes v.id m v.size
      ∧ leNat (((s.areaRead c places).drop 4).take 4) = crc32 (s.areaBytes v.id m v.size))
  ∧ (∀ (s : State) (m : SavedGroup), (s.canRestore m = true ↔ savedGranules (s.recOf m.grp) m.grp ≤ s.freeGranules m.core
      ∧ s.grp? m.core m.idx = none ∧ (∀ e ∈ (s.core m.core).groups, e.2.slotBase + (s.recOf e.2).capacity ≤ m.grp.slotBase
          ∨ m.grp.slotBase + (s.recOf m.grp).capacity ≤ e.2.slotBase)
      ∧ s.kittyUsed m.core + s.kittyOwed m.core + (m.grp.threads.filter (fun t => t.2.entry || t.2.park.isSome)).length ≤ 512))
  ∧ (∀ (s : State) (v : Save) (m : SavedGroup), v.members = [m] → (m.grp.threads.map (·.1)).Nodup →
    let t := s.restoreSave v
    ∃ y, t.grp? m.core m.idx = some y ∧ y.s = m.grp.s ∧ y.k = m.grp.k ∧ y.scratch = m.grp.scratch ∧ y.slotBase = m.grp.slotBase ∧ y.fmode = m.grp.fmode
      ∧ (∀ i th, mapGet? m.grp.threads i = some th → ∃ th', mapGet? y.threads i = some th' ∧ th'.v = th.v ∧ th'.k = th.k ∧ th'.next = th.next
          ∧ (th.park = none → th'.st = th.st))
      ∧ (∀ i th, mapGet? m.grp.threads i = some th → th.park.isSome → ∃ th', mapGet? y.threads i = some th' ∧ th'.entry = true)
      ∧ (∀ w ∈ t.saves, w.id ≠ v.id) ∧ ∃ w ∈ t.restored, w.id = v.id ∧ w.members = v.members)
  ∧ (∀ (s : State), ((∀ v ∈ s.saves, v.byEngine = false) → exec .groupRestore s = .next s)
    ∧ (∀ v m, s.saves = [v] → v.byEngine = true → v.members = [m] →
      let ready := v.owed = [] ∧ s.canRestore m = true ∧ s.roomBack m = true ∧ s.areaMatches (coreColumn m.core) v m m.places = true ∧ s.claimed v = false
      (¬ ready → exec .groupRestore s = .next s)
      ∧ (ready → exec .groupRestore s = .next ((({ s with
          saves := []
          restored := s.restored.filter (fun w => w.id != v.id) ++ [{ v with byEngine := false }] } : State).putBack v.id m).markSlots (coreColumn m.core) v.ctx v.slots
          (s.recOf m.grp).gang false))))
  ∧ (∀ (s : State) (v : Save), s.claimed v = true ↔
    (∃ w ∈ s.savings, w.byEngine = true ∧ w.decision = v.decision)
    ∨ ((∃ w ∈ s.savings, w.byEngine = true) ∧ ∃ e ∈ openHeads [] s.admissionOrder, (v.members.map (fun m => (s.recOf m.grp).prio)).foldl max 0 < e.2.lrec.prio
      ∧ s.headRoom e.2 (fun _ _ => false) = true
      ∧ ∃ m ∈ v.members, coreColumn m.core ∈ e.2.lrec.eligible e.2.col ∧ s.roomWithout m.core e.2.lrec (fun _ => false) = true)
    ∨ ∃ e ∈ s.headsToTest, (v.members.map (fun m => (s.recOf m.grp).prio)).foldl max 0 < e.2.lrec.prio ∧ ∃ ps, s.place e.2 = some ps
      ∧ ∃ q ∈ ps, ∃ m ∈ v.members, m.core = q.1)
  ∧ (∀ (s : State) (tag : Nat),
    ((∀ v ∈ s.savings, ∀ o ∈ v.owed, o.acc.awaits tag = false) → (∀ v ∈ s.saves, ∀ o ∈ v.owed, o.acc.awaits tag = false) →
      exec (.owedWordArrival tag) s = .next s)
    ∧ ((∀ m ∈ s.fabric.respq, m.tag ≠ tag) → exec (.owedWordArrival tag) s = .next s)
    ∧ (∀ v o bs bulk bad m g, s.savings = [] → s.saves = [v] → v.owed = [o] → v.members = [g] → o.core = g.core → o.grp = g.idx →
      o.acc.awaits tag = true → s.fabric.respq = [m] → m.tag = tag → m.body = .data bs bulk bad → (o.acc.take tag (.bytes bs bad)).arrived = true →
      ∃ t w, exec (.owedWordArrival tag) s = .next t ∧ t.fabric.respq = [] ∧ t.saves = [w] ∧ w.owed = [] ∧ w.id = v.id
        ∧ w.members.map (·.grp) = [g.grp.takeOwed { o with acc := o.acc.take tag (.bytes bs bad) }]))
  )

/-- R389 to R396: EFF is REQ with kg + kd of its ones cleared, at least four kept, in the order of slots 15, 7, 11, 3, 13, 5, 9, 1, 14, 6, 10, 2, 12, 4, 8, 0; a change
comes into force at the next multiple of 16 master cycles. A droop clears eight pulses and holds for 64 cycles; the signature of the 64 cycles before it, three
counts of 4 bits, enters the table. At each boundary of 64 cycles the signature of the last 64 is compared once, and one in the table clears two pulses for 256 from
the boundary. Slot m mod 16 of EFF decides the pulse of master cycle m. A hop goes over 800 MHz to its set point, each switch is logged, and a change of
the frequency clears the table.

R397 to R404: the governors, the epoch of the power arbiter with its budget and its telemetry record, temperatures, the thermal trip and the voltage steps.

When an interval, an epoch or a sample may come, and how grants and a voltage step are chosen, are the model's (logs 12, 21, 22, 27). -/
def Obligations.ClocksAndPower : Prop :=
  (
  (∀ (req : BitVec 16) (kg kd : Nat), 4 ≤ popNat 16 req.toNat →
    popNat 16 (effOf req kg kd).toNat = popNat 16 req.toNat - min (kg + kd) (popNat 16 req.toNat - 4) ∧ effOf req kg kd &&& ~~~req = 0)
  ∧ (∀ (req : BitVec 16) (kg kd i : Nat), i < 16 →
    ((effOf req kg kd).getLsbD i = true ↔ req.getLsbD i = true ∧ min (kg + kd) (popNat 16 req.toNat - 4) ≤
      ((([15, 7, 11, 3, 13, 5, 9, 1, 14, 6, 10, 2, 12, 4, 8, 0] : List Nat).takeWhile (· != i)).filter (fun j => req.getLsbD j)).length))
  ∧ (∀ (eff : BitVec 16) (a b : Nat), a ≤ b → pulses eff a b = ((List.range (b - a)).filter (fun i => eff.getLsbD ((a + i) % 16))).length)
  ∧ (∀ (s : State) (c : Nat), s.ecyc c = ((s.gov c).settled (s.cyc (dieOf c))).ecycBase
      + pulses ((s.gov c).settled (s.cyc (dieOf c))).eff ((s.gov c).settled (s.cyc (dieOf c))).cycAt (s.cyc (dieOf c)))
  ∧ (∀ (s : State) (c : Nat), c < 32 →
    ((∀ m, (s.gov c).patAt = some m → s.cyc (dieOf c) < m) → exec (.patternBoundary c) s = .next s)
    ∧ (∀ m, (s.gov c).patAt = some m → m ≤ s.cyc (dieOf c) → ∃ t, exec (.patternBoundary c) s = .next t
      ∧ (t.gov c).patAt = none ∧ (t.gov c).req = (s.gov c).req ∧ (t.gov c).eff = effOf (s.gov c).req (s.gov c).kg (s.gov c).kd ∧ t.ecyc c = s.ecyc c
      ∧ (t.gov c).kg = (s.gov c).kg ∧ (t.gov c).thrCount = (s.gov c).thrCount ∧ (∀ d, d ≠ c → t.gov d = s.gov d)))
  ∧ (∀ (l : List (Nat × Nat)) (a b : Nat),
    let n := fun (k : Nat) => (l.filter (fun e => e.2 = k ∧ a ≤ e.1 ∧ e.1 < b)).length
    (issueMix l a b).toNat = 256 * min (n 0) 15 + 16 * min (n 1 / 8) 15 + min (n 2) 15)
  ∧ (∀ (s : State) (c det w : Nat), c < 32 →
    let g := s.gov c
    let cyc := s.cyc (dieOf c)
    let sig := issueMix g.recent (64 * (w - 1)) (64 * w)
    let runs := ∃ u, g.sigUntil = some u ∧ cyc < u
    let inDroop := ∃ u, g.droopUntil = some u ∧ 64 * w < u
    let ran := ∃ u, g.sigUntil = some u ∧ 64 * w < u
    (∃ t, exec (.droopDetect c det) s = .next t ∧ (t.gov c).kd = 8 ∧ (t.gov c).droopUntil = some (cyc + 64)
      ∧ (t.gov c).thrCount = min (g.thrCount + 1) (2 ^ 48 - 1) ∧ (t.gov c).thrLast = 3 ∧ (t.col c).evLatched.getLsbD 2 = true
      ∧ (t.gov c).sigTable.head? = some (issueMix g.recent (cyc - 64) cyc) ∧ (t.gov c).sigTable.length ≤ 64
      ∧ (t.gov c).eff = (g.settled cyc).eff ∧ (t.gov c).patAt = some (match g.patAt with
          | some m => if cyc < m then m else 16 * (cyc / 16 + 1)
          | none => 16 * (cyc / 16 + 1))
      ∧ ((s.die (dieOf c)).hop.isSome = true → (t.die (dieOf c)).abandoned = true))
    ∧ (w ≤ g.sigAt ∨ w ≠ cyc / 64 → exec (.signatureCheck c w) s = .next s)
    ∧ (g.sigAt < w → w = cyc / 64 →
      (sig ∉ g.sigTable ∨ inDroop → exec (.signatureCheck c w) s = .next (s.modGov c (fun x => { x with sigAt := w })))
      ∧ (sig ∈ g.sigTable → ¬ inDroop → ∃ t, exec (.signatureCheck c w) s = .next t ∧ (t.gov c).kd = 2
        ∧ (t.gov c).sigUntil = some (64 * w + 256) ∧ (t.gov c).sigAt = w
        ∧ (ran → (t.gov c).thrCount = g.thrCount)
        ∧ (¬ ran → (t.gov c).thrCount = min (g.thrCount + 1) (2 ^ 48 - 1) ∧ (t.gov c).thrLast = 4 ∧ (t.col c).evLatched.getLsbD 2 = true)))
    ∧ ((∀ u, g.droopUntil = some u → cyc < u) → exec (.droopHoldExpiry c) s = .next s)
    ∧ (∀ u, g.droopUntil = some u → u ≤ cyc → ∃ t, exec (.droopHoldExpiry c) s = .next t ∧ (t.gov c).droopUntil = none
        ∧ (runs → (t.gov c).kd = 2) ∧ (¬ runs → (t.gov c).kd = 0) ∧ (t.gov c).thrCount = g.thrCount)
    ∧ ((∀ u, g.sigUntil = some u → cyc < u) → exec (.signatureHoldExpiry c) s = .next s)
    ∧ (∀ u, g.sigUntil = some u → u ≤ cyc → ∃ t, exec (.signatureHoldExpiry c) s = .next t ∧ (t.gov c).sigUntil = none
        ∧ ((∃ v, g.droopUntil = some v ∧ cyc < v) → (t.gov c).kd = g.kd) ∧ ((∀ v, g.droopUntil = some v → v ≤ cyc) → (t.gov c).kd = 0)
        ∧ (t.gov c).thrCount = g.thrCount))
  ∧ (∀ (s : State) (d : Nat), d < 4 →
    let x := s.die d
    (x.hop = none → exec (.pllRelockDone d) s = .next s)
    ∧ (∀ f, x.hop = some f →
      let to_ := if x.abandoned then x.setPoint else f
      ∃ t, exec (.pllRelockDone d) s = .next t ∧ (t.die d).mhz = to_ ∧ (t.die d).setPoint = to_ ∧ (t.die d).hop = none
        ∧ (t.die d).logCount = x.logCount + 1 ∧ (t.die d).log.head? = some ⟨s.tick, s.cyc d, to_, (x.logCount + 1) % 2 ^ 32⟩
        ∧ (t.die d).log.length ≤ 4 ∧ t.cyc d = s.cyc d
        ∧ (∀ c ∈ dieCols d, (x.mhz ≠ to_ → (t.gov c).sigTable = []) ∧ (x.mhz = to_ → (t.gov c).sigTable = (s.gov c).sigTable))
        ∧ (x.abandoned = true → (t.die d).retryAt = s.tick + 100000 ∧ (t.die d).retryTo = some f)
        ∧ (x.abandoned = false → f < x.setPoint → ∀ c ∈ dieCols d, (t.gov c).thrLast = 5 ∧ (t.col c).evLatched.getLsbD 2 = true)))
  ) ∧ (
  (∀ (s : State) (c : Nat) (read : GovReading), c < 32 →
    let g := s.gov c
    let mw := read.mw
    let hot : Prop := 105 * 16 < g.temp
    let kg := if hot ∨ g.grantMw < mw then min 12 (g.kg + 1) else if g.temp < 104 * 16 ∧ 100 * mw < 95 * g.grantMw then g.kg - 1 else g.kg
    (s.tick < g.govAt → exec (.governorInterval c read) s = .next s)
    ∧ (g.govAt ≤ s.tick → ∃ t, exec (.governorInterval c read) s = .next t ∧ (t.gov c).kg = kg ∧ (t.gov c).measMw = mw ∧ (t.gov c).govAt = s.tick + 10000
      ∧ (t.gov c).addPrev = g.addMw ∧ (t.gov c).addMw = 0
      ∧ ((t.gov c).settled (t.cyc (dieOf c))).eff = (g.settled (s.cyc (dieOf c))).eff
      ∧ (t.gov c).thrCount = (if g.kg < kg then min (g.thrCount + 1) (2 ^ 48 - 1) else g.thrCount)
      ∧ (g.kg < kg → (hot → (t.gov c).thrLast = 1) ∧ (¬ hot → (t.gov c).thrLast = 2) ∧ (t.col c).evLatched.getLsbD 2 = true)
      ∧ (g.kg < kg ∧ hot ∧ read.coolant = true ∧ s.packageMw ≤ 3200000 → t.coolFaults = s.coolFaults + 1 ∧ t.reports = s.reports ++ [.coolingFault c])
      ∧ (¬ (g.kg < kg ∧ hot ∧ read.coolant = true ∧ s.packageMw ≤ 3200000) → t.coolFaults = s.coolFaults ∧ t.reports = s.reports)))
  ∧ (∀ (s : State) (p : PowerPlan),
    let busy := fun (c : Nat) => ∃ n, coreColumn n = c ∧ (s.core n).groups ≠ []
    (s.tick < s.nextEpoch ∨ p.grants.length ≠ 32 ∨ 3200000 < p.grants.sum + p.otherMw → exec (.powerEpoch p) s = .next s)
    ∧ (∀ t, exec (.powerEpoch p) s = .next t → t ≠ s → ∀ c, c < 32 → busy c →
      Config.fourOnesMw ((t.die (dieOf c)).hop.getD (t.die (dieOf c)).setPoint) c ≤ (t.gov c).grantMw)
    ∧ (s.nextEpoch ≤ s.tick → p.grants.length = 32 → p.grants.sum + p.otherMw ≤ 3200000 →
      (∀ c, c < 32 → busy c → ∀ f, Config.fourOnesMw f c ≤ p.grants[c]?.getD 0) → ∃ t, exec (.powerEpoch p) s = .next t
      ∧ t.nextEpoch = (if s.nextEpoch = 0 then s.tick else s.nextEpoch) + 100000 ∧ t.packageMw = p.packageMw ∧ t.heatCount = s.heatCount + 1
      ∧ (∀ c, c < 32 → (t.gov c).grantMw = p.grants[c]?.getD 0 ∧ (t.gov c).kg = (s.gov c).kg)
      ∧ (s.trec = 0 ∨ s.nextEpoch = 0 → t.telemetry = s.telemetry ∧ t.mem = s.mem)
      ∧ (s.trec ≠ 0 → s.nextEpoch ≠ 0 → t.telemetry = s.telemetry + 1)
      ∧ (s.trec ≠ 0 → s.trec % 256 = 0 → s.trec + 512 ≤ 0x8000000000 → s.nextEpoch ≠ 0 →
        let field := fun (off n : Nat) => leNat ((List.range n).map (fun i => t.homeByte (s.trec + off + i)))
        field 0 8 = (2 * s.telemetry + 2) % 2 ^ 64 ∧ field 8 8 = (s.nextEpoch - 100000) % 2 ^ 64 ∧ field 0x10 4 = p.packageMw % 2 ^ 32
        ∧ ∀ c, c < 32 → field (0x70 + 4 * c) 4 = (t.gov c).grantMw % 2 ^ 32 ∧ field (0x20 + 2 * c) 2 = (BitVec.ofInt 16 (s.gov c).temp).toNat)
      ∧ (∀ d f, d < 4 → p.setPoints[d]? = some f → (s.die d).hop = none → f ≠ (s.die d).setPoint → setPointOk f = true →
          ((s.die d).retryTo = some f → (s.die d).retryAt ≤ s.tick) → (t.die d).hop = some f ∧ (t.die d).mhz = 800 ∧ (t.die d).abandoned = false)
      ∧ (∀ d, d < 4 → (s.die d).hop.isSome = true → t.die d = s.die d)))
  ∧ (∀ (s : State) (cols stackTemps : List Int),
    let reads := cols.length = 32 ∧ stackTemps.length = 8 ∧ ∀ v ∈ cols ++ stackTemps, 0 ≤ v ∧ v ≤ 120 * 16
    (s.tick < s.sampleAt ∨ ¬ reads → exec (.temperatureSample cols stackTemps) s = .next s)
    ∧ (s.sampleAt ≤ s.tick → reads → ∃ t, exec (.temperatureSample cols stackTemps) s = .next t ∧ t.tstk = stackTemps
      ∧ t.sampleAt = s.tick + 10000 ∧ ∀ c, c < 32 → cols[c]? = some (t.gov c).temp ∧ (t.gov c).kg = (s.gov c).kg ∧ (t.gov c).refMw = (s.gov c).measMw))
  ∧ (∀ (s : State), let hot := (∃ c, c < 32 ∧ 115 * 16 ≤ (s.gov c).temp) ∨ ∃ v ∈ s.tstk, 115 * 16 ≤ v
    (¬ hot → exec .thermalTrip s = .next s)
    ∧ (hot → ∃ t, exec .thermalTrip s = .next t ∧ t.tripped = true ∧ (∀ c, (t.cc c).run ≠ .running) ∧ (∀ p, (t.port p).isOpen = false)
      ∧ t.reports = s.reports ++ [.trip] ∧ t.mem = s.mem))
  ∧ (∀ (s : State) (d mv : Nat), d < 4 →
    let target := Config.voltSet (s.die d).setPoint ((dieCols d).foldl (fun m c => max m (s.gov c).temp) 0) (Config.ageing d s.tick)
    let by_ := min mv 10
    ∃ t, exec (.voltageStep d mv) s = .next t
    ∧ (t.die d).volt = (if (s.die d).volt < target then min target ((s.die d).volt + by_) else max target ((s.die d).volt - by_))
    ∧ ∀ k, k ≠ d → t.die k = s.die k)
  ∧ (∀ (s : State) (a : Nat), exec (.abavoTrecWrite a) s = .next (if a % 256 = 0 ∧ a < 0x8000000000 then { s with trec := a, telemetry := 0 } else s))
  )

/-- R405 to R412: retraining of a column's buses, failing beats, sub-arrays, errors in a core's pool, poison, channels and their spares.

R402, R405, R413 to R416, R419, R308: accesses of the host, attestation, and power-on. An access under a system lock is held and performed after it. At
power-on the sensors are read, and the chain of stages runs to the first that does not verify or is older than the rollback counter; the firmware it
runs trains every bus. That core 0 halts and no bus is trained where not even the first runs is the model's reading (log 41).

That retraining begins as soon as it is due is log 27; what a first stage that fails leaves is log 41; SHA-256 is taken from FIPS 180-4 (log 18). -/
def Obligations.ReliabilityAndHost : Prop :=
  (
  (∀ (s : State) (c : Nat), c < 32 →
    let g := s.gov c
    let due := g.trainTick + 64000000 ≤ s.tick ∨ 128 ≤ (g.temp - g.trainTemp).natAbs ∨ g.retrainDue ≠ none
    let may := g.trainTick = 0 ∨ g.trainTick + 998500 ≤ s.tick
    (g.retrainFrom.isSome ∨ ¬ due → exec (.vbusRetrainDue c) s = .next s)
    ∧ (g.retrainFrom = none → due → ∃ t, exec (.vbusRetrainDue c) s = .next t ∧ (t.gov c).retrainDue = some (g.retrainDue.getD s.tick)
      ∧ (may → (t.gov c).retrainFrom = some s.tick) ∧ (¬ may → (t.gov c).retrainFrom = none))
    ∧ (∀ u, g.retrainDue = some u → g.retrainFrom = none → u + 200000 ≤ s.tick → may → exec (.vbusRetrainForce c) s =
        .next (s.modGov c (fun x => { x with retrainFrom := some s.tick })))
    ∧ ((∀ u, g.retrainDue = some u → s.tick < u + 200000) → exec (.vbusRetrainForce c) s = .next s)
    ∧ (∀ u failed, g.retrainFrom = some u → s.tick < u + 1500 → exec (.vbusRetrainEnd c failed) s = .next s)
    ∧ (∀ u failed, g.retrainFrom = some u → u + 1500 ≤ s.tick → failed.length = 32 → ∃ t, exec (.vbusRetrainEnd c failed) s = .next t
      ∧ (t.gov c).retrainFrom = none ∧ (t.gov c).retrainDue = none ∧ (t.gov c).trainTick = s.tick ∧ (t.gov c).trainTemp = g.temp
      ∧ (∀ b n, failed[b]? = some n → (n ≤ 2 → (t.gov c).vbusSlow.getLsbD b = false) ∧ (3 ≤ n → n ≤ 34 → (t.gov c).vbusSlow.getLsbD b = true)
          ∧ (35 ≤ n → Report.segmentOut c b ∈ t.reports)))
    ∧ (∀ b : BeatFailure, b.passed = true ∨ b.seg ∉ g.lastBeatFail → ∃ t, exec (.vbusBeatFail c b) s = .next t
      ∧ (∀ k, k ∈ (t.gov c).lastBeatFail ↔ k = b.seg ∨ k ∈ g.lastBeatFail) ∧ (t.gov c).retrainFrom = g.retrainFrom)
    ∧ (∀ b : BeatFailure, b.passed = false → b.seg ∈ g.lastBeatFail → ∃ t, exec (.vbusBeatFail c b) s = .next t
      ∧ (∀ k, k ∈ (t.gov c).lastBeatFail ↔ k ≠ b.seg ∧ k ∈ g.lastBeatFail)
      ∧ (t.gov c).retrainFrom = some (g.retrainFrom.getD s.tick)))
  ∧ (∀ (s : State) (n : Nat) (failing : BitVec 4), n < 384 → ∃ t, exec (.matrixSelfTest n failing) s = .next t
    ∧ (t.core n).matrix.fenced = (s.core n).matrix.fenced ||| failing
    ∧ ((t.core n).outOfService = true ↔ (s.core n).outOfService = true ∨ (s.core n).matrix.fenced ||| failing = 0xF)
    ∧ (t.core n).groups = (s.core n).groups)
  ∧ (∀ (s : State) (n g : Nat), (s.grp? n g = none → exec (.poolUncorrectableError n g) s = .next s)
    ∧ (∀ x, s.grp? n g = some x → x.stopped = false → ∃ t y, exec (.poolUncorrectableError n g) s = .next t ∧ t.grp? n g = some y
      ∧ y.stopped = true ∧ y.active = false ∧ (t.gov (coreColumn n)).eccUncorr = min ((s.gov (coreColumn n)).eccUncorr + 1) (2 ^ 32 - 1)
      ∧ ∃ q ∈ (t.col (coreColumn n)).fqWait, q.cause = 19 ∧ q.code = 10 ∧ q.src = 1 ∧ q.grp = g ∧ q.core = coreInCol n))
  ∧ (∀ (s : State) (sec : Nat), (∀ c, (s.slice? c sec = none → exec (.sectorPoison (.slice c sec)) s = .next s)
      ∧ (∀ x, s.slice? c sec = some x → ∃ t, exec (.sectorPoison (.slice c sec)) s = .next t ∧ t.slice? c sec = some { x with poison := true }
        ∧ t.mem = s.mem ∧ (t.gov c).eccUncorr = min ((s.gov c).eccUncorr + 1) (2 ^ 32 - 1)))
    ∧ (32 * sec < 0x8000000000 → ∃ t, exec (.sectorPoison (.home sec)) s = .next t ∧ sec ∈ t.poison ∧ (∀ p ∈ s.poison, p ∈ t.poison) ∧ t.mem = s.mem)
    ∧ (∀ i e, s.fabric.relay[i]? = some e → ∃ t, exec (.sectorPoison (.relay i sec)) s = .next t
      ∧ t.fabric.relay[i]? = some (e.1, e.2.poisonAt (32 * sec)) ∧ ∀ j, j ≠ i → t.fabric.relay[j]? = s.fabric.relay[j]?))
  ∧ (∀ (s : State) (k ch : Nat), (8 ≤ k ∨ 32 ≤ ch ∨ (k, ch) ∈ s.retiredCh → exec (.channelRetire k ch) s = .next s)
    ∧ (k < 8 → ch < 32 → (k, ch) ∉ s.retiredCh →
      let used := (mapGet? s.spares k).getD []
      (used.length < 2 → ∃ t, exec (.channelRetire k ch) s = .next t ∧ mapGet? t.spares k = some (used ++ [ch]) ∧ (k, ch) ∈ t.copyingCh
        ∧ t.retiredCh = s.retiredCh)
      ∧ (2 ≤ used.length → ∃ t, exec (.channelRetire k ch) s = .next t ∧ (∀ pa, pa / 2 ^ 36 = k → pa / 2 ^ 31 % 32 = ch → t.channelGone pa = true)))
    ∧ (∃ t, exec (.spareCopyDone k ch) s = .next t ∧ (k, ch) ∉ t.copyingCh ∧ t.spares = s.spares ∧ t.mem = s.mem))
  ) ∧ (
  (∀ (s : State) (pa n : Nat),
    (s.rangeRefused pa n = true → exec (.hostRead pa n) s = .next (s.report (.hostUnsupported pa)))
    ∧ (s.rangeRefused pa n = false → s.rangeHeld pa n = true → exec (.hostRead pa n) s = .next { s with hostq := s.hostq ++ [.read pa n] })
    ∧ (s.rangeRefused pa n = false → s.rangeHeld pa n = false → isWindow pa = false →
      (s.poison = [] → exec (.hostRead pa n) s = .next (s.report (.hostData pa ((List.range n).map (fun i => s.homeByte (pa + i))))))
      ∧ (pa % 32 + n ≤ 32 → pa / 32 ∈ s.poison → exec (.hostRead pa n) s = .next (s.report (.hostPoisoned pa)))))
  ∧ (∀ (s : State) (pa : Nat) (bs : List Byte),
    (s.rangeRefused pa bs.length = true → exec (.hostWrite pa bs) s = .next (s.report (.hostWriteDropped pa)))
    ∧ (s.rangeRefused pa bs.length = false → copyStore .store pa bs.length = false → s.rangeHeld pa bs.length = true →
      exec (.hostWrite pa bs) s = .next { s with hostq := s.hostq ++ [.write pa bs] })
    ∧ (s.rangeRefused pa bs.length = false → s.rangeHeld pa bs.length = false → pa + bs.length ≤ 0x8000000000 → copyStore .store pa bs.length = false →
      ∃ t, exec (.hostWrite pa bs) s = .next t ∧ ∀ j, j < bs.length → t.homeByte (pa + j) = bs[j]?.getD 0))
  ∧ (∀ (s : State) (a : HostAcc), s.hostq = [a] → (s.rangeHeld a.range.1 a.range.2 = true → s.hostRelease = s)
    ∧ (s.rangeHeld a.range.1 a.range.2 = false → s.hostRelease = ({ s with hostq := [] } : State).hostPerform a
      ∧ (∀ bs, a = .write (a.range.1) bs → a.range.1 + bs.length ≤ 0x8000000000 → ∀ j, j < bs.length → s.hostRelease.homeByte (a.range.1 + j) = bs[j]?.getD 0)))
  ∧ (∀ (s : State) (nonce : List Byte), (nonce.length ≠ 32 → exec (.abavoAttestationRequest nonce) s = .next s)
    ∧ (nonce.length = 32 → ∃ q, exec (.abavoAttestationRequest nonce) s = .next (s.report (.quote q))
      ∧ q.take 8 = leBytes 4 1 ++ leBytes 2 s.pkgId ++ [0, 0] ∧ (q.drop 0x20).take 32 = nonce
      ∧ (s.meas.map (·.length) = List.replicate 8 32 → (q.drop 0x40).take 256 = s.meas.flatten ∧ (q.drop 0x140).take 8 = leBytes 8 s.tick ∧ q.length = 8184)))
  ∧ (∀ (s : State) (temps stackTemps : List Int) (bonds : List (List Nat)) (stages : List Stage),
    let reads := temps.length = 32 ∧ stackTemps.length = 8 ∧ (∀ v ∈ temps ++ stackTemps, 0 ≤ v ∧ v ≤ 120 * 16)
      ∧ bonds.length = 32 ∧ ∀ l ∈ bonds, l.length = 32
    let run := stages.takeWhile (fun g => g.verified && decide (Config.fwver.toNat ≤ g.version))
    (¬ reads → exec (.powerOn temps stackTemps bonds stages) s = .next s)
    ∧ (reads → ∃ t, exec (.powerOn temps stackTemps bonds stages) s = .next t
      ∧ t.tick = 0 ∧ t.tripped = false ∧ t.mem = [] ∧ t.cores = [] ∧ t.fabric = Fabric.reset ∧ (t.cc 0).priv = 3 ∧ (t.cc 0).body = none
      ∧ (t.cc 0).run = (if run = [] then .haltedReset else .running)
      ∧ (∀ c, 0 < c → (t.cc c).run = .haltedReset) ∧ (∀ c v, temps[c]? = some v → (t.gov c).temp = v ∧ (t.gov c).trainTemp = v ∧ (t.gov c).trainTick = 0)
      ∧ (∀ d, t.die d = Die.reset) ∧ t.tstk = stackTemps
      ∧ (run = [] → ∀ c, (t.gov c).vbusSlow = Governor.reset.vbusSlow)
      ∧ (run ≠ [] → ∀ c l b n, bonds[c]? = some l → l[b]? = some n → (n ≤ 2 → (t.gov c).vbusSlow.getLsbD b = false)
          ∧ (3 ≤ n → n ≤ 34 → (t.gov c).vbusSlow.getLsbD b = true) ∧ (35 ≤ n → Report.segmentOut c b ∈ t.reports))
      ∧ (∀ i, (t.sysRead 0 (0x100 + i)) = 0)
      ∧ t.meas = run.zipIdx.foldl (fun m e => listMod m (min e.2 7) (fun x => sha256 (x ++ sha256 e.1.image))) (List.replicate 8 (List.replicate 32 0))))
  )

/-- R275: whatever a step does, home memory keeps its canonical form: addresses strictly rising, no entry equal to what an unlisted address reads
as. So equal memories are equal data. -/
def Obligations.MemoryStaysCanonical : Prop :=
  ∀ (s t : State), Memory.wf s.mem → step s = .next t → Memory.wf t.mem
end

