-- ==== Sys2Proof/Laws/Issue.lean ====
section
/-! SUPPORT. What the shared shapes of meanings come to for an instruction that issues: one lemma per shape, so that a claim about an
instruction cites it and unfolds no shape. -/

namespace Sys2Proof.Machine

theorem Issues.not_inactive {i r f s e ls} (h : Issues i r f s e ls) : (!(ls.any (laneActive f))) = false := by simp [h.active]

theorem Issues.act_ne {i r f s e ls} (h : Issues i r f s e ls) : (ls.filter (laneActive f)).isEmpty = false := by
  obtain ⟨lv, hm, ha⟩ := List.any_eq_true.1 h.active
  cases hf : ls.filter (laneActive f) with
  | nil => exact absurd (List.mem_filter.2 ⟨hm, ha⟩) (by simp [hf])
  | cons _ _ => rfl

/-- An instruction run lane by lane commits the results of its lanes. -/
theorem runRow_issues {i r f s e ls} (fn : RowFn) (h : Issues i r f s e ls) :
    runRow i fn s = s.commit e (laneResults r f (fn r f) e ls) (wordsOf f) := by
  simp only [runRow, runLanes, h.row, h.fields, h.ctx, h.not_inactive, h.legal, if_false, Bool.false_eq_true]

/-- A memory or system row runs its own body on the active lanes. -/
theorem runMem_issues {i r f s e ls} (body : Row → Fields → Env → List LaneView → List LaneView → State → State)
    (h : Issues i r f s e ls) : runMem i body s = body r f e ls (ls.filter (laneActive f)) s := by
  simp only [runMem, h.row, h.fields, h.ctx, h.act_ne, h.legal, if_false, Bool.false_eq_true]

/-- A result without flags, of a helper or not, is itself. -/
theorem helperRes_ok (r : Row) (f : Fields) (lv out : LaneView) : helperRes r f lv (.ok out 0) = .ok out 0 := by
  simp [helperRes]

/-- Lanes that all give registers and no flags. -/
theorem laneResults_ok (r : Row) (f : Fields) (fn : LaneFn) (e : Env) (ls : List LaneView) (out : LaneView → LaneView)
    (h : ∀ lv, fn e ls lv = .ok (out lv) 0) : laneResults r f fn e ls = laneOut f ls out := by
  simp only [laneResults, laneOut, laneRes, h, helperRes_ok]

/-- An instruction whose meaning gives registers and no flags in every lane is one that `Sets` them. -/
theorem sets_of {mk : Fields → Instr} {out : Row → Fields → Env → List LaneView → LaneView → LaneView} (fn : Fields → RowFn)
    (hx : ∀ f s, exec (mk f) s = .next (runRow (mk f) (fn f) s))
    (h : ∀ r f e ls lv, fn f r f e ls lv = .ok (out r f e ls lv) 0) : Sets mk out := by
  intro r f s e ls hi
  rw [hx, runRow_issues (fn f) hi, laneResults_ok r f _ e ls _ (h r f e ls)]

/-- A flagged result is the result of an operation with IEEE flags. -/
theorem flagged_eq (e : Env) (lv out : LaneView) (fl : FFlags) : flagged e lv out fl = floatRes e lv out fl := by
  unfold flagged floatRes traps Env.fault
  by_cases h : fl &&& fmEnables e.fmode = 0 <;> simp [h]

theorem helperRes_float (r : Row) (f : Fields) (e : Env) (lv out : LaneView) (fl : FFlags) :
    helperRes r f lv (floatRes e lv out fl) = floatRes e lv out fl := by
  unfold helperRes floatRes
  cases lv.helper <;> rfl

/-- The same with flags. -/
theorem setsF_of {mk : Fields → Instr} {out : Row → Fields → Env → List LaneView → LaneView → LaneView × FFlags} (fn : RowFn)
    (hx : ∀ f s, exec (mk f) s = .next (runRow (mk f) fn s))
    (h : ∀ r f e ls lv, fn r f e ls lv = flagged e lv (out r f e ls lv).1 (out r f e ls lv).2) : SetsF mk out := by
  intro r f s e ls hi
  rw [hx, runRow_issues fn hi]
  simp only [laneResults, laneRes, h, flagged_eq, helperRes_float]

end Sys2Proof.Machine
end

