-- ==== Sys2Proof/Laws/Sparse.lean ====
section
/-! SUPPORT. Sparse maps: what is read after a write, and that their operations keep the canonical form. -/

namespace Sys2Proof.Machine

theorem mapGet?_mapSet_same {β : Type} (m : List (Nat × β)) (x : Nat) (b : β) : mapGet? (mapSet m x b) x = some b := by
  induction m with
  | nil => simp [mapSet, mapGet?]
  | cons e r ih =>
    obtain ⟨k, v⟩ := e
    simp only [mapSet]
    split
    · simp [mapGet?]
    · split
      · simp [mapGet?]
      · simp only [mapGet?]
        rw [if_neg (by omega), ih]

theorem mapGet?_mapSet_other {β : Type} (m : List (Nat × β)) (x y : Nat) (b : β) (h : y ≠ x) : mapGet? (mapSet m x b) y = mapGet? m y := by
  induction m with
  | nil => simp [mapSet, mapGet?, Ne.symm h]
  | cons e r ih =>
    obtain ⟨k, v⟩ := e
    simp only [mapSet]
    split
    · simp [mapGet?, Ne.symm h]
    · split
      · rename_i hk; subst hk; simp [mapGet?, Ne.symm h]
      · simp only [mapGet?, ih]

theorem mapGet?_mapSet {β : Type} (m : List (Nat × β)) (x y : Nat) (b : β) : mapGet? (mapSet m x b) y = if y = x then some b else mapGet? m y := by
  by_cases h : y = x
  · subst h; simp [mapGet?_mapSet_same]
  · simp [h, mapGet?_mapSet_other m x y b h]

theorem mapGet?_mapErase {β : Type} (m : List (Nat × β)) (x y : Nat) : mapGet? (mapErase m x) y = if y = x then none else mapGet? m y := by
  induction m with
  | nil => simp [mapErase, mapGet?]
  | cons e r ih =>
    obtain ⟨k, v⟩ := e
    simp only [mapErase]
    split
    · rename_i hk; subst hk
      rw [ih]
      by_cases h : y = k
      · simp [h]
      · simp [mapGet?, h, Ne.symm h]
    · rename_i hk
      simp only [mapGet?, ih]
      by_cases hy : k = y
      · subst hy; simp [hk]
      · simp [hy]

/-- What a map reads after a write. -/
theorem mapGet_mapSet {β : Type} (m : List (Nat × β)) (x y : Nat) (b d : β) : mapGet (mapSet m x b) y d = if y = x then b else mapGet m y d := by
  simp only [mapGet, mapGet?_mapSet]; split <;> simp

/-- What a canonical map reads after a write. -/
theorem mapGet_mapPut {β : Type} [DecidableEq β] (m : List (Nat × β)) (x y : Nat) (b d : β) :
    mapGet (mapPut m x b d) y d = if y = x then b else mapGet m y d := by
  unfold mapPut
  split
  · rename_i hb; subst hb
    simp only [mapGet, mapGet?_mapErase]; split <;> simp
  · exact mapGet_mapSet m x y b d

/-- Keys at or above a bound. -/
def keysAbove {β : Type} (n : Nat) (m : List (Nat × β)) : Prop := ∀ e ∈ m, n < e.1

theorem mapSorted_cons {β : Type} (k : Nat) (v : β) (r : List (Nat × β)) : mapSorted ((k, v) :: r) = true ↔ keysAbove k r ∧ mapSorted r = true := by
  induction r generalizing k v with
  | nil => simp [mapSorted, keysAbove]
  | cons e r ih =>
    obtain ⟨k2, v2⟩ := e
    rw [mapSorted]
    simp only [Bool.and_eq_true, decide_eq_true_eq]
    constructor
    · rintro ⟨h, hs⟩
      refine ⟨?_, hs⟩
      have h2 := ((ih k2 v2).mp hs).1
      intro e he
      rcases List.mem_cons.mp he with rfl | he
      · exact h
      · exact Nat.lt_trans h (h2 e he)
    · rintro ⟨h, hs⟩
      exact ⟨h _ (List.mem_cons_self ..), hs⟩

theorem mem_mapSet {β : Type} (m : List (Nat × β)) (x : Nat) (b : β) : ∀ e ∈ mapSet m x b, e = (x, b) ∨ e ∈ m := by
  induction m with
  | nil => simp [mapSet]
  | cons f r ih =>
    obtain ⟨k, v⟩ := f
    intro e he
    simp only [mapSet] at he
    split at he
    · rcases List.mem_cons.mp he with h | h
      · exact .inl h
      · exact .inr h
    · split at he
      · rcases List.mem_cons.mp he with h | h
        · exact .inl h
        · exact .inr (List.mem_cons_of_mem _ h)
      · rcases List.mem_cons.mp he with h | h
        · exact .inr (h ▸ List.mem_cons_self ..)
        · rcases ih e h with h | h
          · exact .inl h
          · exact .inr (List.mem_cons_of_mem _ h)

theorem mem_mapErase {β : Type} (m : List (Nat × β)) (x : Nat) : ∀ e ∈ mapErase m x, e ∈ m := by
  induction m with
  | nil => simp [mapErase]
  | cons f r ih =>
    obtain ⟨k, v⟩ := f
    intro e he
    simp only [mapErase] at he
    split at he
    · exact List.mem_cons_of_mem _ (ih e he)
    · rcases List.mem_cons.mp he with h | h
      · exact h ▸ List.mem_cons_self ..
      · exact List.mem_cons_of_mem _ (ih e h)

theorem mapSorted_mapSet {β : Type} (m : List (Nat × β)) (x : Nat) (b : β) (h : mapSorted m = true) : mapSorted (mapSet m x b) = true := by
  induction m with
  | nil => simp [mapSet, mapSorted]
  | cons f r ih =>
    obtain ⟨k, v⟩ := f
    have hs := (mapSorted_cons k v r).mp h
    simp only [mapSet]
    split
    · rename_i hx
      refine (mapSorted_cons x b _).mpr ⟨?_, h⟩
      intro e he
      rcases List.mem_cons.mp he with rfl | he
      · exact hx
      · exact Nat.lt_trans hx (hs.1 e he)
    · split
      · rename_i _ hk; subst hk
        exact (mapSorted_cons x b r).mpr hs
      · rename_i h1 h2
        refine (mapSorted_cons k v _).mpr ⟨?_, ih hs.2⟩
        intro e he
        rcases mem_mapSet r x b e he with rfl | he
        · show k < x; omega
        · exact hs.1 e he

theorem mapSorted_mapErase {β : Type} (m : List (Nat × β)) (x : Nat) (h : mapSorted m = true) : mapSorted (mapErase m x) = true := by
  induction m with
  | nil => simp [mapErase, mapSorted]
  | cons f r ih =>
    obtain ⟨k, v⟩ := f
    have hs := (mapSorted_cons k v r).mp h
    simp only [mapErase]
    split
    · exact ih hs.2
    · exact (mapSorted_cons k v _).mpr ⟨fun e he => hs.1 e (mem_mapErase r x e he), ih hs.2⟩

theorem mapSorted_filter {β : Type} (m : List (Nat × β)) (p : Nat × β → Bool) (h : mapSorted m = true) : mapSorted (m.filter p) = true := by
  induction m with
  | nil => simp [mapSorted]
  | cons f r ih =>
    obtain ⟨k, v⟩ := f
    have hs := (mapSorted_cons k v r).mp h
    rw [List.filter_cons]
    split
    · exact (mapSorted_cons k v _).mpr ⟨fun e he => hs.1 e (List.mem_filter.mp he).1, ih hs.2⟩
    · exact ih hs.2

/-- The canonical form, said with its two halves. -/
theorem mapCanon_iff {β : Type} [DecidableEq β] (m : List (Nat × β)) (d : β) : mapCanon m d = true ↔ mapSorted m = true ∧ ∀ e ∈ m, e.2 ≠ d := by
  simp [mapCanon]

/-- Listing a value that is not the default keeps the canonical form. -/
theorem mapCanon_mapSet {β : Type} [DecidableEq β] (m : List (Nat × β)) (x : Nat) (b d : β) (h : mapCanon m d = true) (hb : b ≠ d) :
    mapCanon (mapSet m x b) d = true := by
  rw [mapCanon_iff] at *
  refine ⟨mapSorted_mapSet m x b h.1, fun e he => ?_⟩
  rcases mem_mapSet m x b e he with rfl | he
  · exact hb
  · exact h.2 e he

/-- `mapPut` keeps the canonical form. -/
theorem mapCanon_mapPut {β : Type} [DecidableEq β] (m : List (Nat × β)) (x : Nat) (b d : β) (h : mapCanon m d = true) :
    mapCanon (mapPut m x b d) d = true := by
  unfold mapPut
  split
  · rw [mapCanon_iff] at *
    exact ⟨mapSorted_mapErase m x h.1, fun e he => h.2 e (mem_mapErase m x e he)⟩
  · rename_i hb
    exact mapCanon_mapSet m x b d h hb

theorem mapCanon_filter {β : Type} [DecidableEq β] (m : List (Nat × β)) (d : β) (p : Nat × β → Bool) (h : mapCanon m d = true) :
    mapCanon (m.filter p) d = true := by
  rw [mapCanon_iff] at *
  exact ⟨mapSorted_filter m p h.1, fun e he => h.2 e (List.mem_filter.mp he).1⟩

end Sys2Proof.Machine
end

