-- ==== Sys2Proof/Laws/State.lean ====
section
/-! SUPPORT. What each update of the state leaves as it was, field by field, and what the parts read as after one. -/

namespace Sys2Proof.Machine

/-! ### Fields an update does not touch -/

@[simp] theorem State.setCol_agenda (s : State) (c : Nat) (x : Column) : (s.setCol c x).agenda = s.agenda := rfl
@[simp] theorem State.setCol_rot (s : State) (c : Nat) (x : Column) : (s.setCol c x).rot = s.rot := rfl
@[simp] theorem State.setCol_cur (s : State) (c : Nat) (x : Column) : (s.setCol c x).cur = s.cur := rfl
@[simp] theorem State.setCol_tick (s : State) (c : Nat) (x : Column) : (s.setCol c x).tick = s.tick := rfl
@[simp] theorem State.setCol_tripped (s : State) (c : Nat) (x : Column) : (s.setCol c x).tripped = s.tripped := rfl
@[simp] theorem State.setCol_mem (s : State) (c : Nat) (x : Column) : (s.setCol c x).mem = s.mem := rfl
@[simp] theorem State.setCol_poison (s : State) (c : Nat) (x : Column) : (s.setCol c x).poison = s.poison := rfl
@[simp] theorem State.setCol_marks (s : State) (c : Nat) (x : Column) : (s.setCol c x).marks = s.marks := rfl
@[simp] theorem State.setCol_cores (s : State) (c : Nat) (x : Column) : (s.setCol c x).cores = s.cores := rfl
@[simp] theorem State.setCol_dies (s : State) (c : Nat) (x : Column) : (s.setCol c x).dies = s.dies := rfl
@[simp] theorem State.setCol_ctxroots (s : State) (c : Nat) (x : Column) : (s.setCol c x).ctxroots = s.ctxroots := rfl
@[simp] theorem State.setCol_pkgId (s : State) (c : Nat) (x : Column) : (s.setCol c x).pkgId = s.pkgId := rfl
@[simp] theorem State.setCol_pkgIdWritten (s : State) (c : Nat) (x : Column) : (s.setCol c x).pkgIdWritten = s.pkgIdWritten := rfl
@[simp] theorem State.setCol_gbarGap (s : State) (c : Nat) (x : Column) : (s.setCol c x).gbarGap = s.gbarGap := rfl
@[simp] theorem State.setCol_insts (s : State) (c : Nat) (x : Column) : (s.setCol c x).insts = s.insts := rfl
@[simp] theorem State.setCol_nextInst (s : State) (c : Nat) (x : Column) : (s.setCol c x).nextInst = s.nextInst := rfl
@[simp] theorem State.setCol_nextOrder (s : State) (c : Nat) (x : Column) : (s.setCol c x).nextOrder = s.nextOrder := rfl
@[simp] theorem State.setCol_nextId (s : State) (c : Nat) (x : Column) : (s.setCol c x).nextId = s.nextId := rfl
@[simp] theorem State.setCol_saves (s : State) (c : Nat) (x : Column) : (s.setCol c x).saves = s.saves := rfl
@[simp] theorem State.setCol_restored (s : State) (c : Nat) (x : Column) : (s.setCol c x).restored = s.restored := rfl
@[simp] theorem State.setCol_savings (s : State) (c : Nat) (x : Column) : (s.setCol c x).savings = s.savings := rfl
@[simp] theorem State.setCol_fabric (s : State) (c : Nat) (x : Column) : (s.setCol c x).fabric = s.fabric := rfl
@[simp] theorem State.setCol_meas (s : State) (c : Nat) (x : Column) : (s.setCol c x).meas = s.meas := rfl
@[simp] theorem State.setCol_trec (s : State) (c : Nat) (x : Column) : (s.setCol c x).trec = s.trec := rfl
@[simp] theorem State.setCol_telemetry (s : State) (c : Nat) (x : Column) : (s.setCol c x).telemetry = s.telemetry := rfl
@[simp] theorem State.setCol_packageMw (s : State) (c : Nat) (x : Column) : (s.setCol c x).packageMw = s.packageMw := rfl
@[simp] theorem State.setCol_coolFaults (s : State) (c : Nat) (x : Column) : (s.setCol c x).coolFaults = s.coolFaults := rfl
@[simp] theorem State.setCol_heatCount (s : State) (c : Nat) (x : Column) : (s.setCol c x).heatCount = s.heatCount := rfl
@[simp] theorem State.setCol_hostq (s : State) (c : Nat) (x : Column) : (s.setCol c x).hostq = s.hostq := rfl
@[simp] theorem State.setCol_nextEpoch (s : State) (c : Nat) (x : Column) : (s.setCol c x).nextEpoch = s.nextEpoch := rfl
@[simp] theorem State.setCol_sampleAt (s : State) (c : Nat) (x : Column) : (s.setCol c x).sampleAt = s.sampleAt := rfl
@[simp] theorem State.setCol_tstk (s : State) (c : Nat) (x : Column) : (s.setCol c x).tstk = s.tstk := rfl
@[simp] theorem State.setCol_spares (s : State) (c : Nat) (x : Column) : (s.setCol c x).spares = s.spares := rfl
@[simp] theorem State.setCol_retiredCh (s : State) (c : Nat) (x : Column) : (s.setCol c x).retiredCh = s.retiredCh := rfl
@[simp] theorem State.setCol_copyingCh (s : State) (c : Nat) (x : Column) : (s.setCol c x).copyingCh = s.copyingCh := rfl
@[simp] theorem State.setCol_reports (s : State) (c : Nat) (x : Column) : (s.setCol c x).reports = s.reports := rfl

@[simp] theorem State.setCore_agenda (s : State) (n : Nat) (x : ACore) : (s.setCore n x).agenda = s.agenda := rfl
@[simp] theorem State.setCore_rot (s : State) (n : Nat) (x : ACore) : (s.setCore n x).rot = s.rot := rfl
@[simp] theorem State.setCore_cur (s : State) (n : Nat) (x : ACore) : (s.setCore n x).cur = s.cur := rfl
@[simp] theorem State.setCore_tick (s : State) (n : Nat) (x : ACore) : (s.setCore n x).tick = s.tick := rfl
@[simp] theorem State.setCore_tripped (s : State) (n : Nat) (x : ACore) : (s.setCore n x).tripped = s.tripped := rfl
@[simp] theorem State.setCore_mem (s : State) (n : Nat) (x : ACore) : (s.setCore n x).mem = s.mem := rfl
@[simp] theorem State.setCore_poison (s : State) (n : Nat) (x : ACore) : (s.setCore n x).poison = s.poison := rfl
@[simp] theorem State.setCore_marks (s : State) (n : Nat) (x : ACore) : (s.setCore n x).marks = s.marks := rfl
@[simp] theorem State.setCore_cols (s : State) (n : Nat) (x : ACore) : (s.setCore n x).cols = s.cols := rfl
@[simp] theorem State.setCore_dies (s : State) (n : Nat) (x : ACore) : (s.setCore n x).dies = s.dies := rfl
@[simp] theorem State.setCore_ctxroots (s : State) (n : Nat) (x : ACore) : (s.setCore n x).ctxroots = s.ctxroots := rfl
@[simp] theorem State.setCore_pkgId (s : State) (n : Nat) (x : ACore) : (s.setCore n x).pkgId = s.pkgId := rfl
@[simp] theorem State.setCore_pkgIdWritten (s : State) (n : Nat) (x : ACore) : (s.setCore n x).pkgIdWritten = s.pkgIdWritten := rfl
@[simp] theorem State.setCore_gbarGap (s : State) (n : Nat) (x : ACore) : (s.setCore n x).gbarGap = s.gbarGap := rfl
@[simp] theorem State.setCore_insts (s : State) (n : Nat) (x : ACore) : (s.setCore n x).insts = s.insts := rfl
@[simp] theorem State.setCore_nextInst (s : State) (n : Nat) (x : ACore) : (s.setCore n x).nextInst = s.nextInst := rfl
@[simp] theorem State.setCore_nextOrder (s : State) (n : Nat) (x : ACore) : (s.setCore n x).nextOrder = s.nextOrder := rfl
@[simp] theorem State.setCore_nextId (s : State) (n : Nat) (x : ACore) : (s.setCore n x).nextId = s.nextId := rfl
@[simp] theorem State.setCore_saves (s : State) (n : Nat) (x : ACore) : (s.setCore n x).saves = s.saves := rfl
@[simp] theorem State.setCore_restored (s : State) (n : Nat) (x : ACore) : (s.setCore n x).restored = s.restored := rfl
@[simp] theorem State.setCore_savings (s : State) (n : Nat) (x : ACore) : (s.setCore n x).savings = s.savings := rfl
@[simp] theorem State.setCore_fabric (s : State) (n : Nat) (x : ACore) : (s.setCore n x).fabric = s.fabric := rfl
@[simp] theorem State.setCore_meas (s : State) (n : Nat) (x : ACore) : (s.setCore n x).meas = s.meas := rfl
@[simp] theorem State.setCore_trec (s : State) (n : Nat) (x : ACore) : (s.setCore n x).trec = s.trec := rfl
@[simp] theorem State.setCore_telemetry (s : State) (n : Nat) (x : ACore) : (s.setCore n x).telemetry = s.telemetry := rfl
@[simp] theorem State.setCore_packageMw (s : State) (n : Nat) (x : ACore) : (s.setCore n x).packageMw = s.packageMw := rfl
@[simp] theorem State.setCore_coolFaults (s : State) (n : Nat) (x : ACore) : (s.setCore n x).coolFaults = s.coolFaults := rfl
@[simp] theorem State.setCore_heatCount (s : State) (n : Nat) (x : ACore) : (s.setCore n x).heatCount = s.heatCount := rfl
@[simp] theorem State.setCore_hostq (s : State) (n : Nat) (x : ACore) : (s.setCore n x).hostq = s.hostq := rfl
@[simp] theorem State.setCore_nextEpoch (s : State) (n : Nat) (x : ACore) : (s.setCore n x).nextEpoch = s.nextEpoch := rfl
@[simp] theorem State.setCore_sampleAt (s : State) (n : Nat) (x : ACore) : (s.setCore n x).sampleAt = s.sampleAt := rfl
@[simp] theorem State.setCore_tstk (s : State) (n : Nat) (x : ACore) : (s.setCore n x).tstk = s.tstk := rfl
@[simp] theorem State.setCore_spares (s : State) (n : Nat) (x : ACore) : (s.setCore n x).spares = s.spares := rfl
@[simp] theorem State.setCore_retiredCh (s : State) (n : Nat) (x : ACore) : (s.setCore n x).retiredCh = s.retiredCh := rfl
@[simp] theorem State.setCore_copyingCh (s : State) (n : Nat) (x : ACore) : (s.setCore n x).copyingCh = s.copyingCh := rfl
@[simp] theorem State.setCore_reports (s : State) (n : Nat) (x : ACore) : (s.setCore n x).reports = s.reports := rfl

@[simp] theorem State.modDie_agenda (s : State) (d : Nat) (f : Die → Die) : (s.modDie d f).agenda = s.agenda := rfl
@[simp] theorem State.modDie_rot (s : State) (d : Nat) (f : Die → Die) : (s.modDie d f).rot = s.rot := rfl
@[simp] theorem State.modDie_cur (s : State) (d : Nat) (f : Die → Die) : (s.modDie d f).cur = s.cur := rfl
@[simp] theorem State.modDie_tick (s : State) (d : Nat) (f : Die → Die) : (s.modDie d f).tick = s.tick := rfl
@[simp] theorem State.modDie_tripped (s : State) (d : Nat) (f : Die → Die) : (s.modDie d f).tripped = s.tripped := rfl
@[simp] theorem State.modDie_mem (s : State) (d : Nat) (f : Die → Die) : (s.modDie d f).mem = s.mem := rfl
@[simp] theorem State.modDie_poison (s : State) (d : Nat) (f : Die → Die) : (s.modDie d f).poison = s.poison := rfl
@[simp] theorem State.modDie_marks (s : State) (d : Nat) (f : Die → Die) : (s.modDie d f).marks = s.marks := rfl
@[simp] theorem State.modDie_cols (s : State) (d : Nat) (f : Die → Die) : (s.modDie d f).cols = s.cols := rfl
@[simp] theorem State.modDie_cores (s : State) (d : Nat) (f : Die → Die) : (s.modDie d f).cores = s.cores := rfl
@[simp] theorem State.modDie_ctxroots (s : State) (d : Nat) (f : Die → Die) : (s.modDie d f).ctxroots = s.ctxroots := rfl
@[simp] theorem State.modDie_pkgId (s : State) (d : Nat) (f : Die → Die) : (s.modDie d f).pkgId = s.pkgId := rfl
@[simp] theorem State.modDie_pkgIdWritten (s : State) (d : Nat) (f : Die → Die) : (s.modDie d f).pkgIdWritten = s.pkgIdWritten := rfl
@[simp] theorem State.modDie_gbarGap (s : State) (d : Nat) (f : Die → Die) : (s.modDie d f).gbarGap = s.gbarGap := rfl
@[simp] theorem State.modDie_insts (s : State) (d : Nat) (f : Die → Die) : (s.modDie d f).insts = s.insts := rfl
@[simp] theorem State.modDie_nextInst (s : State) (d : Nat) (f : Die → Die) : (s.modDie d f).nextInst = s.nextInst := rfl
@[simp] theorem State.modDie_nextOrder (s : State) (d : Nat) (f : Die → Die) : (s.modDie d f).nextOrder = s.nextOrder := rfl
@[simp] theorem State.modDie_nextId (s : State) (d : Nat) (f : Die → Die) : (s.modDie d f).nextId = s.nextId := rfl
@[simp] theorem State.modDie_saves (s : State) (d : Nat) (f : Die → Die) : (s.modDie d f).saves = s.saves := rfl
@[simp] theorem State.modDie_restored (s : State) (d : Nat) (f : Die → Die) : (s.modDie d f).restored = s.restored := rfl
@[simp] theorem State.modDie_savings (s : State) (d : Nat) (f : Die → Die) : (s.modDie d f).savings = s.savings := rfl
@[simp] theorem State.modDie_fabric (s : State) (d : Nat) (f : Die → Die) : (s.modDie d f).fabric = s.fabric := rfl
@[simp] theorem State.modDie_meas (s : State) (d : Nat) (f : Die → Die) : (s.modDie d f).meas = s.meas := rfl
@[simp] theorem State.modDie_trec (s : State) (d : Nat) (f : Die → Die) : (s.modDie d f).trec = s.trec := rfl
@[simp] theorem State.modDie_telemetry (s : State) (d : Nat) (f : Die → Die) : (s.modDie d f).telemetry = s.telemetry := rfl
@[simp] theorem State.modDie_packageMw (s : State) (d : Nat) (f : Die → Die) : (s.modDie d f).packageMw = s.packageMw := rfl
@[simp] theorem State.modDie_coolFaults (s : State) (d : Nat) (f : Die → Die) : (s.modDie d f).coolFaults = s.coolFaults := rfl
@[simp] theorem State.modDie_heatCount (s : State) (d : Nat) (f : Die → Die) : (s.modDie d f).heatCount = s.heatCount := rfl
@[simp] theorem State.modDie_hostq (s : State) (d : Nat) (f : Die → Die) : (s.modDie d f).hostq = s.hostq := rfl
@[simp] theorem State.modDie_nextEpoch (s : State) (d : Nat) (f : Die → Die) : (s.modDie d f).nextEpoch = s.nextEpoch := rfl
@[simp] theorem State.modDie_sampleAt (s : State) (d : Nat) (f : Die → Die) : (s.modDie d f).sampleAt = s.sampleAt := rfl
@[simp] theorem State.modDie_tstk (s : State) (d : Nat) (f : Die → Die) : (s.modDie d f).tstk = s.tstk := rfl
@[simp] theorem State.modDie_spares (s : State) (d : Nat) (f : Die → Die) : (s.modDie d f).spares = s.spares := rfl
@[simp] theorem State.modDie_retiredCh (s : State) (d : Nat) (f : Die → Die) : (s.modDie d f).retiredCh = s.retiredCh := rfl
@[simp] theorem State.modDie_copyingCh (s : State) (d : Nat) (f : Die → Die) : (s.modDie d f).copyingCh = s.copyingCh := rfl
@[simp] theorem State.modDie_reports (s : State) (d : Nat) (f : Die → Die) : (s.modDie d f).reports = s.reports := rfl

@[simp] theorem State.modFab_agenda (s : State) (f : Fabric → Fabric) : (s.modFab f).agenda = s.agenda := rfl
@[simp] theorem State.modFab_rot (s : State) (f : Fabric → Fabric) : (s.modFab f).rot = s.rot := rfl
@[simp] theorem State.modFab_cur (s : State) (f : Fabric → Fabric) : (s.modFab f).cur = s.cur := rfl
@[simp] theorem State.modFab_tick (s : State) (f : Fabric → Fabric) : (s.modFab f).tick = s.tick := rfl
@[simp] theorem State.modFab_tripped (s : State) (f : Fabric → Fabric) : (s.modFab f).tripped = s.tripped := rfl
@[simp] theorem State.modFab_mem (s : State) (f : Fabric → Fabric) : (s.modFab f).mem = s.mem := rfl
@[simp] theorem State.modFab_poison (s : State) (f : Fabric → Fabric) : (s.modFab f).poison = s.poison := rfl
@[simp] theorem State.modFab_marks (s : State) (f : Fabric → Fabric) : (s.modFab f).marks = s.marks := rfl
@[simp] theorem State.modFab_cols (s : State) (f : Fabric → Fabric) : (s.modFab f).cols = s.cols := rfl
@[simp] theorem State.modFab_cores (s : State) (f : Fabric → Fabric) : (s.modFab f).cores = s.cores := rfl
@[simp] theorem State.modFab_dies (s : State) (f : Fabric → Fabric) : (s.modFab f).dies = s.dies := rfl
@[simp] theorem State.modFab_ctxroots (s : State) (f : Fabric → Fabric) : (s.modFab f).ctxroots = s.ctxroots := rfl
@[simp] theorem State.modFab_pkgId (s : State) (f : Fabric → Fabric) : (s.modFab f).pkgId = s.pkgId := rfl
@[simp] theorem State.modFab_pkgIdWritten (s : State) (f : Fabric → Fabric) : (s.modFab f).pkgIdWritten = s.pkgIdWritten := rfl
@[simp] theorem State.modFab_gbarGap (s : State) (f : Fabric → Fabric) : (s.modFab f).gbarGap = s.gbarGap := rfl
@[simp] theorem State.modFab_insts (s : State) (f : Fabric → Fabric) : (s.modFab f).insts = s.insts := rfl
@[simp] theorem State.modFab_nextInst (s : State) (f : Fabric → Fabric) : (s.modFab f).nextInst = s.nextInst := rfl
@[simp] theorem State.modFab_nextOrder (s : State) (f : Fabric → Fabric) : (s.modFab f).nextOrder = s.nextOrder := rfl
@[simp] theorem State.modFab_nextId (s : State) (f : Fabric → Fabric) : (s.modFab f).nextId = s.nextId := rfl
@[simp] theorem State.modFab_saves (s : State) (f : Fabric → Fabric) : (s.modFab f).saves = s.saves := rfl
@[simp] theorem State.modFab_restored (s : State) (f : Fabric → Fabric) : (s.modFab f).restored = s.restored := rfl
@[simp] theorem State.modFab_savings (s : State) (f : Fabric → Fabric) : (s.modFab f).savings = s.savings := rfl
@[simp] theorem State.modFab_meas (s : State) (f : Fabric → Fabric) : (s.modFab f).meas = s.meas := rfl
@[simp] theorem State.modFab_trec (s : State) (f : Fabric → Fabric) : (s.modFab f).trec = s.trec := rfl
@[simp] theorem State.modFab_telemetry (s : State) (f : Fabric → Fabric) : (s.modFab f).telemetry = s.telemetry := rfl
@[simp] theorem State.modFab_packageMw (s : State) (f : Fabric → Fabric) : (s.modFab f).packageMw = s.packageMw := rfl
@[simp] theorem State.modFab_coolFaults (s : State) (f : Fabric → Fabric) : (s.modFab f).coolFaults = s.coolFaults := rfl
@[simp] theorem State.modFab_heatCount (s : State) (f : Fabric → Fabric) : (s.modFab f).heatCount = s.heatCount := rfl
@[simp] theorem State.modFab_hostq (s : State) (f : Fabric → Fabric) : (s.modFab f).hostq = s.hostq := rfl
@[simp] theorem State.modFab_nextEpoch (s : State) (f : Fabric → Fabric) : (s.modFab f).nextEpoch = s.nextEpoch := rfl
@[simp] theorem State.modFab_sampleAt (s : State) (f : Fabric → Fabric) : (s.modFab f).sampleAt = s.sampleAt := rfl
@[simp] theorem State.modFab_tstk (s : State) (f : Fabric → Fabric) : (s.modFab f).tstk = s.tstk := rfl
@[simp] theorem State.modFab_spares (s : State) (f : Fabric → Fabric) : (s.modFab f).spares = s.spares := rfl
@[simp] theorem State.modFab_retiredCh (s : State) (f : Fabric → Fabric) : (s.modFab f).retiredCh = s.retiredCh := rfl
@[simp] theorem State.modFab_copyingCh (s : State) (f : Fabric → Fabric) : (s.modFab f).copyingCh = s.copyingCh := rfl
@[simp] theorem State.modFab_reports (s : State) (f : Fabric → Fabric) : (s.modFab f).reports = s.reports := rfl

@[simp] theorem State.report_agenda (s : State) (r : Report) : (s.report r).agenda = s.agenda := rfl
@[simp] theorem State.report_rot (s : State) (r : Report) : (s.report r).rot = s.rot := rfl
@[simp] theorem State.report_cur (s : State) (r : Report) : (s.report r).cur = s.cur := rfl
@[simp] theorem State.report_tick (s : State) (r : Report) : (s.report r).tick = s.tick := rfl
@[simp] theorem State.report_tripped (s : State) (r : Report) : (s.report r).tripped = s.tripped := rfl
@[simp] theorem State.report_mem (s : State) (r : Report) : (s.report r).mem = s.mem := rfl
@[simp] theorem State.report_poison (s : State) (r : Report) : (s.report r).poison = s.poison := rfl
@[simp] theorem State.report_marks (s : State) (r : Report) : (s.report r).marks = s.marks := rfl
@[simp] theorem State.report_cols (s : State) (r : Report) : (s.report r).cols = s.cols := rfl
@[simp] theorem State.report_cores (s : State) (r : Report) : (s.report r).cores = s.cores := rfl
@[simp] theorem State.report_dies (s : State) (r : Report) : (s.report r).dies = s.dies := rfl
@[simp] theorem State.report_ctxroots (s : State) (r : Report) : (s.report r).ctxroots = s.ctxroots := rfl
@[simp] theorem State.report_pkgId (s : State) (r : Report) : (s.report r).pkgId = s.pkgId := rfl
@[simp] theorem State.report_pkgIdWritten (s : State) (r : Report) : (s.report r).pkgIdWritten = s.pkgIdWritten := rfl
@[simp] theorem State.report_gbarGap (s : State) (r : Report) : (s.report r).gbarGap = s.gbarGap := rfl
@[simp] theorem State.report_insts (s : State) (r : Report) : (s.report r).insts = s.insts := rfl
@[simp] theorem State.report_nextInst (s : State) (r : Report) : (s.report r).nextInst = s.nextInst := rfl
@[simp] theorem State.report_nextOrder (s : State) (r : Report) : (s.report r).nextOrder = s.nextOrder := rfl
@[simp] theorem State.report_nextId (s : State) (r : Report) : (s.report r).nextId = s.nextId := rfl
@[simp] theorem State.report_saves (s : State) (r : Report) : (s.report r).saves = s.saves := rfl
@[simp] theorem State.report_restored (s : State) (r : Report) : (s.report r).restored = s.restored := rfl
@[simp] theorem State.report_savings (s : State) (r : Report) : (s.report r).savings = s.savings := rfl
@[simp] theorem State.report_fabric (s : State) (r : Report) : (s.report r).fabric = s.fabric := rfl
@[simp] theorem State.report_meas (s : State) (r : Report) : (s.report r).meas = s.meas := rfl
@[simp] theorem State.report_trec (s : State) (r : Report) : (s.report r).trec = s.trec := rfl
@[simp] theorem State.report_telemetry (s : State) (r : Report) : (s.report r).telemetry = s.telemetry := rfl
@[simp] theorem State.report_packageMw (s : State) (r : Report) : (s.report r).packageMw = s.packageMw := rfl
@[simp] theorem State.report_coolFaults (s : State) (r : Report) : (s.report r).coolFaults = s.coolFaults := rfl
@[simp] theorem State.report_heatCount (s : State) (r : Report) : (s.report r).heatCount = s.heatCount := rfl
@[simp] theorem State.report_hostq (s : State) (r : Report) : (s.report r).hostq = s.hostq := rfl
@[simp] theorem State.report_nextEpoch (s : State) (r : Report) : (s.report r).nextEpoch = s.nextEpoch := rfl
@[simp] theorem State.report_sampleAt (s : State) (r : Report) : (s.report r).sampleAt = s.sampleAt := rfl
@[simp] theorem State.report_tstk (s : State) (r : Report) : (s.report r).tstk = s.tstk := rfl
@[simp] theorem State.report_spares (s : State) (r : Report) : (s.report r).spares = s.spares := rfl
@[simp] theorem State.report_retiredCh (s : State) (r : Report) : (s.report r).retiredCh = s.retiredCh := rfl
@[simp] theorem State.report_copyingCh (s : State) (r : Report) : (s.report r).copyingCh = s.copyingCh := rfl

@[simp] theorem State.setHomeByte_agenda (s : State) (a : Nat) (b : Byte) : (s.setHomeByte a b).agenda = s.agenda := rfl
@[simp] theorem State.setHomeByte_rot (s : State) (a : Nat) (b : Byte) : (s.setHomeByte a b).rot = s.rot := rfl
@[simp] theorem State.setHomeByte_cur (s : State) (a : Nat) (b : Byte) : (s.setHomeByte a b).cur = s.cur := rfl
@[simp] theorem State.setHomeByte_tick (s : State) (a : Nat) (b : Byte) : (s.setHomeByte a b).tick = s.tick := rfl
@[simp] theorem State.setHomeByte_tripped (s : State) (a : Nat) (b : Byte) : (s.setHomeByte a b).tripped = s.tripped := rfl
@[simp] theorem State.setHomeByte_poison (s : State) (a : Nat) (b : Byte) : (s.setHomeByte a b).poison = s.poison := rfl
@[simp] theorem State.setHomeByte_marks (s : State) (a : Nat) (b : Byte) : (s.setHomeByte a b).marks = s.marks := rfl
@[simp] theorem State.setHomeByte_cols (s : State) (a : Nat) (b : Byte) : (s.setHomeByte a b).cols = s.cols := rfl
@[simp] theorem State.setHomeByte_cores (s : State) (a : Nat) (b : Byte) : (s.setHomeByte a b).cores = s.cores := rfl
@[simp] theorem State.setHomeByte_dies (s : State) (a : Nat) (b : Byte) : (s.setHomeByte a b).dies = s.dies := rfl
@[simp] theorem State.setHomeByte_ctxroots (s : State) (a : Nat) (b : Byte) : (s.setHomeByte a b).ctxroots = s.ctxroots := rfl
@[simp] theorem State.setHomeByte_pkgId (s : State) (a : Nat) (b : Byte) : (s.setHomeByte a b).pkgId = s.pkgId := rfl
@[simp] theorem State.setHomeByte_pkgIdWritten (s : State) (a : Nat) (b : Byte) : (s.setHomeByte a b).pkgIdWritten = s.pkgIdWritten := rfl
@[simp] theorem State.setHomeByte_gbarGap (s : State) (a : Nat) (b : Byte) : (s.setHomeByte a b).gbarGap = s.gbarGap := rfl
@[simp] theorem State.setHomeByte_insts (s : State) (a : Nat) (b : Byte) : (s.setHomeByte a b).insts = s.insts := rfl
@[simp] theorem State.setHomeByte_nextInst (s : State) (a : Nat) (b : Byte) : (s.setHomeByte a b).nextInst = s.nextInst := rfl
@[simp] theorem State.setHomeByte_nextOrder (s : State) (a : Nat) (b : Byte) : (s.setHomeByte a b).nextOrder = s.nextOrder := rfl
@[simp] theorem State.setHomeByte_nextId (s : State) (a : Nat) (b : Byte) : (s.setHomeByte a b).nextId = s.nextId := rfl
@[simp] theorem State.setHomeByte_saves (s : State) (a : Nat) (b : Byte) : (s.setHomeByte a b).saves = s.saves := rfl
@[simp] theorem State.setHomeByte_restored (s : State) (a : Nat) (b : Byte) : (s.setHomeByte a b).restored = s.restored := rfl
@[simp] theorem State.setHomeByte_savings (s : State) (a : Nat) (b : Byte) : (s.setHomeByte a b).savings = s.savings := rfl
@[simp] theorem State.setHomeByte_fabric (s : State) (a : Nat) (b : Byte) : (s.setHomeByte a b).fabric = s.fabric := rfl
@[simp] theorem State.setHomeByte_meas (s : State) (a : Nat) (b : Byte) : (s.setHomeByte a b).meas = s.meas := rfl
@[simp] theorem State.setHomeByte_trec (s : State) (a : Nat) (b : Byte) : (s.setHomeByte a b).trec = s.trec := rfl
@[simp] theorem State.setHomeByte_telemetry (s : State) (a : Nat) (b : Byte) : (s.setHomeByte a b).telemetry = s.telemetry := rfl
@[simp] theorem State.setHomeByte_packageMw (s : State) (a : Nat) (b : Byte) : (s.setHomeByte a b).packageMw = s.packageMw := rfl
@[simp] theorem State.setHomeByte_coolFaults (s : State) (a : Nat) (b : Byte) : (s.setHomeByte a b).coolFaults = s.coolFaults := rfl
@[simp] theorem State.setHomeByte_heatCount (s : State) (a : Nat) (b : Byte) : (s.setHomeByte a b).heatCount = s.heatCount := rfl
@[simp] theorem State.setHomeByte_hostq (s : State) (a : Nat) (b : Byte) : (s.setHomeByte a b).hostq = s.hostq := rfl
@[simp] theorem State.setHomeByte_nextEpoch (s : State) (a : Nat) (b : Byte) : (s.setHomeByte a b).nextEpoch = s.nextEpoch := rfl
@[simp] theorem State.setHomeByte_sampleAt (s : State) (a : Nat) (b : Byte) : (s.setHomeByte a b).sampleAt = s.sampleAt := rfl
@[simp] theorem State.setHomeByte_tstk (s : State) (a : Nat) (b : Byte) : (s.setHomeByte a b).tstk = s.tstk := rfl
@[simp] theorem State.setHomeByte_spares (s : State) (a : Nat) (b : Byte) : (s.setHomeByte a b).spares = s.spares := rfl
@[simp] theorem State.setHomeByte_retiredCh (s : State) (a : Nat) (b : Byte) : (s.setHomeByte a b).retiredCh = s.retiredCh := rfl
@[simp] theorem State.setHomeByte_copyingCh (s : State) (a : Nat) (b : Byte) : (s.setHomeByte a b).copyingCh = s.copyingCh := rfl
@[simp] theorem State.setHomeByte_reports (s : State) (a : Nat) (b : Byte) : (s.setHomeByte a b).reports = s.reports := rfl

@[simp] theorem State.modCol_cur (s : State) (c : Nat) (f : Column → Column) : (s.modCol c f).cur = s.cur := rfl
@[simp] theorem State.modCol_tick (s : State) (c : Nat) (f : Column → Column) : (s.modCol c f).tick = s.tick := rfl
@[simp] theorem State.modCol_tripped (s : State) (c : Nat) (f : Column → Column) : (s.modCol c f).tripped = s.tripped := rfl
@[simp] theorem State.modCol_mem (s : State) (c : Nat) (f : Column → Column) : (s.modCol c f).mem = s.mem := rfl
@[simp] theorem State.modCol_poison (s : State) (c : Nat) (f : Column → Column) : (s.modCol c f).poison = s.poison := rfl
@[simp] theorem State.modCol_marks (s : State) (c : Nat) (f : Column → Column) : (s.modCol c f).marks = s.marks := rfl
@[simp] theorem State.modCol_cores (s : State) (c : Nat) (f : Column → Column) : (s.modCol c f).cores = s.cores := rfl
@[simp] theorem State.modCol_dies (s : State) (c : Nat) (f : Column → Column) : (s.modCol c f).dies = s.dies := rfl
@[simp] theorem State.modCol_ctxroots (s : State) (c : Nat) (f : Column → Column) : (s.modCol c f).ctxroots = s.ctxroots := rfl
@[simp] theorem State.modCol_insts (s : State) (c : Nat) (f : Column → Column) : (s.modCol c f).insts = s.insts := rfl
@[simp] theorem State.modCol_saves (s : State) (c : Nat) (f : Column → Column) : (s.modCol c f).saves = s.saves := rfl
@[simp] theorem State.modCol_savings (s : State) (c : Nat) (f : Column → Column) : (s.modCol c f).savings = s.savings := rfl
@[simp] theorem State.modCol_fabric (s : State) (c : Nat) (f : Column → Column) : (s.modCol c f).fabric = s.fabric := rfl
@[simp] theorem State.modCol_reports (s : State) (c : Nat) (f : Column → Column) : (s.modCol c f).reports = s.reports := rfl

@[simp] theorem State.modCc_cur (s : State) (c : Nat) (f : ColCore → ColCore) : (s.modCc c f).cur = s.cur := rfl
@[simp] theorem State.modCc_tick (s : State) (c : Nat) (f : ColCore → ColCore) : (s.modCc c f).tick = s.tick := rfl
@[simp] theorem State.modCc_tripped (s : State) (c : Nat) (f : ColCore → ColCore) : (s.modCc c f).tripped = s.tripped := rfl
@[simp] theorem State.modCc_mem (s : State) (c : Nat) (f : ColCore → ColCore) : (s.modCc c f).mem = s.mem := rfl
@[simp] theorem State.modCc_poison (s : State) (c : Nat) (f : ColCore → ColCore) : (s.modCc c f).poison = s.poison := rfl
@[simp] theorem State.modCc_marks (s : State) (c : Nat) (f : ColCore → ColCore) : (s.modCc c f).marks = s.marks := rfl
@[simp] theorem State.modCc_cores (s : State) (c : Nat) (f : ColCore → ColCore) : (s.modCc c f).cores = s.cores := rfl
@[simp] theorem State.modCc_dies (s : State) (c : Nat) (f : ColCore → ColCore) : (s.modCc c f).dies = s.dies := rfl
@[simp] theorem State.modCc_ctxroots (s : State) (c : Nat) (f : ColCore → ColCore) : (s.modCc c f).ctxroots = s.ctxroots := rfl
@[simp] theorem State.modCc_insts (s : State) (c : Nat) (f : ColCore → ColCore) : (s.modCc c f).insts = s.insts := rfl
@[simp] theorem State.modCc_saves (s : State) (c : Nat) (f : ColCore → ColCore) : (s.modCc c f).saves = s.saves := rfl
@[simp] theorem State.modCc_savings (s : State) (c : Nat) (f : ColCore → ColCore) : (s.modCc c f).savings = s.savings := rfl
@[simp] theorem State.modCc_fabric (s : State) (c : Nat) (f : ColCore → ColCore) : (s.modCc c f).fabric = s.fabric := rfl
@[simp] theorem State.modCc_reports (s : State) (c : Nat) (f : ColCore → ColCore) : (s.modCc c f).reports = s.reports := rfl

@[simp] theorem State.modGov_cur (s : State) (c : Nat) (f : Governor → Governor) : (s.modGov c f).cur = s.cur := rfl
@[simp] theorem State.modGov_tick (s : State) (c : Nat) (f : Governor → Governor) : (s.modGov c f).tick = s.tick := rfl
@[simp] theorem State.modGov_tripped (s : State) (c : Nat) (f : Governor → Governor) : (s.modGov c f).tripped = s.tripped := rfl
@[simp] theorem State.modGov_mem (s : State) (c : Nat) (f : Governor → Governor) : (s.modGov c f).mem = s.mem := rfl
@[simp] theorem State.modGov_poison (s : State) (c : Nat) (f : Governor → Governor) : (s.modGov c f).poison = s.poison := rfl
@[simp] theorem State.modGov_marks (s : State) (c : Nat) (f : Governor → Governor) : (s.modGov c f).marks = s.marks := rfl
@[simp] theorem State.modGov_cores (s : State) (c : Nat) (f : Governor → Governor) : (s.modGov c f).cores = s.cores := rfl
@[simp] theorem State.modGov_dies (s : State) (c : Nat) (f : Governor → Governor) : (s.modGov c f).dies = s.dies := rfl
@[simp] theorem State.modGov_ctxroots (s : State) (c : Nat) (f : Governor → Governor) : (s.modGov c f).ctxroots = s.ctxroots := rfl
@[simp] theorem State.modGov_insts (s : State) (c : Nat) (f : Governor → Governor) : (s.modGov c f).insts = s.insts := rfl
@[simp] theorem State.modGov_saves (s : State) (c : Nat) (f : Governor → Governor) : (s.modGov c f).saves = s.saves := rfl
@[simp] theorem State.modGov_savings (s : State) (c : Nat) (f : Governor → Governor) : (s.modGov c f).savings = s.savings := rfl
@[simp] theorem State.modGov_fabric (s : State) (c : Nat) (f : Governor → Governor) : (s.modGov c f).fabric = s.fabric := rfl
@[simp] theorem State.modGov_reports (s : State) (c : Nat) (f : Governor → Governor) : (s.modGov c f).reports = s.reports := rfl

@[simp] theorem State.latchEvent_cur (s : State) (c b : Nat) : (s.latchEvent c b).cur = s.cur := rfl
@[simp] theorem State.latchEvent_tick (s : State) (c b : Nat) : (s.latchEvent c b).tick = s.tick := rfl
@[simp] theorem State.latchEvent_tripped (s : State) (c b : Nat) : (s.latchEvent c b).tripped = s.tripped := rfl
@[simp] theorem State.latchEvent_mem (s : State) (c b : Nat) : (s.latchEvent c b).mem = s.mem := rfl
@[simp] theorem State.latchEvent_poison (s : State) (c b : Nat) : (s.latchEvent c b).poison = s.poison := rfl
@[simp] theorem State.latchEvent_marks (s : State) (c b : Nat) : (s.latchEvent c b).marks = s.marks := rfl
@[simp] theorem State.latchEvent_cores (s : State) (c b : Nat) : (s.latchEvent c b).cores = s.cores := rfl
@[simp] theorem State.latchEvent_dies (s : State) (c b : Nat) : (s.latchEvent c b).dies = s.dies := rfl
@[simp] theorem State.latchEvent_ctxroots (s : State) (c b : Nat) : (s.latchEvent c b).ctxroots = s.ctxroots := rfl
@[simp] theorem State.latchEvent_insts (s : State) (c b : Nat) : (s.latchEvent c b).insts = s.insts := rfl
@[simp] theorem State.latchEvent_saves (s : State) (c b : Nat) : (s.latchEvent c b).saves = s.saves := rfl
@[simp] theorem State.latchEvent_savings (s : State) (c b : Nat) : (s.latchEvent c b).savings = s.savings := rfl
@[simp] theorem State.latchEvent_fabric (s : State) (c b : Nat) : (s.latchEvent c b).fabric = s.fabric := rfl
@[simp] theorem State.latchEvent_reports (s : State) (c b : Nat) : (s.latchEvent c b).reports = s.reports := rfl

@[simp] theorem State.modCore_cur (s : State) (n : Nat) (f : ACore → ACore) : (s.modCore n f).cur = s.cur := rfl
@[simp] theorem State.modCore_tick (s : State) (n : Nat) (f : ACore → ACore) : (s.modCore n f).tick = s.tick := rfl
@[simp] theorem State.modCore_tripped (s : State) (n : Nat) (f : ACore → ACore) : (s.modCore n f).tripped = s.tripped := rfl
@[simp] theorem State.modCore_mem (s : State) (n : Nat) (f : ACore → ACore) : (s.modCore n f).mem = s.mem := rfl
@[simp] theorem State.modCore_poison (s : State) (n : Nat) (f : ACore → ACore) : (s.modCore n f).poison = s.poison := rfl
@[simp] theorem State.modCore_marks (s : State) (n : Nat) (f : ACore → ACore) : (s.modCore n f).marks = s.marks := rfl
@[simp] theorem State.modCore_cols (s : State) (n : Nat) (f : ACore → ACore) : (s.modCore n f).cols = s.cols := rfl
@[simp] theorem State.modCore_dies (s : State) (n : Nat) (f : ACore → ACore) : (s.modCore n f).dies = s.dies := rfl
@[simp] theorem State.modCore_ctxroots (s : State) (n : Nat) (f : ACore → ACore) : (s.modCore n f).ctxroots = s.ctxroots := rfl
@[simp] theorem State.modCore_insts (s : State) (n : Nat) (f : ACore → ACore) : (s.modCore n f).insts = s.insts := rfl
@[simp] theorem State.modCore_saves (s : State) (n : Nat) (f : ACore → ACore) : (s.modCore n f).saves = s.saves := rfl
@[simp] theorem State.modCore_savings (s : State) (n : Nat) (f : ACore → ACore) : (s.modCore n f).savings = s.savings := rfl
@[simp] theorem State.modCore_fabric (s : State) (n : Nat) (f : ACore → ACore) : (s.modCore n f).fabric = s.fabric := rfl
@[simp] theorem State.modCore_reports (s : State) (n : Nat) (f : ACore → ACore) : (s.modCore n f).reports = s.reports := rfl

@[simp] theorem State.setGrp_cur (s : State) (n g : Nat) (x : Group) : (s.setGrp n g x).cur = s.cur := rfl
@[simp] theorem State.setGrp_tick (s : State) (n g : Nat) (x : Group) : (s.setGrp n g x).tick = s.tick := rfl
@[simp] theorem State.setGrp_tripped (s : State) (n g : Nat) (x : Group) : (s.setGrp n g x).tripped = s.tripped := rfl
@[simp] theorem State.setGrp_mem (s : State) (n g : Nat) (x : Group) : (s.setGrp n g x).mem = s.mem := rfl
@[simp] theorem State.setGrp_poison (s : State) (n g : Nat) (x : Group) : (s.setGrp n g x).poison = s.poison := rfl
@[simp] theorem State.setGrp_marks (s : State) (n g : Nat) (x : Group) : (s.setGrp n g x).marks = s.marks := rfl
@[simp] theorem State.setGrp_cols (s : State) (n g : Nat) (x : Group) : (s.setGrp n g x).cols = s.cols := rfl
@[simp] theorem State.setGrp_dies (s : State) (n g : Nat) (x : Group) : (s.setGrp n g x).dies = s.dies := rfl
@[simp] theorem State.setGrp_ctxroots (s : State) (n g : Nat) (x : Group) : (s.setGrp n g x).ctxroots = s.ctxroots := rfl
@[simp] theorem State.setGrp_insts (s : State) (n g : Nat) (x : Group) : (s.setGrp n g x).insts = s.insts := rfl
@[simp] theorem State.setGrp_saves (s : State) (n g : Nat) (x : Group) : (s.setGrp n g x).saves = s.saves := rfl
@[simp] theorem State.setGrp_savings (s : State) (n g : Nat) (x : Group) : (s.setGrp n g x).savings = s.savings := rfl
@[simp] theorem State.setGrp_fabric (s : State) (n g : Nat) (x : Group) : (s.setGrp n g x).fabric = s.fabric := rfl
@[simp] theorem State.setGrp_reports (s : State) (n g : Nat) (x : Group) : (s.setGrp n g x).reports = s.reports := rfl

@[simp] theorem State.setDeal_cur (s : State) (n k : Nat) (d : Option Deal) : (s.setDeal n k d).cur = s.cur := rfl
@[simp] theorem State.setDeal_tick (s : State) (n k : Nat) (d : Option Deal) : (s.setDeal n k d).tick = s.tick := rfl
@[simp] theorem State.setDeal_tripped (s : State) (n k : Nat) (d : Option Deal) : (s.setDeal n k d).tripped = s.tripped := rfl
@[simp] theorem State.setDeal_mem (s : State) (n k : Nat) (d : Option Deal) : (s.setDeal n k d).mem = s.mem := rfl
@[simp] theorem State.setDeal_poison (s : State) (n k : Nat) (d : Option Deal) : (s.setDeal n k d).poison = s.poison := rfl
@[simp] theorem State.setDeal_marks (s : State) (n k : Nat) (d : Option Deal) : (s.setDeal n k d).marks = s.marks := rfl
@[simp] theorem State.setDeal_cols (s : State) (n k : Nat) (d : Option Deal) : (s.setDeal n k d).cols = s.cols := rfl
@[simp] theorem State.setDeal_dies (s : State) (n k : Nat) (d : Option Deal) : (s.setDeal n k d).dies = s.dies := rfl
@[simp] theorem State.setDeal_ctxroots (s : State) (n k : Nat) (d : Option Deal) : (s.setDeal n k d).ctxroots = s.ctxroots := rfl
@[simp] theorem State.setDeal_insts (s : State) (n k : Nat) (d : Option Deal) : (s.setDeal n k d).insts = s.insts := rfl
@[simp] theorem State.setDeal_saves (s : State) (n k : Nat) (d : Option Deal) : (s.setDeal n k d).saves = s.saves := rfl
@[simp] theorem State.setDeal_savings (s : State) (n k : Nat) (d : Option Deal) : (s.setDeal n k d).savings = s.savings := rfl
@[simp] theorem State.setDeal_fabric (s : State) (n k : Nat) (d : Option Deal) : (s.setDeal n k d).fabric = s.fabric := rfl
@[simp] theorem State.setDeal_reports (s : State) (n k : Nat) (d : Option Deal) : (s.setDeal n k d).reports = s.reports := rfl

@[simp] theorem State.modGrp_cur (s : State) (n g : Nat) (f : Group → Group) : (s.modGrp n g f).cur = s.cur := by unfold State.modGrp; split <;> rfl
@[simp] theorem State.modGrp_tick (s : State) (n g : Nat) (f : Group → Group) : (s.modGrp n g f).tick = s.tick := by unfold State.modGrp; split <;> rfl
@[simp] theorem State.modGrp_tripped (s : State) (n g : Nat) (f : Group → Group) : (s.modGrp n g f).tripped = s.tripped := by unfold State.modGrp; split <;> rfl
@[simp] theorem State.modGrp_mem (s : State) (n g : Nat) (f : Group → Group) : (s.modGrp n g f).mem = s.mem := by unfold State.modGrp; split <;> rfl
@[simp] theorem State.modGrp_poison (s : State) (n g : Nat) (f : Group → Group) : (s.modGrp n g f).poison = s.poison := by unfold State.modGrp; split <;> rfl
@[simp] theorem State.modGrp_marks (s : State) (n g : Nat) (f : Group → Group) : (s.modGrp n g f).marks = s.marks := by unfold State.modGrp; split <;> rfl
@[simp] theorem State.modGrp_cols (s : State) (n g : Nat) (f : Group → Group) : (s.modGrp n g f).cols = s.cols := by unfold State.modGrp; split <;> rfl
@[simp] theorem State.modGrp_dies (s : State) (n g : Nat) (f : Group → Group) : (s.modGrp n g f).dies = s.dies := by unfold State.modGrp; split <;> rfl
@[simp] theorem State.modGrp_ctxroots (s : State) (n g : Nat) (f : Group → Group) : (s.modGrp n g f).ctxroots = s.ctxroots := by unfold State.modGrp; split <;> rfl
@[simp] theorem State.modGrp_insts (s : State) (n g : Nat) (f : Group → Group) : (s.modGrp n g f).insts = s.insts := by unfold State.modGrp; split <;> rfl
@[simp] theorem State.modGrp_saves (s : State) (n g : Nat) (f : Group → Group) : (s.modGrp n g f).saves = s.saves := by unfold State.modGrp; split <;> rfl
@[simp] theorem State.modGrp_savings (s : State) (n g : Nat) (f : Group → Group) : (s.modGrp n g f).savings = s.savings := by unfold State.modGrp; split <;> rfl
@[simp] theorem State.modGrp_fabric (s : State) (n g : Nat) (f : Group → Group) : (s.modGrp n g f).fabric = s.fabric := by unfold State.modGrp; split <;> rfl
@[simp] theorem State.modGrp_reports (s : State) (n g : Nat) (f : Group → Group) : (s.modGrp n g f).reports = s.reports := by unfold State.modGrp; split <;> rfl

@[simp] theorem State.modInst_cur (s : State) (i : Nat) (f : Inst → Inst) : (s.modInst i f).cur = s.cur := by unfold State.modInst; split <;> rfl
@[simp] theorem State.modInst_tick (s : State) (i : Nat) (f : Inst → Inst) : (s.modInst i f).tick = s.tick := by unfold State.modInst; split <;> rfl
@[simp] theorem State.modInst_tripped (s : State) (i : Nat) (f : Inst → Inst) : (s.modInst i f).tripped = s.tripped := by unfold State.modInst; split <;> rfl
@[simp] theorem State.modInst_mem (s : State) (i : Nat) (f : Inst → Inst) : (s.modInst i f).mem = s.mem := by unfold State.modInst; split <;> rfl
@[simp] theorem State.modInst_poison (s : State) (i : Nat) (f : Inst → Inst) : (s.modInst i f).poison = s.poison := by unfold State.modInst; split <;> rfl
@[simp] theorem State.modInst_marks (s : State) (i : Nat) (f : Inst → Inst) : (s.modInst i f).marks = s.marks := by unfold State.modInst; split <;> rfl
@[simp] theorem State.modInst_cols (s : State) (i : Nat) (f : Inst → Inst) : (s.modInst i f).cols = s.cols := by unfold State.modInst; split <;> rfl
@[simp] theorem State.modInst_cores (s : State) (i : Nat) (f : Inst → Inst) : (s.modInst i f).cores = s.cores := by unfold State.modInst; split <;> rfl
@[simp] theorem State.modInst_dies (s : State) (i : Nat) (f : Inst → Inst) : (s.modInst i f).dies = s.dies := by unfold State.modInst; split <;> rfl
@[simp] theorem State.modInst_ctxroots (s : State) (i : Nat) (f : Inst → Inst) : (s.modInst i f).ctxroots = s.ctxroots := by unfold State.modInst; split <;> rfl
@[simp] theorem State.modInst_saves (s : State) (i : Nat) (f : Inst → Inst) : (s.modInst i f).saves = s.saves := by unfold State.modInst; split <;> rfl
@[simp] theorem State.modInst_savings (s : State) (i : Nat) (f : Inst → Inst) : (s.modInst i f).savings = s.savings := by unfold State.modInst; split <;> rfl
@[simp] theorem State.modInst_fabric (s : State) (i : Nat) (f : Inst → Inst) : (s.modInst i f).fabric = s.fabric := by unfold State.modInst; split <;> rfl
@[simp] theorem State.modInst_reports (s : State) (i : Nat) (f : Inst → Inst) : (s.modInst i f).reports = s.reports := by unfold State.modInst; split <;> rfl

@[simp] theorem State.modThr_cur (s : State) (n g i : Nat) (f : Thread → Thread) : (s.modThr n g i f).cur = s.cur := State.modGrp_cur ..
@[simp] theorem State.modThr_tick (s : State) (n g i : Nat) (f : Thread → Thread) : (s.modThr n g i f).tick = s.tick := State.modGrp_tick ..
@[simp] theorem State.modThr_tripped (s : State) (n g i : Nat) (f : Thread → Thread) : (s.modThr n g i f).tripped = s.tripped := State.modGrp_tripped ..
@[simp] theorem State.modThr_mem (s : State) (n g i : Nat) (f : Thread → Thread) : (s.modThr n g i f).mem = s.mem := State.modGrp_mem ..
@[simp] theorem State.modThr_poison (s : State) (n g i : Nat) (f : Thread → Thread) : (s.modThr n g i f).poison = s.poison := State.modGrp_poison ..
@[simp] theorem State.modThr_marks (s : State) (n g i : Nat) (f : Thread → Thread) : (s.modThr n g i f).marks = s.marks := State.modGrp_marks ..
@[simp] theorem State.modThr_cols (s : State) (n g i : Nat) (f : Thread → Thread) : (s.modThr n g i f).cols = s.cols := State.modGrp_cols ..
@[simp] theorem State.modThr_dies (s : State) (n g i : Nat) (f : Thread → Thread) : (s.modThr n g i f).dies = s.dies := State.modGrp_dies ..
@[simp] theorem State.modThr_ctxroots (s : State) (n g i : Nat) (f : Thread → Thread) : (s.modThr n g i f).ctxroots = s.ctxroots := State.modGrp_ctxroots ..
@[simp] theorem State.modThr_insts (s : State) (n g i : Nat) (f : Thread → Thread) : (s.modThr n g i f).insts = s.insts := State.modGrp_insts ..
@[simp] theorem State.modThr_saves (s : State) (n g i : Nat) (f : Thread → Thread) : (s.modThr n g i f).saves = s.saves := State.modGrp_saves ..
@[simp] theorem State.modThr_savings (s : State) (n g i : Nat) (f : Thread → Thread) : (s.modThr n g i f).savings = s.savings := State.modGrp_savings ..
@[simp] theorem State.modThr_fabric (s : State) (n g i : Nat) (f : Thread → Thread) : (s.modThr n g i f).fabric = s.fabric := State.modGrp_fabric ..
@[simp] theorem State.modThr_reports (s : State) (n g i : Nat) (f : Thread → Thread) : (s.modThr n g i f).reports = s.reports := State.modGrp_reports ..

/-! ### Parts read after an update -/

theorem State.col_setCol (s : State) (c d : Nat) (x : Column) : (s.setCol c x).col d = if d = c then x else s.col d := mapGet_mapSet ..
theorem State.core_setCore (s : State) (n m : Nat) (x : ACore) : (s.setCore n x).core m = if m = n then x else s.core m := mapGet_mapSet ..
theorem State.die_modDie (s : State) (d k : Nat) (f : Die → Die) : (s.modDie d f).die k = if k = d then f (s.die d) else s.die k := mapGet_mapSet ..

@[simp] theorem State.col_setCol_same (s : State) (c : Nat) (x : Column) : (s.setCol c x).col c = x := by simp [State.col_setCol]
@[simp] theorem State.col_setCore (s : State) (n c : Nat) (x : ACore) : (s.setCore n x).col c = s.col c := rfl
@[simp] theorem State.core_setCore_same (s : State) (n : Nat) (x : ACore) : (s.setCore n x).core n = x := by simp [State.core_setCore]
@[simp] theorem State.core_setCol (s : State) (n c : Nat) (x : Column) : (s.setCol c x).core n = s.core n := rfl
@[simp] theorem State.die_modDie_same (s : State) (d : Nat) (f : Die → Die) : (s.modDie d f).die d = f (s.die d) := by simp [State.die_modDie]

theorem State.col_modCol (s : State) (c d : Nat) (f : Column → Column) : (s.modCol c f).col d = if d = c then f (s.col c) else s.col d := State.col_setCol ..
theorem State.core_modCore (s : State) (n m : Nat) (f : ACore → ACore) : (s.modCore n f).core m = if m = n then f (s.core n) else s.core m :=
  State.core_setCore ..
@[simp] theorem State.col_modCol_same (s : State) (c : Nat) (f : Column → Column) : (s.modCol c f).col c = f (s.col c) := by simp [State.col_modCol]
@[simp] theorem State.core_modCore_same (s : State) (n : Nat) (f : ACore → ACore) : (s.modCore n f).core n = f (s.core n) := by simp [State.core_modCore]
@[simp] theorem State.core_modCol (s : State) (c n : Nat) (f : Column → Column) : (s.modCol c f).core n = s.core n := rfl
@[simp] theorem State.col_modCore (s : State) (n c : Nat) (f : ACore → ACore) : (s.modCore n f).col c = s.col c := rfl
@[simp] theorem State.core_modCc (s : State) (c n : Nat) (f : ColCore → ColCore) : (s.modCc c f).core n = s.core n := rfl
@[simp] theorem State.core_modGov (s : State) (c n : Nat) (f : Governor → Governor) : (s.modGov c f).core n = s.core n := rfl

theorem State.cc_modCc (s : State) (c d : Nat) (f : ColCore → ColCore) : (s.modCc c f).cc d = if d = c then f (s.cc c) else s.cc d := by
  unfold State.modCc State.setCc State.cc; rw [State.col_modCol]; split <;> rfl
@[simp] theorem State.cc_modCc_same (s : State) (c : Nat) (f : ColCore → ColCore) : (s.modCc c f).cc c = f (s.cc c) := by simp [State.cc_modCc]
theorem State.gov_modGov (s : State) (c d : Nat) (f : Governor → Governor) : (s.modGov c f).gov d = if d = c then f (s.gov c) else s.gov d := by
  unfold State.modGov State.gov; rw [State.col_modCol]; split <;> rfl
@[simp] theorem State.gov_modGov_same (s : State) (c : Nat) (f : Governor → Governor) : (s.modGov c f).gov c = f (s.gov c) := by simp [State.gov_modGov]
@[simp] theorem State.cc_modGov (s : State) (c d : Nat) (f : Governor → Governor) : (s.modGov c f).cc d = s.cc d := by
  unfold State.modGov State.cc; rw [State.col_modCol]; split
  · next h => subst h; rfl
  · rfl
@[simp] theorem State.gov_modCc (s : State) (c d : Nat) (f : ColCore → ColCore) : (s.modCc c f).gov d = s.gov d := by
  unfold State.modCc State.setCc State.gov; rw [State.col_modCol]; split
  · next h => subst h; rfl
  · rfl
@[simp] theorem State.cc_modCore (s : State) (n c : Nat) (f : ACore → ACore) : (s.modCore n f).cc c = s.cc c := rfl
@[simp] theorem State.gov_modCore (s : State) (n c : Nat) (f : ACore → ACore) : (s.modCore n f).gov c = s.gov c := rfl

theorem State.grp?_setGrp (s : State) (n g m h : Nat) (x : Group) :
    (s.setGrp n g x).grp? m h = if m = n ∧ h = g then some x else s.grp? m h := by
  unfold State.setGrp State.grp?; rw [State.core_modCore]
  by_cases hm : m = n
  · subst hm; simp [mapGet?_mapSet]
  · simp [hm]
theorem State.grp?_modGrp (s : State) (n g m h : Nat) (f : Group → Group) :
    (s.modGrp n g f).grp? m h = if m = n ∧ h = g then (s.grp? n g).map f else s.grp? m h := by
  unfold State.modGrp
  split
  · next x hx => rw [State.grp?_setGrp, hx]; rfl
  · next hx =>
    split
    · next hc => rw [hc.1, hc.2, hx]; rfl
    · rfl
@[simp] theorem State.grp?_modGrp_same (s : State) (n g : Nat) (f : Group → Group) : (s.modGrp n g f).grp? n g = (s.grp? n g).map f := by
  simp [State.grp?_modGrp]
@[simp] theorem State.grp?_modCol (s : State) (c n g : Nat) (f : Column → Column) : (s.modCol c f).grp? n g = s.grp? n g := rfl
@[simp] theorem State.grp?_modCc (s : State) (c n g : Nat) (f : ColCore → ColCore) : (s.modCc c f).grp? n g = s.grp? n g := rfl
@[simp] theorem State.grp?_setDeal (s : State) (n k m g : Nat) (d : Option Deal) : (s.setDeal n k d).grp? m g = s.grp? m g := by
  unfold State.setDeal State.grp? ACore.setDeal; rw [State.core_modCore]
  by_cases hm : m = n
  · subst hm; simp only [if_true]; split <;> rfl
  · simp [hm]
theorem State.deal?_setDeal (s : State) (n k j : Nat) (d : Option Deal) :
    (s.setDeal n k d).deal? n j = if (j = 0) = (k = 0) then d else s.deal? n j := by
  unfold State.setDeal State.deal? ACore.setDeal ACore.deal; rw [State.core_modCore]
  by_cases hk : k = 0 <;> by_cases hj : j = 0 <;> simp [hk, hj]
@[simp] theorem State.deal?_setDeal_same (s : State) (n k : Nat) (d : Option Deal) : (s.setDeal n k d).deal? n k = d := by
  simp [State.deal?_setDeal]
@[simp] theorem State.deal?_setGrp (s : State) (n g m k : Nat) (x : Group) : (s.setGrp n g x).deal? m k = s.deal? m k := by
  unfold State.setGrp State.deal? ACore.deal; rw [State.core_modCore]
  by_cases hm : m = n
  · subst hm; simp
  · simp [hm]
@[simp] theorem State.deal?_modGrp (s : State) (n g m k : Nat) (f : Group → Group) : (s.modGrp n g f).deal? m k = s.deal? m k := by
  unfold State.modGrp; split
  · exact State.deal?_setGrp ..
  · rfl
@[simp] theorem State.deal?_modThr (s : State) (n g i m k : Nat) (f : Thread → Thread) : (s.modThr n g i f).deal? m k = s.deal? m k :=
  State.deal?_modGrp ..

theorem Group.thread_modThr (x : Group) (i j : Nat) (f : Thread → Thread) :
    mapGet? (x.modThr i f).threads j = if j = i then (mapGet? x.threads i).map f else mapGet? x.threads j := by
  unfold Group.modThr
  split
  · next y hy => simp only [mapGet?_mapSet, hy]; rfl
  · next hy =>
    split
    · next h => rw [h, hy]; rfl
    · rfl
theorem State.thr?_modThr (s : State) (n g i j : Nat) (f : Thread → Thread) :
    (s.modThr n g i f).thr? n g j = if j = i then (s.thr? n g i).map f else s.thr? n g j := by
  unfold State.thr? State.modThr
  rw [State.grp?_modGrp_same]
  cases s.grp? n g with
  | none => simp
  | some x => simp [Group.thread_modThr]

theorem State.inst?_modInst (s : State) (i j : Nat) (f : Inst → Inst) :
    (s.modInst i f).inst? j = if j = i then (s.inst? i).map f else s.inst? j := by
  unfold State.modInst
  split
  · next x hx => simp only [State.inst?, mapGet?_mapSet]; split
                 · rw [← State.inst?, hx]; rfl
                 · rfl
  · next hx => split
               · next h => rw [h, hx]; rfl
               · rfl

end Sys2Proof.Machine
end

