-- ==== Sys2Proof/Laws/Memory.lean ====
section
/-! SUPPORT. Memory: every operation that writes a home keeps the canonical form, and what a byte reads as after each. -/

namespace Sys2Proof.Machine

theorem State.reset_memory : Memory.wf State.reset.mem := rfl

/-! ### The canonical form -/

theorem State.setHomeByte_wf (s : State) (a : Nat) (b : Byte) (h : Memory.wf s.mem) : Memory.wf (s.setHomeByte a b).mem :=
  mapCanon_mapPut s.mem a b unwritten h

theorem State.setHomeBytes_wf (s : State) (a : Nat) (bs : List Byte) (h : Memory.wf s.mem) : Memory.wf (s.setHomeBytes a bs).mem := by
  induction bs generalizing s a with
  | nil => exact h
  | cons b r ih => exact ih _ _ (s.setHomeByte_wf a b h)

/-- A fold of updates that each keep the form keeps it. -/
theorem foldl_wf {α : Type} (f : State → α → State) (hf : ∀ s a, Memory.wf s.mem → Memory.wf (f s a).mem) (l : List α) (s : State)
    (h : Memory.wf s.mem) : Memory.wf (l.foldl f s).mem := by
  induction l generalizing s with
  | nil => exact h
  | cons a r ih => exact ih _ (hf s a h)

theorem State.homeTouch_mem (s : State) (sec : Nat) (write : Bool) : (s.homeTouch sec write).mem = s.mem := by
  unfold State.homeTouch; split <;> rfl

theorem State.rawHomeWrite_wf (s : State) (sec : Nat) (d : BitVec 256) (mask : BitVec 32) (h : Memory.wf s.mem) :
    Memory.wf (s.rawHomeWrite sec d mask).mem := by
  unfold State.rawHomeWrite
  have h1 := foldl_wf (fun (t : State) (i : Nat) => if mask.getLsbD i then t.setHomeByte (32 * sec + i) (sectorByte d i) else t)
    (fun t i ht => by split
                      · exact t.setHomeByte_wf _ _ ht
                      · exact ht) (List.range 32) (s.homeTouch sec true) (by rw [State.homeTouch_mem]; exact h)
  dsimp only
  split
  · exact h1
  · exact h1

theorem State.setL1_mem (s : State) (c u : Nat) (m : List (Nat × L1Sector)) : (s.setL1 c u m).mem = s.mem := by
  unfold State.setL1; split <;> rfl

theorem State.revoke_mem (s : State) (c sec : Nat) : (s.revoke c sec).mem = s.mem := by
  unfold State.revoke
  split
  · split
    · exact s.setL1_mem ..
    · rfl
  · rfl

theorem State.dropSlice_mem (s : State) (c sec : Nat) : (s.dropSlice c sec).mem = s.mem := rfl

theorem State.homePoison_mem (s : State) (sec : Nat) (bad : Bool) : (s.homePoison sec bad).mem = s.mem := by
  unfold State.homePoison; split <;> rfl

/-- A fold of updates that leave the homes alone leaves them alone. -/
theorem foldl_mem {α : Type} (f : State → α → State) (hf : ∀ s a, (f s a).mem = s.mem) (l : List α) (s : State) : (l.foldl f s).mem = s.mem := by
  induction l generalizing s with
  | nil => rfl
  | cons a r ih => exact (ih _).trans (hf s a)

theorem State.invalidateCopy_mem (s : State) (c sec : Nat) : (s.invalidateCopy c sec).mem = s.mem := by
  unfold State.invalidateCopy
  split
  · split
    · rw [State.homePoison_mem, State.dropSlice_mem, State.revoke_mem]
    · exact s.revoke_mem c sec
  · rfl

theorem State.directory_mem (s : State) (sec : Nat) (except : Option Nat) : (s.directory sec except).mem = s.mem :=
  foldl_mem _ (fun t c => by
    split
    · rfl
    · exact t.invalidateCopy_mem c sec) _ s

theorem State.homeWrite_wf (s : State) (sec : Nat) (d : BitVec 256) (mask : BitVec 32) (except : Option Nat) (h : Memory.wf s.mem) :
    Memory.wf (s.homeWrite sec d mask except).mem :=
  State.rawHomeWrite_wf _ sec d mask (by rw [State.directory_mem]; exact h)

theorem State.writeBackOf_wf (s : State) (c sec : Nat) (mask : BitVec 32) (h : Memory.wf s.mem) : Memory.wf (s.writeBackOf c sec mask).mem := by
  unfold State.writeBackOf
  split
  · next x _ =>
    split
    · exact h
    · dsimp only
      rw [State.homePoison_mem]
      exact s.homeWrite_wf sec x.data _ _ h
  · exact h

theorem State.writeBack_wf (s : State) (c sec : Nat) (h : Memory.wf s.mem) : Memory.wf (s.writeBack c sec).mem := s.writeBackOf_wf c sec _ h

theorem State.evict_wf (s : State) (c sec : Nat) (h : Memory.wf s.mem) : Memory.wf (s.evict c sec).mem := by
  unfold State.evict
  split
  · exact h
  · dsimp only
    rw [State.homePoison_mem, State.dropSlice_mem, State.revoke_mem]
    split
    · exact h
    · exact s.writeBack_wf c sec h

theorem State.flushLines_wf (s : State) (c : Nat) (lines : List Nat) (h : Memory.wf s.mem) : Memory.wf (s.flushLines c lines).mem :=
  foldl_wf _ (fun t _ ht => foldl_wf _ (fun u _ hu => u.writeBack_wf c _ hu) _ t ht) _ _ h

theorem State.flushAll_wf (s : State) (c : Nat) (h : Memory.wf s.mem) : Memory.wf (s.flushAll c).mem :=
  foldl_wf _ (fun t k ht => foldl_wf _ (fun u sec hu => u.writeBack_wf k sec hu) _ t ht) _ _ h

theorem State.clearFlush_mem (s : State) (who : Agent) : (s.clearFlush who).mem = s.mem := by
  cases who with
  | grp n g => exact s.modGrp_mem n g _
  | col c => exact s.modCc_mem c _

theorem State.releaseAct_wf (s : State) (u : MemUnit) (scope : Nat) (h : Memory.wf s.mem) : Memory.wf (s.releaseAct u scope).mem := by
  unfold State.releaseAct
  dsimp only
  split
  · exact h
  · split
    · split
      · exact foldl_wf (fun (t : State) (k : Nat) => t.publish k (fun _ => true)) (fun _ _ ht => ht) _ _ h
      · exact h
    · rw [State.clearFlush_mem]
      split
      · exact s.flushAll_wf _ h
      · exact s.flushLines_wf _ _ h

theorem State.acquireL1_mem (s : State) (c u : Nat) : (s.acquireL1 c u).mem = s.mem := s.setL1_mem ..

theorem State.markFull_mem (s : State) (who : Agent) : (s.markFull who).mem = s.mem := by
  cases who with
  | grp n g => exact s.modGrp_mem n g _
  | col c => exact s.modCc_mem c _

theorem State.acquireAct_wf (s : State) (u : MemUnit) (scope : Nat) (h : Memory.wf s.mem) : Memory.wf (s.acquireAct u scope).mem := by
  have hm : ∀ (t : State) (l : List (Nat × SliceSector)), Memory.wf t.mem → Memory.wf (l.foldl (fun t e => t.evict u.col e.1) t).mem :=
    fun t l ht => foldl_wf _ (fun t e ht => t.evict_wf u.col e.1 ht) l t ht
  have h0 : Memory.wf (if scope = 0 then s else s.markFull u.who).mem := by
    split
    · exact h
    · rw [State.markFull_mem]; exact h
  unfold State.acquireAct
  extract_lets s0 s1 s2 s3
  have h1 : Memory.wf s1.mem := by show Memory.wf (s0.acquireL1 u.col u.unit).mem; rw [State.acquireL1_mem]; exact h0
  have h2 : Memory.wf s2.mem := by
    show Memory.wf (ite (scope < 4) s1 _).mem
    split
    · exact h1
    · exact hm _ _ h1
  have h3 : Memory.wf s3.mem := hm _ _ h2
  split
  · exact h0
  · split
    · exact h2
    · show Memory.wf (State.setL1 s3 u.col u.unit _).mem
      rw [State.setL1_mem]
      exact h3

/-! ### Stores (R276, R277, R282) -/

theorem State.noteFlush_mem (s : State) (who : Agent) (sec : Nat) : (s.noteFlush who sec).mem = s.mem := by
  unfold State.noteFlush
  split
  · rfl
  · cases who with
    | grp n g => exact s.modGrp_mem n g _
    | col c => exact s.modCc_mem c _

theorem State.l1Store_mem (s : State) (c u sec : Nat) (d : BitVec 256) (mask : BitVec 32) : (s.l1Store c u sec d mask).mem = s.mem := by
  unfold State.l1Store
  split
  · exact s.setL1_mem ..
  · rfl

theorem State.revokeOthers_mem (s : State) (c : Nat) (u : Option Nat) (sec : Nat) : (s.revokeOthers c u sec).mem = s.mem := by
  unfold State.revokeOthers
  split
  · split
    · exact s.revoke_mem c sec
    · rfl
  · rfl

theorem State.snoop_wf (s : State) (c sec : Nat) (h : Memory.wf s.mem) : Memory.wf (s.snoop c sec).mem :=
  foldl_wf _ (fun t k ht => by
    split
    · exact ht
    · exact t.evict_wf k sec ht) _ _ h

theorem State.putSlice_wf (s : State) (c sec : Nat) (x : SliceSector) (h : Memory.wf s.mem) : Memory.wf (s.putSlice c sec x).mem := by
  unfold State.putSlice
  dsimp only
  split
  · exact h
  · split
    · exact s.evict_wf c _ h
    · exact h

theorem State.sliceStore_wf (s : State) (c : Nat) (u : Option Nat) (sec : Nat) (d : BitVec 256) (mask : BitVec 32) (wide : Bool)
    (h : Memory.wf s.mem) : Memory.wf (s.sliceStore c u sec d mask wide).mem :=
  State.putSlice_wf _ _ _ _ (by rw [State.revokeOthers_mem]; exact s.snoop_wf c sec h)

theorem State.setMark_mem (s : State) (line : Nat) (scope : Option Nat) : (s.setMark line scope).mem = s.mem := by
  unfold State.setMark
  split
  · split <;> rfl
  · rfl

theorem State.storeSector_wf (s : State) (u : MemUnit) (sec : Nat) (d : BitVec 256) (mask : BitVec 32) (scope release : Option Nat)
    (h : Memory.wf s.mem) : Memory.wf (s.storeSector u sec d mask scope release).mem := by
  unfold State.storeSector
  extract_lets s1 s2 s3
  have h3 : Memory.wf s3.mem := by
    show Memory.wf (State.setMark _ _ _).mem
    rw [State.setMark_mem, State.noteFlush_mem]
    exact State.sliceStore_wf _ _ _ _ _ _ _ (by rw [State.l1Store_mem]; exact h)
  split
  · split
    · exact s3.writeBack_wf _ _ h3
    · exact h3
  · exact h3

/-- A store to whatever a place is, memory or a launch window, keeps the form. -/
theorem State.storeBytes_wf (s : State) (u : MemUnit) (k : Nat) (bs : List Byte) (scope release : Option Nat) (h : Memory.wf s.mem) :
    Memory.wf (s.storeBytes u k bs scope release).mem :=
  foldl_wf _ (fun t p ht => by
    show Memory.wf (t.storePlace u p.1 _ _ scope release).mem
    unfold State.storePlace
    split
    · exact ht
    · exact t.storeSector_wf u p.1 _ _ scope release ht) _ _ h

/-! ### Engines, areas and page moves -/

/-- A run of bytes written past the caches keeps the form. -/
theorem putRun_wf (m : List Host.Cell) (a : Nat) (bs : List Byte) (h : memCanon m = true) : memCanon (putRun m a bs) = true := by
  have sortedAppend : ∀ (l r : List Host.Cell), mapSorted l = true → mapSorted r = true → (∀ x ∈ l, ∀ y ∈ r, x.1 < y.1) → mapSorted (l ++ r) = true := by
    intro l r hl hr hlr
    induction l with
    | nil => exact hr
    | cons e l ih =>
      obtain ⟨k, v⟩ := e
      have hs := (mapSorted_cons k v l).mp hl
      refine (mapSorted_cons k v (l ++ r)).mpr ⟨?_, ih hs.2 (fun x hx => hlr x (List.mem_cons_of_mem _ hx))⟩
      intro e he
      rcases List.mem_append.mp he with he | he
      · exact hs.1 e he
      · exact hlr (k, v) (List.mem_cons_self ..) e he
  have run : ∀ (l : List Byte) (n : Nat), let w := ((l.zipIdx n).filter (fun b => decide (b.1 ≠ unwritten))).map (fun b => (a + b.2, b.1))
      mapSorted (β := Byte) w = true ∧ ∀ e ∈ w, a + n ≤ e.1 ∧ e.1 < a + n + l.length ∧ e.2 ≠ unwritten := by
    intro l
    induction l with
    | nil => intro n; simp [mapSorted]
    | cons b l ih =>
      intro n
      have h2 := ih (n + 1)
      simp only [List.zipIdx_cons, List.filter_cons]
      by_cases hb : b = unwritten
      · simp only [hb, ne_eq, not_true_eq_false, decide_false, Bool.false_eq_true, if_false]
        refine ⟨h2.1, fun e he => ?_⟩
        have h3 := h2.2 e he
        simp only [List.length_cons]
        exact ⟨by omega, by omega, h3.2.2⟩
      · simp only [ne_eq, hb, not_false_eq_true, decide_true, if_true, List.map_cons]
        refine ⟨(mapSorted_cons _ _ _).mpr ⟨fun e he => ?_, h2.1⟩, fun e he => ?_⟩
        · have h3 := h2.2 e he
          show a + n < e.1
          omega
        · simp only [List.length_cons]
          rcases List.mem_cons.mp he with rfl | he
          · exact ⟨Nat.le_refl _, by dsimp only; omega, hb⟩
          · have h3 := h2.2 e he
            exact ⟨by omega, by omega, h3.2.2⟩
  have hm := (mapCanon_iff m unwritten).mp h
  have hr := run bs 0
  dsimp only at hr
  refine (mapCanon_iff _ _).mpr ⟨?_, ?_⟩
  · unfold putRun
    refine sortedAppend _ _ (sortedAppend _ _ (mapSorted_filter m _ hm.1) hr.1 ?_) (mapSorted_filter m _ hm.1) ?_
    · intro x hx y hy
      have h1 := of_decide_eq_true (List.mem_filter.mp hx).2
      have h2 := hr.2 y hy
      omega
    · intro x hx y hy
      have h2 := of_decide_eq_true (List.mem_filter.mp hy).2
      rcases List.mem_append.mp hx with hx | hx
      · have h1 := of_decide_eq_true (List.mem_filter.mp hx).2
        omega
      · have h1 := hr.2 x hx
        omega
  · intro e he
    unfold putRun at he
    rcases List.mem_append.mp he with he | he
    · rcases List.mem_append.mp he with he | he
      · exact hm.2 e (List.mem_filter.mp he).1
      · exact (hr.2 e he).2.2
    · exact hm.2 e (List.mem_filter.mp he).1

theorem foldl_flush_wf (s : State) (p : Nat → Bool) (h : Memory.wf s.mem) :
    Memory.wf (allCols.foldl (fun t c => (((t.col c).slice.filter (fun e => p e.1)).map (·.1)).foldl (fun u sec => u.evict c sec) t) s).mem :=
  foldl_wf _ (fun _ c ht => foldl_wf _ (fun u sec hu => u.evict_wf c sec hu) _ _ ht) _ _ h

theorem State.flushRange_wf (s : State) (base len : Nat) (h : Memory.wf s.mem) : Memory.wf (s.flushRange base len).mem := by
  unfold State.flushRange
  dsimp only
  exact foldl_flush_wf s (fun sec => decide (base ≤ 32 * sec) && decide (32 * sec < base + len)) h

theorem State.areaStore_wf (s : State) (a : Nat) (bs : List Byte) (h : Memory.wf s.mem) : Memory.wf (s.areaStore a bs).mem := by
  unfold State.areaStore
  split
  · exact s.storeBytes_wf _ a bs none none h
  · exact putRun_wf _ a bs (s.flushRange_wf a bs.length h)

theorem State.copyRange_wf (s old : State) (src dst len : Nat) (h : Memory.wf s.mem) (ho : Memory.wf old.mem) :
    Memory.wf (s.copyRange old src dst len).mem := by
  have key : ∀ (l m : List Host.Cell), (∀ e ∈ l, e.2 ≠ unwritten) → memCanon m = true →
      memCanon (l.foldl (fun m e => mapSet m (e.1 - src + dst) e.2) m) = true := by
    intro l
    induction l with
    | nil => intro m _ hm; exact hm
    | cons e l ih =>
      intro m hl hm
      exact ih _ (fun x hx => hl x (List.mem_cons_of_mem _ hx)) (mapCanon_mapSet m _ _ _ hm (hl e (List.mem_cons_self ..)))
  exact key _ _ (fun e he => ((mapCanon_iff _ _).mp ho).2 e (List.mem_filter.mp he).1) (mapCanon_filter _ _ _ h)

theorem State.homeStore_wf (s : State) (a : Nat) (bs : List Byte) (h : Memory.wf s.mem) : Memory.wf (s.homeStore a bs).mem := by
  unfold State.homeStore
  refine foldl_wf _ (fun t p ht => ?_) _ _ h
  have h1 : Memory.wf (allCols.foldl (fun u c => u.evict c p.1) t).mem := foldl_wf _ (fun u c hu => u.evict_wf c p.1 hu) _ _ ht
  dsimp only
  rw [State.setMark_mem]
  exact State.rawHomeWrite_wf _ p.1 (placeBytes p.2.1 p.2.2).1 (placeBytes p.2.1 p.2.2).2 h1

/-! ### Bytes -/

theorem State.homeByte_setHomeByte (s : State) (a b : Nat) (v : Byte) : (s.setHomeByte a v).homeByte b = if b = a then v else s.homeByte b :=
  mapGet_mapPut s.mem a b v unwritten

theorem State.homeByte_setHomeBytes (s : State) (a b : Nat) (bs : List Byte) :
    (s.setHomeBytes a bs).homeByte b = if a ≤ b ∧ b < a + bs.length then bs[b - a]?.getD 0 else s.homeByte b := by
  induction bs generalizing s a with
  | nil =>
    simp only [State.setHomeBytes, List.length_nil]
    rw [if_neg (by omega)]
  | cons v r ih =>
    simp only [State.setHomeBytes, ih, State.homeByte_setHomeByte, List.length_cons]
    by_cases h1 : b = a
    · subst h1
      rw [if_neg (by omega), if_pos rfl, if_pos (by omega)]
      simp
    · by_cases h2 : a + 1 ≤ b ∧ b < a + 1 + r.length
      · rw [if_pos h2, if_pos (by omega)]
        have : b - a = (b - (a + 1)) + 1 := by omega
        rw [this, List.getElem?_cons_succ]
      · rw [if_neg h2, if_neg h1, if_neg (by omega)]

theorem leBytes_length (n v : Nat) : (leBytes n v).length = n := by
  induction n generalizing v with
  | zero => rfl
  | succ n ih => simp [leBytes, ih]

theorem leNat_leBytes (n v : Nat) : leNat (leBytes n v) = v % 256 ^ n := by
  induction n generalizing v with
  | zero => simp [leBytes, leNat, Nat.mod_one]
  | succ n ih =>
    simp only [leBytes, leNat, ih, BitVec.toNat_ofNat]
    rw [show (256 : Nat) ^ (n + 1) = 256 * 256 ^ n from by rw [Nat.pow_succ, Nat.mul_comm], Nat.mod_mul]

end Sys2Proof.Machine
end

