-- ==== Sys2Proof/Tests/Slice0.lean ====
section
/-! SUPPORT. Tests: ill-formed terms the checks refuse, words written out from the encodings, one-step results worked by hand from
the spec, and for each statement states and operands that meet its hypotheses. -/

namespace Sys2Proof.Tests

open Sys2Proof Sys2Proof.Machine

set_option Elab.async false

/-! ### Fields for tests -/

/-- Registers of v: D, A, B, MODX. -/
def vF (d a b m : Nat) (lit : Option W := none) : Fields :=
  ⟨false, 0, BitVec.ofNat 10 d, BitVec.ofNat 10 a, BitVec.ofNat 10 b, 0, 0, 0, false, false, false, BitVec.ofNat 4 m, lit⟩
/-- Registers of x-space in D, A and B. -/
def sF (d a b m : Nat) (lit : Option W := none) : Fields := { vF d a b m lit with dS := true, aS := true, bS := true }
/-- D and A in x-space, B unused. -/
def sA (d a m : Nat) (lit : Option W := none) : Fields := { vF d a 0 m lit with dS := true, aS := true }
/-- D in x-space alone. -/
def sD (d m : Nat) (lit : Option W := none) : Fields := { vF d 0 0 m lit with dS := true }
/-- A and B in x-space, D unused. -/
def sAB (a b m : Nat) (lit : Option W := none) : Fields := { vF 0 a b m lit with aS := true, bS := true }

/-! ### Well-formedness: each check refuses a term -/

/-- The length a row takes (R60 to R67): a literal where none is taken, none where one is needed. -/
theorem smoke_length : ∀ i ∈ [Instr.iadd (vF 1 2 3 0 (some 7)), .iaddLit (vF 1 2 0 0), .imad (vF 1 2 3 0), .clz (vF 1 2 0 0 (some 0)),
    .movi (vF 1 0 0 0), .lda (vF 2 4 0 2), .fence (vF 0 0 0 0), .ld (vF 2 4 0 2 (some 0)), .kmov (vF 1 2 0 0 (some 0))], i.wf = false := by
  decide

/-- MODX values a row does not take: each rule of the MODX column. -/
theorem smoke_modx : ∀ i ∈ [Instr.iadd (vF 1 2 3 3), .imul (vF 1 2 3 1), .icmp (vF 1 2 3 10), .lea (vF 2 4 6 5), .lea (vF 2 4 6 15),
    .fcls (vF 1 2 0 3), .cvt (vF 1 2 0 14), .upk (vF 2 4 0 1), .upk (vF 2 4 0 8), .st (vF 0 4 6 1), .meld (vF 2 4 6 9 (some 0x04000000)),
    .meld (vF 2 4 6 11 (some 0x04000000)), .kmov (vF 1 2 0 2), .kmovReg (vF 1 2 0 0), .gbarGrid (sD 1 0), .gbarGang (sD 1 1),
    .tlbiAll (sAB 0 0 1), .fsetSet (vF 0 0 3 1), .fsetClr (vF 0 0 3 0), .swpgXch (sA 2 4 0), .mscfWb (sAB 0 3 1)], i.wf = false := by
  decide

/-- An operand the opcode does not use, a field that names a predicate or selectors, a reserved bit of LIT (R51 to R54, R57). -/
theorem smoke_fields : ∀ i ∈ [Instr.clz (vF 1 2 3 0), .iaddLit (vF 1 2 3 0 (some 0)), .iaddLit { vF 1 2 0 0 (some 0) with bS := true },
    .clz { vF 1 2 0 0 with pb := 1 }, .icmp (vF 8 2 3 0), .kand (vF 1 2 8 0), .kand { vF 1 2 3 0 with aS := true }, .qswz (vF 1 2 256 0),
    .imad (vF 1 2 3 0 (some 1)), .bfe (vF 1 2 0 0 (some 0x4000)), .bfe (vF 1 2 0 0 (some 0x20)), .bfi (vF 1 2 3 0 (some 0x2100)),
    .bperm (vF 1 2 3 0 (some 0x10000)), .ldMem (vF 2 4 0 2 (some 0x03000000)), .ldsMem (vF 2 4 0 2 (some 0x01000000)),
    .fence (vF 0 0 0 0 (some 0x08000001)), .exit ⟨0, 1, 0⟩, .br ⟨0, 1, 1⟩, .br ⟨1, 1, 0⟩, .brx ⟨0, 0, 0x10001⟩, .brx ⟨0, 1, 0x10000⟩,
    .call ⟨0, 1, 0x10001⟩, .park ⟨0, 1, 1⟩, .trap ⟨0, 1, 0x10000⟩, .nop ⟨1, 0, false, false⟩, .nop ⟨0, 0, false, true⟩,
    .movsi ⟨1, 1, false, true⟩], i.wf = false := by
  decide

/-- SCOPE and ORDER of each class of R175: a value its row does not allow. -/
theorem smoke_order : ∀ i ∈ [Instr.ldMem (vF 2 4 0 2 (some 0x20000000)), .stMem (vF 0 4 6 2 (some 0x08000000)), .ldcMem (vF 2 4 0 2 (some 0x24000000)),
    .lda (vF 2 4 0 2 (some 0)), .strl (vF 0 4 6 2 (some 0x04000000)), .atom (vF 2 4 6 0 (some 0)), .atom (vF 2 4 6 0 (some 0xE4000000)),
    .atoms (vF 2 4 6 0 (some 0x24000000)), .fence (vF 0 0 0 0 (some 0x04000000)), .cwb (vF 0 4 6 0 (some 0x20000000)),
    .prefMem (vF 0 4 0 0 (some 0x04000000))], i.wf = false := by
  decide

/-- A case row, an event and a reserved word whose opcode a row takes have no words of their own. -/
theorem smoke_no_words : ∀ i ∈ [Instr.rsmGoWrite (sA 0 2 0), .calDataRead (sD 2 0), .kresRetire (sF 1 2 3 0), .deal 0, .powerOn [] [] [] [],
    .reservedOpcode (.short 3 ⟨0, 0, false, false⟩), .reservedOpcode (.long 0x000 (vF 0 0 0 0)),
    .reservedOpcode (.long 0x074 (vF 0 0 0 0))], i.wf = false := by
  decide

/-- A well-formed term beside each. -/
theorem smoke_well_formed : ∀ i ∈ [Instr.iadd (vF 1 2 3 2), .iaddLit (vF 1 2 0 0 (some 7)), .imad (vF 1 2 3 0 (some 0x01000000)), .clz (vF 1 2 0 0),
    .icmp (vF 7 2 3 9), .lea (vF 2 4 6 12), .cvt (vF 1 2 0 13), .upk (vF 2 4 0 7), .st (vF 0 4 6 5), .meld (vF 2 4 6 10 (some 0x04000000)),
    .kmov (vF 1 2 0 0), .kmovReg (vF 1 2 0 1), .gbarGrid (sD 1 1), .qswz (vF 1 2 255 0), .bfe (vF 1 2 0 1 (some 0x0804)),
    .ldMem (vF 2 4 0 2 (some 0x02000008)), .lda (vF 2 4 0 2 (some 0x48000000)), .strl (vF 0 4 6 5 (some 0x4C0000C8)),
    .atoms (vF 2 4 6 0 (some 0x64000000)), .fence (vF 0 0 0 0 (some 0xB4000000)), .cwb (vF 0 4 6 0 (some 0xC0000000)), .pref (vF 0 4 0 1),
    .exit ⟨0, 0, 0⟩, .brc ⟨15, 1, 1⟩, .brx ⟨0, 0, 0x10000⟩, .park ⟨0, 1, 0xFFF000⟩, .trap ⟨0, 14, 0x0102⟩, .nop ⟨0, 0, false, false⟩,
    .movsi ⟨5, 0x3FF, false, false⟩, .reservedOpcode (.short 4 ⟨0, 0, false, false⟩), .reservedOpcode (.long 0x3FF (vF 0 0 0 0))],
    i.wf = true := by
  decide

/-! ### Words worked in the spec, and words written out bit by bit, one family after another -/

/-- The words of the manual's worked encodings (02 Worked encodings, 05 Worked examples, 07, 11, 15, 16, 20). -/
theorem test_decode_manual : ∀ p ∈ [
    (([0x40000140, 0x301C0001] : List W), Instr.iadd (vF 5 3 7 1)),
    ([0x471BFFFF, 0xF2000000], .brc ⟨11, 0xFFFFF2, 0⟩),
    ([0x81800240, 0x20000001, 0x0804], .bfe (vF 9 2 0 1 (some 0x0804))),
    ([0x47200000, 0x00010000], .brx ⟨0, 0, 0x10000⟩),
    ([0x47600000, 0x0E000102], .trap ⟨0, 14, 0x0102⟩),
    ([0x00C03E70], .movsi ⟨3, 0x39C, false, false⟩),
    ([0x4E500200, 0x30100011], .csegred { vF 8 3 4 1 with bS := true }),
    ([0x4E004000, 0x20018840], .xmov { vF 256 2 0 0 with dS := true, pa := 3, dist := 16 }),
    ([0x803040D0, 0x20000061, 0x00055538], .imulhiLit { vF 259 258 0 1 (some 349496) with dS := true, aS := true }),
    ([0x81E000D0, 0x20000020, 0x00003001], .icsubLit { vF 3 258 0 0 (some 12289) with aS := true }),
    ([0x50010390, 0x40000025], .ld { vF 14 260 0 5 with pk := 1, aS := true }),
    ([0x4E510280, 0x80240007], .csegred { vF 10 8 9 7 with pk := 1 }),
    ([0x57000040, 0x00000041], .gbarGrid (sD 1 1)),
    ([0x90B10290, 0x40280021, 0xA4000000], .meld { vF 10 260 10 1 (some 0xA4000000) with pk := 1, aS := true }),
    ([0x5C400000, 0x00000000], .wfe (vF 0 0 0 0)),
    ([0x90700000, 0x40680035, 0x4C0000C8], .strl (sAB 4 26 5 (some 0x4C0000C8)))],
    decode p.1 = .ok (p.2, []) := by
  intro p hp
  simp only [List.mem_cons, List.not_mem_nil, or_false] at hp
  obtain rfl | rfl | rfl | rfl | rfl | rfl | rfl | rfl | rfl | rfl | rfl | rfl | rfl | rfl | rfl | rfl := hp <;> rfl

/-- Words put together by hand from R48, R49, R55 and the opcode table: length code, OP, PN, PK, D, A, B, PA, PB, DIST, DS, AS, BS, MODX. -/
theorem test_decode_bits :
    -- floating point: `fadd.f16 v1, v2, v3`
    decode [0b01_0010000000_0_000_0000000001_000000#32, 0b0010_0000000011_000_000_00000_0_0_0_0001#32]
      = .ok (.fadd (vF 1 2 3 1), [])
    -- predicates: `(!k2) ktov.b32 v6, k5`
    ∧ decode [0b01_0001100101_1_010_0000000110_000000#32, 0b0101_0000000000_000_000_00000_0_0_0_0001#32]
      = .ok (.ktov { vF 6 5 0 1 with pn := true, pk := 2 }, [])
    -- engines: `cpy s4:5, s6:7, s8`
    ∧ decode [0b01_0101100111_0_000_0000000100_000000#32, 0b0110_0000001000_000_000_00000_1_1_1_0000#32]
      = .ok (.cpy (sF 4 6 8 0), [])
    -- tasks and groups: `getsr v1, v2`
    ∧ decode [0b01_0101110110_0_000_0000000001_000000#32, 0b0010_0000000000_000_000_00000_0_0_0_0000#32]
      = .ok (.getsr (vF 1 2 0 0), [])
    -- system: `syswr 0x12, s6:7` with the number in LIT
    ∧ decode [0b10_0111000001_0_000_0000000000_000000#32, 0b0110_0000000000_000_000_00000_0_1_0_0000#32, 0x12]
      = .ok (.syswrLit { vF 0 6 0 0 (some 0x12) with aS := true }, [])
    -- S32: `mov q7, s255`, an OP8 of no row
    ∧ decode [0b00_00000001_0100000111_0011111111_1_1#32] = .ok (.mov ⟨263, 255, true, true⟩, [])
    ∧ decode [0b00_11111111_0000000001_0000000010_0_0#32] = .ok (.reservedOpcode (.short 255 ⟨1, 2, false, false⟩), [])
    -- T64: `call` through v6:7, `park`
    ∧ decode [0b01_0001110011_0000_0000000000000000#32, 0b00000101_0000000110_0_0_000000000000#32] = .ok (.call ⟨0, 5, 0x018000⟩, [])
    ∧ decode [0b01_0001110101_0000_1111111111111111#32, 0b11111110_100000000001_000000000000#32] = .ok (.park ⟨0, 0xFFFFFE, 0x801000⟩, []) := by
  refine ⟨rfl, rfl, rfl, rfl, rfl, rfl, rfl, rfl, rfl⟩

/-! ### A column core in the middle of a block -/

/-- Column core 0 at an instruction of a block at 0x2000, at a privilege, with s registers. -/
def inCol (priv : Nat) (regs : Regs) (words : List W := []) : State :=
  { State.reset with cols := [(0, { Column.boot with
      core := { ColCore.reset with run := .running, addr := 0x2000, body := some words, priv := priv, s := regs } })] }
/-- A part of the next state. -/
def got {α : Type} (o : Out State) (f : State → α) : Option α := match o with | .next t => some (f t) | _ => none
/-- Register s i of column core 0 after an instruction run at machine privilege. -/
def sVal (i : Instr) (regs : Regs) (n : Nat) : Option W := got (exec i (inCol 3 regs)) (fun t => getReg (t.cc 0).s n)
/-- Predicate n of it. -/
def kVal (i : Instr) (regs : Regs) (n : Nat) : Option Bool := got (exec i (inCol 3 regs)) (fun t => getPred (t.cc 0).k n)

/-! ### A group in the middle of a deal -/

/-- A launch of one group of a full crew: 64 base registers, one granule of extension, 2 of scratch, up to 4 tiles. -/
def rec1 : LaunchRec :=
  { entry := 0x8000, trapEnt := 0, crews := 1, tdimx := 32, tdimy := 1, base := 64, part := 0x00040102, argbytes := 0, gdimx := 1, gdimy := 1,
    gdimz := 1, gang := 1, pdens := 0, flags := 4, prio := 0, pscope := 2, cscope := 5, succ := 0, pmask := 0xFFFFFFFF }
def inst1 : Inst :=
  { col := 0, ctx := 1, line := 0, copy := 0, winva := 0, lrec := rec1, order := 0, isNewest := true, chainedFrom := none, admitted := 1, retired := [],
    chainDone := true, gridBar := ⟨0, [], []⟩, gangBars := [], quietSeen := false, quiet := false, heatAt := none }
/-- A dealt thread with v registers and predicates. -/
def thr (v : Regs) (k : BitVec 8 := 0) : Thread :=
  { st := .dealt, next := 0x8000, ret := none, v := v, k := k, q := [], parkMask := 0, isTask := false, trap := none, park := none, entry := false,
    owed := false, fence := none, lane := 0, entering := none }
def grp1 (threads : List (Nat × Thread)) (s : Regs) : Group :=
  { inst := 0, gflat := 0, slotBase := 0, threads := threads, s := s, q := [], k := 0, scalar := .idle, fmode := 0x10, fstat := 0, soft := 0, pots := [],
    scratch := [], xheld := false, tiles := [], shoe := [], skip := 0, stopped := false, disposed := false, trapCheck := .good, active := true, activeSince := 0,
    admitSeq := 0, lastDeal := none, anteFrom := none, anteDue := false, idleSince := none, flush := [], flushFull := false, saving := false,
    fence := none, asid := 1, pkg := 0 }
/-- A header of a kind: 10 words, VHIGH 40, no flag bound (R45). -/
def hdrOf (kind : Nat) : D64 := BitVec.ofNat 64 (3 * 2 ^ 62 + 10 * 2 ^ 55 + kind * 2 ^ 52 + 0xFF * 2 ^ 32 + (if kind = 2 then 0 else 40 * 2 ^ 16))
def deal1 (kind : Nat) (tricks : List (List Lane)) (words : List W := []) : Deal :=
  { grp := 0, addr := 0x8000, hdr := hdrOf kind, body := words, pos := 0, tricks := tricks, trick := 0, fmode := 0x10, fstat := 0, acc := 0,
    isReturn := false, todo := [], pend := [], done := false, held := false }
/-- Core 0 with group 0 in a deal of a kind in slot 0, one trick of its threads, lane = index. -/
def inDeal (kind : Nat) (threads : List (Nat × Thread)) (s : Regs := []) (words : List W := []) : State :=
  { State.reset with
    cur := .deal 0 0, cols := [], insts := [(0, inst1)], nextInst := 1, ctxroots := [(1, 0x20001)]
    cores := [(0, { ACore.reset with
      groups := [(0, grp1 threads s)]
      deal0 := some (deal1 kind [if kind = 2 then [⟨0, 0, none, false⟩] else threads.map (fun t => ⟨t.1 % 32, t.1, none, false⟩)] words) })] }
/-- Register v i of thread t of the group after an instruction. -/
def vVal (i : Instr) (s : State) (t n : Nat) : Option W := (got (exec i s) (fun u => (u.thr? 0 0 t).map (fun x => getReg x.v n))).join
/-- Register s i of the group. -/
def gVal (i : Instr) (s : State) (n : Nat) : Option W := (got (exec i s) (fun u => (u.grp? 0 0).map (fun x => getReg x.s n))).join
/-- The trap record of thread t: cause and code. -/
def parked (i : Instr) (s : State) (t : Nat) : Option (Nat × Nat) :=
  (got (exec i s) (fun u => ((u.thr? 0 0 t).bind (fun x => x.park)).map (fun p => (p.info.cause, p.info.code)))).join
/-- 20 threads, thread t with v3 = t, v4 the segment mask, k1 set but in thread 0: the crew of the example of 07. -/
def crew20 : State :=
  inDeal 1 ((List.range 20).map (fun t => (t, thr [(3, BitVec.ofNat 32 t), (4, 0x109)] (if t = 0 then 0 else 2)))) [(2, 0x40)]

set_option maxRecDepth 4000 in
/-- R113 to R117, worked by hand; the `icsub` is the reduction of 11, the quotient −7 div 2 that of 00. -/
theorem test_arithmetic : ∀ p ∈ [
    (Instr.iadd (sF 1 2 3 0), ([(2, 0xFFFFFFFF), (3, 2)] : Regs), (1 : W)), (.iadd (sF 1 2 3 1), [(2, 0x7FFFFFFF), (3, 1)], 0x7FFFFFFF),
    (.iaddLit (sA 1 2 2 (some 1)), [(2, 0xFFFFFFFF)], 0xFFFFFFFF), (.isub (sF 1 2 3 2), [(2, 3), (3, 5)], 0),
    (.isubLit (sA 1 2 1 (some 1)), [(2, 0x80000000)], 0x80000000), (.imul (sF 1 2 3 0), [(2, 0x10001), (3, 0x10001)], 0x20001),
    (.imulLit (sA 1 2 0 (some 3)), [(2, 0x80000001)], 0x80000003), (.imulhi (sF 1 2 3 0), [(2, 0xFFFFFFFF), (3, 1)], 0xFFFFFFFF),
    (.imulhiLit (sA 1 2 1 (some 0xFFFFFFFF)), [(2, 0xFFFFFFFF)], 0xFFFFFFFE),
    (.imad (sF 1 2 3 0 (some 0x01200000)), [(2, 3), (3, 5), (4, 7)], 22), (.imin (sF 1 2 3 0), [(2, 0xFFFFFFFF), (3, 1)], 0xFFFFFFFF),
    (.iminLit (sA 1 2 1 (some 1)), [(2, 0xFFFFFFFF)], 1), (.imax (sF 1 2 3 0), [(2, 0xFFFFFFFF), (3, 1)], 1),
    (.imaxLit (sA 1 2 1 (some 1)), [(2, 0xFFFFFFFF)], 0xFFFFFFFF), (.iabs (sA 1 2 1), [(2, 0x80000000)], 0x7FFFFFFF),
    (.ineg (sA 1 2 0), [(2, 1)], 0xFFFFFFFF), (.icsub (sF 1 2 3 0), [(2, 24577), (3, 12289)], 12288),
    (.icsubLit (sA 1 2 0 (some 12289)), [(2, 12288)], 12288), (.idiv (sF 1 2 3 0), [(2, 0xFFFFFFF9), (3, 2)], 0xFFFFFFFD),
    (.idivLit (sA 1 2 1 (some 0)), [(2, 9)], 0xFFFFFFFF), (.irem (sF 1 2 3 0), [(2, 0xFFFFFFF9), (3, 2)], 0xFFFFFFFF),
    (.iremLit (sA 1 2 1 (some 0)), [(2, 9)], 9),
    (.iadd64 (sF 2 4 6 0), [(4, 0xFFFFFFFF), (6, 1)], 0), (.isub64 (sF 2 4 6 0), [(4, 0), (5, 1), (6, 1)], 0xFFFFFFFF),
    (.iadd64Lit (sA 2 4 0 (some 0xFFFFFFFF)), [(4, 0), (5, 1)], 0xFFFFFFFF), (.isub64Lit (sA 2 4 2 (some 1)), [(4, 0), (5, 0)], 0),
    (.imulw (sF 2 4 6 1), [(4, 0x10000), (6, 0x30002)], 0x20000), (.imulwLit (sA 2 4 0 (some 0xFFFFFFFF)), [(4, 2)], 0xFFFFFFFE)],
    sVal p.1 p.2.1 (if p.1 matches .iadd64 _ | .isub64 _ | .iadd64Lit _ | .isub64Lit _ | .imulw _ | .imulwLit _ then 2 else 1) = some p.2.2 := by
  decide

/-- The high words of the 64-bit results: a carry, a borrow, a sign. -/
theorem test_wide_high : ∀ p ∈ [
    (Instr.iadd64 (sF 2 4 6 0), ([(4, 0xFFFFFFFF), (6, 1)] : Regs), (1 : W)), (.isub64 (sF 2 4 6 0), [(4, 0), (5, 1), (6, 1)], 0),
    (.iadd64Lit (sA 2 4 0 (some 0xFFFFFFFF)), [(4, 0), (5, 1)], 0), (.imulw (sF 2 4 6 1), [(4, 0x10000), (6, 0x30002)], 3),
    (.imulwLit (sA 2 4 0 (some 0xFFFFFFFF)), [(4, 2)], 0xFFFFFFFF)], sVal p.1 p.2.1 3 = some p.2.2 := by
  decide

set_option maxRecDepth 4000 in
/-- R118 to R122 and R126, R127: the examples of 05 (`bfe` of 0xF50, `bperm`) and others worked by hand. -/
theorem test_logic_shift_field : ∀ p ∈ [
    (Instr.iand (sF 1 2 3 0), ([(2, 0xF0), (3, 0x3C)] : Regs), (0x30 : W)), (.iandLit (sA 1 2 0 (some 0x3C)), [(2, 0xF0)], 0x30),
    (.ior (sF 1 2 3 0), [(2, 0xF0), (3, 0x3C)], 0xFC), (.iorLit (sA 1 2 0 (some 0x3C)), [(2, 0xF0)], 0xFC),
    (.ixor (sF 1 2 3 0), [(2, 0xF0), (3, 0x3C)], 0xCC), (.ixorLit (sA 1 2 0 (some 0x3C)), [(2, 0xF0)], 0xCC),
    (.iandn (sF 1 2 3 0), [(2, 0xF0), (3, 0x3C)], 0xC0), (.iandnLit (sA 1 2 0 (some 0x3C)), [(2, 0xF0)], 0xC0),
    (.shl (sF 1 2 3 0), [(2, 1), (3, 32)], 0), (.shlLit (sA 1 2 0 (some 31)), [(2, 3)], 0x80000000),
    (.shr (sF 1 2 3 0), [(2, 0x80000000), (3, 31)], 1), (.shrLit (sA 1 2 0 (some 100)), [(2, 0xFFFFFFFF)], 0),
    (.sar (sF 1 2 3 0), [(2, 0x80000000), (3, 40)], 0xFFFFFFFF), (.sarLit (sA 1 2 0 (some 4)), [(2, 0x80000000)], 0xF8000000),
    (.rotl (sF 1 2 3 0), [(2, 0x80000001), (3, 33)], 3), (.rotlLit (sA 1 2 0 (some 0)), [(2, 5)], 5),
    (.shf (sF 1 2 3 0 (some 0x01200000)), [(2, 0x12345678), (3, 0x9ABCDEF0), (4, 8)], 0x3456789A),
    (.shf (sF 1 2 3 1 (some 0x01200000)), [(2, 0x12345678), (3, 0x9ABCDEF0), (4, 8)], 0x789ABCDE),
    (.clz (sA 1 2 0), [], 32), (.popc (sA 1 2 0), [(2, 0xF00F0001)], 9), (.brev (sA 1 2 0), [(2, 6)], 0x60000000),
    (.bfe (sA 1 2 1 (some 0x0804)), [(2, 0x0F50)], 0xFFFFFFF5), (.bfe (sA 1 2 1 (some 0x081C)), [(2, 0x80000000)], 0xFFFFFFF8),
    (.bfi (sF 1 2 3 0 (some 0x0804)), [(2, 0xAB), (3, 0xFFFFFFFF)], 0xFFFFFABF),
    (.bperm (sF 1 2 3 0 (some 0x0123)), [(2, 0x44332211), (3, 0x88776655)], 0x11223344),
    (.bperm (sF 1 2 3 0 (some 0x7084)), [(2, 0x44332211), (3, 0x88776655)], 0x88110055),
    (.sel (sF 1 2 3 3), [(2, 7), (3, 9)], 9), (.selLit (sA 1 2 0 (some 9)), [(2, 7)], 7),
    (.movi (sD 1 0 (some 0xFFFFFFF6)), [], 0xFFFFFFF6), (.icvt (sA 1 2 0), [(2, 300)], 127), (.icvt (sA 1 2 3), [(2, 0xFFFFFFFF)], 0),
    (.inot ⟨1, 2, true, true⟩, [(2, 0x0F)], 0xFFFFFFF0), (.mov ⟨1, 2, true, true⟩, [(2, 0x0F)], 0x0F),
    (.movsi ⟨1, 0x39C, true, false⟩, [], 0xFFFFFF9C), (.nop ⟨0, 0, false, false⟩, [(1, 4)], 4)], sVal p.1 p.2.1 1 = some p.2.2 := by
  decide

/-- R125, R123, R131: an address with a negative index, comparisons, predicates. `k0` reads 1 and a write to it is discarded. -/
theorem test_address_compare :
    sVal (.lea (sF 2 4 6 10)) [(4, 0x1000), (6, 0xFFFFFFFF)] 2 = some 0xFFC
    ∧ sVal (.leaLit (sA 2 4 4 (some 0xFFFFFFFF))) [(4, 0)] 3 = some 0xF
    ∧ kVal (.icmp { sAB 2 3 2 with d := 1 }) [(2, 0xFFFFFFFF), (3, 0)] 1 = some true
    ∧ kVal (.icmpLit { vF 1 2 0 6 (some 0) with aS := true }) [(2, 0xFFFFFFFF)] 1 = some false
    ∧ kVal (.kmovReg { vF 3 2 0 1 with aS := true }) [(2, 5)] 3 = some true ∧ kVal (.kand (vF 2 0 0 0)) [] 2 = some true
    ∧ kVal (.kor (vF 2 1 0 0)) [] 2 = some true ∧ kVal (.kxor (vF 2 0 0 0)) [] 2 = some false ∧ kVal (.kandn (vF 2 0 1 0)) [] 2 = some true
    ∧ kVal (.kmov (vF 0 1 0 0)) [] 0 = some true ∧ sVal (.ktov { vF 1 0 0 1 with dS := true }) [] 1 = some 0xFFFFFFFF := by
  decide

set_option maxRecDepth 4000 in
/-- R142 to R154: the examples of 04 and 06 (`fscale` of 1.5, `pcvt`, `pmul4`, `padd4`, the special functions) and sums and products worked by
hand. -/
theorem test_float : ∀ p ∈ [
    (Instr.fadd (sF 1 2 3 0), ([(2, 0x3F800000), (3, 0x40000000)] : Regs), (0x40400000 : W)),
    (.faddLit (sA 1 2 0 (some 0x3F800000)), [(2, 0x4B800000)], 0x4B800000), (.fsub (sF 1 2 3 1), [(2, 0x3C00), (3, 0x3C00)], 0),
    (.fsubLit (sA 1 2 0 (some 0x40000000)), [(2, 0x3F800000)], 0xBF800000), (.fmul (sF 1 2 3 2), [(2, 0x4000), (3, 0x4040)], 0x40C0),
    (.fmulLit (sA 1 2 0 (some 0x3F000000)), [(2, 0x3F800000)], 0x3F000000),
    (.ffma (sF 1 2 3 0 (some 0x01200000)), [(2, 0x40000000), (3, 0x40400000), (4, 0x3F800000)], 0x40E00000),
    (.fmin (sF 1 2 3 0), [(2, 0x80000000), (3, 0)], 0x80000000), (.fminLit (sA 1 2 0 (some 0x7FC00000)), [(2, 0x3F800000)], 0x3F800000),
    (.fmax (sF 1 2 3 0), [(2, 0x80000000), (3, 0)], 0), (.fmaxLit (sA 1 2 0 (some 0xBF800000)), [(2, 0x3F800000)], 0x3F800000),
    (.fscaleLit (sA 1 2 0 (some 0xFFFFFF6B)), [(2, 0x3FC00000)], 2), (.fscale (sF 1 2 3 0), [(2, 0x3F800000), (3, 4)], 0x41800000),
    (.frnd (sA 1 2 0), [(2, 0x3FC00000)], 0x40000000), (.frcp (sA 1 2 0), [(2, 0x40000000)], 0x3F000000),
    (.fsqrt (sA 1 2 0), [(2, 0x3E800000)], 0x3F000000), (.frsqrt (sA 1 2 0), [(2, 0x40800000)], 0x3F000000),
    (.fexp2 (sA 1 2 0), [(2, 0x40400000)], 0x41000000), (.flog2 (sA 1 2 0), [(2, 0x3F800000)], 0),
    (.fexp2 (sA 1 2 0), [(2, 0x43000000)], 0x7F800000)], sVal p.1 p.2.1 1 = some p.2.2 := by
  decide

/-- R145, R153, R154 with predicates, pairs and dot products; `pcvt` is the example of 06. -/
theorem test_float_forms :
    kVal (.fcmp { sAB 2 3 0 with d := 1 }) [(2, 0x3F800000), (3, 0x3F800000)] 1 = some true
    ∧ kVal (.fcmpLit { vF 1 2 0 0 (some 0) with aS := true }) [(2, 0x80000000)] 1 = some true
    ∧ sVal (.cvt (sA 1 2 0)) [(2, 0x3F800000)] 1 = some 0x3C00
    ∧ sVal (.cvt (sA 1 2 1)) [(2, 0x3F800000)] 1 = some 0x3F80
    ∧ sVal (.fcls (sA 1 2 0)) [(2, 0x7F800000)] 1 = some 0x80 := by
  decide

/-- R150 to R154 in a block of threads: the examples of 04 and 06 (`padd4`, `pmul4`, `pcvt`, `dot4`, `dot2`). -/
theorem test_packed : ∀ p ∈ [
    (Instr.padd4 (vF 1 2 3 0), ([(2, 0x40387F7E), (3, 0xC038387E)] : Regs), (0x00407F7E : W)),
    (.padd4Lit (vF 1 2 0 0 (some 0xC038387E)), [(2, 0x40387F7E)], 0x00407F7E), (.pmul4 (vF 1 2 3 1), [(2, 0x7C), (3, 0)], 0x7E),
    (.pmul4Lit (vF 1 2 0 0 (some 0x38)), [(2, 0x40)], 0x40), (.pcvt (vF 1 2 0 2), [(2, 0x5FD03C00), (3, 0x7E008000)], 0x7F807E38),
    (.upk (vF 0 2 0 0), [(2, 0x40003C00)], 0x40000000), (.upk (vF 1 2 0 5), [(2, 0x38000000)], 0x3C000000),
    (.dot4 (vF 1 2 3 0 (some 0x01000000)), [(2, 0xB8304038), (3, 0x40404040), (4, 0x3E800000)], 0x40A80000),
    (.dot2 (vF 1 2 3 0 (some 0x01000000)), [(2, 0x7BFF7BFF), (3, 0xFBFF7BFF), (4, 0x3F800000)], 0x3F800000),
    (.dot8 (vF 1 2 3 0 (some 0x01000000)), [(2, 0x0000000F), (3, 0x00000002), (4, 10)], 8),
    (.hfma2 (vF 1 2 3 0 (some 0x01000000)), [(2, 0x3C004000), (3, 0x40004000), (4, 0x3C003C00)], 0x42004500)],
    vVal p.1 (inDeal 0 [(5, thr p.2.1)]) 5 1 = some p.2.2 := by
  decide

set_option maxRecDepth 4000 in
/-- R104 to R106, R161 to R167: the run of the example of 07, one crew of 20 threads, and of R122, R128 in it. -/
theorem test_crew :
    vVal (.csegred (vF 5 3 4 0)) crew20 2 5 = some 3 ∧ vVal (.csegred (vF 5 3 4 0)) crew20 7 5 = some 25
    ∧ vVal (.csegred (vF 5 3 4 0)) crew20 19 5 = some 162 ∧ vVal (.cscan (vF 6 3 0 0)) crew20 7 6 = some 28
    ∧ vVal (.cred (vF 7 3 0 0)) crew20 19 7 = some 190 ∧ vVal (.cfirst { vF 8 3 0 0 with pk := 1 }) crew20 0 8 = some 0
    ∧ vVal (.cfirst { vF 8 3 0 0 with pk := 1 }) crew20 19 8 = some 1 ∧ vVal (.vote (vF 9 1 0 0)) crew20 0 9 = some 0x000FFFFE
    ∧ vVal (.xmov { vF 5 3 0 0 with pa := 3, dist := 16 }) crew20 1 5 = some 17 ∧ vVal (.qswz (vF 5 3 0x1B 0)) crew20 4 5 = some 7
    ∧ vVal (.xsel (vF 5 3 3 0)) crew20 9 5 = some 9 ∧ vVal (.cperm (vF 5 3 3 0)) crew20 9 5 = some 9 := by
  decide

/-- R128: the indirect registers, inside the holding of 64 and at its end, where the lane faults with register-window. -/
theorem test_indirect :
    vVal (.vird (vF 1 2 0 0)) (inDeal 0 [(5, thr [(2, 63), (63, 9)])]) 5 1 = some 9
    ∧ parked (.vird (vF 1 2 0 0)) (inDeal 0 [(5, thr [(2, 64)])]) 5 = some (2, 0)
    ∧ vVal (.viwr (vF 0 2 3 0)) (inDeal 0 [(5, thr [(2, 63), (3, 9)])]) 5 63 = some 9
    ∧ parked (.viwr (vF 0 2 3 0)) (inDeal 0 [(5, thr [(2, 64), (3, 9)])]) 5 = some (2, 0) := by
  decide

/-! ### States and operands that meet the hypotheses of the statements -/

/-- The environment and lanes a state gives the instruction it issues. -/
def envOf (s : State) : Env := match issueCtx s with | some x => x.1 | none => ⟨.col 0, 3, false, 0, 0, 0, 0, 0⟩
def lanesOf (s : State) : List LaneView := match issueCtx s with | some x => x.2 | none => []
def rowAt (i : Instr) : Row := (rowOf i).getD ⟨0, .short, .plain, .all, .lt 1, .none0, .none, 0⟩
def fieldsAt (i : Instr) : Fields := (fieldsOf i).getD (vF 0 0 0 0)
/-- Whether an instruction issues with its own effect in a state. -/
def issuesB (i : Instr) (s : State) : Bool :=
  (rowOf i).isSome && (fieldsOf i).isSome && (issueCtx s).isSome && (illegal (rowAt i) (envOf s) (fieldsAt i)).isNone
    && (lanesOf s).any (laneActive (fieldsAt i))

theorem ctx_of {s : State} (h : (issueCtx s).isSome = true) : issueCtx s = some (envOf s, lanesOf s) := by
  unfold envOf lanesOf
  cases hc : issueCtx s with
  | none => simp [hc] at h
  | some x => rfl

theorem issues_of {i : Instr} {s : State} (h : issuesB i s = true) : Issues i (rowAt i) (fieldsAt i) s (envOf s) (lanesOf s) := by
  simp only [issuesB, Bool.and_eq_true, Option.isNone_iff_eq_none] at h
  obtain ⟨⟨⟨⟨h1, h2⟩, h3⟩, h4⟩, h5⟩ := h
  refine ⟨?_, ?_, ctx_of h3, h4, h5⟩
  · unfold rowAt; cases hr : rowOf i with
    | none => simp [hr] at h1
    | some r => rfl
  · unfold fieldsAt; cases hr : fieldsOf i with
    | none => simp [hr] at h2
    | some r => rfl

/-- Every instruction of a list issues with its own effect in a state. -/
def AllIssue (s : State) (l : List Instr) : Prop := ∀ i ∈ l, ∃ r f e ls, fieldsOf i = some f ∧ Issues i r f s e ls

theorem issues_each {l : List Instr} {s : State} (h : l.all (fun i => issuesB i s) = true) : AllIssue s l := by
  intro i hi
  have := issues_of (List.all_eq_true.1 h i hi)
  exact ⟨_, _, _, _, this.fields, this⟩

/-- RegisterAccess: the last register of x-space, the last pair, a predicate at each end. -/
theorem witness_RegisterAccess : ((true = false ∨ 263 < 264) ∧ (true = false ∨ 262 + 1 < 264)) ∧ (0 < 1 ∧ 1 < 8) ∧ 0 < 7 ∧ 7 < 8 := by decide

/-- Two threads of a crew in a gathered block. -/
def two : State := inDeal 1 [(0, thr []), (5, thr [])]

/-- IntegerArithmetic. -/
theorem witness_IntegerArithmetic : AllIssue two [
  .iadd (vF 1 2 3 2), .iaddLit (vF 1 2 0 0 (some 7)), .isub (vF 63 2 3 0), .isubLit (vF 1 2 0 1 (some 7)), .imad (vF 1 2 3 0 (some 0x01000000)),
  .iadd64 (vF 62 2 4 0), .iadd64Lit (vF 2 4 0 0 (some 7)), .isub64 (vF 2 4 6 2), .isub64Lit (vF 2 4 0 0 (some 7)), .imul (vF 1 2 3 0),
  .imulLit (vF 1 2 0 0 (some 7)), .imulhi (vF 1 2 3 1), .imulhiLit (vF 1 2 0 0 (some 7)), .imulw (vF 2 3 4 1), .imulwLit (vF 2 3 0 0 (some 7)),
  .imin (vF 1 2 3 1), .iminLit (vF 1 2 0 0 (some 7)), .imax (vF 1 2 3 1), .imaxLit (vF 1 2 0 0 (some 7)), .iabs (vF 1 2 0 1), .ineg (vF 1 2 0 0),
  .icsub (vF 1 2 3 1), .icsubLit (vF 1 2 0 0 (some 7)), .idiv (vF 1 2 3 1), .idivLit (vF 1 2 0 0 (some 0)), .irem (vF 1 2 3 0),
  .iremLit (vF 1 2 0 1 (some 0))] :=
  issues_each (by decide)

/-- LogicAndShifts; and a field that reaches past the lane. -/
theorem witness_LogicAndShifts : AllIssue two [
  .iand (vF 1 2 3 0), .iandLit (vF 1 2 0 0 (some 7)), .ior (vF 1 2 3 0), .iorLit (vF 1 2 0 0 (some 7)), .ixor (vF 1 2 3 0), .ixorLit (vF 1 2 0 0 (some 7)),
  .iandn (vF 1 2 3 0), .iandnLit (vF 1 2 0 0 (some 7)), .shl (vF 1 2 3 0), .shlLit (vF 1 2 0 0 (some 32)), .shr (vF 1 2 3 0), .shrLit (vF 1 2 0 0 (some 31)),
  .sar (vF 1 2 3 0), .sarLit (vF 1 2 0 0 (some 99)), .rotl (vF 1 2 3 0), .rotlLit (vF 1 2 0 0 (some 32)), .shf (vF 1 2 3 1 (some 0x01000000)),
  .clz (vF 1 2 0 0), .popc (vF 1 2 0 0), .brev (vF 1 2 0 0), .bfe (vF 1 2 0 1 (some 0x201F)), .bfi (vF 1 2 3 0 (some 0x2000)),
  .bperm (vF 1 2 3 0 (some 0xFFFF))] :=
  issues_each (by decide)

/-- CompareMoveConvert; and indices inside the holding of 64. -/
theorem witness_CompareMoveConvert : (issueHolding two = 64 ∧ ∀ lv ∈ lanesOf two, (srcA (lanesOf two) lv (vF 1 2 0 0)).toNat < 64) ∧ AllIssue two [
  .icmp (vF 7 2 3 9), .icmpLit (vF 0 2 0 0 (some 7)), .sel (vF 1 2 3 7), .selLit (vF 1 2 0 0 (some 7)), .lea (vF 2 4 6 12), .leaLit (vF 2 4 0 0 (some 7)),
  .movi (vF 1 0 0 0 (some 7)), .movi (vF 2 0 0 2 (some 7)), .icvt (vF 1 2 0 5), .vird (vF 1 2 0 0), .viwr (vF 0 2 3 0)] :=
  ⟨⟨by decide, by decide⟩, issues_each (by decide)⟩

/-- PredicatesAndShortForms: the predicate rows, and each short form in a block of threads and in a scalar one. -/
theorem witness_PredicatesAndShortForms :
    AllIssue two [Instr.kand (vF 7 0 1 0), .kor (vF 1 2 3 0), .kxor (vF 1 2 3 0), .kandn (vF 1 2 3 0), .kmov (vF 1 2 0 0), .kmovReg (vF 1 2 0 1),
      .ktov (vF 1 2 0 1)]
    ∧ issueCtx two = some (envOf two, lanesOf two) ∧ illegalShort 0 (envOf two) ⟨0, 0, false, false⟩ = none
    ∧ illegalShort 1 (envOf two) ⟨263, 512, true, true⟩ = none ∧ illegalShort 2 (envOf two) ⟨1, 2, false, false⟩ = none
    ∧ illegalShort 3 (envOf two) ⟨1, 0x200, false, false⟩ = none :=
  ⟨issues_each (by decide), ctx_of (by decide), by decide, by decide, by decide, by decide⟩

/-- A crew at an `fmax` that begins a fused sequence: v1 is the greater of v2 and v3, v4 their distance to it, v5 two to that power, v6 the sum. -/
def fused (fmode : W) (v : Regs) : State :=
  let s := inDeal 1 [(0, thr v)] [] ([Instr.fmax (vF 1 2 3 0), .fsub (vF 4 1 3 0), .fexp2 (vF 5 4 0 0), .fadd (vF 6 5 1 0)].flatMap encode)
  (s.deal? 0 0).elim s (fun d => s.setDeal 0 0 (some { d with fmode := fmode }))

/-- R110: with overflow enabled, 2^200 overflows at the third position, so the thread parks at the `fmax`, which writes nothing; not enabled, it runs. -/
theorem test_fused :
    (got (exec (.fmax (vF 1 2 3 0)) (fused 0x410 [(2, 0x43480000)])) (fun t => (t.thr? 0 0 0).map (fun x =>
      (x.park.map (fun p => (p.info.cause, p.info.pos, p.info.pc)), getReg x.v 1)))).join = some (some (7, 2, 0x8008), 0)
    ∧ vVal (.fmax (vF 1 2 3 0)) (fused 0x10 [(2, 0x43480000)]) 0 1 = some 0x43480000 := by
  decide +kernel

/-- FloatScalars, and an `fmax` that begins no sequence. -/
theorem witness_FloatScalars :
    AllIssue two [Instr.fadd (vF 1 2 3 2), .faddLit (vF 1 2 0 0 (some 7)), .fsub (vF 1 2 3 0), .fsubLit (vF 1 2 0 0 (some 7)), .fmul (vF 1 2 3 0),
      .fmulLit (vF 1 2 0 0 (some 7)), .fmin (vF 1 2 3 0), .fminLit (vF 1 2 0 0 (some 7)), .ffma (vF 1 2 3 0 (some 0x01000000)), .fcmp (vF 1 2 3 14),
      .fcmpLit (vF 1 2 0 0 (some 7)), .fcls (vF 1 2 0 2), .fscale (vF 1 2 3 0), .fscaleLit (vF 1 2 0 0 (some 7)), .frnd (vF 1 2 0 14), .frcp (vF 1 2 0 0),
      .fsqrt (vF 1 2 0 1), .frsqrt (vF 1 2 0 0), .fexp2 (vF 1 2 0 0), .flog2 (vF 1 2 0 2), .fmax (vF 1 2 3 0), .fmaxLit (vF 1 2 0 0 (some 7))]
    ∧ fusedTail (vF 1 2 3 0) (wordsAfter two (vF 1 2 3 0)) = none ∧ fusedTail (vF 1 2 0 0 (some 7)) (wordsAfter two (vF 1 2 0 0 (some 7))) = none
    ∧ fmEnables (envOf two).fmode = 0 ∧ issuesB (.fmax (vF 1 2 3 0)) (fused 0x10 []) = true
    ∧ fusedTail (vF 1 2 3 0) (wordsAfter (fused 0x10 []) (vF 1 2 3 0)) = some (vF 4 1 3 0, vF 5 4 0 0, vF 6 5 1 0)
    ∧ (rowOf (.fsub (vF 4 1 3 0))).isSome = true ∧ (rowOf (.fexp2 (vF 5 4 0 0))).isSome = true ∧ (rowOf (.fadd (vF 6 5 1 0))).isSome = true :=
  ⟨issues_each (by decide), by decide, by decide, by decide, by decide, by decide, by decide, by decide, by decide⟩

/-- FloatLaws, NarrowLaws: data of each class in each format; two that are ordered; one above and one below 0. -/
theorem witness_FloatLaws :
    (∀ F ∈ Fmt.all, (frd F 0 F.canon).isNan = true ∧ (frd F 0 0).isZero = true ∧ (frd F 0 (F.bias * 2 ^ F.fb)).isNan = false
      ∧ (frd F 0 (F.bias * 2 ^ F.fb)).isInf = false ∧ (frd F 0 (F.bias * 2 ^ F.fb)).isZero = false)
    ∧ (∀ F ∈ [fmtF32, fmtF16, fmtBf16, fmtE5m2], frd F 0 F.infBits = .inf false ∧ frd F 0 (F.withSign true F.infBits) = .inf true)
    ∧ (∀ F ∈ [fmtF32, fmtF16, fmtBf16], frd F 0 (F.infBits + 1) = .snan) ∧ (frd fmtF32 0 0xFF800000).Less (frd fmtF32 0 0x7F800000)
    ∧ 0 < (frd fmtF32 0 0x3F800000).val ∧ (frd fmtF32 0 0xBF800000).val < 0 := by
  refine ⟨by decide +kernel, by decide +kernel, by decide +kernel, Or.inl (by decide +kernel), ?_, ?_⟩
  · rw [show frd fmtF32 0 0x3F800000 = .fin false (2 ^ 23) (-23) false by decide +kernel]
    have h := mul_pos (by positivity : (0 : Rat) < ((2 ^ 23 : Nat) : Rat)) (by positivity : (0 : Rat) < 2 ^ (-23 : Int))
    simp only [Datum.val, Bool.false_eq_true, if_false]
    linarith
  · rw [show frd fmtF32 0 0xBF800000 = .fin true (2 ^ 23) (-23) false by decide +kernel]
    have h := mul_pos (by positivity : (0 : Rat) < ((2 ^ 23 : Nat) : Rat)) (by positivity : (0 : Rat) < 2 ^ (-23 : Int))
    simp only [Datum.val, if_true]
    linarith

/-- NarrowFormats. -/
theorem witness_NarrowFormats : AllIssue two [
  .cvt (vF 1 2 0 13), .pcvt (vF 1 2 0 5), .upk (vF 2 4 0 2), .upk (vF 1 4 0 7), .padd4 (vF 1 2 3 1), .padd4Lit (vF 1 2 0 0 (some 7)), .pmul4 (vF 1 2 3 0),
  .pmul4Lit (vF 1 2 0 1 (some 7)), .hfma2 (vF 1 2 3 1 (some 0x01000000)), .dot2 (vF 1 2 3 0 (some 0x01000000)), .dot4 (vF 1 2 3 3 (some 0x01000000)),
  .dot8 (vF 1 2 3 1 (some 0x01000000))] :=
  issues_each (by decide)

/-- QuadsAndCrews; the first and the last lane of a crew. -/
theorem witness_QuadsAndCrews : (OwnPositions (lanesOf two) ∧ (lanesOf two).map (·.pos) = [0, 5] ∧ fmEnables (envOf two).fmode = 0) ∧ AllIssue two [
  .xmov { vF 1 2 0 0 with pa := 1, dist := 31 }, .qswz (vF 1 2 0xFF 0), .vote (vF 1 7 0 2), .cfirst (vF 1 2 0 0), .xsel (vF 1 2 3 0), .cperm (vF 1 2 3 0),
  .cred (vF 1 2 0 10), .cscan (vF 1 2 0 0), .csegred (vF 1 2 3 0)] :=
  ⟨⟨by decide, by decide, by decide⟩, issues_each (by decide)⟩

/-- R171: mask bits above the last occupied lane are ignored: three lanes, bits 0, 1 and 3. -/
theorem test_csegred_above : segMask (rowAt (.csegred (vF 5 3 4 1))) (vF 5 3 4 1) (lanesOf (inDeal 1 ((List.range 3).map (fun t => (t, thr [(4, 11)]))))) = 3 := by
  decide

/-- A group's scalar context in the middle of a block. -/
def scalar0 : State := inDeal 2 [] [(2, 0x40)]

/-- Frames: a column core, a group's scalar context, a block of threads with one active lane and one that is not. -/
theorem witness_Frames : (envOf (inCol 0 [])).who = .col 0
    ∧ ((envOf scalar0).who = .deal 0 0 ∧ (envOf scalar0).kind = 2 ∧ (scalar0.deal? 0 0).isSome = true ∧ (scalar0.grp? 0 0).isSome = true)
    ∧ ((envOf crew20).who = .deal 0 0 ∧ (envOf crew20).kind ≠ 2 ∧ (crew20.deal? 0 0).isSome = true ∧ (crew20.grp? 0 0).isSome = true
      ∧ (∃ lv ∈ lanesOf crew20, lv.helper = false ∧ laneActive { vF 0 0 0 0 with pk := 1 } lv = true)
      ∧ (crew20.thr? 0 0 19).isSome = true ∧ ∀ lv ∈ lanesOf crew20, lv.helper = false → laneActive { vF 0 0 0 0 with pk := 1 } lv = true → lv.tidx ≠ 0) := by
  refine ⟨rfl, ⟨rfl, rfl, rfl, rfl⟩, rfl, by decide, rfl, rfl, ?_, rfl, by decide⟩
  exact ⟨(lanesOf crew20)[1], List.getElem_mem _, rfl, rfl⟩

/-- A predicate that reads 0. -/
def off (f : Fields) : Fields := { f with pk := 1 }
/-- The lowest reason of a word in a state. -/
def reasonOf (i : Instr) (s : State) : Option Nat := illegal (rowAt i) (envOf s) (fieldsAt i)

/-- Legality: words no lane of which is active; each reason of R59 at a boundary of what is allowed; the privileged rows at privileges too low. -/
theorem witness_Legality :
    ((∀ s ∈ [two, inCol 0 []], (issueCtx s).isSome = true ∧ (lanesOf s).any (laneActive (off (vF 1 2 3 0))) = false)
      ∧ (lanesOf two).any (laneActive (vF 0 0 0 0)) = true)
    ∧ (∀ p ∈ [(Instr.vird (vF 1 2 0 0), inCol 0 [], 2), (.sysrd (sF 2 0 4 0), two, 2), (.iadd (vF 1 2 3 3), two, 3), (.lea (vF 2 4 6 5), two, 3),
        (.iadd (sF 1 2 3 0), two, 4), (.iadd64 (vF 1 2 4 0), two, 4), (.iadd (vF 1 2 3 0), inCol 0 [], 4), (.iadd { vF 1 512 3 0 with aS := true }, inCol 0 [], 4),
        (.iadd { vF 1 520 3 0 with aS := true }, two, 4), (.iadd { vF 1 2 3 0 with pa := 6 }, two, 5), (.iadd { vF 1 2 3 0 with pa := 4, dist := 5 }, two, 5),
        (.iadd { vF 1 2 3 0 with pb := 1 }, scalar0, 4), (.iaddLit { vF 1 2 0 0 (some 1) with pb := 1 }, two, 5), (.clz (vF 1 2 3 0), two, 6),
        (.bfe (vF 1 2 0 0 (some 0x2100)), two, 6), (.mscfWb { vF 0 0 2 0 with bS := true }, inCol 0 [], 7), (.halt (vF 0 0 0 0), inCol 1 [], 7),
        (.ldMem (vF 2 4 0 2 (some 0x20000000)), two, 8), (.lda (vF 2 4 0 2 (some 0x04000000)), two, 8)],
        reasonOf p.1 p.2.1 = some p.2.2 ∧ (issueCtx p.2.1).isSome = true ∧ (lanesOf p.2.1).any (laneActive (fieldsAt p.1)) = true)
    ∧ (∀ i ∈ [Instr.tret (vF 0 0 0 0), .tlbiAll (vF 0 0 0 0), .tlbiAsid { vF 0 0 4 1 with bS := true }, .tlbiAsidLit (vF 0 0 0 1 (some 7)),
        .tlbiPage (sAB 2 4 2), .tlbiPageLit { vF 0 2 0 2 (some 7) with aS := true }, .swpgMv (sA 3 4 0), .swpgXch (sA 3 4 1),
        .mscfWb { vF 0 0 2 0 with bS := true }, .mscfWbi { vF 0 0 2 1 with bS := true }, .gsave (sF 3 4 6 0), .grest (sA 3 4 0), .fqpop (sA 3 4 0),
        .kresRetry (sF 1 2 3 0), .kresContinue (sF 1 2 3 0), .kresRetire (sF 1 2 3 0), .halt (vF 0 0 0 0)],
        (rowOf i).isSome = true ∧ illegal (rowAt i) { envOf (inCol 0 []) with priv := 3 } (fieldsAt i) = none
        ∧ (envOf (inCol 0 [])).priv < (if (rowAt i).op = 0x1CD then 3 else 1)
        ∧ ∀ lv ∈ lanesOf (inCol 0 []), laneActive (fieldsAt i) lv = true ∧ lv.helper = false) := by
  refine ⟨by decide, by decide, by decide⟩

/-- The words of a column-scalar block in memory at an address (R3, R45). -/
def withBlock (s : State) (a : Nat) (body : List W) : State := s.placeBytesAt a (blockBytes (colHeader body.length) body)
def exitWords : List W := [0x47400000, 0]
/-- A translation of the first GiB to itself, for all (R346). -/
def wideLeaf : TlbEntry := ⟨0, 0, 2, 0x3E⟩
/-- Column core 0 at a privilege, with vectors of both levels at 0x4000, where a handler lies, and the wide translation cached. -/
def trapState (priv : Nat) : State :=
  withBlock ((inCol priv []).modCc 0 (fun x =>
    { x with tlb := [wideLeaf], eie := true, trapS := { x.trapS with vec := 0x4000 }, trapM := { x.trapM with vec := 0x4000 } })) 0x4000 exitWords
/-- Whether a block can be fetched. -/
def fetches (r : FetchRes) : Bool := match r with | .ok _ _ => true | _ => false
def fails (r : FetchRes) : Bool := match r with | .fail _ _ _ => true | _ => false
/-- The body a fetch brings. -/
def bodyOf (r : FetchRes) : List W := match r with | .ok _ b => b | _ => []

/-- A boundary of column core 0 with an event pending. -/
def boundary (priv : Nat) (eie : Bool) : State :=
  (inCol priv []).modCol 0 (fun y => { y with evLatched := 0x20, evmask := 0x20, core := { y.core with body := none, eie := eie } })
def waitsFor (r : FetchRes) : Bool := match r with | .wait => true | _ => false

/-- TrapEntry: from U to S, from S and from M to M with a handler that can be fetched; one under a system lock; a vector in the reserved range, and one where
no block lies; a call and a breakpoint; an event due at a boundary at U and at S, and none due with EIE clear. -/
theorem witness_TrapEntry :
    (∀ p ∈ [0, 1, 3], let s := trapState p
      let toM := p != 0
      let s1 := s.modCc 0 (fun y => y.enter toM 25 0 0x2000 0x2010 0)
      fetches (s1.fetchBlock 0 (s1.colXlate 0 (if toM then 3 else 1)) true 0x4000) = true)
    ∧ (let s1 := (inCol 1 []).modCc 0 (fun y => y.enter true 25 0 0x2000 0x2010 0)
       s1.fetchBlock 0 (.physical 0) true ((inCol 1 []).cc 0).trapM.vec = .badFormat)
    ∧ (let s1 := ((inCol 3 []).modCc 0 (fun x => { x with trapM := { x.trapM with vec := 0xFFFFFFFFFFFFFFFC } })).modCc 0 (fun y => y.enter true 25 0 0x2000 0x2010 0)
       fails (s1.fetchBlock 0 (.physical 0) true 0xFFFFFFFFFFFFFFFC) = true)
    ∧ (let s1 := ((trapState 1).modCol 0 (fun y => { y with locks := [⟨true, true, 7, 0x200, 0x27F, [(0x4000, 4096)], .swap 0 1⟩] })).modCc 0
         (fun y => y.enter true 25 0 0x2000 0x2010 0)
       waitsFor (s1.fetchBlock 0 (s1.colXlate 0 3) true 0x4000) = true)
    ∧ AllIssue (trapState 0) [.ecall (vF 0 0 0 0), .brk (vF 0 0 0 0)]
    ∧ (∀ p ∈ [0, 1], (boundary p true).eventDue 0 = true) ∧ (boundary 1 false).eventDue 0 = false ∧ (boundary 3 true).eventDue 0 = false :=
  ⟨by decide, by decide, by decide, by decide, issues_each (by decide), by decide, by decide, by decide⟩

/-- R226: what the trap of an `ecall` at U leaves, worked from the rule: CAUSE 25, PPRIV 0, PEIE 1; `tnext` behind the word. -/
theorem test_trap_entry :
    got (exec (.ecall (vF 0 0 0 0)) (trapState 0)) (fun t => ((t.cc 0).priv, (t.cc 0).eie, (t.cc 0).addr, (t.cc 0).trapS.cause, (t.cc 0).trapS.blk, (t.cc 0).trapS.next))
      = some (1, false, 0x4000, 0x1019, 0x2000, 0x2010)
    ∧ got (exec (.brk (vF 0 0 0 0)) (trapState 1)) (fun t => ((t.cc 0).priv, (t.cc 0).eie, (t.cc 0).trapM.cause)) = some (3, true, 0x141A)
    ∧ got (exec (.mscfWb { vF 0 0 2 0 with bS := true }) (trapState 0)) (fun t => ((t.cc 0).priv, (t.cc 0).trapS.cause)) = some (1, 0x71001) := by
  decide

/-- Column core 0 at S with a saved trap: where it goes back to, and the block at 0x2000. -/
def backState (next : D64) (ppriv : Nat) : State :=
  withBlock ((inCol 1 [(2, 5)]).modCc 0 (fun x =>
    { x with tlb := [wideLeaf], trapS := { x.trapS with blk := 0x2000, next := next, cause := BitVec.ofNat 64 (0x1019 + 1024 * ppriv), q1 := 0x0000000700000006 } })) 0x2000
    ([0x5C400000, 0] ++ exitWords)

/-- TrapReturn: to the header; to the second instruction of the block; a `tnext` of 0 and one that is no multiple of 4. A PPRIV of 2. -/
theorem witness_TrapReturn :
    AllIssue (backState 0x2000 0) [.tret (vF 0 0 0 0)]
    ∧ (∀ p ∈ [0, 1, 3], let s := backState 0x2010 p
      let l := (s.cc 0).trapS
      let body := bodyOf (s.fetchBlock 0 (s.colXlate 0 p) true l.blk)
      (s.fetchHeader 0 (s.colXlate 0 p) l.blk).toOption = some (colHeader 4) ∧ headerOk (colHeader 4) true = true
      ∧ l.next.toNat < l.blk.toNat + 8 + 4 * hdrLen (colHeader 4) ∧ fetches (s.fetchBlock 0 (s.colXlate 0 p) true l.blk) = true
      ∧ isBoundary (body.length + 1) body ((l.next.toNat - l.blk.toNat - 8) / 4) = true)
    ∧ AllIssue (backState 0 0) [.tret (vF 0 0 0 0)] ∧ AllIssue (backState 0x2002 2) [.tret (vF 0 0 0 0)] := by
  refine ⟨issues_each (by decide), by decide, issues_each (by decide), issues_each (by decide)⟩

/-- R227: the return to the middle of a block brings the latches back; a `tnext` of 0 is a block-format trap to M. -/
theorem test_trap_return :
    got (exec (.tret (vF 0 0 0 0)) (backState 0x2010 0)) (fun t => ((t.cc 0).priv, (t.cc 0).eie, (t.cc 0).addr, (t.cc 0).pos, getReg (t.cc 0).q 2, getReg (t.cc 0).q 3))
      = some (0, true, 0x2000, 2, 6, 7)
    ∧ got (exec (.tret (vF 0 0 0 0)) (backState 0x2000 1)) (fun t => ((t.cc 0).priv, (t.cc 0).body)) = some (1, none)
    ∧ got (exec (.tret (vF 0 0 0 0)) (backState 0 0)) (fun t => ((t.cc 0).run, (t.cc 0).trapM.cause, (t.cc 0).trapM.next)) = some (.haltedVector, 0x412, 0x2008) := by
  decide

/-- StepRunsDecoded: a column core in its block, a deal in its block, a plain instruction and an event. -/
theorem witness_StepRunsDecoded :
    (let s := { inCol 3 [] exitWords with agenda := [⟨1, .issue (.col 0)⟩] }
     s.tripped = false ∧ (s.cc 0).run = .running ∧ (s.cc 0).body = some exitWords ∧ decode (exitWords.drop (s.cc 0).pos) = .ok (.exit ⟨0, 0, 0⟩, []))
    ∧ (let s := { inDeal 0 [(0, thr [])] [] exitWords with agenda := [⟨1, .issue (.deal 0 0)⟩] }
       s.tripped = false ∧ ((s.deal? 0 0).map (fun d => (d.done, d.blocked))) = some (false, false) ∧ decode (exitWords.drop 0) = .ok (.exit ⟨0, 0, 0⟩, []))
    ∧ (let s := State.reset
       (∀ e ∈ s.cols, ∀ w ∈ e.2.windows, (s.window e.1 w.1).gos = []) ∧ (∀ e ∈ s.cores, e.2.groups = [] ∧ (s.core e.1).holdWaiters = []) ∧ s.hostq = []
         ∧ s.insts = []) := by
  refine ⟨⟨rfl, rfl, rfl, rfl⟩, ⟨rfl, rfl, rfl⟩, by decide, by decide, rfl, rfl⟩

/-- R39, R41: a word placed where the next fetch reads it is the first instruction after reset (`movsi s5, -1`), 3 words and 1. -/
theorem test_first_instruction :
    got (step (State.reset.withFetchWord 32 0x00C05FFE)) (fun t => getReg (t.cc 0).s 5) = some 0xFFFFFFFF
    ∧ got (step (State.reset.withFetchWord 96 0x12345678_00000040_81D00040)) (fun t => getReg (t.cc 0).s 1) = some 0x12345678
    ∧ decodeTableWord 32 0x00C05FFE = some (.movsi ⟨5, 0x3FF, true, false⟩) := by
  refine ⟨by decide +kernel, by decide +kernel, by decide⟩

/-- A column core at the boundary before a block. -/
def before (s : State) : State := { s.modCc 0 (fun x => { x with addr := 0x2000, body := none, eie := false }) with agenda := [⟨1, .issue (.col 0)⟩] }

/-- BlockFetch: a block that can be begun, one that is none, a fetch that fails; a core about to fetch a handler, and one at its start address; and a body of
one terminator with its header. -/
theorem witness_BlockFetch :
    (let s := before (withBlock (inCol 3 []) 0x2000 exitWords)
     s.tripped = false ∧ (s.cc 0).run = .running ∧ (s.cc 0).body = none ∧ s.eventDue 0 = false ∧ fetches (s.fetchBlock 0 (s.colXlate 0 3) true 0x2000) = true)
    ∧ (let s := before (inCol 3 []); s.eventDue 0 = false ∧ s.fetchBlock 0 (s.colXlate 0 3) true 0x2000 = .badFormat)
    ∧ (let s := before (inCol 0 []); s.eventDue 0 = false ∧ s.fetchBlock 0 (s.colXlate 0 0) true 0x2000 = .fail 16 0 0x2000)
    ∧ (∀ k ∈ [FetchKind.handler, .start], (((before (inCol 3 [])).modCc 0 (fun x => { x with fetch := k })).cc 0).fetch = k)
    ∧ blockOk (colHeader 2) exitWords true = true ∧ blockOk (hdrOf 0 + 0) ([0x57000000, 0] ++ List.replicate 6 0 ++ exitWords) false = true := by
  refine ⟨by decide, by decide, by decide, by decide, by decide, by decide⟩

/-- R45: the header worked in 02, LEN 12, WAIT on f2, VHIGH 40; and one with a bit of [15:0] set. -/
theorem test_header : headerOk 0xC61004FF00280000 false = true ∧ hdrLen 0xC61004FF00280000 = 12 ∧ hdrKind 0xC61004FF00280000 = 1
    ∧ hdrWait 0xC61004FF00280000 = 4 ∧ hdrVhigh 0xC61004FF00280000 = 40 ∧ headerOk 0xC61004FF00280001 false = false
    ∧ headerOk 0xC61004FF00280000 true = false := by
  decide

/-- ResetAndTrip: a tripped package with a turn that is not the power coming up. -/
theorem witness_ResetAndTrip : let s := { State.reset with tripped := true, agenda := [⟨1, .issue (.col 0)⟩] }
    s.tripped = true ∧ step s = .fault .tripped := by
  exact ⟨rfl, rfl⟩

/-- ColumnTerminators: on a column core with a pair that is a multiple of 4 and one that is not; in the block of a scalar context. -/
def brxF : TermFields := ⟨0, 0, 0x012000⟩
theorem witness_ColumnTerminators :
    (let s := inCol 3 [(4, 0x2000)]
     issueCtx s = some (envOf s, lanesOf s) ∧ (lanesOf s).length = 1 ∧ (envOf s).who = .col 0 ∧ operandOk (envOf s) (.src true) true 4 = true
     ∧ operandOk (envOf s) (.dst true) true 4 = true ∧ ∀ lv ∈ lanesOf s, (lv.read64 (brxF.tb.getLsbD 13) (brxF.tb.extractLsb' 14 10).toNat).toNat % 4 = 0)
    ∧ (let s := inCol 3 [(4, 0x2002)]
       issueCtx s = some (envOf s, lanesOf s) ∧ ∀ lv ∈ lanesOf s, (lv.read64 true 4).toNat % 4 ≠ 0)
    ∧ (let s := inDeal 2 [(0, { thr [] with st := .waiting })] [(4, 0x2000)]
       issueCtx s = some (envOf s, lanesOf s) ∧ (lanesOf s).length = 1 ∧ (envOf s).who = .deal 0 0 ∧ (envOf s).kind = 2 ∧ (s.deal? 0 0).isSome = true
       ∧ (s.grp? 0 0).isSome = true ∧ operandOk (envOf s) (.src true) true 4 = true ∧ operandOk (envOf s) (.dst true) true 4 = true
       ∧ ∀ lv ∈ lanesOf s, (lv.read64 true 4).toNat % 4 = 0) := by
  refine ⟨⟨ctx_of (by decide), by decide, rfl, by decide, by decide, by decide⟩, ⟨ctx_of (by decide), by decide⟩,
    ctx_of (by decide), by decide, rfl, by decide, by decide, by decide, by decide, by decide, by decide⟩

/-- ThreadTerminators. -/
theorem witness_ThreadTerminators :
    let s := inDeal 0 [(0, thr [(4, 0x9000)]), (5, thr [(4, 0x9000)])]
    issueCtx s = some (envOf s, lanesOf s) ∧ (envOf s).who = .deal 0 0 ∧ (s.deal? 0 0).isSome = true ∧ (envOf s).kind ≠ 2
      ∧ operandOk (envOf s) (.src true) false 4 = true ∧ operandOk (envOf s) (.dst true) false 4 = true
      ∧ ∀ lv ∈ lanesOf s, (lv.read64 false 4).toNat % 4 = 0 :=
  ⟨ctx_of (by decide), rfl, by decide, by decide, by decide, by decide, by decide⟩

/-- R56, R132, R133: `brc` of the example of 02 sends a thread whose k3 reads 0 to TA, 14 words back; `exit` retires it. -/
theorem test_terminators :
    (got (exec (.brc ⟨11, 0xFFFFF2, 0⟩) (inDeal 0 [(5, thr [])])) (fun t => (t.thr? 0 0 5).map (fun x => (x.st, x.next)))).join = some (.waiting, 0x7FC8)
    ∧ (got (exec (.brc ⟨11, 0xFFFFF2, 0⟩) (inDeal 0 [(5, thr [] 8)])) (fun t => (t.thr? 0 0 5).map (fun x => x.next))).join = some 0x8030
    ∧ (got (exec (.exit ⟨0, 0, 0⟩) (inDeal 0 [(5, thr [(1, 2)])])) (fun t => (t.thr? 0 0 5).map (fun x => (x.st, x.v)))).join = some (.retired, [])
    ∧ got (exec (.brx brxF) (inCol 3 [(4, 0x2100)])) (fun t => ((t.cc 0).addr, (t.cc 0).body)) = some (0x2100, none)
    ∧ got (exec (.call ⟨0, 4, 0x012000⟩) (inCol 3 [])) (fun t => ((t.cc 0).addr, getReg (t.cc 0).s 4)) = some (0x2010, 0x2008)
    ∧ (got (exec (.park ⟨0, 2, 0x001000⟩) (inDeal 0 [(5, thr [])])) (fun t => (t.thr? 0 0 5).map (fun x => (x.next, x.parkMask)))).join = some (0x8008, 1)
    ∧ parked (.trap ⟨0, 14, 0x0102⟩) (inDeal 0 [(5, thr [])]) 5 = some (8, 0x0102) := by
  decide

set_option maxRecDepth 4000 in
/-- HandsAndRetirement: a thread of a group; a deck with room, and a full one without its hand. -/
theorem witness_HandsAndRetirement :
    (two.thr? 0 0 5).isSome = true ∧ ((two.core 0).deck.length < 128)
    ∧ (let s := two.modCore 0 (fun x => { x with deck := List.replicate 128 ⟨1, 0x9000, none, [0], 0, 0, none, none⟩ })
       128 ≤ (s.core 0).deck.length ∧ (s.core 0).deck.all (fun h => h.grp != 0) = true) := by
  decide

/-! ### Memory -/

/-- Threads of a block of threads with a translation of the first GiB to itself cached, and four bytes of home memory at 0x1000. -/
def memT (threads : List (Nat × Thread)) (kind : Nat := 0) (s : Regs := []) : State :=
  ((inDeal kind threads s).modCore 0 (fun x => { x with dtlb := [⟨1, 0, 2, 0x3E⟩] })).setHomeBytes 0x1000 [0xFE, 0x81, 0, 0x12]
/-- The segments of an access that passes. -/
def segsOf (r : AccRes) : List Seg := match r with | .segs l => l | _ => []
def isSegs (r : AccRes) : Bool := match r with | .segs _ => true | _ => false
def bytesOf (g : Gathered) : List Byte := match g with | .bytes b => b | _ => []

/-- R174, R183, R187: loads with each extension, a store of a pair across a sector, an atomic's old and new value, and `atomc` that does not compare equal. -/
theorem test_global_memory :
    vVal (.ld (vF 1 4 0 1)) (memT [(5, thr [(4, 0x1000)])]) 5 1 = some 0xFFFFFFFE ∧ vVal (.ld (vF 1 4 0 0)) (memT [(5, thr [(4, 0x1000)])]) 5 1 = some 0xFE
    ∧ vVal (.ld (vF 1 4 0 3)) (memT [(5, thr [(4, 0x1000)])]) 5 1 = some 0xFFFF81FE
    ∧ vVal (.ldMem (vF 2 4 0 5 (some 0x00FFFFFC))) (memT [(5, thr [(4, 0x1004)])]) 5 2 = some 0x120081FE
    ∧ vVal (.lda (vF 1 4 0 4 (some 0x48000000))) (memT [(5, thr [(4, 0x1000)])]) 5 1 = some 0x120081FE
    ∧ parked (.lda (vF 1 4 0 4 (some 0x48000000))) (memT [(5, thr [(4, 0x1002)])]) 5 = some (4, 0)
    ∧ got (exec (.stMem (vF 0 4 6 5 (some 0x1C))) (memT [(5, thr [(4, 0x1000), (6, 0xAABBCCDD), (7, 0x11223344)])]))
        (fun t => (t.viewByte 0 0x101F, t.viewByte 0 0x1020, t.viewByte 0 0x1023, t.viewByte 0 0x1024)) = some (0xAA, 0x44, 0x11, 0)
    ∧ vVal (.atom (vF 1 4 6 0 (some 0xA4000000))) (memT [(5, thr [(4, 0x1000), (6, 1)])]) 5 1 = some 0x120081FE
    ∧ got (exec (.atom (vF 1 4 6 0 (some 0xA4000000))) (memT [(5, thr [(4, 0x1000), (6, 2)])])) (fun t => leNat (t.viewBytes 0 0x1000 4)) = some 0x12008200
    ∧ got (exec (.atomc (vF 1 4 6 0 (some 0xA4000000))) (memT [(5, thr [(1, 1), (4, 0x1000), (6, 2)])])) (fun t => leNat (t.viewBytes 0 0x1000 4)) = some 0x120081FE := by
  decide +kernel

/-- R183: where two lanes of one `st` store to one byte, the higher lane's value stays. -/
theorem test_later_lane_wins :
    got (exec (.st (vF 0 4 6 0)) (memT [(3, thr [(4, 0x1000), (6, 3)]), (9, thr [(4, 0x1000), (6, 9)])])) (fun t => t.viewByte 0 0x1000) = some 9 := by
  decide +kernel

/-- R191: the example of 08, 2^24 in memory and three lanes of 1.0; lane 0 takes the old value, memory 2^24 + 4 from one atomic of 3.0. -/
theorem test_meld :
    let s := (memT ((List.range 3).map (fun t => (t, thr [(4, 0x1000), (7, 0x3F800000)]))) 1).setHomeBytes 0x1000 [0, 0, 0x80, 0x4B]
    vVal (.meld (vF 6 4 7 1 (some 0x44000000))) s 0 6 = some 0x4B800000 ∧ vVal (.meld (vF 6 4 7 1 (some 0x44000000))) s 2 6 = some 0x4B800001
    ∧ got (exec (.meld (vF 6 4 7 1 (some 0x44000000))) s) (fun t => leNat (t.viewBytes 0 0x1000 4)) = some 0x4B800002 := by
  decide +kernel

/-- R186, R189: scratch stores, loads and atomics; the last word inside 2 granules, and the first outside. -/
theorem test_scratch :
    vVal (.lds (vF 1 2 0 2)) ((inDeal 0 [(5, thr [(2, 8)])]).modGrp 0 0 (fun g => { g with scratch := [(8, 0x34), (9, 0x12)] })) 5 1 = some 0x1234
    ∧ (got (exec (.sts (vF 0 2 3 4)) (inDeal 0 [(5, thr [(2, 0x7FFC), (3, 0x7)])])) (fun t => (t.grp? 0 0).map (fun g => g.scratch))).join = some [(0x7FFC, 7)]
    ∧ parked (.sts (vF 0 2 3 4)) (inDeal 0 [(5, thr [(2, 0x7FFD), (3, 0x7)])]) 5 = some (3, 0)
    ∧ vVal (.atoms (vF 1 2 3 9 (some 0x04000000))) ((inDeal 0 [(5, thr [(2, 8), (3, 1)])]).modGrp 0 0 (fun g => { g with scratch := [(8, 0x34)] })) 5 1 = some 0x34
    ∧ parked (.ldc (vF 1 2 0 2)) (inDeal 0 [(5, thr [(2, 0x01000000)])]) 5 = some (3, 0) := by
  decide +kernel

/-- HomeMemory: canonical memory with a byte listed. -/
theorem witness_HomeMemory : Memory.wf (memT []).mem ∧ (memT []).homeByte 0x1001 = 0x81 ∧ 7 < 8 := by decide +kernel

/-- LocalAccess: a slice with no dirty byte that is not valid, with room; a byte in the mask and one outside it; no other slice holds the sector; a load up
to the end of the sector, of which the L1 holds nothing; and one of a sector the L1 holds. -/
theorem witness_LocalAccess :
    let s := memT []
    (∀ x, s.slice? 0 0x80 = some x → x.dirty &&& ~~~x.valid = 0) ∧ (0x0000000F : BitVec 32).getLsbD 3 = true ∧ (0x0000000F : BitVec 32).getLsbD 31 = false
    ∧ (∀ c, c ≠ 0 → s.slice? c 0x80 = none) ∧ Room s 0 1 ∧ 28 + 4 ≤ 32 ∧ 32 * 0x80 < 2 ^ 48 ∧ PastL1 s ⟨0, 5, .grp 5 0⟩ none 0x80
    ∧ s.poison.contains 0x80 = false ∧ Memory.wf s.mem
    ∧ mapGet? ((s.modCore 0 (fun y => { y with l1 := [(0x80, ⟨0xFE, 0⟩)] })).l1 0 0) 0x80 = some ⟨0xFE, 0⟩ := by
  refine ⟨?_, by decide, by decide, fun c _ => rfl, by unfold Room; decide, by decide, by decide, Or.inl (by decide), by decide, by decide, by decide⟩
  intro x h
  have : (memT []).slice? 0 0x80 = none := by decide
  rw [this] at h; cases h

/-- AccessChecks: the last bytes of a page, its translation cached; each outcome: misaligned, far, forbidden, under a system lock, under a source's lock for a
store, and none; a poisoned sector; a page in no cache, its walk not made and failed; a physical address that exists, a reserved one, and far memory. -/
theorem witness_AccessChecks :
    (let s := memT [(5, thr [])]
     ((s.memCtx (envOf s)).xl = .tables (.data 0) 1 0x20000 true) ∧ 0xFFF8 % 2 ^ 16 + 8 ≤ 2 ^ 16 ∧ s.cached (.data 0) 1 0xFFF8 = some ⟨1, 0, 2, 0x3E⟩
     ∧ 0xFFF9 % 8 ≠ 0 ∧ permDenied 0x3E .store true = false ∧ permDenied 0x1E .store true = true ∧ permDenied 0x3A .load true = true
     ∧ isFar (pteFrame (0x3E + 0x10000000000)) = true
     ∧ isSegs (s.checkForm (s.memCtx (envOf s)) (envOf s) 0xFFF8 8 .store none true) = true
     ∧ s.accPoison (s.memCtx (envOf s)).unit none .store 8 0xFFF8 = false
     ∧ ({ s with poison := [0x80] } : State).accPoison (s.memCtx (envOf s)).unit none .load 8 0x1000 = true
     ∧ s.cached (.data 0) 1 0x40000000 = none ∧ s.walkFailed (s.trickOf (envOf s).who) 0 1 0x40000000 = none
     ∧ (s.modCol 0 (fun y => { y with walks := [⟨1, 0x20000, 0x40000000, [s.trickOf (envOf s).who], some 1⟩] })).walkFailed (s.trickOf (envOf s).who) 0 1
         0x40000000 = some 1)
    ∧ (∀ k ∈ [true, false], let s := (memT []).modCol 0 (fun y => { y with locks := [⟨k, true, 1, 0x7FF, 0x800, [], .cmd 0 1⟩] })
       ((s.col 0).locks.filter (fun l => l.asid = 1 && l.first ≤ (0xFFF8 + 8 - 1) / 32 && 0xFFF8 / 32 ≤ l.last)).length = 1)
    ∧ isReservedPa 0x1000 = false ∧ isReservedPa 0x8000000000 = true ∧ isReservedPa 0x10000000000 = false := by
  decide +kernel

/-- The tables of a walk: root 0x20000, then 0x21000, 0x22000 and 0x23000, with entries at index 0. -/
def tables (l1 l2 l3 l4 : Nat) : State :=
  (((State.reset.setHomeBytes 0x20000 (leBytes 8 l1)).setHomeBytes 0x21000 (leBytes 8 l2)).setHomeBytes 0x22000 (leBytes 8 l3)).setHomeBytes 0x23000 (leBytes 8 l4)

/-- PageWalks: entries of each type at each level, malformed pointers and leaves, poisoned entries; a walk waiting that ends in a leaf, and one that ends in a
fault. -/
theorem witness_PageWalks :
    (∀ t ∈ [0, 3, 2], (tables t 0 0 0).walk 0 0x20000 0 = .fail (if t = 0 then 0 else 1))
    ∧ (tables 0x21001 0x3E 0 0).walk 0 0x20000 0x3FFFFFFF = .leaf 0x3E 2 ∧ (tables 0x21001 0x1003E 0 0).walk 0 0x20000 0 = .fail 1
    ∧ (tables 0x21001 0x22001 0x3E 0).walk 0 0x20000 0x1FFFFF = .leaf 0x3E 1 ∧ (tables 0x21001 0 0 0).walk 0 0x20000 0 = .fail 0
    ∧ (tables 0x21001 0x22001 0x23001 0x3E).walk 0 0x20000 0xFFFF = .leaf 0x3E 0 ∧ (tables 0x21001 0x22001 0x23001 1).walk 0 0x20000 0 = .fail 1
    ∧ (tables 0x21001 0 0 0).walk 0 0x20000 (2 ^ 48) = .fail 2 ∧ (∀ root ∈ [0x8000000000, 0x10000], ({ tables 0x21001 0 0 0 with retiredCh := [(0, 0)] } : State).walk 0 root 0 = .fail 1)
    ∧ (tables 0x21001 0x22001 0 0).walk 0 0x20000 0 = .fail 0 ∧ (tables 0x21001 0x22001 0x23001 0).walk 0 0x20000 0 = .fail 0
    ∧ (∀ s ∈ [tables 0x21001 3 0 0, tables 0x21001 0x22001 3 0, tables 0x21001 0x22001 0x23001 3, tables 0x21005 0x22001 0x23001 0x3E,
        tables 0x21001 0x1000000022001 0x23001 0x3E, tables 0x21001 0x22001 0x8000000001 0x3E, tables 0x21101 0 0 0], s.walk 0 0x20000 0 = .fail 1)
    ∧ (∀ sec ∈ [0x1000, 0x1080, 0x1100, 0x1180], ({ tables 0x21001 0x22001 0x23001 0x3E with poison := [sec] } : State).walk 0 0x20000 0 = .fail 3)
    ∧ (∀ n ∈ [2, 3, 4], (tables 0 0 0 0).leafOk n 0x3E = true) ∧ (tables 0 0 0 0).leafOk 1 0x3E = false ∧ (tables 0 0 0 0).leafOk 2 0x1003E = false
    ∧ ({ tables 0 0 0 0 with retiredCh := [(0, 0)] } : State).leafOk 2 0x3E = false
    ∧ (∀ p ∈ [(0x3E, true), (0, false)], let s := (tables 0x21001 p.1 0 0).modCol 0 (fun y => { y with walks := [⟨1, 0x20000, 0x5000, [(.col 0, 0)], none⟩] })
       (s.col 0).walks.find? (fun x => x.failed == none) = some ⟨1, 0x20000, 0x5000, [(.col 0, 0)], none⟩
       ∧ s.walk 0 0x20000 0x5000 = if p.2 then .leaf 0x3E 2 else .fail 0) := by
  decide +kernel

/-- R345 to R347, the steps of an address through four levels, by hand: index 1 of each level. -/
theorem test_walk_indices : levelIndex (2 ^ 39 + 2 ^ 30 + 2 ^ 21 + 2 ^ 16) 1 = 1 ∧ levelIndex (2 ^ 39 + 2 ^ 30 + 2 ^ 21 + 2 ^ 16) 2 = 1
    ∧ levelIndex (2 ^ 39 + 2 ^ 30 + 2 ^ 21 + 2 ^ 16) 3 = 1 ∧ levelIndex (2 ^ 39 + 2 ^ 30 + 2 ^ 21 + 2 ^ 16) 4 = 1 ∧ levelIndex (2 ^ 48 - 1) 4 = 31 := by
  decide

/-- One thread and another of its group that does nothing (k1 reads 0), at addresses of their own. -/
def memPair : State := memT [(5, thr [(4, 0x1000), (6, 1)] 2), (9, thr [(4, 0x1004)])]
def memGathered : State := memT [(5, thr [(4, 0x1000), (6, 1)] 2), (9, thr [(4, 0x1000), (6, 2)] 2), (11, thr [])] 1
def only1 (f : Fields) : Fields := { f with pk := 1 }
/-- PageWalks: an access of each kind, its page in no translation cache and its walk not made. -/
theorem witness_PageWalks_ask :
    let s := memPair.modCore 0 (fun x => { x with dtlb := [] })
    AllIssue s [.ld (only1 (vF 2 4 0 5)), .ldMem (only1 (vF 2 4 0 5 (some 0x44000000))), .lda (only1 (vF 2 4 0 5 (some 0x48000000))),
      .st (only1 (vF 0 4 6 5)), .stMem (only1 (vF 0 4 6 5 (some 0x44000000))), .strl (only1 (vF 0 4 6 5 (some 0x4C000000))),
      .atom (only1 (vF 1 4 6 0 (some 0xA4000000))), .atomc (only1 (vF 1 4 6 0 (some 0x44000000)))]
    ∧ AllIssue (memGathered.modCore 0 (fun x => { x with dtlb := [] })) [.meld (only1 (vF 1 4 6 0 (some 0x44000000)))]
    ∧ (∀ k ∈ [AccKind.load, .store, .atomic], ∀ scope ∈ [none, some 2], ∀ aligned ∈ [true, false],
      (match s.checkForm (s.memCtx (envOf s)) (envOf s) 0x1000 8 k scope aligned with | .walking l => l | _ => []) = [0x1000])
    ∧ storing (only1 (vF 0 4 6 5)) (lanesOf s) ≠ []
    ∧ (match (s.memCtx (envOf s)).xl with | .tables u asid _ _ => some (u, asid) | _ => none) = some (.data 0, 1)
    ∧ (s.deal? 0 0).map (fun d => d.todo) = some [] := by
  refine ⟨issues_each (by decide +kernel), issues_each (by decide +kernel), by decide +kernel, by decide +kernel, by decide +kernel, by decide +kernel⟩

/-- One page at hand, of the column's own memory: what an access of each kind to its first bytes comes to. -/
theorem reaches_pair : ∀ s ∈ [memPair, memGathered], ∀ kind ∈ [AccKind.load, .store, .atomic], ∀ n ∈ [4, 8],
    Reaches s (s.memCtx (envOf s)) kind 0x1000 n 0x1000 := by
  intro s hs kind hk n hn
  simp only [List.mem_cons, List.not_mem_nil, or_false] at hs hk hn
  obtain rfl | rfl := hs <;> obtain rfl | rfl | rfl := hk <;> obtain rfl | rfl := hn <;>
    exact ⟨by decide, by decide, by decide, ⟨by decide, ⟨1, 0, 2, 0x3E⟩, by decide +kernel, rfl, rfl, by decide⟩, by decide +kernel⟩

/-- The sector there is in no cache, and the slice has room. -/
theorem own_pair : ∀ s ∈ [memPair, memGathered], OwnSector s 0 0x80 ∧ (∀ scope, PastL1 s (s.memCtx (envOf s)).unit scope 0x80)
    ∧ Room s (s.memCtx (envOf s)).unit.col (2 * (lanesOf s).length) := by
  intro s hs
  simp only [List.mem_cons, List.not_mem_nil, or_false] at hs
  obtain rfl | rfl := hs <;>
    exact ⟨⟨fun _ _ => rfl, by decide +kernel, fun x h => by cases h⟩, fun _ => Or.inl (by decide +kernel), by unfold Room; decide +kernel⟩

/-- No access waits there. -/
theorem waits_pair : ∀ s ∈ [memPair, memGathered], ∀ f, s.mustWait (s.memCtx (envOf s)) f = false := by
  intro s hs f
  have h : s.postedPending (s.memCtx (envOf s)).unit.who = false := by
    simp only [List.mem_cons, List.not_mem_nil, or_false] at hs
    obtain rfl | rfl := hs <;> decide +kernel
  rw [State.mustWait, h, Bool.and_false]

/-- What the completion of loads, stores and atomics asks of each lane that is active: its bytes at 0x1000. -/
theorem meets_pair (s : State) (hs : s ∈ [memPair, memGathered]) (kind : AccKind) (hk : kind ∈ [AccKind.load, .store, .atomic]) (n : Nat) (hn : n ∈ [4, 8])
    (f : Fields) (h : ∀ lv ∈ lanesOf s, laneActive f lv = true → globalEa (lanesOf s) lv f = 0x1000) :
    ∀ lv ∈ lanesOf s, laneActive f lv = true → Reaches s (s.memCtx (envOf s)) kind (globalEa (lanesOf s) lv f) n 0x1000
      ∧ globalEa (lanesOf s) lv f % n = 0 ∧ ∀ i, i < n → OwnSector s (s.memCtx (envOf s)).unit.col ((0x1000 + i) / 32)
        ∧ ∀ scope, PastL1 s (s.memCtx (envOf s)).unit scope ((0x1000 + i) / 32) := by
  intro lv hl ha
  rw [h lv hl ha]
  have hc : (s.memCtx (envOf s)).unit.col = 0 := by
    simp only [List.mem_cons, List.not_mem_nil, or_false] at hs
    obtain rfl | rfl := hs <;> rfl
  refine ⟨reaches_pair s hs kind hk n hn, ?_, fun i hi => ?_⟩
  · simp only [List.mem_cons, List.not_mem_nil, or_false] at hn
    obtain rfl | rfl := hn <;> rfl
  · have : (0x1000 + i) / 32 = 0x80 := by
      simp only [List.mem_cons, List.not_mem_nil, or_false] at hn
      omega
    rw [this, hc]
    exact ⟨(own_pair s hs).1, (own_pair s hs).2.1⟩

/-- Lanes that store are active lanes. -/
theorem storing_active {f : Fields} {ls : List LaneView} {lv : LaneView} (h : lv ∈ storing f ls) : lv ∈ ls ∧ laneActive f lv = true := by
  simp only [storing, List.mem_filter] at h
  exact h.1

/-- GlobalLoads, complete: each form in the first state, its bytes at hand. -/
theorem witness_GlobalLoads_complete :
    let s := memPair
    let m := s.memCtx (envOf s)
    OwnPositions (lanesOf s) ∧ Room s m.unit.col (2 * (lanesOf s).length) ∧ (∀ f, s.mustWait m f = false)
    ∧ ∀ f ∈ [only1 (vF 2 4 0 5), only1 (vF 2 4 0 5 (some 0x44000000)), only1 (vF 2 4 0 5 (some 0x48000000))], ∀ lv ∈ lanesOf s, laneActive f lv = true →
      Reaches s m .load (globalEa (lanesOf s) lv f) 8 0x1000 ∧ globalEa (lanesOf s) lv f % 8 = 0
      ∧ ∀ i, i < 8 → OwnSector s m.unit.col ((0x1000 + i) / 32) ∧ ∀ scope, PastL1 s m.unit scope ((0x1000 + i) / 32) := by
  refine ⟨by decide +kernel, (own_pair memPair (.head _)).2.2, waits_pair memPair (.head _), fun f hf => ?_⟩
  refine meets_pair memPair (.head _) .load (by decide) 8 (by decide) f ?_
  simp only [List.mem_cons, List.not_mem_nil, or_false] at hf
  obtain rfl | rfl | rfl := hf <;> decide +kernel

/-- GlobalStores, complete: each form, its bytes in the column's reach; what the writes hold at their first place. -/
theorem witness_GlobalStores_complete :
    let s := memPair
    let m := s.memCtx (envOf s)
    OwnPositions (lanesOf s) ∧ Room s m.unit.col (2 * (lanesOf s).length) ∧ (∀ f, s.mustWait m f = false)
    ∧ (∀ f ∈ [only1 (vF 0 4 6 5), only1 (vF 0 4 6 5 (some 0x44000000)), only1 (vF 0 4 6 5 (some 0x4C000000))], (storing f (lanesOf s)).length = 1
      ∧ ∀ lv ∈ storing f (lanesOf s), Reaches s m .store (globalEa (lanesOf s) lv f) 8 0x1000 ∧ globalEa (lanesOf s) lv f % 8 = 0
        ∧ ∀ i, i < 8 → OwnSector s m.unit.col ((0x1000 + i) / 32))
    ∧ (let w := addWrite [] [⟨0x1000, 8, 0x1000, false⟩] (leBytes 8 1)
       mapGet? w 0x1000 = some 1 ∧ mapGet? w 0x1008 = none ∧ (w.map (·.1)).Pairwise (· < ·) ∧ (∀ x ∈ w, x.1 < 0x8000000000) ∧ Room s m.unit.col w.length) := by
  refine ⟨by decide +kernel, (own_pair memPair (.head _)).2.2, waits_pair memPair (.head _), fun f hf => ?_, by unfold Room; decide +kernel⟩
  have h := meets_pair memPair (.head _) .store (by decide) 8 (by decide) f
  simp only [List.mem_cons, List.not_mem_nil, or_false] at hf
  refine ⟨by obtain rfl | rfl | rfl := hf <;> decide +kernel, fun lv hl => ?_⟩
  have h2 := h (by obtain rfl | rfl | rfl := hf <;> decide +kernel) lv (storing_active hl).1 (storing_active hl).2
  exact ⟨h2.1, h2.2.1, fun i hi => (h2.2.2 i hi).1⟩

/-- GlobalAtomics, complete: `atom`, `atomc` and `meld`, the lanes of the last at one address; one atomic inside a sector. -/
theorem witness_GlobalAtomics_complete :
    (∀ p ∈ [(memPair, only1 (vF 1 4 6 0 (some 0xA4000000))), (memPair, only1 (vF 1 4 6 0 (some 0x44000000))), (memGathered, only1 (vF 1 4 6 0 (some 0x44000000)))],
      let s := p.1
      let m := s.memCtx (envOf s)
      storing p.2 (lanesOf s) ≠ [] ∧ Room s m.unit.col (2 * (lanesOf s).length) ∧ (∀ f, s.mustWait m f = false)
      ∧ ∀ lv ∈ storing p.2 (lanesOf s), Reaches s m .atomic (globalEa (lanesOf s) lv p.2) 4 0x1000 ∧ globalEa (lanesOf s) lv p.2 % 4 = 0
        ∧ OwnSector s m.unit.col (0x1000 / 32))
    ∧ (∀ lv ∈ storing (only1 (vF 1 4 6 0)) (lanesOf memPair), ∀ l2 ∈ storing (only1 (vF 1 4 6 0)) (lanesOf memPair), l2.pos = lv.pos)
    ∧ (0x1000 % 32 + 4 ≤ 32 ∧ 0x1000 + 4 ≤ 0x8000000000 ∧ atomNew 0 5 1 = 6) := by
  refine ⟨fun p hp => ?_, by decide +kernel, by decide⟩
  simp only [List.mem_cons, List.not_mem_nil, or_false] at hp
  have hm : p.1 ∈ [memPair, memGathered] := by obtain rfl | rfl | rfl := hp <;> first | exact .head _ | exact .tail _ (.head _)
  have h := meets_pair p.1 hm .atomic (by decide) 4 (by decide) p.2
    (by obtain rfl | rfl | rfl := hp <;> decide +kernel)
  refine ⟨by obtain rfl | rfl | rfl := hp <;> decide +kernel, (own_pair p.1 hm).2.2, waits_pair p.1 hm, fun lv hl => ?_⟩
  have h2 := h lv (storing_active hl).1 (storing_active hl).2
  exact ⟨h2.1, h2.2.1, (h2.2.2 0 (by decide)).1⟩

/-- GlobalLoads: an aligned doubleword at hand. -/
theorem witness_GlobalLoads :
    let s := memPair
    let m := s.memCtx (envOf s)
    AllIssue s [.ld (only1 (vF 2 4 0 5)), .ldMem (only1 (vF 2 4 0 5 (some 0x44000000))), .lda (only1 (vF 2 4 0 5 (some 0x48000000)))]
    ∧ OwnPositions (lanesOf s)
    ∧ (∀ f ∈ [only1 (vF 2 4 0 5), only1 (vF 2 4 0 5 (some 0x48000000))], ∀ lv ∈ lanesOf s, laneActive f lv = true →
        isSegs (s.checkForm m (envOf s) (globalEa (lanesOf s) lv f) 8 .load none true) = true)
    ∧ LoadsInTurn m.unit 0 none true (fun lv => segsOf (s.checkForm m (envOf s) (globalEa (lanesOf s) lv (vF 2 4 0 5)) 8 .load none true))
        (fun lv => bytesOf (gather 0 ((s.leaveWalks (envOf s).who m.unit.col).loadSegs m.unit
          (segsOf (s.checkForm m (envOf s) (globalEa (lanesOf s) lv (vF 2 4 0 5)) 8 .load none true)) 0 none true).1))
        (s.leaveWalks (envOf s).who m.unit.col) ((lanesOf s).filter (laneActive (only1 (vF 2 4 0 5))))
        ((s.leaveWalks (envOf s).who m.unit.col).loadSegs m.unit [⟨0x1000, 8, 0x1000, false⟩] 0 none true).2 := by
  refine ⟨issues_each (by decide +kernel), by decide +kernel, by decide +kernel, ?_⟩
  exact ⟨by decide +kernel, rfl⟩

/-- GlobalStores: plain, strong and release stores of one thread, and one where only helpers would store; no agent of them waits. -/
theorem witness_GlobalStores :
    let s := memPair
    let m := s.memCtx (envOf s)
    AllIssue s [.st (only1 (vF 0 4 6 5)), .stMem (only1 (vF 0 4 6 5 (some 0x44000000))), .strl (only1 (vF 0 4 6 5 (some 0x4C000000)))]
    ∧ OwnPositions (lanesOf s)
    ∧ (∀ f ∈ [only1 (vF 0 4 6 5), only1 (vF 0 4 6 5 (some 0x4C000000))], (storing f (lanesOf s)).length = 1
        ∧ (∀ lv ∈ storing f (lanesOf s), isSegs (s.checkForm m (envOf s) (globalEa (lanesOf s) lv f) 8 .store none true) = true)
        ∧ s.mustWait m f = false)
    ∧ (let h := (inDeal 1 [(0, thr [])]).setDeal 0 0 (some (deal1 1 [[⟨1, 1, some ⟨[], 0, []⟩, false⟩]]))
       issuesB (.st (vF 0 4 6 2)) h = true ∧ (storing (vF 0 4 6 2) (lanesOf h)).isEmpty = true) := by
  refine ⟨issues_each (by decide +kernel), by decide +kernel, by decide +kernel, by decide +kernel⟩

/-- ScratchAccess: each form, inside its scratch to the last byte, its own and as the member of rank 0 of its gang; an atomic of a pair; a byte in what a write
stored and one outside; another group. -/
theorem witness_ScratchAccess :
    let s := inDeal 0 [(5, thr [(2, 0x7FF8), (6, 1)]), (9, thr [(2, 0)])]
    AllIssue s [.lds (vF 4 2 0 5), .ldsMem (vF 4 2 0 5 (some 0)), .ldc (vF 4 2 0 5), .ldcMem (vF 4 2 0 5 (some 0x64000000)), .sts (vF 0 2 6 5),
      .stsMem (vF 0 2 6 5 (some 0)), .stc (vF 0 2 6 5), .stcMem (vF 0 2 6 5 (some 0)), .atoms (vF 4 2 6 10 (some 0x64000000))]
    ∧ OwnPositions (lanesOf s)
    ∧ (∀ p ∈ [false, true], ∀ lv ∈ storing (vF 0 2 6 5) (lanesOf s), (s.scratchTarget (envOf s) p (scratchEa (lanesOf s) lv (vF 0 2 6 5)) 8).isSome = true)
    ∧ (s.issueGroup (envOf s)).isSome = true ∧ (s.grp? 0 0).isSome = true
    ∧ ScratchAtomsInTurn 8 10 (fun lv => (.grp 0 0, scratchEa (lanesOf s) lv (vF 4 2 6 10))) (fun _ => 1) (fun _ => 0) s (storing (vF 4 2 6 10) (lanesOf s))
        ((s.scratchWrite (.grp 0 0) 0x7FF8 (leBytes 8 1)).scratchWrite (.grp 0 0) 0 (leBytes 8 1))
    ∧ (∀ lv ∈ lanesOf s, let ea := scratchEa (lanesOf s) lv (vF 4 2 0 5)
        ea + 8 ≤ 32768 ∧ ea % 8 = 0 ∧ ea % 2 ^ 24 + 8 ≤ 32768 ∧ ea / 2 ^ 24 < rec1.gang ∧ s.findScratch 0 (ea / 2 ^ 24) = some (.grp 0 0))
    ∧ memScope (vF 4 2 6 10 (some 0x04000000)) ≠ 3 ∧ issuesB (.atoms (vF 4 2 6 10 (some 0x04000000))) s = true := by
  refine ⟨issues_each (by decide +kernel), by decide +kernel, by decide +kernel, by decide +kernel, by decide +kernel, ?_, by decide +kernel, by decide +kernel,
    by decide +kernel⟩
  exact ⟨by decide +kernel, by decide +kernel, rfl⟩

/-- GlobalAtomics: an atomic, a compare-and-exchange, and a `meld` of two threads at one address, all local and without poison. -/
theorem witness_GlobalAtomics :
    let s := memPair
    let g := memGathered
    let m := s.memCtx (envOf s)
    let check := fun (u : State) (lv : LaneView) => segsOf (u.checkForm (u.memCtx (envOf u)) (envOf u) (globalEa (lanesOf u) lv (vF 1 4 6 0)) 4 .atomic none true)
    AllIssue s [.atom (only1 (vF 1 4 6 0 (some 0xA4000000))), .atomc (only1 (vF 1 4 6 0 (some 0x44000000)))]
    ∧ AllIssue g [.meld (only1 (vF 1 4 6 0 (some 0x44000000)))] ∧ OwnPositions (lanesOf s) ∧ OwnPositions (lanesOf g)
    ∧ (∀ u ∈ [s, g], ∀ lv ∈ storing (only1 (vF 1 4 6 0)) (lanesOf u), (check u lv).length = 1 ∧ (check u lv).all (fun x => !(isRemote x.place)) = true)
    ∧ s.mustWait m (only1 (vF 1 4 6 0 (some 0xA4000000))) = false ∧ (∀ lv ∈ lanesOf g, lv.pos < 32) ∧ g.poison = [] ∧ (g.col 0).slice = []
    ∧ (s.localAtomic m.unit 0x1000 4 2 none (fun o => some (atomNew 0 o 1))).1 = 0x120081FE
    ∧ meldAddrs ((storing (only1 (vF 1 4 6 0)) (lanesOf g)).map (fun lv => globalEa (lanesOf g) lv (vF 1 4 6 0))) = [0x1000] := by
  refine ⟨issues_each (by decide +kernel), issues_each (by decide +kernel), by decide +kernel, by decide +kernel, by decide +kernel, by decide +kernel,
    by decide +kernel, by decide +kernel, by decide +kernel, by decide +kernel, by decide +kernel⟩

/-- Frames, over `exec`: a global store with the places its lane reaches and the byte after them, its slice with room; nothing of it released or acquired;
a scratch store and the place it writes. -/
theorem witness_Frames_exec :
    (let s := memPair
     let f := only1 (vF 0 4 6 5)
     AllIssue s [.st f] ∧ Room s (s.memCtx (envOf s)).unit.col (2 * (lanesOf s).length) ∧ releaseOf f = none ∧ acquireOf f = none
     ∧ (rowOf (.st f)).map (fun r => (accKind r, (accLanes r f (lanesOf s)).map (fun lv => segsOf (accCheck s r f (envOf s) (lanesOf s) lv))))
       = some (.store, [[⟨0x1000, 8, 0x1000, false⟩]])
     ∧ (got (exec (.st f) s) (fun _ => ())).isSome = true)
    ∧ (let s := inDeal 0 [(5, thr [(2, 0x7FF8), (6, 1)])]
       AllIssue s [.sts (vF 0 2 6 5)]
       ∧ (storing (vF 0 2 6 5) (lanesOf s)).map (fun lv => s.scratchTarget (envOf s) false (scratchEa (lanesOf s) lv (vF 0 2 6 5)) 8) = [some (.grp 0 0, 0x7FF8)]
       ∧ (got (exec (.sts (vF 0 2 6 5)) s) (fun _ => ())).isSome = true) := by
  refine ⟨⟨issues_each (by decide +kernel), (own_pair memPair (.head _)).2.2, by decide, by decide, by decide +kernel, by decide +kernel⟩,
    issues_each (by decide +kernel), by decide +kernel, by decide +kernel⟩

/-- Ordering: an access that waits for a write of its agent to another package, and one that does not. -/
theorem witness_Ordering_wait :
    let s := memPair.modFab (fun x => { x with live := [⟨3, .grp 0 0, 5, 0, 0, true⟩] })
    AllIssue s [.lda (only1 (vF 1 4 0 4 (some 0xB4000000))), .fence (only1 (vF 0 0 0 0 (some 0xB4000000)))]
    ∧ s.mustWait (s.memCtx (envOf s)) (only1 (vF 1 4 0 4 (some 0xB4000000))) = true
    ∧ s.mustWait (s.memCtx (envOf s)) (only1 (vF 1 4 0 4 (some 0xA8000000))) = false
    ∧ storing (only1 (vF 0 0 0 0 (some 0xB4000000))) (lanesOf s) ≠ []
    ∧ (rowOf (.lda (only1 (vF 1 4 0 4 (some 0xB4000000))))).any (fun r => (accLanes r (only1 (vF 1 4 0 4 (some 0xB4000000))) (lanesOf s)).all (fun lv =>
        isSegs (accCheck s r (only1 (vF 1 4 0 4 (some 0xB4000000))) (envOf s) (lanesOf s) lv))) = true := by
  refine ⟨issues_each (by decide +kernel), by decide +kernel, by decide +kernel, by decide +kernel, by decide +kernel⟩

/-- Ordering: fences of each scope's side, and one where only helpers are active; a column core with a flush set whose line its slice holds, a full one, and a
group's; scopes at each bound of an acquire; a line foreign to the die and one of another package. -/
theorem witness_Ordering :
    AllIssue memPair [.fence (only1 (vF 0 0 0 0 (some 0xB4000000))), .fence (only1 (vF 0 0 0 0 (some 0x08000000)))]
    ∧ (∀ f ∈ [only1 (vF 0 0 0 0 (some 0xB4000000))], (storing f (lanesOf memPair)).length = 1 ∧ memPair.mustWait (memPair.memCtx (envOf memPair)) f = false)
    ∧ (let s := (inCol 3 []).modCol 0 (fun y => { y with slice := [(0x80, ⟨0, 0xFFFFFFFF, 1, 0, none, false⟩)], core := { y.core with flush := [0x20] } })
       4 ≤ 4 ∧ (s.cc 0).flushFull = false ∧ (s.cc 0).flush = [0x20] ∧ (s.slice? 0 (4 * 0x20)).isSome = true ∧ 3 < 4 ∧ 2 ≤ 3 ∧ 1 < 2
       ∧ ((s.modCc 0 (fun y => { y with flushFull := true })).cc 0).flushFull = true ∧ 0 ∈ clusterCols (clusterOf 0))
    ∧ (let s := memPair.modGrp 0 0 (fun x => { x with flush := [0x20], flushFull := true })
       (s.grp? 0 0).map (fun x => (x.flush, x.flushFull)) = some ([0x20], true) ∧ (s.memCtx (envOf s)).unit.who = .grp 0 0)
    ∧ isForeign 0 (32 * (2 ^ 36 / 16)) = true ∧ isRemote (32 * (2 ^ 48 / 32)) = true
    ∧ (let h := (inDeal 1 [(0, thr [])]).setDeal 0 0 (some (deal1 1 [[⟨1, 1, some ⟨[], 0, []⟩, false⟩]]))
       issuesB (.fence (vF 0 0 0 0 (some 0xB4000000))) h = true ∧ (storing (vF 0 0 0 0) (lanesOf h)).isEmpty = true) := by
  refine ⟨issues_each (by decide +kernel), by decide +kernel, by decide +kernel, by decide +kernel, by decide +kernel, by decide +kernel, by decide +kernel⟩

/-- R278, R291: a release at die scope writes the dirty byte home and empties the set; a column-scope one does not. -/
theorem test_release :
    let s := (inCol 3 []).modCol 0 (fun y => { y with slice := [(0x80, ⟨0x55, 0xFFFFFFFF, 1, 0, none, false⟩)], core := { y.core with flush := [0x20] } })
    got (exec (.fence (vF 0 0 0 0 (some 0x8C000000))) s) (fun t => (t.homeByte 0x1000, (t.cc 0).flush)) = some (0x55, [])
    ∧ got (exec (.fence (vF 0 0 0 0 (some 0x4C000000))) s) (fun t => (t.homeByte 0x1000, (t.cc 0).flush)) = some (0, [0x20]) := by
  decide +kernel

/-- CacheInstructions: a line of the column's slice; the last scope; a prefetch of each level. -/
theorem witness_CacheInstructions :
    let s := (memT [(5, thr [(4, 0x1000), (6, 128)])]).modCol 0 (fun y => { y with slice := [(0x80, ⟨0, 0xFFFFFFFF, 1, 0, none, false⟩)] })
    let m := s.memCtx (envOf s)
    AllIssue s [.cwb (vF 0 4 6 0 (some 0x80000000)), .cinv (vF 0 4 6 0 (some 0xC0000000)), .pref (vF 0 4 0 0), .prefMem (vF 0 4 0 1 (some 0))]
    ∧ (∀ lv ∈ storing (vF 0 4 6 0) (lanesOf s), s.rangePosted m (globalEa (lanesOf s) lv (vF 0 4 6 0)) 128 = false)
    ∧ 0x80 ∈ s.rangeSectors m [0x80] (s.rangePlaces m 0x1000 128) ∧ isRemote (32 * 0x80) = false ∧ (∀ scope ∈ [2, 4], 0 ∈ scopeCols scope m.unit.col)
    ∧ coreColumn 11 = 0 ∧ (s.slice? 0 0x80).isSome = true ∧ ∀ c2, c2 ≠ 0 → s.slice? c2 0x80 = none := by
  refine ⟨issues_each (by decide +kernel), by decide +kernel, by decide +kernel, by decide +kernel, by decide +kernel, by decide +kernel, by decide +kernel, ?_⟩
  intro c h
  rw [State.slice?, State.col_modCol, if_neg h]; rfl

/-! ### Engines, tasks, groups -/

/-- The scalar context of group 0, with s registers, the group and its core changed. -/
def gS (regs : Regs) (m : Group → Group := id) (c : ACore → ACore := id) : State := ((inDeal 2 [] regs).modGrp 0 0 m).modCore 0 c
/-- A command record (R208) at the start of group scratch. -/
def record (len rows ss ds a1 a2 ctrl : Nat) (x : Group) : Group :=
  { x with scratch := putCells [] 0 (leBytes 4 len ++ leBytes 4 0 ++ leBytes 4 rows ++ leBytes 4 ss ++ leBytes 4 ds ++ leBytes 4 a1 ++ leBytes 4 a2 ++ leBytes 4 ctrl) }
def copyRegs : Regs := [(4, 0x3000), (6, 0x2000)]
def okB {α β : Type} (x : Except α β) : Bool := match x with | .ok _ => true | .error _ => false
/-- Whether the record of the only lane is good for a row. -/
def copyGood (i : Instr) (s : State) : Bool :=
  match s.issueGroup (envOf s), lanesOf s with
  | some (_, g, x), [lv] => okB (buildCopy s x (Cmd.blank (rowAt i).op g (envOf s).pc none) (envOf s) (srcB (rowAt i) [lv] lv (fieldsAt i)).toNat
      (lv.read64 (fieldsAt i).dS (fieldsAt i).d.toNat) (srcA64 [lv] lv (fieldsAt i)))
  | _, _ => false

/-- A word of the record of the only lane, and whether those at some offsets read 0. -/
def recWord (x : Group) (o : Nat) : W := BitVec.ofNat 32 (leNat ((List.range 4).map (fun j => mapGet x.scratch (0 + o + j) 0)))
def recBase (x : Group) (clear : List Nat) : Bool :=
  recWord x 4 == 0 && (recWord x 0x1C).toNat / 2 ^ 12 % 8 == 0 && (recWord x 0x1C).toNat % 2 ^ 12 == 0 && clear.all (fun o => recWord x o == 0)

/-- CopyCommands: a good record for each row, in register and literal form, on a core whose queue holds 255 commands, the last place free. -/
theorem witness_CopyCommands :
    (∀ p ∈ [([Instr.cpy (sF 4 6 8 0), .cpyLit (sA 4 6 0 (some 0)), .fwrb (sF 4 6 8 0), .fwrbLit (sA 4 6 0 (some 0)), .frdb (sF 4 6 8 0),
          .frdbLit (sA 4 6 0 (some 0))], gS copyRegs (record 64 0 0 0 0 0 0)),
        ([.cpy2 (sF 4 6 8 0), .cpy2Lit (sA 4 6 0 (some 0))], gS copyRegs (record 64 2 128 64 0 0 0x00108000)),
        ([.cpyg (sF 4 6 8 0), .cpygLit (sA 4 6 0 (some 0))], gS copyRegs (record 64 2 128 64 0x100 0 0)),
        ([.cpyr (sF 4 6 8 0), .cpyrLit (sA 4 6 0 (some 0))], gS copyRegs (record 4 2 128 0 0x100 0x200 0))],
        ∀ i ∈ p.1, issuesB i p.2 = true ∧ copyGood i p.2 = true)
    ∧ (let s := gS copyRegs (record 64 0 0 0 0 0 0)
       (envOf s).who = .deal 0 0 ∧ (s.deal? 0 0).isSome = true ∧ (s.issueGroup (envOf s)).isSome = true ∧ OwnPositions (lanesOf s)
       ∧ (storing (sF 4 6 8 0) (lanesOf s)).length = 1 ∧ 255 + 1 ≤ 256)
    ∧ (∀ p ∈ [(record 64 0 0 0 0 0 0, [8, 0xC, 0x10, 0x14, 0x18]), (record 64 2 128 64 0 0 0x00100000, [0x14, 0x18]), (record 64 2 128 64 0x100 0 0, [0x18]),
        (record 4 2 128 0 0x100 0x200 0, [0x10])], recBase (p.1 (grp1 [] copyRegs)) p.2 = true)
    ∧ (64 ≤ ((0x3000 : D64) - 0x2000).toNat ∧ 64 ≤ ((0x2000 : D64) - 0x3000).toNat ∧ 4 ∈ [1, 2, 4, 8] ∧ 0x200 % 4 = 0 ∧ 2 ≤ 2 ^ 24 ∧ 0 + 32 ≤ 16384 * 2)
    ∧ isMatrixOp 0x167 = false ∧ isMatrixOp 0x163 = true ∧ (gS copyRegs).flagSet 0 0 3 = false := by
  decide +kernel

/-- The block of the copy binds its first command to f3. -/
def boundDeal : Deal :=
  { deal1 2 [[⟨0, 0, none, false⟩]] [0x59700100, 0x60200070] with hdr := BitVec.ofNat 64 (3 * 2 ^ 62 + 4 * 2 ^ 55 + 2 * 2 ^ 52 + 0x3F * 2 ^ 32) }
def copyAfter : Option State := got (exec (.cpy (sF 4 6 8 0)) ((gS copyRegs (record 64 0 0 0 0 0 0)).setDeal 0 0 (some boundDeal))) id

/-- R200, R204: a copy bound to a flag by SETA is queued and its flag reads set. -/
theorem test_copy_accepted : copyAfter.map (fun t => t.flagSet 0 0 3) = some true
    ∧ copyAfter.map (fun t => (t.core 0).copyq.map (fun c => (c.d, c.a, c.len))) = some [(0x3000, 0x2000, 64)] := by
  decide +kernel

/-- CommandRecords: a record that is accepted; moves of each form. -/
theorem witness_CommandRecords :
    (let s := gS copyRegs (record 64 2 128 64 0 0 0xFFF58000)
     copyGood (.cpy2 (sF 4 6 8 0)) s = true)
    ∧ ((64 : W) ≠ 0) ∧ (∀ op ∈ [0x167, 0x168, 0x169, 0x16A, 0x16C, 0x16D], (Cmd.blank op 0 0 none).op = op) := by
  decide +kernel

/-- R211: the packing example of 09, ROWS 3, LEN 4, lengths 5, 0 and 30: row 0 to positions 0 to 4, row 2 to positions 5 to 34. -/
theorem test_packing :
    ({ Cmd.blank 0x16A 0 0 none with len := 4, rows := 3, sstride := 0x100, lists := [5, 0, 30] } : Cmd).moves = [⟨0, 0, 20⟩, ⟨0x200, 20, 120⟩] := by
  decide

/-- A reservation of 64 lines of 32 bytes of signed integers. -/
def rsvI : Rsv := ⟨0, 7, 4, 0, 0⟩
/-- The group owns the matrix engine and holds a tile and two reservations. -/
def owns (y : ACore) : ACore := { y with matrix := { y.matrix with owner := some 0, rsv := [(0, rsvI), (1, rsvI)] } }
def tile1 (x : Group) : Group := { x with tiles := [[]] }
def matrixGood (i : Instr) (s : State) : Bool :=
  match s.issueGroup (envOf s), lanesOf s with
  | some (n, g, x), [lv] => okB (matrixBuild s (rowAt i) (fieldsAt i) (envOf s) [lv] n x (Cmd.blank (rowAt i).op g (envOf s).pc none) lv)
  | _, _ => false

/-- MatrixCommands: each command with a good word; ownership free, held, queued for; a word of `macq` with each bad field; reservations. -/
theorem witness_MatrixCommands :
    (∀ i ∈ [Instr.mstg (sAB 4 8 0), .mma { vF 0 0 9 0 with bS := true }, .mzro { vF 0 0 10 0 with bS := true }],
      issuesB i (gS [(9, 0x100)] tile1 owns) = true ∧ matrixGood i (gS [(9, 0x100)] tile1 owns) = true)
    ∧ AllIssue (gS [(2, 15)]) [.macq (sA 3 2 0), .mrel (vF 0 0 0 0), .mres (sAB 2 3 0), .mresLit { vF 0 2 0 0 (some 0) with aS := true }]
    ∧ (0x100 / 2 ^ 14 % 2 = 0 ∧ 0x100 % 4 = 0 ∧ 0x100 / 4 % 64 < 1 ∧ 0x100 / 2 ^ 11 % 8 = 0 ∧ 0x100 / 2 ^ 8 % 8 = 1 ∧ rsvI.fmt = 4 ∧ 0 % 2 ^ 11 = 0)
    ∧ ((gS []).core 0).matrix.owner = none ∧ ((gS [] id owns).core 0).matrix.owner = some 0
    ∧ (rsvOf (7 * 64 + 4 * 8 + 1) 0 = some (1, rsvI)) ∧ rsvOf 0x04000000 0 = none  ∧ fmtsMatch 4 5 = true ∧ rsvI.k = 32
    ∧ (let s := gS [] id (fun y => { y with matrix := { y.matrix with queue := [(0, none)] } })
       (s.core 0).matrix.owner = none ∧ (s.core 0).matrix.queue = (0, none) :: []) := by
  refine ⟨by decide +kernel, issues_each (by decide +kernel), by decide +kernel, by decide +kernel, by decide +kernel, by decide +kernel, by decide +kernel,
    by decide +kernel, by decide +kernel, by decide +kernel⟩

/-- R213: the answers of `macq`: 1 for a free engine, 2 for its owner, 0 for a place in the queue with its flag set. -/
theorem test_macq :
    gVal (.macq (sA 3 2 0)) (gS [(2, 15)]) 3 = some 1 ∧ gVal (.macq (sA 3 2 0)) (gS [(2, 15)] id owns) 3 = some 2
    ∧ got (exec (.macq (sA 3 2 0)) (gS [(2, 11), (3, 9)] id (fun y => { y with matrix := { y.matrix with owner := some 5 } })))
        (fun t => (t.flagSet 0 0 11, (t.core 0).matrix.queue)) = some (true, [(0, some 11)])
    ∧ gVal (.macq (sA 3 2 0)) (gS [(2, 12), (3, 9)]) 3 = some 9 := by
  decide +kernel

/-- MatrixResults: a crew whose group holds a tile, row 63; a tile of a group; the last element. -/
theorem witness_MatrixResults :
    (let s := (inDeal 1 [(0, thr [(2, 63)]), (31, thr [(2, 63)])]).modGrp 0 0 tile1
     AllIssue s ([0, 1, 2, 3, 4, 5].map (fun m => .mrd (vF 4 2 0 m))) ∧ fmEnables (envOf s).fmode = 0 ∧ (s.issueGroup (envOf s)).isSome = true
     ∧ (∀ lv ∈ lanesOf s, (srcA (lanesOf s) lv (vF 4 2 0 0)).toNat / 2 ^ 14 = 0 ∧ (srcA (lanesOf s) lv (vF 4 2 0 0)).toNat / 64 % 4 = 0
          ∧ (srcA (lanesOf s) lv (vF 4 2 0 0)).toNat / 256 < 1) ∧ (s.core 0).matrix.cmds = [])
    ∧ ((gS [] tile1).grp? 0 0).isSome = true ∧ rsvFloat 4 = false ∧ 63 < 64 := by
  refine ⟨⟨issues_each (by decide +kernel), by decide +kernel, by decide +kernel, by decide +kernel, by decide +kernel⟩, by decide +kernel, by decide, by decide⟩

/-- R216: the pair of elements (row 63, columns 62 and 63) for lane 31. -/
theorem test_mrd :
    let s := (inDeal 1 [(0, thr [(2, 63)]), (31, thr [(2, 63)])]).modGrp 0 0 (fun x => { x with tiles := [[(64 * 63 + 62, 7), (64 * 63 + 63, 9)]] })
    vVal (.mrd (vF 4 2 0 0)) s 31 4 = some 7 ∧ vVal (.mrd (vF 4 2 0 0)) s 31 5 = some 9 ∧ vVal (.mrd (vF 4 2 0 0)) s 0 4 = some 0 := by
  decide +kernel

/-- MatrixResults, products: scales inside the scratch and outside; a chunk of 1.5 and 2, the largest between 2 and 4, a NaN and an infinity among products. -/
def rsvF : Rsv := ⟨0, 7, 0, 1, 0⟩
theorem witness_MatrixResults_products :
    (rsvF.k = 32 ∧ rsvFloat rsvF.fmt = true ∧ rsvF.k % scaleBlock rsvF.bl = 0 ∧ 0 + 2 * (64 * (32 / 32)) ≤ 32768 ∧ ¬ (32700 + 2 * (64 * (32 / 32)) ≤ 32768))
    ∧ (let ps := [Datum.fin false 3 (-1) false, .fin false 2 0 false]
       (∀ p ∈ ps, p.isNum ∧ p.val ≠ 0) ∧ (∀ p ∈ ps, |p.val| < 2 ^ ((1 : Int) + 1)) ∧ (∃ p ∈ ps, (2 : Rat) ^ (1 : Int) ≤ |p.val|) ∧ oneDatum.isNum ∧ oneDatum.val ≠ 0)
    ∧ (fdec fmtF32 0x3F800000 false).isNan = false ∧ (fdec fmtF32 0x7FC00000 false).isNan = true ∧ (Datum.inf false).isInf = true := by
  refine ⟨by decide, ⟨fun p hp => ?_, fun p hp => ?_, ⟨.fin false 2 0 false, by simp, by norm_num [Datum.val]⟩, ⟨rfl, rfl⟩, by norm_num [Datum.val, oneDatum]⟩,
    by decide, by decide, rfl⟩
  · simp only [List.mem_cons, List.not_mem_nil, or_false] at hp
    obtain rfl | rfl := hp <;> exact ⟨⟨rfl, rfl⟩, by norm_num [Datum.val]⟩
  · simp only [List.mem_cons, List.not_mem_nil, or_false] at hp
    obtain rfl | rfl := hp <;> norm_num [Datum.val, abs_lt]

/-- R101, by hand: 1 + (1.5 + 2) · 1 · 1 = 4.5; a NaN among the products; +∞ times a zero scale. -/
theorem test_chunk :
    chunkStep 0x3F800000 [.fin false 3 (-1) false, .fin false 2 0 false] oneDatum oneDatum = 0x40900000
    ∧ chunkStep 0x3F800000 [.qnan] oneDatum oneDatum = 0x7FC00000 ∧ chunkStep 0xFF800000 [.zero false] oneDatum oneDatum = 0xFF800000 := by
  decide +kernel

/-- R102: integers 1·4 + 2·5 + 3·6 on top of 10. -/
theorem test_mma_int : mmaInt 10 [1, 2, 3] [4, 5, 6] = 42 := by decide

/-- FlagsAndPots: the last flag and pot, a flag of 12, a pot that is taken; a sum at each end of 48 bits. -/
theorem witness_FlagsAndPots :
    AllIssue (gS [(2, 0xBF), (3, 64)]) [.potarm (sAB 2 3 0), .potarmLit { vF 0 2 0 0 (some 64) with aS := true }, .fsetSet { vF 0 0 3 0 with bS := true },
      .fsetSetLit (vF 0 0 0 0 (some 0xFFF)), .fsetClr { vF 0 0 3 1 with bS := true }, .fsetClrLit (vF 0 0 0 1 (some 0xFFF))]
    ∧ (0xBF < 256 ∧ 0xBF / 16 < 12 ∧ 12 ≤ 0xC0 / 16 % 16 ∧ 256 ≤ 256) ∧ mapGet (grp1 [] []).pots 15 ⟨0, 0⟩ = ⟨0, 0⟩
    ∧ (let s := gS [(2, 0x10)] (fun x => { x with pots := [(0, ⟨5, 3⟩)] })
       issuesB (.potarm (sAB 2 3 0)) s = true ∧ 0 < (mapGet [(0, (⟨5, 3⟩ : Pot))] 0 ⟨0, 0⟩).rem ∧ (mapGet [(0, (⟨5, 3⟩ : Pot))] 0 ⟨0, 0⟩).flag ≠ 0x10 / 16)
    ∧ ((2 ^ 47 - 1 : Int) < 2 ^ 47 ∧ -(2 ^ 47 : Int) ≤ -(2 ^ 47 : Int)) ∧ (∀ lv ∈ lanesOf (gS [(3, 64)]), (lv.read true 3).toNat < 4096)
    ∧ (AllIssue (inDeal 0 [(3, thr [(3, 1)]), (9, thr [(3, 0x1001)])]) [.fsetSet (vF 0 0 3 0)]
      ∧ (inDeal 0 [(3, thr [(3, 1)]), (9, thr [(3, 0x1001)])] |> lanesOf).map (fun lv => decide ((lv.read false 3).toNat / 2 ^ 12 ≠ 0)) = [false, true]) := by
  refine ⟨issues_each (by decide +kernel), by decide, by rfl, ?_, by decide, by decide +kernel, issues_each (by decide +kernel), by decide +kernel⟩
  exact ⟨by decide +kernel, by decide, by decide⟩

/-- TasksAndBarriers: entries that are multiples of 4, an empty shoe and a full one; a barrier nobody has reached, one reached by its only member, and a context
that waits for an episode that has ended, its cluster released and not yet. -/
def atBarrier (release : List (Nat × Nat)) : State :=
  (gS [] (fun x => { x with scalar := .waiting (.gbar true 0) (deal1 2 [[⟨0, 0, none, false⟩]]) })).modInst 0 (fun i => { i with gridBar := ⟨1, [], release⟩ })
theorem witness_TasksAndBarriers :
    (let s := inDeal 0 [(5, thr [(4, 0x9000)])]
     AllIssue s [.spawn (vF 1 4 6 0), .tstat (vF 1 0 0 0)] ∧ OwnPositions (lanesOf s) ∧ (s.issueGroup (envOf s)).isSome = true ∧ (s.grp? 0 0).isSome = true
     ∧ ∀ lv ∈ storing (vF 1 4 6 0) (lanesOf s), (srcA64 (lanesOf s) lv (vF 1 4 6 0)).toNat % 4 = 0)
    ∧ AllIssue (gS []) [.gbarGang (sD 1 0), .gbarGrid (sD 1 1)]
    ∧ ((0 : Nat) ∈ barMembers rec1 true 0 ∧ 0 ∉ inst1.gridBar.arrived ∧ 0 ∉ inst1.retired)
    ∧ ((gS []).modInst 0 (fun i => { i with gridBar := ⟨0, [0], []⟩ })).inst? 0 = some { inst1 with gridBar := ⟨0, [0], []⟩ }
    ∧ (∀ r ∈ [([] : List (Nat × Nat)), [(0, 0)], [(0, 1)]], ((atBarrier r).residents 0).length = 1 ∧ (atBarrier r).tick = 0) := by
  refine ⟨⟨issues_each (by decide +kernel), by decide +kernel, by decide +kernel, by decide +kernel, by decide +kernel⟩, issues_each (by decide +kernel),
    by decide +kernel, by decide +kernel, by decide +kernel⟩

/-- R217, R219: the shoe's answer, 1 with room and 0 when it is full; the only member of a grid ends the episode and goes on with its number. -/
theorem test_spawn_barrier :
    vVal (.spawn (vF 1 4 6 0)) (inDeal 0 [(5, thr [(4, 0x9000)])]) 5 1 = some 1
    ∧ vVal (.spawn (vF 1 4 6 0)) ((inDeal 0 [(5, thr [(4, 0x9000), (1, 7)])]).modGrp 0 0 (fun x => { x with shoe := List.replicate 1024 (0, 0) })) 5 1 = some 0
    ∧ parked (.spawn (vF 1 4 6 0)) (inDeal 0 [(5, thr [(4, 0x9002)])]) 5 = some (1, 9)
    ∧ vVal (.tstat (vF 1 0 0 0)) ((inDeal 0 [(5, thr [])]).modGrp 0 0 (fun x => { x with shoe := [(0, 0), (4, 4)] })) 5 1 = some 0x20002
    ∧ (got (exec (.gbarGrid (sD 1 1)) (gS [])) (fun t => (t.inst? 0).map (fun i => i.gridBar.ep))).join = some 1
    ∧ (got (exec (.gbarClusterRelease 0) (atBarrier [(0, 0)])) (fun t => (t.grp? 0 0).map (fun x => x.scalar matches .ready _ (some 0)))).join = some true
    ∧ (got (exec (.gbarClusterRelease 0) (atBarrier [(0, 1)])) (fun t => (t.grp? 0 0).map (fun x => x.scalar matches .ready _ _))).join = some false := by
  decide +kernel

/-- Another group of the core, admitted before, that waits for a holding. -/
def earlier : State :=
  (gS [(2, 1)] (fun x => { x with admitSeq := 5 })).setGrp 0 1 { grp1 [] [] with scalar := .waiting .rxacq (deal1 2 [[⟨0, 0, none, false⟩]]), gflat := 1 }
def onlyWaiter (w : ScalarWait) : State := gS [] (fun x => { x with scalar := .waiting w (deal1 2 [[⟨0, 0, none, false⟩]]) })

/-- Holdings: with granules free, with a context admitted earlier waiting, with the block held, with tiles held, with no block in the launch; 1 and 4 tiles, 0 and 5; a
waiting context that fits and one that does not. -/
theorem witness_Holdings :
    AllIssue (gS [(2, 4)]) [.rxacq (sD 3 0), .zacq (sA 3 2 0), .rxrel (vF 0 0 0 0), .zrel { vF 0 2 0 0 with aS := true }]
    ∧ (rec1.xreg = 1 ∧ rec1.zmax = 4 ∧ rec1.xGranules = 1)
    ∧ ((gS []).freeGranules 0 = 93 ∧ ((gS []).core 0).holdWaiters.length = 0)
    ∧ (AllIssue earlier [.rxacq (sD 3 0), .zacq (sA 3 2 0)] ∧ (earlier.core 0).holdWaiters.map (fun w => w.2.1.admitSeq) = [0])
    ∧ ((onlyWaiter .rxacq).core 0).holdWaiters.length = 1 ∧ ((onlyWaiter (.zacq 94)).core 0).holdWaiters.length = 1 ∧ (onlyWaiter (.zacq 94)).freeGranules 0 = 93 := by
  refine ⟨issues_each (by decide +kernel), by decide, by decide +kernel, ⟨issues_each (by decide +kernel), by decide +kernel⟩, by decide +kernel,
    by decide +kernel, by decide +kernel⟩

/-- R220: granted, refused while it holds a tile and another waits, waiting; too many tiles. -/
theorem test_holdings :
    gVal (.rxacq (sD 3 0)) (gS [(3, 9)]) 3 = some 0 ∧ gVal (.rxacq (sD 3 0)) (gS [] (fun x => { x with xheld := true })) 3 = some 2
    ∧ gVal (.rxacq (sD 3 0)) (earlier.modGrp 0 0 tile1) 3 = some 1
    ∧ (got (exec (.rxacq (sD 3 0)) earlier) (fun t => (t.grp? 0 0).map (fun x => x.scalar matches .waiting .rxacq _))).join = some true
    ∧ gVal (.zacq (sA 3 2 0)) (gS [(2, 4), (3, 9)]) 3 = some 0 ∧ gVal (.zacq (sA 3 2 0)) (gS [(2, 5)]) 3 = some 3 := by
  decide +kernel

/-- FlagsAndPots, the clocks and modes: on a column core and in a group's scalar context. -/
theorem witness_FlagsAndPots_modes :
    AllIssue (inCol 0 [(2, 1)]) [.setfm { vF 0 0 2 1 with bS := true }, .setfmLit (vF 0 0 0 0 (some 0x3F)), .tick (sD 2 0), .cyc (sD 2 0)]
    ∧ AllIssue (gS [(2, 1)]) [.setfm { vF 0 0 2 1 with bS := true }, .setfmLit (vF 0 0 0 0 (some 0x3F)), .getsr (sA 3 2 0)]
    ∧ (lanesOf (gS [])).length = 1 ∧ (lanesOf (inCol 0 [])).length = 1 ∧ ((gS []).deal? 0 0).isSome = true := by
  refine ⟨issues_each (by decide +kernel), issues_each (by decide +kernel), rfl, rfl, rfl⟩

/-- R221 to R223: `.clr` clears `fstat`; `getsr` of flags; `cyc` counts 800 cycles in a microsecond. -/
theorem test_modes :
    got (exec (.setfmLit (vF 0 0 0 1 (some 3))) ((inCol 0 []).modCc 0 (fun x => { x with fstat := 5, acc := 2 }))) (fun t => ((t.cc 0).fmode, (t.cc 0).fstat, (t.cc 0).acc)) = some (3, 0, 0)
    ∧ gVal (.getsr (sA 3 2 0)) (gS [(2, 0x10)] (fun x => { x with soft := 0x801 })) 3 = some 0x801
    ∧ got (exec (.cyc (sD 2 0)) { inCol 0 [] with tick := 1000 }) (fun t => getReg (t.cc 0).s 2) = some 800
    ∧ got (exec (.tick (sD 2 0)) { inCol 0 [] with tick := 2 ^ 32 + 7 }) (fun t => (getReg (t.cc 0).s 2, getReg (t.cc 0).s 3)) = some (7, 1) := by
  decide +kernel

/-- A group with one command in the copy queue and the first GiB mapped, or nothing mapped. -/
def withCmd (c : Cmd) (soft : BitVec 12 := 0) : State :=
  (gS [] (fun x => { x with soft := soft, scratch := [(0x100, 5)] }) (fun y => { y with copyq := [c] })).modCol 0 (fun y => { y with wtlb := [⟨1, 0, 2, 0x3E⟩] })
def unmapped (s : State) : State := s.modCol 0 (fun y => { y with wtlb := [] })
def copyCmd : Cmd := { Cmd.blank 0x167 0 0x8008 none with id := 7, d := 0x3000, a := 0x1000, len := 16, wmask := 1 }
def begun (c : Cmd) : Cmd := { c with phase := .begun, started := true }

/-- A copy of 16 bytes from 0x100 to 0x200 of its own group's scratch, that has begun and counts in pot 0; a staging of 2 KiB; requests of a fabric copy. -/
def scratchCmd (op : Nat) : Cmd := { begun copyCmd with op := op, dsp := 1, ssp := 1, d := 0x200, a := 0x100, pen := true, rsvA := some rsvI }
def farCmd : Cmd := { begun copyCmd with op := 0x16C, ssp := 1, a := 0x100, pen := true }
/-- What an operation that succeeds gives, and a value where it does not. -/
def okD {α β : Type} (x : Except α β) (d : β) : β := match x with | .ok y => y | .error _ => d
theorem okB_get {α β : Type} {x : Except α β} (h : okB x = true) (d : β) : x = .ok (okD x d) := by
  cases x with
  | ok y => rfl
  | error e => exact absurd h (by simp [okB])
/-- One piece moves where its bytes can be read and written and the pot takes them. -/
theorem moves_one (n : Nat) (x : Group) (c : Cmd) (s : State) (p : Move × Nat × Nat) :
    let r := s.sideLoad n x c.grp (c.src (s.rankOf x)) (p.1.src + p.2.1) p.2.2
    let w := r.2.sideStore n x c.grp (c.dst (s.rankOf x)) (p.1.dst + p.2.1) (okD r.1 [])
    okB r.1 = true → okB w = true → ((okD w s).potCount n c p.2.2).1 = false → ∃ t, MovesInTurn n x c s [p] t := by
  intro r w h1 h2 h3
  exact ⟨_, okD r.1 [], r.2, okD w s, Prod.ext (okB_get h1 []) rfl, okB_get h2 s, h3, rfl⟩

/-- No slice holds the sectors of a page there. -/
theorem slice_withCmd (c : Nat) : (withCmd copyCmd).slice? c 0x80 = none := by
  rw [withCmd, State.slice?, State.col_modCol]
  split <;> rfl

/-- CommandRecords, what is written: a copy inside the scratch of one group, its pieces in turn; global places at hand; the mask words of `cpyr`; a staging; a
request of `fwrb` to another package; answers of each kind. -/
theorem witness_CommandRecords_written :
    (let c := scratchCmd 0x167
     let s := withCmd c
     let x := ((s.grp? 0 0).getD (grp1 [] []))
     s.cmd? 0 7 = some c ∧ c.phase = .begun ∧ s.grp? 0 0 = some x ∧ c.dst (s.rankOf x) = .scratch 0 0x200 ∧ c.src (s.rankOf x) = .scratch 0 0x100
     ∧ Housed s x 0 0 0 x ∧ 0x100 + 16 ≤ 0x200 ∧ PotTakes x c 16
     ∧ (pendingPieces (c.dst (s.rankOf x)) c.moves c.prog).map (fun p => (p.2.1, p.2.2)) = [(0, 16)] ∧ ∃ t, MovesInTurn 0 x c s (pendingPieces (c.dst (s.rankOf x)) c.moves c.prog) t)
    ∧ (let s := withCmd copyCmd
       let x := ((s.grp? 0 0).getD (grp1 [] []))
       (∀ wr ∈ [false, true], s.engPage 0 x 0x1000 16 wr false = .place 0x1000 false) ∧ Room s 0 (16 / 32 + 2) ∧ s.poison.contains 0x80 = false
       ∧ ∀ c, s.slice? c 0x80 = none)
    ∧ (let c := { scratchCmd 0x16A with lists := [1, 0, 2], aux2 := 0x300 }
       c.moves.length = 2 ∧ PotTakes (grp1 [] []) c (4 * ((3 + 31) / 32)) ∧ 33 - 1 < 32 * 2)
    ∧ (let c := scratchCmd 0x163
       let s := gS [] (fun x => { x with scratch := [(0x100, 5)] }) (fun y => { y with matrix := { y.matrix with owner := some 0, cmds := [c] } })
       let x := ((s.grp? 0 0).getD (grp1 [] []))
       s.cmd? 0 7 = some c ∧ (s.core 0).matrix.fenced ≠ 0xF ∧ s.grp? 0 0 = some x ∧ c.src (s.rankOf x) = .scratch 0 0x100 ∧ Housed s x 0 0 0 x
       ∧ PotTakes x c (256 * (rsvI.sizeM1 + 1)))
    ∧ (let s := (withCmd farCmd).modCol 0 (fun y => { y with wtlb := [⟨1, 0, 2, 0x3E + 5 * 2 ^ 54⟩] })
       let x := ((s.grp? 0 0).getD (grp1 [] []))
       s.engPage 0 x 0x3000 16 true true = .place (remotePlace 5 0x3000) false ∧ isRemote (remotePlace 5 0x3000) = true
       ∧ farCmd.src (s.rankOf x) = .scratch 0 0x100 ∧ s.gangScratch x 0 = some (.grp 0 0) ∧ (s.cmd? 0 7).isSome = true
       ∧ (s.fabricRequest 0 x farCmd 0 16).1 = .done) := by
  refine ⟨⟨by decide +kernel, rfl, rfl, by decide +kernel, by decide +kernel, ⟨by decide +kernel, rfl, by decide +kernel⟩, by decide, .inr (by decide +kernel),
      by decide +kernel, ?_⟩,
    ⟨by decide +kernel, by unfold Room; decide +kernel, by decide, slice_withCmd⟩, ⟨by decide, .inr (by decide), by decide⟩,
    ⟨by decide +kernel, by decide +kernel, rfl, by decide +kernel, ⟨by decide +kernel, rfl, by decide +kernel⟩, .inr (by decide +kernel)⟩,
    ⟨by decide +kernel, by decide, by decide +kernel, by decide +kernel, by decide +kernel, by decide +kernel⟩⟩
  have h : pendingPieces (Side.scratch 0 0x200) (scratchCmd 0x167).moves (scratchCmd 0x167).prog = [(⟨0, 0, 16⟩, 0, 16)] := by decide +kernel
  have hd : (scratchCmd 0x167).dst ((withCmd (scratchCmd 0x167)).rankOf (((withCmd (scratchCmd 0x167)).grp? 0 0).getD (grp1 [] []))) = .scratch 0 0x200 := by
    decide +kernel
  rw [hd, h]
  exact moves_one 0 _ _ _ _ (by decide +kernel) (by decide +kernel) (by decide +kernel)

/-- CommandProgress: a wait mask set and clear; lists outside scratch; rows outside scratch; a good command; one begun that is done, one whose page is absent, one with an
error. -/
theorem witness_CommandProgress :
    (∀ p ∈ [(0 : BitVec 12), 1], (withCmd copyCmd p).cmd? 0 7 = some copyCmd ∧ (withCmd copyCmd p).flagsClear 0 0 copyCmd.wmask = (p == 0))
    ∧ (copyCmd.phase = .accepted ∧ copyCmd.started = false ∧ isMatrixOp copyCmd.op = false)
    ∧ ((withCmd copyCmd).withLists (grp1 [] []) { copyCmd with op := 0x169, aux1 := 0x8000, rows := 1 }).toOption = none
    ∧ (withCmd copyCmd).planError (grp1 [] []) { copyCmd with dsp := 1, d := 0x8000 } = some 4 ∧ (withCmd copyCmd).planError (grp1 [] []) copyCmd = none
    ∧ (let s := withCmd (begun copyCmd); (s.runCmd 0 (begun copyCmd)).1 = .done ∧ (s.runCmd 0 (begun copyCmd)).2.cmdOwed 0 7 = false)
    ∧ (let s := unmapped (withCmd (begun copyCmd)); (s.runCmd 0 (begun copyCmd)).1 matches .suspend _ _ _ _) = true
    ∧ ((withCmd { begun copyCmd with err := some 3 }).runCmd 0 { begun copyCmd with err := some 3 }).1 = .error 3 := by
  decide +kernel

/-- R205, R209: a copy between places of memory, begun and then complete. -/
theorem test_copy_runs :
    got (exec (.engineCommandBegin 0 7) (withCmd copyCmd)) (fun t => (t.cmd? 0 7).map (fun c => c.phase)) = some (some .begun)
    ∧ got (exec (.engineCommandComplete 0 7) ((withCmd (begun copyCmd)).setHomeBytes 0x1000 [1, 2, 3])) (fun t => (t.viewBytes 0 0x3000 4, t.cmd? 0 7)) = some ([1, 2, 3, 0], none)
    ∧ got (exec (.engineCommandSuspend 0 7) (unmapped (withCmd (begun copyCmd)))) (fun t => ((t.col 0).fqWait.map (fun r => (r.cause, r.code, r.src)))) = some [(16, 0, 2)] := by
  decide +kernel

/-- RangeLocks: no lock, 63 locks and the 64th, a 65th, a conflict. -/
def lockA (first last : Nat) (dst : Bool) : LockEntry := ⟨false, dst, 1, first, last, [], .cmd 0 9⟩
theorem witness_RangeLocks :
    (∀ p ∈ [(0, 1), (63, 1), (62, 2), (64, 1)], let s := (gS []).modCol 0 (fun y => { y with locks := List.replicate p.1 (lockA 0 1 false) })
      (s.col 0).lockWait.length = 0 ∧ ((s.col 0).locks.length + p.2 ≤ 64 ∨ 64 < (s.col 0).locks.length + p.2)
      ∧ (s.col 0).locks.all (fun b => !((lockA 2 3 true).conflicts b)) = true)
    ∧ (lockA 1 2 true).conflicts (lockA 2 3 false) = true ∧ (lockA 1 2 false).conflicts (lockA 2 3 false) = false := by
  decide +kernel

/-- A lock of a command and a request of another that waits for it. -/
def lockQueue : State := (gS []).modCol 0 (fun y => { y with locks := [{ lockA 0 1 true with owner := .cmd 0 8 }], lockWait := [⟨.cmd 0 9, [lockA 1 2 true]⟩] })
/-- A lock of a swap in every table, and a scalar context and a thread that wait on it. -/
def swapLocked : State :=
  let l : LockEntry := ⟨true, true, 1, 0, 0x7FF, [], .swap 0 4⟩
  ((inDeal 0 [(5, { thr [] with st := .parked, park := some ⟨.sysLock 1, plainFault 0 0 0, 1, false⟩ })]).modGrp 0 0 (fun x =>
    { x with scalar := .waiting (.sysLock 0x1000 1) (deal1 2 [[⟨0, 0, none, false⟩]]) })).modCol 0 (fun y => { y with locks := [l] })

/-- RangeLocks, releases: what waits stands in every table of its owner, once; a table that grants it and one that does not; an entry on an address, beside it and of another
ASID; a side whose span wraps. -/
theorem witness_RangeLocks_release :
    LockOrder lockQueue ∧ (lockQueue.col 0).grants ⟨.cmd 0 9, [lockA 1 2 true]⟩ = false ∧ (lockQueue.col 0).grants ⟨.cmd 0 7, [lockA 4 5 true]⟩ = true
    ∧ (lockQueue.col 0).grants ⟨.cmd 0 7, [lockA 2 3 true]⟩ = false
    ∧ (let s := swapLocked
       ((s.grp? 0 0).map (fun x => x.scalar matches .waiting (.sysLock 0x1000 1) _)) = some true ∧ ((s.col 0).locks.filter (fun a => decide (a.owner = .swap 0 4))).length = 1
       ∧ ((s.thr? 0 0 5).bind (fun t => t.park)).map (fun p => p.kind) = some (.sysLock 1) ∧ (s.col 0).locks.all (fun l => l.stops 1 0) = true
       ∧ (0x1000 + 7) / 32 ≤ 0x7FF ∧ ∀ e ∈ s.cores, e.1 = 0 → ∀ q ∈ e.2.groups, q.1 = 0 → q.2.scalar = ((s.grp? 0 0).getD (grp1 [] [])).scalar)
    ∧ ((-32 : Int) ≤ 63 ∧ (63 : Int) - -32 < 2 ^ 64) := by
  refine ⟨⟨fun k q hq => ?_, fun k => ?_, fun k q hq => ?_⟩, by decide +kernel, by decide +kernel, by decide +kernel, by decide +kernel, by decide⟩
  all_goals by_cases hk : k = 0
  · subst hk; revert q; decide +kernel
  · rw [lockQueue, State.col_modCol, if_neg hk] at hq; exact absurd hq List.not_mem_nil
  · subst hk; decide +kernel
  · rw [lockQueue, State.col_modCol, if_neg hk]; exact List.nodup_nil
  · subst hk; revert q; decide +kernel
  · rw [lockQueue, State.col_modCol, if_neg hk] at hq; exact absurd hq List.not_mem_nil

/-- R310, R311: the release of a swap lets go on what waits at its entries; that of a command grants the next. -/
theorem test_release_locks :
    ((swapLocked.releaseLocks (.swap 0 4)).grp? 0 0).map (fun x => x.scalar matches .ready _ none) = some true
    ∧ (((lockQueue.releaseLocks (.cmd 0 8)).col 0).locks.map (fun l => l.first), ((lockQueue.releaseLocks (.cmd 0 8)).col 0).lockWait) = ([1], [])
    ∧ (sideEntry 1 true (.cmd 0 1) (.global 0xFFFFFFFFFFFFFFE0) (some (0, 63))).map (fun e => (e.first, e.last)) = [(2 ^ 59 - 1, 2 ^ 59 - 1), (0, 0)] := by
  decide +kernel

/-- SystemRegisters: each row at machine privilege; a reserved number at each edge of R232, a register for S read at U, one that cannot be written, `rsm_go` of 31 and 32,
reserved bits of `pol_deal`. -/
theorem witness_SystemRegisters :
    AllIssue (inCol 3 [(2, 0x42), (4, 31)]) [.sysrd { vF 6 0 2 0 with dS := true, bS := true }, .sysrdLit (sD 6 0 (some 0x11)), .calDataRead (sD 6 0 (some 0x71)), .syswr (sAB 4 2 0),
      .syswrLit { vF 0 4 0 0 (some 0x12) with aS := true }, .rsmGoWrite { vF 0 4 0 0 (some 0x43) with aS := true },
      .swallowColWrite { vF 0 4 0 0 (some 0x50) with aS := true }, .thrEventsWrite { vF 0 4 0 0 (some 0x51) with aS := true },
      .evpendWrite { vF 0 4 0 0 (some 0x80) with aS := true }, .polDealWrite { vF 0 4 0 0 (some 0x40) with aS := true }]
    ∧ (∀ n ∈ [0x001, 0x00F, 0x01B, 0x02A, 0x032, 0x044, 0x054, 0x06C, 0x072, 0x083, 0x093, 0x0A1, 0x140], sysRule n = none)
    ∧ sysRule 0x010 = some (1, some 1) ∧ sysRule 0x029 = some (3, some 3) ∧ sysRule 0x071 = some (1, none) ∧ sysRule 0x043 = some (3, some 3)
    ∧ (31 < 32 ∧ 32 ≤ 32) ∧ ((0x1FF : D64).toNat / 256 % 4 < 2 ∧ (0x1FF : D64).toNat % 256 ≠ 0) ∧ popNat 16 (0xF % 65536) = 4 ∧ popNat 16 (0x7 % 65536) < 4 := by
  refine ⟨issues_each (by decide +kernel), by decide +kernel, by decide +kernel, by decide +kernel, by decide +kernel, by decide +kernel, by decide, by decide, by decide, by decide⟩

/-- R232, R233: a read back, a reserved number, a privilege too low, `rsm_go` that starts another core. -/
theorem test_system_registers :
    got (exec (.syswrLit { vF 0 4 0 0 (some 0x30) with aS := true }) (inCol 3 [(4, 0x12345678), (5, 9)])) (fun t => t.sysRead 0 0x30) = some 0x912340000
    ∧ got (exec (.sysrdLit (sD 6 0 (some 0x54))) (inCol 3 [])) (fun t => (t.cc 0).trapM.cause) = some 0x40C01
    ∧ got (exec (.sysrdLit (sD 6 0 (some 0x10))) (trapState 0)) (fun t => (t.cc 0).trapS.cause) = some 0x71001
    ∧ got (exec (.sysrdLit (sD 6 0 (some 0x20))) (trapState 3)) (fun t => (getReg (t.cc 0).s 6, (t.cc 0).pos)) = some (0x4000, 3)
    ∧ got (exec (.rsmGoWrite { vF 0 4 0 0 (some 0x43) with aS := true }) ((inCol 3 [(4, 5)]).modCc 0 (fun x => { x with rsmAddr := 0x6000 })))
        (fun t => ((t.cc 5).run, (t.cc 5).addr, (t.cc 5).priv)) = some (.running, 0x6000, 3) := by
  decide +kernel

/-- CoreControl: each instruction at machine privilege, an event pending and none; an operand of 65,535 and of 65,536; 15 and 16 channels; a core halted in each way; a posted write
under way, and none. -/
theorem witness_CoreControl :
    AllIssue (inCol 3 [(2, 65535), (3, 65536), (4, 15), (5, 16)]) [.wfe (vF 0 0 0 0), .halt (vF 0 0 0 0), .tlbiAll (vF 0 0 0 0), .tlbiAsid { vF 0 0 2 1 with bS := true },
      .tlbiAsidLit (vF 0 0 0 1 (some 65536)), .tlbiPage (sAB 2 3 2), .tlbiPageLit { vF 0 2 0 2 (some 7) with aS := true }, .mscfWb { vF 0 0 4 0 with bS := true },
      .mscfWbi { vF 0 0 5 1 with bS := true }]
    ∧ ((boundary 3 true).evpend 0 &&& ((boundary 3 true).col 0).evmask) ≠ 0 ∧ ((inCol 3 []).evpend 0 &&& ((inCol 3 []).col 0).evmask) = 0
    ∧ ((inCol 3 []).cc 0).run = .running ∧ ((inCol 3 []).cc 31).run = .haltedReset ∧ 31 < 32
    ∧ (let t := { inCol 3 [] with fabric := { Fabric.reset with live := [⟨3, .col 0, 5, 2, 2, true⟩] } }
       t.underWay = [3] ∧ t.postedPending (.col 0) = true) ∧ (inCol 3 []).underWay = []
    ∧ (let s := (inCol 3 []).modDie 1 (fun d => { d with msc := [(5, true), (6, false)] })
       (s.die 1).msc.length = 2 ∧ (15 : Nat).testBit 1 = true ∧ (15 : Nat).testBit 4 = false) := by
  refine ⟨issues_each (by decide +kernel), by decide +kernel, by decide +kernel, by decide, by decide, by decide, by decide +kernel, by decide +kernel, by decide +kernel⟩

/-- R230, R235, R237: a `wfe` waits, and goes on once an unmasked event is pending; a `tlbi` waits for a posted write under way; resuming a core halted from reset. -/
theorem test_core_control :
    got (exec (.wfe (vF 0 0 0 0)) (inCol 3 [])) (fun t => (t.cc 0).pos) = some 0
    ∧ got (exec (.wfe (vF 0 0 0 0)) ((inCol 3 []).modCol 0 (fun y => { y with evLatched := 0x20, evmask := 0x20 }))) (fun t => (t.cc 0).pos) = some 2
    ∧ got (exec (.halt (vF 0 0 0 0)) (inCol 3 [])) (fun t => ((t.cc 0).run, (t.cc 0).pos)) = some (.haltedByHalt, 2)
    ∧ got (exec (.tlbiAll (vF 0 0 0 0)) { inCol 3 [] with fabric := { Fabric.reset with live := [⟨3, .col 0, 5, 2, 2, true⟩] } })
        (fun t => ((t.cc 0).pos, (t.cc 0).tlbi)) = some (0, some [3])
    ∧ got (exec (.mscfWbi { vF 0 0 4 1 with bS := true }) ((inCol 3 [(4, 2)]).modDie 1 (fun d => { d with msc := [(5, true), (6, false)] })))
        (fun t => ((t.die 1).mscWb, (t.die 1).msc)) = some (1, [])
    ∧ got (exec (.abavoResume 3 0x7000) (inCol 3 [])) (fun t => ((t.cc 3).run, (t.cc 3).addr)) = some (.running, 0x7000)
    ∧ got (exec (.abavoMessage 0) (inCol 3 [])) (fun t => t.evpend 0) = some 0x20 ∧ got (exec (.tickcmpMatch 0) (inCol 3 [])) (fun t => t.evpend 0) = some 0 := by
  decide +kernel

/-- A record of a fault of thread 5 of group 0. -/
def rcd (src : Nat) (next : D64) : Rec :=
  { cause := 16, code := 0, recid := 3, flags := 0, pos := 128, pc := 0x8008, next := next, vaddr := 0x5000, nthr := 1, slot := 0, core := 0, ctx := 1, grp := 0, src := src,
    tick := 9, threads := [5], cmd := 0, attached := true }
def fqState (n : Nat) (a : W) : State := (inCol 3 [(2, a), (4, 3), (6, 1)]).modCol 0 (fun y => { y with fq := List.replicate n (rcd 0 0), popped := [rcd 0 0x9000] })

/-- FaultQueue: a record waiting, a queue with a last place and a full one; `fqpop` of an area that is misaligned, of an empty queue, of one that passes, of far memory; `kres` of the
last identifier and of none, each action; a source of each kind. -/
theorem witness_FaultQueue :
    (∀ n ∈ [255, 256], (((fqState n 0).modCol 0 (fun y => { y with fqWait := [rcd 0 0] })).col 0).fqWait.length = 1)
    ∧ AllIssue (fqState 1 0x1000) [.fqpop (sA 8 2 0), .kresRetry (sF 8 4 6 0), .kresContinue (sF 8 4 6 0), .kresRetire (sF 8 4 6 0)]
    ∧ (0x1000 % 64 = 0 ∧ 0x1020 % 64 ≠ 0 ∧ ((fqState 0 0).col 0).fq.length = 0)
    ∧ isSegs ((fqState 1 0x1000).checkGlobal ((fqState 1 0x1000).memCtx (envOf (fqState 1 0x1000))) (envOf (fqState 1 0x1000)) 0x1000 64 .store none) = true
    ∧ ((fqState 1 0).checkGlobal ((fqState 1 0).memCtx (envOf (fqState 1 0))) (envOf (fqState 1 0)) 0x10000000000 64 .store none matches .fail ⟨17, _, _, _, _, _, _⟩) = true
    ∧ ((fqState 1 0).col 0).popped.find? (fun x => x.recid == 3) = some (rcd 0 0x9000) ∧ ((fqState 1 0).col 0).popped.find? (fun x => x.recid == 65535) = none
    ∧ (∀ src ∈ [0, 1, 2, 3], ((fqState 1 0).resolve 0 (rcd src 0) 1).isNone = true)
    ∧ ((fqState 1 0).resolve 0 { rcd 0 0x9000 with attached := false } 1).isSome = true ∧ (rcd 0 0).attached = true
    ∧ ((gS []).grp? (12 * 0 + (rcd 1 0).core) (rcd 1 0).grp).isSome = true ∧ (withCmd copyCmd).cmd? (12 * 0 + 0) 7 = some copyCmd := by
  refine ⟨by decide +kernel, issues_each (by decide +kernel), by decide, by decide +kernel, by decide +kernel, by decide +kernel, by decide +kernel, by decide +kernel,
    by decide +kernel, rfl, by decide +kernel, by decide +kernel⟩

/-- R239, R240: the 64 bytes at their offsets, from the table of R239; `kres` retry of a popped record. -/
theorem test_fault_record :
    got (exec (.fqpop (sA 8 2 0)) (fqState 1 0x1000)) (fun t => (leNat (t.viewBytes 0 0x1000 2), leNat (t.viewBytes 0 0x1007 1), leNat (t.viewBytes 0 0x1008 8),
      leNat (t.viewBytes 0 0x1018 8), getReg (t.cc 0).s 8, (t.col 0).fq.length)) = some (16, 128, 0x8008, 0x5000, 1, 0)
    ∧ got (exec (.kresContinue (sF 8 4 6 0)) (fqState 0 0)) (fun t => (getReg (t.cc 0).s 8, (t.col 0).popped.length)) = some (0, 0)
    ∧ got (exec (.kresRetry (sF 8 9 10 0)) (fqState 0 0)) (fun t => (getReg (t.cc 0).s 8, (t.col 0).popped.length)) = some (1, 1) := by
  decide +kernel

/-- A descriptor of a 64 KiB page to be moved from 0 to 0x30000, and the same with a SIZE of 3. -/
def descBytes (size : Nat) : List Byte := leBytes 8 0 ++ leBytes 8 0x30000 ++ leBytes 2 0 ++ leBytes 1 size ++ leBytes 13 0
def swapState (size : Nat) : State := ((inCol 3 [(4, 0x1000)]).setHomeBytes 0x1000 (descBytes size))
/-- A queued swap of the page at 0 mapped by tables at root 0x20000. -/
def queued (taken active : Bool) : State :=
  { (tables 0x21001 0x22001 0x23001 0x4003E).modCol 0 (fun y => { y with swaps := [⟨1, false, 0, 0x30000, 0, 7, 0x1018, 0x20000, taken, active⟩] }) with ctxroots := [(2, 0x20007)] }

/-- SwapEngine: a good descriptor, a bad one, a full queue; a command not taken up with its page there, one whose ASID no context has, one taken up, one active. -/
theorem witness_SwapEngine :
    AllIssue (swapState 0) [.swpgMv (sA 8 4 0), .swpgXch (sA 8 4 1)] ∧ descBad false (descBytes 0) = false ∧ descBad true (descBytes 3) = true
    ∧ (let s := swapState 0
       let m := s.memCtx (envOf s)
       isSegs (s.checkForm m (envOf s) 0x1000 32 .load none true) = true
       ∧ bytesOf (gather 0 ((s.leaveWalks (envOf s).who 0).loadSegs m.unit (segsOf (s.checkForm m (envOf s) 0x1000 32 .load none true)) 0 none true).1) = descBytes 0)
    ∧ (queued false false).rootOfAsid 7 = some 0x20000 ∧ ((queued false false).swapLeaf 0 0x20000 0 0).isSome = true ∧ (queued false false).rootOfAsid 9 = none
    ∧ ({ swapState 0 with retiredCh := [(0, 0)] } : State).channelGone 0x30000 = true ∧ (swapState 0).channelGone 0x30000 = false ∧ isNear 0x30000 = true
    ∧ ((queued false false).swapLeaf 0 0x20000 0 1).isSome = false ∧ ((queued true true).swapLeaf 0 0x20000 0 0) = some 0x4003E := by
  refine ⟨issues_each (by decide +kernel), by decide +kernel, by decide +kernel, by decide +kernel, by decide +kernel, by decide +kernel, by decide +kernel,
    by decide +kernel, by decide +kernel, by decide +kernel, by decide +kernel, by decide +kernel⟩

/-- R236: the answers of `swpg` for a good descriptor, a bad one and a full queue. -/
theorem test_swpg :
    got (exec (.swpgMv (sA 8 4 0)) (swapState 0)) (fun t => (getReg (t.cc 0).s 8, (t.col 0).swaps.length)) = some (0, 1)
    ∧ got (exec (.swpgMv (sA 8 4 0)) (swapState 3)) (fun t => getReg (t.cc 0).s 8) = some 2
    ∧ got (exec (.swpgMv (sA 8 4 0)) ((swapState 0).modCol 0 (fun y => { y with swaps := List.replicate 16 ⟨1, false, 0, 0, 0, 0, 0, 0, false, false⟩ })))
        (fun t => getReg (t.cc 0).s 8) = some 1 := by
  decide +kernel

/-- Column core 0 at U whose pages of the first GiB lie in package 5. -/
def farCol : State := (inCol 0 [(4, 0x1000)] [0x50000080, 0x40000024]).modCc 0 (fun x => { x with tlb := [⟨0, 0, 2, 0x3E + 5 * 2 ^ 54⟩] })
/-- The same, waiting for its word. -/
def farWait (got : Option RData) : State :=
  farCol.modCc 0 (fun x => { x with wait := some ⟨[⟨0, true, 2, .load 4, 0x1000, [⟨0, 0, 4, none, got⟩], none⟩], none⟩ })
/-- A thread of a deal whose pages of the first GiB lie in package 5; and its deal with the load pending. -/
def farDeal : State := (inDeal 0 [(5, thr [(4, 0x1000)])] [] (encode (.ld (vF 2 4 0 4)) ++ exitWords)).modCore 0 (fun x => { x with dtlb := [⟨1, 0, 2, 0x3E + 5 * 2 ^ 54⟩] })
def farPend (got : Option RData) : State :=
  (farDeal.deal? 0 0).elim farDeal (fun d => farDeal.setDeal 0 0 (some { d with pos := 2, pend := [⟨0, 0, ⟨[⟨5, false, 2, .load 4, 0x1000, [⟨0, 0, 4, none, got⟩], none⟩], none⟩,
    [⟨5, [(4, 0x1000)], [], [], 0⟩], []⟩] }))

/-- RemoteLoads: one word of one remote page, by a column core and by a thread; a wait with nothing arrived, and one whose word has arrived. -/
theorem witness_RemoteLoads :
    AllIssue farCol [.ld (sA 2 4 4), .ldMem (sA 2 4 4 (some 0)), .lda (sA 2 4 4 (some 0x48000000))]
    ∧ (farCol.checkForm (farCol.memCtx (envOf farCol)) (envOf farCol) 0x1000 4 .load none true = .segs [⟨0x1000, 4, remotePlace 5 0x1000, false⟩])
    ∧ (isRemote (remotePlace 5 0x1000) = true ∧ 0 < 4 ∧ remotePlace 5 0x1000 % 256 + 4 ≤ 256)
    ∧ ((farWait none).waitsOf (.col 0)).map (fun w => w.accs.map (fun a => a.arrived)) = [[false]]
    ∧ (let s := farWait (some (.bytes [1, 2, 3, 4] []))
       (s.waitsOf (.col 0)).map (fun w => w.accs.map (fun a => (a.arrived, bytesOf (gather 0 a.parts)))) = [[(true, [1, 2, 3, 4])]]
       ∧ (issueCtx { (s.modCc 0 (fun x => { x with wait := none })) with cur := .col 0 }).isSome = true
       ∧ ((s.cc 0).body.bind (fun b => standsAt b (s.cc 0).pos)).isSome = true)
    ∧ (AllIssue farDeal [.ld (vF 2 4 0 4)] ∧ farDeal.mustWait (farDeal.memCtx (envOf farDeal)) (vF 2 4 0 4) = false ∧ (farDeal.deal? 0 0).map (fun d => d.empty) = some false)
    ∧ (let s := (farPend none).modFab (fun x => { x with live := [⟨0, .grp 0 0, 5, 0x80, 0x80, false⟩] })
       (s.deal? 0 0).map (fun d => d.pend.all (fun p => p.trick == 0 && p.flags.isEmpty && p.wait.accs.all (fun a => a.lane == 5 && a.parts.all (fun q =>
         q.tag == 0 && q.got.isNone)))) = some true ∧ s.fabric.live = [⟨0, .grp 0 0, placePkg (remotePlace 5 0x1000), 0x80, 0x80, false⟩] ∧ placeAddr (remotePlace 5 0x1000) / 32 = 0x80)
    ∧ (let s := farPend (some (.bytes [1, 2, 3, 4] []))
       (s.waitsOf (.deal 0 0)).map (fun w => w.accs.map (fun a => (a.late.isNone, bytesOf (gather 0 a.parts)))) = [[(true, [1, 2, 3, 4])]]
       ∧ (s.deal? 0 0).map (fun d => ((standsAt d.body 0).isSome, hdrKind d.hdr, d.trickLanes 0)) = some (true, 0, [⟨5, 5, none, false⟩])) := by
  refine ⟨issues_each (by decide +kernel), by decide +kernel, by decide, by decide +kernel, by decide +kernel, ⟨issues_each (by decide +kernel), by decide +kernel, by decide +kernel⟩,
    by decide +kernel, by decide +kernel⟩

/-- R373, R374: the request of a load, and its word once it has arrived. -/
theorem test_remote_load :
    got (exec (.ld (sA 2 4 4)) farCol) (fun t => (t.fabric.outq, (t.cc 0).pos)) = some ([⟨0, 5, 0, .read 0x1000 4 0 0 false⟩], 0)
    ∧ got (exec (.loadComplete (.col 0)) (farWait (some (.bytes [1, 2, 3, 4] [])))) (fun t => (getReg (t.cc 0).s 2, (t.cc 0).pos, (t.cc 0).wait)) = some (0x04030201, 2, none)
    ∧ got (exec (.ld (vF 2 4 0 4)) farDeal) (fun t => (t.deal? 0 0).map (fun d => (d.pend.length, d.pos))) = some (some (1, 2))
    ∧ got (exec (.loadComplete (.deal 0 0)) (farPend (some (.bytes [1, 2, 3, 4] [])))) (fun t => ((t.thr? 0 0 5).map (fun x => getReg x.v 2), (t.deal? 0 0).map (fun d => d.pend.length)))
      = some (some 0x04030201, some 0) := by
  decide +kernel

/-! ### The fabric -/

/-- The package with its calendar loaded: slot 0 of port 0 faces package 5 (R358, R362). -/
def onFabric (m : Fabric → Fabric := id) : State :=
  { State.reset with cur := .col 0, fabric := m { Fabric.reset with loaded := true, cal := [(0, 0x8005)], slotStart := 0 } }
/-- The opening flit of package 5 for an epoch: VCRED, and a good CRC (R363). -/
def flit5 (epoch : Nat) : List Byte :=
  let body := leBytes 4 0 ++ leBytes 8 epoch ++ leBytes 2 5 ++ leBytes 2 256 ++ leBytes 2 100 ++ leBytes 2 200 ++ leBytes 4 0 ++ leBytes 4 0xFFFFFFFF
    ++ List.replicate 128 0 ++ List.replicate 96 0
  leBytes 4 (crc32 body) ++ body
/-- Port 0 open to package 5. -/
def openPort : State := onFabric (fun f => { f with ports := [(0, { Port.reset with isOpen := true, peer := 5 })] })

set_option maxRecDepth 8000 in
/-- FabricPorts: each side of each premise, at its edge. -/
theorem witness_FabricPorts :
    (8 % 8 = 0 ∧ 9 % 8 ≠ 0 ∧ State.reset.fabric.loaded = false ∧ State.reset.fabric.calNext = [])
    ∧ ((onFabric (fun f => { f with calNext := [(8, [])], epoch := 8 })).fabric.epoch = 8)
    ∧ (State.reset.pkgIdWritten = false ∧ { State.reset with pkgIdWritten := true }.pkgIdWritten = true)
    ∧ ({ onFabric with tick := 3000 }.fabric.slotStart + 3000 ≤ 3000)
    ∧ ((onFabric (fun f => { f with ports := [(0, { Port.reset with failed := 8 })] })).port 0).failed = 8
    ∧ (flitGood (flit5 0) = true ∧ flitGood [] = false ∧ onFabric.carrying = false ∧ (onFabric.port 0).isOpen = false
      ∧ onFabric.calPeer 0 (onFabric.fabric.epoch % 8) = some 5 ∧ 5 ≠ onFabric.pkgId)
    ∧ ((openPort.port 0).isOpen = true ∧ (openPort.port 0).rxBad = false ∧ (openPort.port 0).rxSeq = 0)
    ∧ ((onFabric (fun f => { f with calNext := [(8, []), (16, [])], epoch := 8 })).fabric.calNext.takeWhile (fun q => q.1 ≤ 8) = [(8, [])] ∧ 8 < 16)
    ∧ (let bs := dataFlit 0xFFFFFFFF 0 [7]
       dataGood bs = true ∧ flitSeq bs = 0 ∧ flitFill bs ≠ 0 ∧ flitSeq (dataFlit 0 5 []) ≠ 0) := by
  refine ⟨by decide, by decide, by decide, by decide, by decide, by decide +kernel, by decide, by decide, by decide +kernel⟩

set_option maxRecDepth 8000 in
/-- R363, R364: a flit of the slot's peer and epoch opens the port; one of another epoch does not. -/
theorem test_opening_flit :
    got (exec (.openingFlit 0 (flit5 0)) onFabric) (fun t => ((t.port 0).isOpen, (t.port 0).peer, (t.port 0).rfree, (t.port 0).dcred, (t.port 0).rcred)) = some (true, 5, 256, 100, 200)
    ∧ got (exec (.openingFlit 0 (flit5 8)) onFabric) (fun t => (t.port 0).isOpen) = some false
    ∧ got (exec .slotBoundary { openPort with tick := 3000 }) (fun t => ((t.port 0).isOpen, t.fabric.epoch)) = some (false, 1) := by
  refine ⟨by decide +kernel, by decide +kernel, by decide +kernel⟩

/-- A request of package 5 waiting to be performed, and a live tag of this package with its response. -/
def asked (b : Payload) : State := onFabric (fun f => { f with inq := [⟨5, 0, 9, b⟩] })
def answered : State :=
  onFabric (fun f => { f with nextTag := 4, respq := [⟨5, 0, 3, .ack⟩], live := [⟨3, .col 0, 5, 0x40, 0x40, true⟩], retiring := [(5, 9)], retire := [(5, 0, [1, 2])] })

/-- FabricTransactions: a read, a write, one performed before; a response to a live tag and to none; a retirement; a command without a route. -/
theorem witness_FabricTransactions :
    (∀ b ∈ [Payload.read 0x100 8 0 0 false, .write 0x100 [some 1, none] 0 0 false [], .write 0x8000000000 [some 1] 0 0 false [],
        .atomic (.rmw 0) 0x100 [(1, 0), (2, 0)] 0 0, .atomic (.rmw 0) 0x8000000000 [(1, 0)] 0 0], (asked b).requestHeld ⟨5, 0, 9, b⟩ = false ∧ (asked b).carrying = false
      ∧ (asked b).fabric.done = [])
    ∧ (isWindow 0x100 = false ∧ 0x100 + 4 ≤ 0x8000000000 ∧ 0x100 % 32 + 4 ≤ 32 ∧ (asked .ack).poison = [] ∧ ({ asked .ack with poison := [8] } : State).poison.contains (0x100 / 32) = true)
    ∧ ((asked Payload.ack).noRemote 0x8000000000 1 true = true ∧ (asked Payload.ack).noRemote 0x100 8 false = false)
    ∧ (let s := onFabric (fun f => { f with inq := [⟨5, 0, 9, .read 0 1 0 0 false⟩], done := [⟨0, 5, 9, .ack⟩] })
       s.fabric.done.find? (fun x => x.dst == 5 && x.tag == 9) = some ⟨0, 5, 9, .ack⟩)
    ∧ (answered.fabric.live.any (fun l => l.tag == 3) = true ∧ 3 < answered.fabric.nextTag ∧ (5, 9) ∈ answered.fabric.retiring
      ∧ answered.fabric.retire.find? (fun r => r.1 == 5) = some (5, 0, [1, 2]) ∧ answered.fabric.live.any (fun l => l.tag == 7) = false)
    ∧ ((withCmd { copyCmd with noRoute := some 0 }).noteRoutes.cmd? 0 7).isSome = true := by
  decide +kernel

/-- FabricPorts, messages: a request under a retired tag and one under another; a flit with the largest fill. FabricTransactions, delivery: a column core that waits for a tag
that is answered, and a command. -/
theorem witness_Fabric_delivery :
    (let s := onFabric (fun f => { f with retiring := [(5, 9)], done := [⟨0, 5, 9, .ack⟩] })
     (5, 9) ∈ s.fabric.retiring ∧ (5, 8) ∉ s.fabric.retiring ∧ (⟨5, 0, 9, .read 0 1 0 0 false⟩ : Msg).isRequest = true)
    ∧ (240 ≤ 240 ∧ 0xFFFFFFFF < 2 ^ 32)
    ∧ (let s := (farWait none).modFab (fun f => { f with respq := [⟨5, 0, 0, .data [1, 2, 3, 4] false []⟩], live := [⟨0, .col 0, 5, 0x80, 0x80, false⟩], nextTag := 1 })
       ((s.cc 0).wait.map (fun w => w.awaits 0)) = some true ∧ s.fabric.live.any (fun l => l.tag == 0) = true)
    ∧ (let c := { farCmd with tags := [⟨3, 0, 16, none⟩] }
       let s := (withCmd c).modFab (fun f => { f with respq := [⟨5, 0, 3, .ack⟩], live := [⟨3, .grp 0 0, 5, 0x180, 0x180, true⟩], nextTag := 4 })
       s.carrying = false ∧ s.owedTag 3 = false ∧ (s.cc 0).wait = none ∧ (s.deal? 0 0).map (fun d => d.pend.length) = some 0
       ∧ (s.cores.flatMap (fun e => (e.2.copyq ++ e.2.matrix.cmds).map (fun y => (e.1, y)))).filter (fun e => e.2.tags.any (fun y => y.tag == 3)) = [(0, c)]) := by
  decide +kernel

/-- R372 to R374: a read is answered from home, a write is stored and acknowledged, a second one is answered as before. -/
theorem test_remote_request :
    got (exec .remoteRequest ((asked (.read 0x100 2 0 0 false)).setHomeBytes 0x100 [7, 8])) (fun t => (t.fabric.inq, t.fabric.outq)) = some ([], [⟨0, 5, 9, .data [7, 8] false []⟩])
    ∧ got (exec .remoteRequest (asked (.write 0x100 [none, some 8] 0 0 false []))) (fun t => (t.homeByte 0x101, t.fabric.outq)) = some (8, [⟨0, 5, 9, .ack⟩])
    ∧ got (exec .remoteRequest ((asked (.atomic (.rmw 0) 0x100 [(1, 0), (2, 0)] 0 0)).setHomeBytes 0x100 [7])) (fun t => (t.homeByte 0x100, t.fabric.outq))
      = some (10, [⟨0, 5, 9, .data [7, 0, 0, 0, 8, 0, 0, 0] false []⟩])
    ∧ got (exec .remoteResponse answered) (fun t => (t.fabric.live.length, t.fabric.respq)) = some (0, [])
    ∧ got (exec (.tagRetireTimeout 5) { answered with tick := 200000 }) (fun t => t.fabric.outq) = some [⟨0, 5, 0, .retire [1, 2]⟩] := by
  decide +kernel

/-! ### Dealing -/

/-- Ten words of an array block that ends with `exit`. -/
def tenWords : List W := [0x57000000, 0, 0, 0, 0, 0, 0, 0] ++ exitWords
/-- Threads 0 and 5 of group 0 wait at 0x8000, where a block of a kind lies, in one hand. -/
def dealable (kind : Nat := 0) : State :=
  ((({ inDeal 0 [] with
    cores := [(0, { ACore.reset with
      groups := [(0, grp1 [(0, { thr [] with st := .waiting }), (5, { thr [] with st := .waiting })] [])], deck := [⟨0, 0x8000, none, [0, 5], 0, 0, none, some (hdrOf kind)⟩] })] }).placeBytesAt 0x8000
        (blockBytes (hdrOf kind) tenWords)).modCol 0 (fun y => { y with wtlb := [⟨1, 0, 2, 0x3E⟩] }))
/-- The same hand as a return hand, at its third word. -/
def returning : State := dealable.modCore 0 (fun y => { y with deck := [⟨0, 0x8010, some 0x8000, [0, 5], 0, 0, none, some (hdrOf 0)⟩], groups := y.groups.map (fun e => (e.1, { e.2 with
  threads := e.2.threads.map (fun t => (t.1, { t.2 with ret := some 0x8010 })) })) })

/-- The hand with the header of a crew's block, which is no longer the block's. -/
def staleHand : State := dealable.modCore 0 (fun y => { y with deck := [⟨0, 0x8000, none, [0, 5], 0, 0, none, some (hdrOf 1)⟩] })

/-- DealChoice: a dealable hand is chosen; none where there is none; a hand whose flags are clear and one whose are not; units of one
thread and of a crew; a return hand of a group-scalar block. -/
theorem witness_DealChoice :
    (dealable.choice 0).isSome = true ∧ (two.choice 0).isNone = true ∧ dealable.headerAt 0 (grp1 [] []) 0x8000 = some (hdrOf 0)
    ∧ (unitSize (hdrOf 1) = 32 ∧ hdrKind (hdrOf 1) ≠ 2 ∧ (⟨0, 0x8010, some 0x8000, [0, 5], 0, 0, none, some (hdrOf 2)⟩ : Hand).header dealable 0 (grp1 [] []) = some (hdrOf 2)
      ∧ hdrKind (hdrOf 2) = 2) ∧ dealable.flagsClear 0 0 (hdrWait (hdrOf 0)) = true ∧ unitSize (hdrOf 0) = 1 ∧ hdrKind (hdrOf 0) ≠ 2
    ∧ (dealable.modGrp 0 0 (fun x => { x with soft := 1 })).flagsClear 0 0 1 = false
    ∧ dealable.candidatesOf 0 ≠ [] ∧ (dealable.candidatesOf 0).all (fun c => !(dealable.anteDueNow 0 c.2.1)) = true := by
  decide +kernel

/-- MakingADeal: a plain hand and a return hand behind it, each deal of a block that can be fetched; no slot; a hand whose header is no longer the block's. -/
theorem witness_MakingADeal :
    (∀ p ∈ [(dealable.observe 0, false, (0x8000 : D64)), (returning.observe 0, true, 0x8000)], p.1.freeSlot 0 = some 0 ∧ (p.1.core 0).scalarReady = none
      ∧ (match p.1.choice 0 with
        | some c => c.1.ret.isSome == p.2.1 && (c.1.ret.getD c.1.addr == p.2.2)
            && bodyOf ((p.1.countPasses 0 c.1).fetchBlock 0 ((p.1.countPasses 0 c.1).fetchXlate 0 c.2.1) false p.2.2) == tenWords
            && decide (hdrVhigh (hdrOf 0) < p.1.holding c.2.1)
        | none => false) = true)
    ∧ isBoundary 11 tenWords 2 = true ∧ (0x8010 : D64).toNat - (0x8000 : D64).toNat = 8 + 4 * 2
    ∧ (let s := two.setDeal 0 1 (some (deal1 0 [])); s.freeSlot 0 = none)
    ∧ (match (staleHand.observe 0).choice 0 with
      | some c => c.1.header (staleHand.observe 0) 0 c.2.1 != some (hdrOf 0) && c.2.1.trapCheck == .good
      | none => false) = true := by
  decide +kernel

/-- A hand held as group-scalar, or as threads, of a block whose page is absent; a hand of the block at TRAPENT, not found there when its threads were delivered, of kind 0. -/
def absentHand (kind : Nat) : State :=
  (dealable.modCore 0 (fun y => { y with deck := [⟨0, 0x50000000, none, [0, 5], 0, 0, none, some (hdrOf kind)⟩] })).modGrp 0 0 (fun x =>
    { x with threads := x.threads.map (fun t => (t.1, { t.2 with next := 0x50000000 })) })
def lateTrapBlock : State :=
  (dealable.modInst 0 (fun i => { i with lrec := { rec1 with trapEnt := 0x8000 } })).modGrp 0 0 (fun x =>
    { x with trapCheck := .unreadable, threads := x.threads.map (fun t => (t.1, { t.2 with entering := some (plainFault 16 0 0x9000) })) })
theorem witness_MakingADeal_faults :
    (∀ kind ∈ [0, 2], (match ((absentHand kind).observe 0).choice 0 with
      | some c => c.1.header ((absentHand kind).observe 0) 0 c.2.1 == some (hdrOf kind)
          && fails ((((absentHand kind).observe 0).countPasses 0 c.1).fetchBlock 0 ((((absentHand kind).observe 0).countPasses 0 c.1).fetchXlate 0 c.2.1) false 0x50000000)
      | none => false) = true)
    ∧ (match (lateTrapBlock.observe 0).choice 0 with
      | some c => c.1.header (lateTrapBlock.observe 0) 0 c.2.1 == some (hdrOf 0) && c.2.1.trapCheck == .unreadable
          && c.1.addr == ((lateTrapBlock.observe 0).recOf c.2.1).trapEnt && hdrKind (hdrOf 0) != 4
      | none => false) = true := by
  decide +kernel

/-- R43, R137: threads park at an absent block; the scalar context stops there; a block at TRAPENT of kind 0 stops the group. -/
theorem test_failed_deals :
    got (exec (.deal 0) (absentHand 0)) (fun t => (t.thr? 0 0 5).map (fun x => x.st)) = some (some .parked)
    ∧ (got (exec (.deal 0) (absentHand 2)) (fun t => (t.grp? 0 0).map (fun x => x.scalar matches .stopped _ 0x50000000))).join = some true
    ∧ got (exec (.deal 0) lateTrapBlock) (fun t => ((t.grp? 0 0).map (fun x => x.stopped), (t.thr? 0 0 5).bind (fun x => x.park.map (fun p => p.info.pc)))) = some (some true, some 0x9000) := by
  decide +kernel

/-- R31, R257, R266: both threads are dealt as one trick, lanes in order; a return deal goes on behind the instruction; DEAL leaves a return hand alone. -/
theorem test_deal :
    got (exec (.deal 0) dealable) (fun t => (t.deal? 0 0).map (fun d => d.tricks)) = some (some [[⟨0, 0, none, false⟩, ⟨1, 5, none, false⟩]])
    ∧ got (exec (.deal 0) dealable) (fun t => ((t.thr? 0 0 5).map (fun th => th.st), (t.core 0).deck.length)) = some (some .dealt, 0)
    ∧ got (exec (.returnDeal 0) returning) (fun t => (t.deal? 0 0).map (fun d => (d.pos, d.isReturn))) = some (some (2, true))
    ∧ got (exec (.deal 0) returning) (fun t => (t.deal? 0 0).isSome) = some false
    ∧ got (exec (.deal 0) staleHand) (fun t => ((t.deal? 0 0).isSome, (t.core 0).deck.map (fun h => h.hdr))) = some (false, [some (hdrOf 0)]) := by
  decide +kernel

/-- The deal of `two` with every trick passed and flags 5. -/
def ended : State := two.setDeal 0 0 (some { deal1 0 [[⟨0, 0, none, false⟩, ⟨5, 5, none, false⟩]] with done := true, acc := 5 })

/-- DealEnds: a deal with tricks left, and one that is done. -/
theorem witness_DealEnds : (two.deal? 0 0).map (fun d => d.done) = some false
    ∧ ((ended).deal? 0 0).map (fun d => (d.done, d.parkedHere)) = some (true, []) ∧ two.deal? 0 1 = none ∧ ended.slotHeld 0 1 = false
    ∧ ((two.modCore 0 (fun y => { y with rescanDue := true })).core 0).rescanDue = true ∧ ((two.observe 0).core 0).deck.length < 128 := by
  decide +kernel

/-- A thread that waits and is owed its hand. -/
def owedOne : State := (dealable.modCore 0 (fun y => { y with deck := [] })).modThr 0 0 5 (fun t => { t with owed := true })
/-- A full deck whose last entry has been held for 5,000 cycles, the others for none, and a thread owed its hand. -/
def fullDeck : State :=
  { ((dealable.modCore 0 (fun y => { y with
      deck := (List.range 127).map (fun i => ⟨0, BitVec.ofNat 64 (0x10000 + 8 * i), none, [], 0, 0, none, none⟩) ++ [⟨0, 0x8000, none, [0], 0, 5000, none, some (hdrOf 0 + 0x10000000000)⟩] })).modThr 0 0 5
      (fun t => { t with owed := true, next := 0x9000 })).modGrp 0 0 (fun x => { x with soft := 1 }) with tick := 10000 }
/-- DealEnds, the rescan: two threads owed and room for both; a full deck of which one entry has been held for 4,096 cycles. -/
theorem witness_DealEnds_rescan :
    (let s := (owedOne.modThr 0 0 0 (fun t => { t with owed := true })).observe 0
     (s.owedSlots 0).length + (s.core 0).deck.length < 128 ∧ (s.owedSlots 0).getLast? = some (0, 0, 0))
    ∧ (let s := ((fullDeck.modCore 0 (fun y => { y with rescanDue := true })).observe 0)
       (s.core 0).rescanDue = true ∧ (s.owedSlots 0).length = 1 ∧ (s.core 0).deck.length = 128
       ∧ ((s.core 0).deck.filter (fun h => 4096 ≤ h.heldAt (s.ecyc 0))).map (fun h => h.bits) = [[0]]) := by
  decide +kernel

/-- R253: the rescan of a full deck reclaims the entry held longest and serves its thread last. -/
theorem test_reclaim :
    got (exec (.deckRescan 0) (fullDeck.modCore 0 (fun y => { y with rescanDue := true })))
      (fun t => ((t.core 0).deck.length, (t.thr? 0 0 5).map (fun x => x.owed), (t.thr? 0 0 0).map (fun x => x.owed))) = some (128, some false, some true) := by
  decide +kernel

/-- R38: the deal's flags join `fstat` and the slot frees. -/
theorem test_deal_end : got (exec (.dealEnd 0 0) (ended)) (fun t => ((t.grp? 0 0).map (fun x => x.fstat), (t.deal? 0 0).isNone))
    = some (some 5, true) := by
  decide +kernel

/-- A scalar context ready to go on. -/
def scalarIs (st : ScalarSt) : State := { (dealable 2).modGrp 0 0 (fun x => { x with scalar := st }) with cur := .deal 0 0 }
def scalarDeal : Deal := deal1 2 [[⟨0, 0, none, false⟩]] ([0x57000080, 0x00000020, 0, 0, 0, 0, 0, 0] ++ exitWords)

/-- ScalarsAndRetirement: one thread owed and room; each way a scalar context resumes; a group with nothing left. -/
theorem witness_ScalarsAndRetirement :
    ((owedOne.observe 0).owedSlots 0 = [(5, 0, 5)] ∧ ((owedOne.observe 0).core 0).deck.length < 127)
    ∧ (∀ st ∈ [ScalarSt.ready scalarDeal none, .ready scalarDeal (some 7), .restart 0x8000 0x8000, .restart 0x8000 0x8010, .restart 0x50000000 0x50000000], (scalarIs st).freeSlot 0 = some 0
      ∧ ((scalarIs st).core 0).scalarReady.isSome = true)
    ∧ (let s := (((scalarIs (.ready scalarDeal (some 7))).setDeal 0 0 (some scalarDeal)).modGrp 0 0 (fun y => { y with scalar := .running }))
       (issueCtx s).isSome = true ∧ (standsAt scalarDeal.body scalarDeal.pos).isSome = true)
    ∧ bodyOf ((dealable 2).fetchBlock 0 ((dealable 2).fetchXlate 0 (grp1 [] [])) false 0x8000) = tenWords ∧ hdrVhigh (hdrOf 2) < 64 ∧ hdrKind (hdrOf 2) = 2
    ∧ fails ((dealable 2).fetchBlock 0 ((dealable 2).fetchXlate 0 (grp1 [] [])) false 0x50000000) = true
    ∧ (let s := (dealable.modCore 0 (fun y => { y with deck := [] })).modGrp 0 0 (fun x => { x with threads := [] })
       s.mayRetire 0 0 (grp1 [] []) = true ∧ (s.recOf (grp1 [] [])).scope ≠ 6 ∧ two.mayRetire 0 0 (grp1 [(0, thr [])] []) = false) := by
  decide +kernel

/-- R241, R253, R251: a restarted context; an owed bit set; a group that retires counts in its instance. -/
theorem test_scalar_and_retire :
    got (exec (.scalarContextResume 0) (scalarIs (.restart 0x8000 0x8000))) (fun t => (t.deal? 0 0).map (fun d => (d.pos, d.hdr))) = some (some (0, hdrOf 2))
    ∧ got (exec (.deckRescan 0) owedOne) (fun t => ((t.core 0).deck.map (fun h => (h.addr, h.bits)), (t.core 0).rescanPtr)) = some ([(0x8000, [5])], 5)
    ∧ got (exec (.groupRetire 0 0) ((dealable.modCore 0 (fun y => { y with deck := [] })).modGrp 0 0 (fun x => { x with threads := [] })))
        (fun t => ((t.grp? 0 0).isNone, (t.inst? 0).map (fun i => i.retired))) = some (true, some [0]) := by
  decide +kernel

/-- A group with three tasks of two entries in its shoe, and a free crew. -/
def shoeful : State :=
  (dealable.modGrp 0 0 (fun x => { x with threads := [], shoe := [(0x8000, 0x700000001), (0x9000, 2), (0x8000, 3)] }))

/-- TaskCrews: an entry that fits, one without a header, and a quiet instance with tasks. -/
theorem witness_TaskCrews :
    (let x := (shoeful.grp? 0 0).getD (grp1 [] [])
     x.stopped = false ∧ x.saving = false ∧ x.freeCrew (shoeful.recOf x).crews = some 0 ∧ shoeful.taskFits 0 x 0x8000 = some true ∧ shoeful.taskFits 0 x 0x9000 = none)
    ∧ (two.grp? 0 0).map (fun x => x.shoe) = some [] ∧ (two.inst? 0).map (fun y => (y.quietSeen, y.lrec.tasks)) = some (false, true)
    ∧ (two.residents 0).all (fun e => e.2.2.shoe.isEmpty && e.2.2.threads.all (fun t => !t.2.isTask)) = true ∧ two.saves = [] := by
  decide +kernel

/-- R267: the two tasks of the first entry become threads 0 and 1, `v0` and `v1` their argument. -/
theorem test_task_crew : got (exec (.taskFormer 0 0) shoeful) (fun t => ((t.thr? 0 0 0).map (fun x => (getReg x.v 0, getReg x.v 1, x.next)), (t.thr? 0 0 1).map (fun x => getReg x.v 0),
    (t.grp? 0 0).map (fun x => x.shoe))) = some (some (1, 7, 0x8000), some 3, some [(0x9000, 2)]) := by
  decide +kernel

/-- An active group without a hand, idle since an effective cycle, and a pending one that can be dealt. -/
def waits : Thread := { thr [] with st := .waiting }
def oneIdle (since : Nat) : State :=
  { (dealable.modCore 0 (fun y => { y with
      groups := [(0, { grp1 [] [] with idleSince := some since }), (1, { grp1 [(0, waits)] [] with active := false, lastDeal := some 0, anteFrom := some 0 })]
      deck := [⟨1, 0x8000, none, [0], 0, 0, none, some (hdrOf 0)⟩] })) with tick := 10000 }

/-- ActiveSet: an idle group and a pending one with a hand; the pending group's ante is due. -/
theorem witness_ActiveSet :
    let s := (oneIdle 0).observe 0
    (s.core 0).groups.any (fun e => e.2.active && (match e.2.idleSince with | some t => decide (t + 2048 ≤ s.ecyc 0) | none => false)) = true
    ∧ (s.core 0).pending.any (fun e => s.wouldDeal 0 e.1 && s.anteDueNow 0 e.2) = true
    ∧ (s.core 0).groups.any (fun e => e.2.active && (s.deal? 0 0).isNone) = true := by
  decide +kernel

/-- R259: the swap. -/
theorem test_active_set : ∀ i ∈ [Instr.activeSetIdleSwap 0, .activeSetStarvationSwap 0],
    got (exec i (oneIdle 0)) (fun t => ((t.grp? 0 0).map (fun x => x.active), (t.grp? 0 1).map (fun x => x.active))) = some (some false, some true) := by
  decide +kernel

/-- The dealable group, core 0's block cache holding the sectors of its block as they stand, and then 64 zero bytes at the block's address. -/
def staleCode : State := (((dealable.hidden (.holdBlock 0 0x400)).hidden (.holdBlock 0 0x401)).setHomeBytes 0x8000 (List.replicate 64 7))
def cinvCtx : MemCtx := dealable.memCtx ⟨.deal 0 0, 0, false, 0x8000, 0x8008, 0x10, 0, 0⟩

/-- R273: a core that holds a block goes on fetching it as it was; after `cinv` at column scope of the range it finds the new bytes, which are no header. -/
theorem test_block_cache :
    staleCode.headerAt 0 (grp1 [] []) 0x8000 = some (hdrOf 0)
    ∧ (staleCode.rangeInval cinvCtx 2 0x8000 64).headerAt 0 (grp1 [] []) 0x8000 = none
    ∧ 0x400 ∈ staleCode.rangeSectors cinvCtx [0x400] (staleCode.rangePlaces cinvCtx 0x8000 64) ∧ coreColumn 0 ∈ scopeCols 2 cinvCtx.unit.col := by
  refine ⟨by decide +kernel, by decide +kernel, by decide +kernel, by decide⟩

/-! ### Launching -/

/-- A launch record that passes every check: one crew, one group, 64 registers, scopes of the column and the package, SUCC as given (R326). -/
def recBytes (entry : Nat) (succ : Nat := 0) : List Byte :=
  leBytes 8 entry ++ leBytes 8 0 ++ leBytes 2 1 ++ leBytes 2 32 ++ leBytes 2 1 ++ leBytes 2 64 ++ leBytes 4 0 ++ leBytes 4 0 ++ leBytes 4 1 ++ leBytes 4 1 ++ leBytes 4 1
    ++ leBytes 2 1 ++ leBytes 2 0 ++ leBytes 4 0 ++ leBytes 1 0 ++ leBytes 1 2 ++ leBytes 1 5 ++ leBytes 1 succ ++ leBytes 4 0
/-- A window of context 1 with a GO of line 3 whose record lies at 0x3000, in a page the launch engine can read. -/
def going (bs : List Byte) (m : Window → Window := id) : State :=
  (({ State.reset with ctxroots := [(1, 0x20001)], insts := [(0, { inst1 with line := 4 })], nextInst := 1 }.modCol 0 (fun y => { y with wtlb := [⟨1, 0, 2, 0x3E⟩] })).modWindow 0 1 (fun w =>
    m { w with gos := [(3, 0x3000)], winva := 0x10000 })).setHomeBytes 0x3000 bs

/-- LaunchLines: a record that passes and one with ENTRY 0 (REASON 3); RADDR misaligned; a refused launch; and each side of a chained GO. -/
theorem witness_LaunchLines :
    (∀ p ∈ [(0x8000, (none : Option Nat)), (0, some 3)], let s := going (recBytes p.1)
      ((s.window 0 1).gos = [(3, 0x3000)]) ∧ (s.engineRead 0 1 0x3000 256).1 = some (recBytes p.1 ++ List.replicate 196 0)
      ∧ recordFault (recBytes p.1 ++ List.replicate 196 0) (s.window 0 1).winva 0 = p.2)
    ∧ (let s := going (recBytes 0x8000)
       s.refusal 0 1 3 (recordOf (recBytes 0x8000)) = none ∧ (s.window 0 1).freeCopy = some 0
       ∧ s.refusal 0 1 4 { recordOf (recBytes 0x8000) with flags := 2 } = some 1)
    ∧ ((going []).engineRead 0 1 0x50000000 256).1 = none
    ∧ ((going []).inst? 0).map (fun x => (x.chainDone, x.admitted, x.lrec.groups)) = some (true, 1, 1) := by
  decide +kernel

/-- R328, R330: an accepted GO makes an instance and its line waits; ENTRY 0 is REASON 3; a misaligned RADDR is REASON 1. -/
theorem test_launch :
    got (exec (.launchGo 0 1) (going (recBytes 0x8000))) (fun t => (let l := mapGet (t.window 0 1).lines 3 Line.idle; (l.st, l.gseq, l.live, l.reason), (t.inst? 1).map (fun x => x.lrec.entry)))
      = some ((1, 1, 1, 0), some 0x8000)
    ∧ got (exec (.launchGo 0 1) (going (recBytes 0))) (fun t => (let l := mapGet (t.window 0 1).lines 3 Line.idle; (l.st, l.reason))) = some (5, 3)
    ∧ got (exec (.launchGo 0 1) (going [] (fun w => { w with gos := [(3, 0x3004)] }))) (fun t => (let l := mapGet (t.window 0 1).lines 3 Line.idle; (l.st, l.reason))) = some (5, 1) := by
  decide +kernel

/-- An accepted launch of two groups, the first yet to be admitted; and one instance whose groups have retired. -/
def toAdmit : State :=
  { State.reset with ctxroots := [(1, 0x20001)], insts := [(0, { inst1 with admitted := 0, lrec := { rec1 with gdimx := 2 } })], nextInst := 1 }

/-- AdmissionAndCompletion: the head of the order can be placed on a core; an instance to be completed and one that is not. -/
theorem witness_AdmissionAndCompletion :
    ((openHeads [] toAdmit.admissionOrder).head?.map (fun e => e.1)) = some 0 ∧ (toAdmit.inst? 0).map (fun x => (toAdmit.place x, x.admitted, x.lrec.groups)) = some (some [(0, 0, 0)], 0, 2)
    ∧ toAdmit.roomOn 0 rec1 = some (0, 0)
    ∧ (two.inst? 0).map (fun x => (x.retired.length, x.lrec.groups)) = some (0, 1) := by
  refine ⟨by decide +kernel, by rfl, by decide +kernel, by decide +kernel⟩

/-- The same, every column a sixteenth of a degree too hot. -/
def tooHot : State := (List.range 32).foldl (fun t c => t.modGov c (fun g => { g with temp := 1681 })) toAdmit
/-- AdmissionAndCompletion: a head that has room and that heat refuses, one that has none, and one already refused at this moment. -/
theorem witness_AdmissionAndCompletion_heat :
    (tooHot.headsToTest.length = 1 ∧ tooHot.headsToTest.all (fun e => decide (tooHot.place e.2 = none) && (tooHot.placeIf false e.2).isSome) = true)
    ∧ (let s := { toAdmit with insts := [(0, { inst1 with admitted := 0, lrec := { rec1 with gdimx := 2 } })]
                               cores := (List.range 12).map (fun n => (n, { ACore.reset with outOfService := true })) }
       s.headsToTest ≠ [] ∧ s.headsToTest.all (fun e => decide (s.place e.2 = none ∧ s.placeIf false e.2 = none)) = true)
    ∧ (let s := { toAdmit with insts := [(0, { inst1 with admitted := 0, heatAt := some 0 })] }
       s.headsToTest = [] ∧ (openHeads [] s.admissionOrder).length = 1) := by
  refine ⟨by decide +kernel, by decide +kernel, by decide +kernel⟩

/-- R250, R328, R340: the admitted group's threads wait at ENTRY and the line runs; a completed instance leaves its line. -/
theorem test_admission :
    got (exec .groupAdmission toAdmit) (fun t => ((t.thr? 0 0 31).map (fun x => x.next), (t.thr? 0 0 32).isNone, (mapGet (t.window 0 1).lines 0 Line.idle).st)) = some (some 0x8000, true, 2)
    ∧ got (exec (.instanceComplete 0) { toAdmit with insts := [(0, { inst1 with retired := [0] })], tick := 77 })
        (fun t => ((t.inst? 0).isNone, (let l := mapGet (t.window 0 1).lines 0 Line.idle; (l.dseq, l.ctick, l.st)))) = some (true, (1, 77, 3)) := by
  decide +kernel

/-! ### Saving and restoring -/

/-- Column core 0 at S with the first GiB mapped, `s4:5` an area, `s6` a group; group 0 of core 0 resident. -/
def saver (a b : W) : State :=
  ({ dealable with cols := (inCol 1 [(4, a), (6, b)]).cols, cur := .col 0 }.modCc 0 (fun x => { x with tlb := [wideLeaf] })).modCol 0 (fun y => { y with wtlb := [⟨1, 0, 2, 0x3E⟩] })
/-- A save of the group whose area is a header alone. -/
def saveOf (id : Nat) (byEngine : Bool) (owed : List Owed) : Save :=
  ⟨id, 1, 0x100000, 4096, byEngine, 0, 7, [⟨0, 0, grp1 [(0, waits)] [(2, 9)], [], [], 1, [], [], [(0x100000, 4096)], []⟩], owed⟩
/-- The core of a save emptied. -/
def away (v : Save) (a : W := 0x100000) : State := { (saver a 0).modCore 0 (fun y => { y with groups := [], deck := [] }) with saves := [v], nextId := 5 }
/-- The same of a save that waits, or of one restored before. -/
def awayOld (old : Bool) (v : Save) : State := if old then { away v with saves := [], restored := [v] } else away v
def saving1 (byEngine : Bool) : Saving := ⟨0, [(0, 0)], 0, byEngine, 0x100000, 0, 7, []⟩
/-- A launch of priority 3 that needs all of a core; the save-slot block of context 1: areas at 0x400000 of 1 MiB, 8 slots, all free. -/
def crowded : State :=
  ({ ({ dealable with cores := dealable.cores ++ (List.range 11).map (fun n => (n + 1, { ACore.reset with outOfService := true }))
                      insts := [(0, inst1), (1, { inst1 with admitted := 0, lrec := { rec1 with part := 0x5F, prio := 3 } })] }) with
      ctxroots := [(1, 0x20001)] }).setHomeBytes 0x21000 (leBytes 8 0x400000 ++ leBytes 4 0x100000 ++ leBytes 4 8)

/-- An access of a withdrawn thread that waits for tag 3. -/
def owed1 : Owed := ⟨0, 0, 0, 1, ⟨0, false, 2, .load 4, 0x1000, [⟨3, 0, 4, none, none⟩], none⟩, 0x8008, [], none⟩
def owedBack : State := { away { saveOf 2 true [owed1] with members := (saveOf 2 true []).members.map (fun m => { m with owedAt := [rec1.tstoreAt + 8] }) } with
  fabric := { Fabric.reset with respq := [⟨5, 0, 3, .data [1, 2, 3, 4] false []⟩] } }

/-- SavesAndRestores: `gsave` misaligned, of no group, of one that can be saved, and about to write; `grest` misaligned, with and without a save, one that matches and one that
does not; a save of the engine, done and not; a pre-emption; an owed word. -/
theorem witness_SavesAndRestores :
    (AllIssue (saver 0x100000 0) [.gsave (sF 8 4 6 0), .grest (sA 8 4 0)] ∧ (0x100000 % 4096 = 0 ∧ 0x100800 % 4096 ≠ 0))
    ∧ ((saver 0x100000 0).savings.length = 0 ∧ (saver 0x100000 0).residents 0 = [(0, 0, ((saver 0x100000 0).grp? 0 0).getD (grp1 [] []))] ∧ ((saver 0x100000 0).grp? 0 63).isNone = true)
    ∧ (let s := { saver 0x100000 0 with savings := [saving1 false] }
       s.saveReady [(0, 0)] = true ∧ s.tick < 0 + 20000 ∧ isSegs (s.areaCheck (s.memCtx (envOf s)) (envOf s) 0x100000 rec1.areaSize .store) = true)
    ∧ (let s := away (saveOf 2 false [])
       (match s.areaCheck (s.memCtx (envOf s)) (envOf s) 0x100000 4096 .load with | .segs l => l.head?.map (·.place) | _ => none) = some 0x100000 ∧ s.areaWord 0 [(0x100000, 4096)] 0x30 = 0
       ∧ (saveOf 2 false []).members.all (fun m => s.canRestore m) = true)
    ∧ (let s := { saver 0 0 with savings := [saving1 true] }
       s.saveReady [(0, 0)] = true ∧ { s with cores := two.cores }.saveReady [(0, 0)] = false)
    ∧ (crowded.admissionOrder.length = 1 ∧ (crowded.chooseVictims { inst1 with lrec := { rec1 with part := 0x5F, prio := 3 } }).map (fun w => (w.groups, w.gang)) = [([(0, 0)], 1)]
      ∧ crowded.slotRun 0 1 1 rec1.areaSize [] = some 0)
    ∧ (let s := away (saveOf 2 true []); s.claimed (saveOf 2 true []) = false ∧ (saveOf 2 true []).members.all (fun m => s.canRestore m) = true)
    ∧ (owed1.acc.awaits 3 = true ∧ (owed1.acc.take 3 (.bytes [1, 2, 3, 4] [])).arrived = true ∧ owed1.acc.awaits 4 = false) := by
  refine ⟨⟨issues_each (by decide +kernel), by decide, by decide⟩, by decide +kernel, by decide +kernel, by decide +kernel, by decide +kernel, by decide +kernel, by decide +kernel,
    by decide +kernel⟩

/-- A word put where one stands: the parts before and behind it stay. -/
theorem putWordAt_mid (p w q : List Byte) (n v : Nat) (hp : p.length = n) (hw : w.length = 4) : putWordAt (p ++ (w ++ q)) n v = p ++ (leBytes 4 v ++ q) := by
  subst hp
  have h : (p ++ (w ++ q)).drop (p.length + 4) = q := by rw [List.drop_append, ← hw]; simp
  simp [putWordAt, h]

theorem crc32_lt (bs : List Byte) : crc32 bs < 2 ^ 32 := by
  have hs : ∀ (l : List Nat) (v : Nat), v < 2 ^ 32 → l.foldl (fun v _ => if v % 2 = 1 then Nat.xor (v / 2) 0xEDB88320 else v / 2) v < 2 ^ 32 := by
    intro l
    induction l with
    | nil => exact fun v h => h
    | cons a r ih =>
      intro v h
      refine ih _ ?_
      dsimp only
      split
      · exact Nat.xor_lt_two_pow (by omega) (by norm_num)
      · omega
  have hb : ∀ (l : List Byte) (v : Nat), v < 2 ^ 32 → l.foldl crcStep v < 2 ^ 32 := by
    intro l
    induction l with
    | nil => exact fun v h => h
    | cons a r ih => exact fun v h => ih _ (hs _ _ (Nat.xor_lt_two_pow h (lt_of_lt_of_le a.isLt (by norm_num))))
  exact Nat.xor_lt_two_pow (hb bs _ (by norm_num)) (by norm_num)

/-- Bytes with a SEAL and an OWED of zero: sealed and read back they are the same, and show their header. -/
theorem sealed_reads (p q rest : List Byte) (c : Nat) (hp : p.length = 4) (hq : q.length = 40) (hc : c < 2 ^ 32) :
    let was := p ++ (leBytes 4 0 ++ (q ++ (leBytes 4 0 ++ rest)))
    let bs := putWordAt was 4 c
    unsealed [] bs = was ∧ leNat ((bs.drop 4).take 4) = c ∧ putWordAt (putWordAt (bs.take 0x34) 4 0) 0x30 0 = was.take 0x34 ∧ bs.length = was.length := by
  have hl := leBytes_length 4
  have e1 := putWordAt_mid p (leBytes 4 0) (q ++ (leBytes 4 0 ++ rest)) 4 c hp (hl _)
  have e2 := putWordAt_mid p (leBytes 4 c) (q ++ (leBytes 4 0 ++ rest)) 4 0 hp (hl _)
  have e3 := putWordAt_mid (p ++ (leBytes 4 0 ++ q)) (leBytes 4 0) rest 0x30 0 (by simp [hp, hq, hl]) (hl _)
  have e4 := putWordAt_mid p (leBytes 4 c) (q ++ (leBytes 4 0 ++ [])) 4 0 hp (hl _)
  have e5 := putWordAt_mid (p ++ (leBytes 4 0 ++ q)) (leBytes 4 0) [] 0x30 0 (by simp [hp, hq, hl]) (hl _)
  have t : ∀ v, (p ++ (leBytes 4 v ++ (q ++ (leBytes 4 0 ++ rest)))).take 0x34 = p ++ (leBytes 4 v ++ (q ++ (leBytes 4 0 ++ []))) := by
    intro v
    rw [show p ++ (leBytes 4 v ++ (q ++ (leBytes 4 0 ++ rest))) = (p ++ (leBytes 4 v ++ (q ++ leBytes 4 0))) ++ rest by simp [List.append_assoc]]
    rw [List.take_append_of_le_length (by simp [hp, hq, hl])]
    rw [List.take_of_length_le (by simp [hp, hq, hl])]
    simp
  simp only [List.append_assoc] at e3 e5
  refine ⟨?_, ?_, ?_, ?_⟩
  · rw [e1]
    simp only [unsealed, List.foldl_nil]
    rw [e2, e3]
  · have d : (p ++ (leBytes 4 c ++ (q ++ (leBytes 4 0 ++ rest)))).drop 4 = leBytes 4 c ++ (q ++ (leBytes 4 0 ++ rest)) := by rw [List.drop_append_of_le_length (by omega), List.drop_of_length_le (by omega)]; rfl
    rw [e1, d, List.take_append_of_le_length (by rw [hl]), List.take_of_length_le (by rw [hl]), leNat_leBytes, Nat.mod_eq_of_lt (by simpa using hc)]
  · rw [e1, t, e4, e5, t]
  · rw [e1]; simp [hl]

/-- A state with bytes at the homes from 0x100000. -/
def withArea (s : State) (bs : List Byte) : State := { s with mem := (s.setHomeBytes 0x100000 bs).mem }

theorem areaBytesAt_withArea (s : State) (bs : List Byte) (hs : ∀ c ∈ clusterCols 0, ∀ sec, s.slice? c sec = none) (k n : Nat) (hk : k + n ≤ bs.length)
    (hw : isWindow (0x100000 + k) = false) : (withArea s bs).areaBytesAt 0 (0x100000 + k) n = (bs.drop k).take n := by
  simp only [State.areaBytesAt, hw, Bool.false_eq_true, if_false]
  have hv : ∀ a, (withArea s bs).viewByte 0 a = (s.setHomeBytes 0x100000 bs).homeByte a := by
    intro a
    have h : ∀ c ∈ clusterCols 0, (withArea s bs).slice? c (a / 32) = none := fun c hc => hs c hc _
    have hp : (withArea s bs).peerByte 0 a = none := by
      refine List.findSome?_eq_none_iff.mpr (fun c hc => ?_)
      rw [h c hc, Option.bind_none, ite_self]
    unfold State.viewByte State.snoopedByte
    rw [h 0 (by decide), hp]
    rfl
  apply List.ext_getElem
  · simp [State.viewBytes]; omega
  · intro i h1 h2
    simp only [State.viewBytes, List.getElem_map, List.getElem_range, hv, State.homeByte_setHomeBytes, List.getElem_take, List.getElem_drop]
    simp only [State.viewBytes, List.length_map, List.length_range] at h1
    rw [if_pos (by omega), show 0x100000 + k + i - 0x100000 = k + i by omega, List.getElem?_eq_getElem (by omega)]
    rfl

theorem canRestore_withArea (s : State) (bs : List Byte) (m : SavedGroup) : (withArea s bs).canRestore m = s.canRestore m := rfl
theorem roomBack_withArea (s : State) (bs : List Byte) (m : SavedGroup) : (withArea s bs).roomBack m = s.roomBack m := rfl
theorem saves_withArea (s : State) (bs : List Byte) : (withArea s bs).restored ++ (withArea s bs).saves = s.restored ++ s.saves := rfl
theorem areaHeader_withArea (s : State) (bs : List Byte) (m : SavedGroup) (n : Nat) : (withArea s bs).areaHeader m n = s.areaHeader m n := rfl
theorem areaBytes_withArea (s : State) (bs : List Byte) (id : Nat) (m : SavedGroup) (n : Nat) : (withArea s bs).areaBytes id m n = s.areaBytes id m n := by
  simp only [State.areaBytes, areaHeader_withArea]

/-- R354: a state whose area holds the bytes of a save of one group, sealed, matches it. -/
theorem area_sealed (s : State) (v : Save) (m : SavedGroup) (hs : ∀ c ∈ clusterCols 0, ∀ sec, s.slice? c sec = none) (hm : m.owedAt = []) (hv : v.size = 4096)
    (h1 : s.restored ++ s.saves = [v]) (h2 : v.members = [m]) (bs : List Byte) (hbs : putWordAt (s.areaBytes v.id m 4096) 4 (crc32 (s.areaBytes v.id m 4096)) = bs) :
    (withArea s bs).areaMatches 0 v m [(0x100000, 4096)] = true ∧ (withArea s bs).areaWord 0 [(0x100000, 4096)] 0x30 = 0
      ∧ (withArea s bs).savesOf ((withArea s bs).areaRead 0 [(0x100000, 4096)]) = [v] := by
  have hl := leBytes_length
  obtain ⟨q, hq, hh⟩ : ∃ q, q.length = 40 ∧ s.areaHeader m 4096 = leBytes 4 4096 ++ (leBytes 4 0 ++ (q ++ leBytes 4 0)) := by
    refine ⟨leBytes 8 0 ++ ([BitVec.ofNat 8 (s.instOf m.grp).ctx, BitVec.ofNat 8 (coreColumn m.core), BitVec.ofNat 8 (coreInCol m.core), BitVec.ofNat 8 m.idx]
      ++ (leBytes 2 m.asid ++ (leBytes 2 m.grp.slotBase ++ (leBytes 4 (256 * m.grp.tiles.length + (if m.grp.xheld then 1 else 0))
      ++ (leBytes 4 m.grp.gflat ++ (leBytes 8 (match m.grp.atBar true, m.grp.atBar false with
        | some ep, _ => 2 ^ 63 + ep
        | none, some ep => 2 ^ 63 + ep
        | none, none => 0)
      ++ leBytes 8 (0x7F0000000000 + 0x400000 * (s.instOf m.grp).col + 0x10000 * (s.instOf m.grp).ctx + 0x1000 + 256 * (s.instOf m.grp).copy))))))), ?_, ?_⟩
    · simp only [List.length_append, hl, List.length_cons, List.length_nil]
    · unfold State.areaHeader
      simp only [List.append_assoc]
      all_goals rfl
  have hw : ∃ rest, s.areaBytes v.id m 4096 = leBytes 4 4096 ++ (leBytes 4 0 ++ (q ++ (leBytes 4 0 ++ rest))) := by
    have h : ∃ rest, s.areaBytes v.id m 4096 = s.areaHeader m 4096 ++ rest := Exists.intro _ (List.append_assoc _ _ _)
    obtain ⟨rest, h⟩ := h
    exact ⟨rest, by rw [h, hh]; simp only [List.append_assoc]⟩
  have hn : (s.areaBytes v.id m 4096).length = 4096 := by
    unfold State.areaBytes
    rw [hh]
    simp only [List.length_append, List.length_replicate, hl, hq, List.length_map, List.length_range]
  obtain ⟨rest, hw⟩ := hw
  have key := sealed_reads (leBytes 4 4096) q rest (crc32 (s.areaBytes v.id m 4096)) (hl _ _) hq (crc32_lt _)
  dsimp only at key
  rw [← hw, hbs] at key
  obtain ⟨k1, k2, k3, k4⟩ := key
  have hr := areaBytesAt_withArea s bs hs
  rw [k4, hn] at hr
  have hall : (withArea s bs).areaRead 0 [(0x100000, 4096)] = bs := by
    have := hr 0 4096 (by omega) (by decide)
    rw [List.drop_zero, List.take_of_length_le (by omega)] at this
    simpa only [State.areaRead, List.flatMap_cons, List.flatMap_nil, List.append_nil, Nat.add_zero] using this
  refine ⟨?_, ?_, ?_⟩
  · simp only [State.areaMatches, hall, hm, hv, areaBytes_withArea, k1, descField]
    simpa using k2
  · have e := putWordAt_mid (leBytes 4 4096) (leBytes 4 0) (q ++ (leBytes 4 0 ++ rest)) 4 (crc32 (s.areaBytes v.id m 4096)) (hl _ _) (hl _ _)
    have h := hr 0x30 4 (by omega) (by decide)
    rw [← hw, hbs] at e
    have d : ∀ c, ((leBytes 4 4096 ++ (leBytes 4 c ++ (q ++ (leBytes 4 0 ++ rest)))).drop 0x30).take 4 = leBytes 4 0 := by
      intro c
      rw [show leBytes 4 4096 ++ (leBytes 4 c ++ (q ++ (leBytes 4 0 ++ rest))) = (leBytes 4 4096 ++ (leBytes 4 c ++ q)) ++ (leBytes 4 0 ++ rest) by simp only [List.append_assoc],
        List.drop_append_of_le_length (by simp only [List.length_append, hl, hq, Nat.reduceAdd, Nat.le_refl]),
        List.drop_of_length_le (by simp only [List.length_append, hl, hq, Nat.reduceAdd, Nat.le_refl]), List.nil_append,
        List.take_append_of_le_length (by rw [hl]), List.take_of_length_le (by rw [hl])]
    have p : areaPlace [(0x100000, 4096)] 0x30 = some (0x100000 + 0x30) := by decide
    simp only [State.areaWord, p]
    rw [h, e, d]
    rfl
  · rw [hall, State.savesOf, saves_withArea, h1]
    have d : (s.areaBytes v.id m 4096).take 0x34 = (s.areaHeader m 4096).take 0x34 := by
      rw [hw, hh, show leBytes 4 4096 ++ (leBytes 4 0 ++ (q ++ (leBytes 4 0 ++ rest))) = (leBytes 4 4096 ++ (leBytes 4 0 ++ (q ++ leBytes 4 0))) ++ rest by simp only [List.append_assoc],
        List.take_append_of_le_length (by simp only [List.length_append, hl, hq, Nat.reduceAdd, Nat.le_refl])]
    have e : (withArea s bs).shows bs v = true := by simp only [State.shows, h2, hv, areaHeader_withArea, k3, d, beq_self_eq_true]
    rw [List.filter_cons_of_pos e, List.filter_nil]

/-- SavesAndRestores: the clauses on an area that matches its save, which is found by its header: one that comes back, one owed a word, one whose group has no room, one
whose command has none; the save waits, or was restored before (`old`). -/
theorem witness_SavesAndRestores_matches (byEngine old : Bool) (case : Fin 4) : ∃ (s : State) (v : Save) (m : SavedGroup), (if old then s.restored else s.saves) = [v] ∧ v.members = [m]
    ∧ (v.owed = [] ↔ case ≠ 1) ∧ v.byEngine = byEngine ∧ (s.canRestore m = true ↔ case ≠ 2) ∧ (s.roomBack m = true ↔ case ≠ 3) ∧ s.areaMatches 0 v m [(0x100000, 4096)] = true
    ∧ s.areaWord 0 [(0x100000, 4096)] 0x30 = 0 ∧ s.savesOf (s.areaRead 0 [(0x100000, 4096)]) = [v]
    ∧ cutAreas v.size v.members.length [(0x100000, 4096)] = [[(0x100000, 4096)]] ∧ s.areasHold 0 [[(0x100000, 4096)]] v = true := by
  let v : Save := { saveOf 2 byEngine (if case = 1 then [owed1] else []) with members := (saveOf 2 byEngine []).members.map (fun m => { m with cmds := [farCmd] }) }
  let s0 : State := (awayOld old v).modCore 0 (fun y => { y with groups := if case = 2 then [(0, grp1 [] [])] else [], copyq := if case = 3 then List.replicate 256 farCmd else [] })
  obtain ⟨m, hm, ho, hb⟩ : ∃ m, v.members = [m] ∧ m.owedAt = [] ∧ coreColumn m.core = 0 := ⟨_, rfl, rfl, by decide⟩
  obtain rfl : { (⟨0, 0, grp1 [(0, waits)] [(2, 9)], [], [], 1, [], [], [(0x100000, 4096)], []⟩ : SavedGroup) with cmds := [farCmd] } = m := by
    simpa [v, saveOf] using hm
  have hc : (s0.canRestore { (⟨0, 0, grp1 [(0, waits)] [(2, 9)], [], [], 1, [], [], [(0x100000, 4096)], []⟩ : SavedGroup) with cmds := [farCmd] } = true ↔ case ≠ 2)
      ∧ (s0.roomBack { (⟨0, 0, grp1 [(0, waits)] [(2, 9)], [], [], 1, [], [], [(0x100000, 4096)], []⟩ : SavedGroup) with cmds := [farCmd] } = true ↔ case ≠ 3)
      ∧ (v.owed = [] ↔ case ≠ 1) := by
    revert old case byEngine
    decide +kernel
  have hs : ∀ c ∈ clusterCols 0, ∀ sec, s0.slice? c sec = none := by
    intro c hc sec
    have h4 : c = 0 ∨ c = 1 ∨ c = 2 ∨ c = 3 := by simpa [clusterCols] using hc
    cases old <;> obtain rfl | rfl | rfl | rfl := h4 <;> rfl
  have k := area_sealed s0 v _ hs ho rfl (by cases old <;> rfl) hm _ rfl
  generalize putWordAt _ 4 _ = bs at k
  have hx : (if old then (withArea s0 bs).restored else (withArea s0 bs).saves) = [v] := by cases old <;> rfl
  refine ⟨withArea s0 bs, v, _, hx, hm, hc.2.2, rfl, by rw [canRestore_withArea]; exact hc.1, by rw [roomBack_withArea]; exact hc.2.1, k.1, k.2.1, k.2.2, rfl, ?_⟩
  simp only [State.areasHold, hm, List.head?_cons, Option.any_some, hb, decide_true, List.length_singleton, beq_self_eq_true, List.zip_cons_cons, List.zip_nil_right,
    List.all_cons, List.all_nil, k.1, Bool.and_self]

/-- R242, R243, R338: the answers of `gsave` and `grest`; a pre-emption begins; a save of the engine comes back. -/
theorem test_saves :
    got (exec (.gsave (sF 8 4 6 0)) (saver 0x100000 0)) (fun t => ((t.grp? 0 0).map (fun x => x.saving), t.savings.length)) = some (some true, 1)
    ∧ got (exec (.gsave (sF 8 4 6 0)) (saver 0x100000 0x3F)) (fun t => (getReg (t.cc 0).s 8, t.savings.length)) = some (1, 0)
    ∧ got (exec (.gsave (sF 8 4 6 0)) (saver 0x100800 0)) (fun t => (t.cc 0).trapM.cause) = some 0x404
    ∧ got (exec (.grest (sA 8 4 0)) (away (saveOf 2 false []))) (fun t => (getReg (t.cc 0).s 8, t.saves.length)) = some (1, 1)
    ∧ got (exec .preempt crowded) (fun t => t.savings.map (fun v => (v.area, v.slots, v.byEngine))) = some [(0x400000, 0, true)] := by
  refine ⟨by decide +kernel, by decide +kernel, by decide +kernel, by decide +kernel, by decide +kernel⟩

/-- R355: a word that arrives for a saved thread reaches its register. -/
theorem test_owed : got (exec (.owedWordArrival 3) owedBack) (fun t => (t.saves.map (fun v => (v.owed.length, v.members.map (fun m => (mapGet? m.grp.threads 0).map (fun x => getReg x.v 2)))),
    t.fabric.respq.length)) = some ([(0, [some 0x04030201])], 0) := by
  decide +kernel

/-! ### Power, reliability and the host -/

/-- Column 0's governor and die 0 changed. -/
def govS (tick : Nat) (m : Governor → Governor) : State := { State.reset with tick := tick }.modGov 0 m
def hopS (m : Die → Die) : State := State.reset.modDie 0 (fun d => m { d with hop := some 700 })

/-- ClocksAndPower: holds that have ended and not, a signature in the table, hops of both ends; intervals due and not; a hot column. -/
theorem witness_ClocksAndPower :
    (4 ≤ popNat 16 0xF ∧ ((govS 20 id).gov 0).cycAt / 16 < (govS 20 id).cyc 0 / 16 ∧ (State.reset.cyc 0 / 16 ≤ (State.reset.gov 0).cycAt / 16))
    ∧ (5 ∈ ((govS 0 (fun g => { g with sigTable := [5] })).gov 0).sigTable ∧ 6 ∉ ((govS 0 (fun g => { g with sigTable := [5] })).gov 0).sigTable
      ∧ (∀ u ∈ [16, 800], ((govS 20 (fun g => { g with droopUntil := some u, sigUntil := some u })).gov 0).droopUntil = some u) ∧ (govS 20 id).cyc 0 = 16)
    ∧ (∀ b ∈ [true, false], ((hopS (fun d => { d with abandoned := b })).die 0).hop = some 700)
    ∧ (((govS 9999 (fun g => { g with govAt := 10000 })).gov 0).govAt > 9999 ∧ ((govS 10000 (fun g => { g with govAt := 10000, temp := 1681 })).gov 0).govAt ≤ 10000)
    ∧ (let s := { State.reset with tick := 100000, nextEpoch := 100000, trec := 0x1000 }
       s.nextEpoch ≤ s.tick ∧ s.trec % 256 = 0 ∧ s.trec + 512 ≤ 0x8000000000 ∧ setPointOk 850 = true ∧ (s.die 0).hop = none ∧ 850 ≠ (s.die 0).setPoint ∧ (s.die 0).retryTo = none)
    ∧ ((List.replicate 32 (0 : Int)).length = 32 ∧ (govS 0 (fun g => { g with temp := 1840 })).gov 0 = { Governor.reset with temp := 1840 }) := by
  decide +kernel

/-- ClocksAndPower: a boundary passed and one ahead; windows checked and not, in the table and not; a plan and readings that count, and each kind that does not. -/
theorem witness_ClocksAndPower_terms :
    (∀ m ∈ [16, 17], ((govS 20 (fun g => { g with patAt := some m })).gov 0).patAt = some m) ∧ (govS 20 id).cyc 0 = 16
    ∧ (∀ l ∈ [[(0 : BitVec 12)], [5]], ∀ u ∈ [none, some 900], let s := govS 100 (fun g => { g with sigTable := l, droopUntil := u, sigUntil := u })
        (s.gov 0).sigAt < 1 ∧ 1 = s.cyc 0 / 64 ∧ issueMix (s.gov 0).recent 0 64 = 0 ∧ (s.gov 0).droopUntil = u ∧ (s.gov 0).sigUntil = u ∧ 64 * 1 < 900)
    ∧ issueMix [(70, 0), (71, 1), (90, 2), (200, 0)] 64 128 = 0x101
    ∧ (let p : PowerPlan := ⟨[850], List.replicate 32 100000, 3200000, 0, true⟩
       p.grants.length = 32 ∧ p.grants.sum + p.otherMw ≤ 3200000 ∧ 3200000 < p.grants.sum + { p with otherMw := 1 }.otherMw)
    ∧ (∃ n, coreColumn n = 0 ∧ (two.core n).groups ≠ [])
    ∧ (∀ v ∈ List.replicate 32 (1920 : Int) ++ List.replicate 8 0, 0 ≤ v ∧ v ≤ 120 * 16) ∧ ¬ (∀ v ∈ [(1921 : Int)], 0 ≤ v ∧ v ≤ 120 * 16) := by
  refine ⟨by decide +kernel, by decide +kernel, by decide +kernel, by decide +kernel, by decide +kernel, ⟨0, by decide, by decide +kernel⟩, by decide, by decide⟩

/-- R390: the four pulses of EFF 0x000F come in the first four cycles of sixteen. R416: where the first stage may not run, no bus is trained. -/
theorem test_pulses : pulses 0x000F 0 4 = 4 ∧ pulses 0x000F 4 16 = 0 ∧ pulses 0x000F 14 18 = 2 := by decide
theorem test_powerOn : (∀ p ∈ [(true, RunState.running), (false, .haltedReset)],
    got (exec (.powerOn (List.replicate 32 400) (List.replicate 8 400) (List.replicate 32 (List.replicate 32 3)) [⟨[], Config.fwver.toNat, p.1⟩]) State.reset)
      (fun t => ((t.cc 0).run, (t.gov 5).vbusSlow == Governor.reset.vbusSlow)) = some (p.2, !p.1)) := by
  intro p hp
  obtain rfl | rfl : p = (true, RunState.running) ∨ p = (false, RunState.haltedReset) := by simpa using hp
  · have h : runStages [⟨[], Config.fwver.toNat, true⟩] = [⟨[], Config.fwver.toNat, true⟩] := by simp [runStages, Stage.mayRun]
    simp only [exec, execPowerOn, State.powerUp, h]
    decide +kernel
  · decide +kernel

/-- R389 to R403, worked from the rules: 8 of the pulses of EFF go; a hotter column loses one; the trip. -/
theorem test_power :
    got (exec (.droopDetect 0 5) (govS 0 id)) (fun t => ((t.gov 0).kd, (t.gov 0).sigTable, (t.col 0).evLatched)) = some (8, [0], 4)
    ∧ popNat 16 (effOf 0xFFFF 0 8).toNat = 8 ∧ popNat 16 (effOf 0xFFFF 12 8).toNat = 4 ∧ effOf 0x0F0F 1 0 &&& 0xF0F0 = 0
    ∧ got (exec (.governorInterval 0 ⟨500, true⟩) (govS 10000 (fun g => { g with govAt := 10000, temp := 1681 }))) (fun t => ((t.gov 0).kg, (t.gov 0).thrLast)) = some (1, 1)
    ∧ got (exec (.pllRelockDone 0) (hopS id)) (fun t => ((t.die 0).mhz, (t.die 0).hop, (t.die 0).logCount)) = some (700, none, 1)
    ∧ got (exec .thermalTrip (govS 0 (fun g => { g with temp := 1840 }))) (fun t => (t.tripped, (t.cc 0).run)) = some (true, .haltedByTrip)
    ∧ got (exec .thermalTrip (govS 0 (fun g => { g with temp := 1839 }))) (fun t => t.tripped) = some false := by
  refine ⟨by decide +kernel, by decide +kernel, by decide +kernel, by decide +kernel, by decide +kernel, by decide +kernel, by decide +kernel, by decide +kernel⟩

/-- ReliabilityAndHost: a retraining due, running and over; a group; a cached sector; a channel in place and one replaced; ranges refused and not. -/
theorem witness_ReliabilityAndHost :
    (∀ u ∈ [some 0, none], let s := govS 64000000 (fun g => { g with retrainFrom := u })
      (s.gov 0).trainTick + 64000000 ≤ s.tick ∧ (s.gov 0).retrainFrom = u ∧ (List.replicate 32 (0 : Nat)).length = 32)
    ∧ ((govS 200000 (fun g => { g with retrainDue := some 0 })).gov 0).retrainDue = some 0
    ∧ ((govS 0 (fun g => { g with lastBeatFail := [3] })).gov 0).lastBeatFail = [3]
    ∧ (two.grp? 0 0).map (fun x => x.stopped) = some false
    ∧ ((State.reset.modCol 0 (fun y => { y with slice := [(4, ⟨0, 0, 0, 0, none, false⟩)] })).slice? 0 4).isSome = true ∧ (State.reset.slice? 0 4).isNone = true
    ∧ (mapGet? State.reset.spares 3 = none ∧ State.reset.retiredCh = [])
    ∧ (State.reset.rangeRefused 0x1000 4 = false ∧ State.reset.rangeRefused 0xFFFFFFFFFF 4 = true ∧ State.reset.rangeHeld 0x1000 4 = false ∧ isWindow 0x1000 = false
      ∧ copyStore .store 0x1000 4 = false)
    ∧ (State.reset.meas.map (·.length) = List.replicate 8 32) := by
  decide +kernel

/-- ReliabilityAndHost: a message held for relay; a range under a system lock, with an access held; a poisoned sector; readings that power-on takes, and stages that run and
that do not. -/
theorem witness_ReliabilityAndHost_terms :
    (∃ s : State, s.fabric.relay[0]? = some (3, ⟨1, 2, 5, .data [1, 2] false []⟩))
    ∧ (let s := { State.reset.modCol 0 (fun y => { y with locks := [⟨true, true, 0, 0, 0, [(0x1000, 4096)], .swap 0 1⟩] }) with hostq := [.write 0x1000 [7]] }
       s.rangeHeld 0x1000 4 = true ∧ s.rangeRefused 0x1000 4 = false ∧ { s with cols := [] }.rangeHeld 0x1000 4 = false ∧ s.hostq = [.write 0x1000 [7]])
    ∧ (let s := { State.reset with poison := [0x80] }; 0x1000 % 32 + 4 ≤ 32 ∧ 0x1000 / 32 ∈ s.poison)
    ∧ ((List.replicate 32 (400 : Int)).length = 32 ∧ (List.replicate 8 (400 : Int)).length = 8 ∧ (∀ v ∈ List.replicate 32 (400 : Int) ++ List.replicate 8 400, 0 ≤ v ∧ v ≤ 120 * 16)
      ∧ (List.replicate 32 (List.replicate 32 3)).length = 32 ∧ ∀ l ∈ List.replicate 32 (List.replicate 32 3), l.length = 32)
    ∧ ([⟨[], Config.fwver.toNat, true⟩, ⟨[], 0, false⟩] : List Stage).takeWhile (fun g => g.verified && decide (Config.fwver.toNat ≤ g.version)) = [⟨[], Config.fwver.toNat, true⟩] := by
  refine ⟨⟨{ State.reset with fabric := { Fabric.reset with relay := [(3, ⟨1, 2, 5, .data [1, 2] false []⟩)] } }, rfl⟩, by decide +kernel, by decide, by decide, by simp⟩

/-- R408 to R415: a spare takes a channel's place; an uncorrectable error stops the group; what the host writes it reads. -/
theorem test_reliability :
    got (exec (.channelRetire 3 7) State.reset) (fun t => (t.spares, t.copyingCh)) = some ([(3, [7])], [(3, 7)])
    ∧ got (exec (.poolUncorrectableError 0 0) two) (fun t => ((t.grp? 0 0).map (fun x => x.stopped), (t.col 0).fqWait.map (fun r => (r.cause, r.code)))) = some (some true, [(19, 10)])
    ∧ got (exec (.hostWrite 0x1000 [1, 2]) State.reset) (fun t => (t.homeByte 0x1001, t.reports)) = some (2, [])
    ∧ got (exec (.hostRead 0x1000 2) (State.reset.setHomeBytes 0x1000 [1, 2])) (fun t => t.reports) = some [.hostData 0x1000 [1, 2]]
    ∧ got (exec (.matrixSelfTest 5 0xF) State.reset) (fun t => (t.core 5).outOfService) = some true := by
  refine ⟨by decide +kernel, by decide +kernel, by decide +kernel, by decide +kernel, by decide +kernel⟩

/-- EncodeDecode: an instruction of each length with its words. -/
theorem witness_EncodeDecode : ∀ p ∈ [(Instr.exit ⟨0, 0, 0⟩, ([0x47400000, 0] : List W)), (.movsi ⟨3, 0x39C, false, false⟩, [0x00C03E70]),
    (.bfe (vF 9 2 0 1 (some 0x0804)), [0x81800240, 0x20000001, 0x0804])], p.1.wf = true ∧ encode p.1 = p.2 := by
  decide

/-- MemoryStaysCanonical: reset memory, and a state whose memory lists bytes, with a turn that answers a next state. -/
theorem witness_MemoryStaysCanonical : Memory.wf State.reset.mem ∧ Memory.wf (State.reset.setHomeBytes 0x1000 [1, 0, 2]).mem
    ∧ (got (step { (State.reset.setHomeBytes 0x1000 [1, 0, 2]) with agenda := [⟨1, .event (.hostWrite 0x1001 [7, 0])⟩] }) (fun t => t.mem)) = some [(0x1000, 1), (0x1001, 7)] := by
  refine ⟨by decide, by decide, by decide +kernel⟩
end Sys2Proof.Tests
end

section
/-! Byte order and the homes (R3, R275). -/

namespace Sys2Proof.Machine

/-- The bytes of a value stand in rising order of significance (R3). -/
theorem leBytes_getElem? (n v i : Nat) (h : i < n) : (leBytes n v)[i]? = some (BitVec.ofNat 8 (v / 256 ^ i)) := by
  induction n generalizing v i with
  | zero => omega
  | succ n ih =>
    cases i with
    | zero => simp [leBytes]
    | succ i => rw [leBytes, List.getElem?_cons_succ, ih _ _ (by omega), Nat.div_div_eq_div_mul, Nat.pow_succ']

/-- Settles O23: each clause is a rule of home memory or of the byte order. -/
theorem homeMemory : Obligations.HomeMemory :=
  ⟨fun s a x b => s.homeByte_setHomeByte a x b, fun s a b => s.setHomeByte_wf a b, fun s a x l => s.homeByte_setHomeBytes a x l,
    fun s a l => s.setHomeBytes_wf a l, leNat_leBytes, leBytes_getElem?, State.reset_memory⟩

end Sys2Proof.Machine
end

section
/-! System registers (R232 to R234): which rows name them, what each reads, and what a read after a write gives. -/

namespace Sys2Proof.Machine

/-! ### Instructions of a column core -/

/-- A row of a column core that issues runs its body on its one lane. -/
theorem runMem_colBody_issues {i r f s e ls c lv} (body : Row → Fields → Env → Nat → LaneView → State → State) (h : Issues i r f s e ls)
    (hc : OnColumn e ls c lv) : runMem i (colBody body) s = body r f e c lv s := by
  obtain ⟨hwho, rfl⟩ := hc
  have hact : laneActive f lv = true := by simpa using h.active
  rw [runMem_issues _ h]
  simp only [colBody, hwho, List.filter_cons, hact, if_true]

/-- A refused instruction of a column core takes the illegal-instruction trap (R59, R226). -/
theorem State.refuse_of_col {e : Env} {c : Nat} (hwho : e.who = .col c) (s : State) (f : Fields) (lv : LaneView) (reason : Nat) :
    s.refuse f e lv reason = s.takeTrap c 1 reason e.addr e.pc 0 := by
  simp only [State.refuse, State.finishOne, State.commit, hwho]
  rfl

/-! ### Who may read and write a register -/

/-- The rows of R232: first and last number, the privilege that may read, the one that may write. -/
def sysRows : List (Nat × Nat × Nat × Option Nat) :=
  [(0x000, 0x000, 0, none), (0x010, 0x01A, 1, some 1), (0x020, 0x029, 3, some 3), (0x030, 0x031, 1, some 1), (0x040, 0x040, 1, some 1),
    (0x041, 0x041, 0, some 3), (0x042, 0x043, 3, some 3), (0x050, 0x050, 0, some 3), (0x051, 0x051, 0, some 1), (0x052, 0x053, 0, none),
    (0x060, 0x06B, 0, none), (0x070, 0x070, 1, some 1), (0x071, 0x071, 1, none), (0x080, 0x082, 1, some 1), (0x090, 0x092, 0, none),
    (0x0A0, 0x0A0, 1, none), (0x100, 0x13F, 1, some 1)]

/-- No number from 0x140 on is named. -/
theorem sysRule_above {n : Nat} (h : 0x140 ≤ n) : sysRule n = none := by
  simp (disch := omega) only [sysRule, decide_eq_false, Bool.and_false, Bool.or_false, Bool.false_eq_true, if_false, if_neg]

theorem sysRows_above {n : Nat} (h : 0x140 ≤ n) : sysRows.find? (fun t => t.1 ≤ n && n ≤ t.2.1) = none := by
  refine List.find?_eq_none.2 fun t ht => ?_
  have hlast : ∀ t ∈ sysRows, t.2.1 < 0x140 := by decide
  have := hlast t ht
  simp only [Bool.and_eq_true, decide_eq_true_eq]
  omega

theorem sysRule_below : ∀ n < 0x140, sysRule n = (sysRows.find? (fun t => t.1 ≤ n && n ≤ t.2.1)).map (fun t => (t.2.2.1, t.2.2.2)) := by
  decide +kernel

/-- The model's rule is the table's. -/
theorem sysRule_eq_rows (n : Nat) : sysRule n = (sysRows.find? (fun t => t.1 ≤ n && n ≤ t.2.1)).map (fun t => (t.2.2.1, t.2.2.2)) := by
  rcases Nat.lt_or_ge n 0x140 with h | h
  · exact sysRule_below n h
  · rw [sysRule_above h, sysRows_above h]; rfl

/-! ### The rows that read and write -/

theorem exec_sysrd {mk : Fields → Instr} (hmk : mk ∈ [Instr.sysrd, Instr.sysrdLit, Instr.calDataRead]) (f : Fields) (s : State) :
    exec (mk f) s = .next (runMem (mk f) (colBody sysrdBody) s) := by
  simp only [List.mem_cons, List.not_mem_nil, or_false] at hmk
  rcases hmk with rfl | rfl | rfl <;> rfl

theorem exec_syswr {mk : Fields → Instr} (hmk : mk ∈ [Instr.syswr, Instr.syswrLit, Instr.rsmGoWrite, Instr.swallowColWrite,
    Instr.thrEventsWrite, Instr.evpendWrite, Instr.polDealWrite]) (f : Fields) (s : State) :
    exec (mk f) s = .next (runMem (mk f) (colBody syswrBody) s) := by
  simp only [List.mem_cons, List.not_mem_nil, or_false] at hmk
  rcases hmk with rfl | rfl | rfl | rfl | rfl | rfl | rfl <;> rfl

section Rows

variable {mk : Fields → Instr} {r : Row} {f : Fields} {s : State} {e : Env} {ls : List LaneView} {c : Nat} {lv : LaneView}

/-- A row that reads, once it issues: the checks of R232 in their order, then the value in D. -/
theorem exec_sysrd_issues (hmk : mk ∈ [Instr.sysrd, Instr.sysrdLit, Instr.calDataRead]) (hi : Issues (mk f) r f s e ls)
    (hc : OnColumn e ls c lv) :
    let n := (srcB r ls lv f).toNat
    let traps := fun (reason : Nat) => s.takeTrap c 1 reason e.addr e.pc 0
    (sysRule n = none → exec (mk f) s = .next (traps 4))
    ∧ ∀ rd wr, sysRule n = some (rd, wr) →
      (e.priv < rd → exec (mk f) s = .next (traps 7))
      ∧ (rd ≤ e.priv → exec (mk f) s = .next (oneOut (s.sysReadNote c n) f e lv (setD64 lv f (s.sysRead c n)))) := by
  rw [exec_sysrd hmk, runMem_colBody_issues _ hi hc]
  obtain ⟨hwho, rfl⟩ := hc
  refine ⟨fun h => ?_, fun rd wr h => ⟨fun hp => ?_, fun hp => ?_⟩⟩
  · simp only [sysrdBody, h, State.refuse_of_col hwho]
  · simp only [sysrdBody, h, if_pos hp, State.refuse_of_col hwho]
  · simp only [sysrdBody, h, if_neg (Nat.not_lt.2 hp)]
    rfl

/-- A row that writes, once it issues: the checks of R232 in their order, then the write of the pair A. -/
theorem exec_syswr_issues (hmk : mk ∈ [Instr.syswr, Instr.syswrLit, Instr.rsmGoWrite, Instr.swallowColWrite, Instr.thrEventsWrite,
    Instr.evpendWrite, Instr.polDealWrite]) (hi : Issues (mk f) r f s e ls) (hc : OnColumn e ls c lv) :
    let n := (srcB r ls lv f).toNat
    let v := srcA64 ls lv f
    let traps := fun (reason : Nat) => s.takeTrap c 1 reason e.addr e.pc 0
    (sysRule n = none → exec (mk f) s = .next (traps 4)) ∧ (∀ rd, sysRule n = some (rd, none) → exec (mk f) s = .next (traps 4))
    ∧ ∀ rd wr, sysRule n = some (rd, some wr) →
      (e.priv < wr → exec (mk f) s = .next (traps 7))
      ∧ (wr ≤ e.priv → n = 0x043 → 32 ≤ v.toNat → exec (mk f) s = .next (traps 6))
      ∧ (wr ≤ e.priv → n ≠ 0x043 ∨ v.toNat < 32 → exec (mk f) s = .next ((oneOut s f e lv lv).sysWrite c n v)) := by
  rw [exec_syswr hmk, runMem_colBody_issues _ hi hc]
  obtain ⟨hwho, rfl⟩ := hc
  refine ⟨fun h => ?_, fun rd h => ?_, fun rd wr h => ⟨fun hp => ?_, fun hp hn hv => ?_, fun hp hv => ?_⟩⟩
  · simp only [syswrBody, h, State.refuse_of_col hwho]
  · simp only [syswrBody, h, State.refuse_of_col hwho]
  · simp only [syswrBody, h, if_pos hp, State.refuse_of_col hwho]
  · have hbig : (decide ((srcB r [lv] lv f).toNat = 0x043) && (srcA64 [lv] lv f).toNat / 32 != 0) = true := by
      simp only [hn, decide_true, Bool.true_and, bne_iff_ne]; omega
    simp only [syswrBody, h, if_neg (Nat.not_lt.2 hp), if_pos hbig, State.refuse_of_col hwho]
  · have hsmall : ¬ (decide ((srcB r [lv] lv f).toNat = 0x043) && (srcA64 [lv] lv f).toNat / 32 != 0) = true := by
      simp only [Bool.and_eq_true, decide_eq_true_eq, bne_iff_ne]; omega
    simp only [syswrBody, h, if_neg (Nat.not_lt.2 hp), if_neg hsmall]
    rfl

end Rows

/-- Only a read of `cal_data` leaves a trace (R233). -/
theorem State.sysReadNote_of_ne (s : State) (c : Nat) {n : Nat} (h : n ≠ 0x071) : s.sysReadNote c n = s := if_neg h

/-! ### What a read gives -/

/-- A trap register of S is read by its number within its level. -/
theorem State.sysRead_trapS (s : State) (c : Nat) {n : Nat} (lo : 0x010 ≤ n) (hi : n ≤ 0x019) :
    s.sysRead c n = (s.cc c).trapS.get (n - 0x010) := by
  simp (disch := omega) only [State.sysRead, State.cc, Bool.and_eq_true, decide_eq_true_eq, if_neg, if_pos]

/-- The same at M. -/
theorem State.sysRead_trapM (s : State) (c : Nat) {n : Nat} (lo : 0x020 ≤ n) (hi : n ≤ 0x029) :
    s.sysRead c n = (s.cc c).trapM.get (n - 0x020) := by
  simp (disch := omega) only [State.sysRead, State.cc, Bool.and_eq_true, decide_eq_true_eq, if_neg, if_pos]

/-- A context register is read by the number of its context. -/
theorem State.sysRead_ctxroot (s : State) (c : Nat) {n : Nat} (lo : 0x100 ≤ n) (hi : n ≤ 0x13F) : s.sysRead c n = s.ctxroot (n - 0x100) := by
  simp (disch := omega) only [State.sysRead, Bool.and_eq_true, decide_eq_true_eq, if_neg, if_pos]

/-- A word of `step_log` is read by its number within the log. -/
theorem State.sysRead_stepLog (s : State) (c : Nat) {n : Nat} (lo : 0x060 ≤ n) (hi : n ≤ 0x06B) :
    s.sysRead c n = (s.die (dieOf c)).logWord (n - 0x060) := by
  simp (disch := omega) only [State.sysRead, Bool.and_eq_true, decide_eq_true_eq, if_neg, if_pos]

/-- The three words of an entry of `step_log`, 0 where there is none. -/
theorem Die.logWord_entry (d : Die) (i : Nat) :
    match d.log[i]? with
    | some r => d.logWord (3 * i) = BitVec.ofNat 64 r.tick ∧ d.logWord (3 * i + 1) = BitVec.ofNat 64 r.cyc
        ∧ d.logWord (3 * i + 2) = BitVec.ofNat 64 (r.seq % 2 ^ 32 * 2 ^ 32 + r.mhz % 4096)
    | none => d.logWord (3 * i) = 0 ∧ d.logWord (3 * i + 1) = 0 ∧ d.logWord (3 * i + 2) = 0 := by
  have h0 : 3 * i / 3 = i := by omega
  have h1 : (3 * i + 1) / 3 = i := by omega
  have h2 : (3 * i + 2) / 3 = i := by omega
  have m1 : (3 * i + 1) % 3 = 1 := by omega
  have m2 : (3 * i + 2) % 3 = 2 := by omega
  cases hl : d.log[i]? <;> simp [Die.logWord, h0, h1, h2, m1, m2, hl]

/-- `swallow_col`: REQ above, the EFF in force below (R391). -/
theorem State.sysRead_swallow (s : State) (c : Nat) : s.sysRead c 0x050 =
    BitVec.ofNat 64 (65536 * (s.gov c).req.toNat + ((s.gov c).settled (s.cyc (dieOf c))).eff.toNat) := rfl

/-- `thr_events`: LAST in the top byte, COUNT below. -/
theorem State.sysRead_thrEvents (s : State) (c : Nat) :
    s.sysRead c 0x051 = BitVec.ofNat 64 (2 ^ 56 * (s.gov c).thrLast + (s.gov c).thrCount) :=
  congrArg (fun k => BitVec.ofNat 64 (k + (s.gov c).thrCount)) (Nat.mul_comm ..)

/-- `vbus_slow`: HALF is set where a bank is slow (R405). -/
theorem State.sysRead_vbusSlow (s : State) (c : Nat) :
    s.sysRead c 0x052 = BitVec.ofNat 64 (if (s.gov c).vbusSlow = 0 then 0 else 2 ^ 32 + (s.gov c).vbusSlow.toNat) := by
  show BitVec.ofNat 64 ((if (s.gov c).vbusSlow = 0 then 0 else 2 ^ 32) + (s.gov c).vbusSlow.toNat) = _
  by_cases h : (s.gov c).vbusSlow = 0
  · rw [if_pos h, if_pos h, h]; rfl
  · rw [if_neg h, if_neg h]

/-- `ecc_col`: uncorrected errors above, corrected ones below. -/
theorem State.sysRead_eccCol (s : State) (c : Nat) :
    s.sysRead c 0x053 = BitVec.ofNat 64 (2 ^ 32 * (s.gov c).eccUncorr + (s.gov c).eccCorr) :=
  congrArg (fun k => BitVec.ofNat 64 (k + (s.gov c).eccCorr)) (Nat.mul_comm ..)

/-- `evpend`: the latched bits and the two level bits (R234). -/
theorem State.sysRead_evpend (s : State) (c : Nat) :
    s.sysRead c 0x080 = ((s.col c).evLatched &&& 0x76) ||| (if (s.col c).fq = [] then 0 else 1) ||| (if (s.col c).tickcmp.toNat ≤ s.tick then 8 else 0) := by
  show s.evpend c = _
  simp only [State.evpend, List.isEmpty_iff]

/-- `fqstat`: the records that wait, and STALL above them where one finds no place (R238). -/
theorem State.sysRead_fqstat (s : State) (c : Nat) :
    s.sysRead c 0x0A0 = BitVec.ofNat 64 ((if 256 ≤ (s.col c).fq.length ∧ (s.col c).fqWait ≠ [] then 2 ^ 16 else 0) + (s.col c).fq.length) := by
  show BitVec.ofNat 64 ((if (256 ≤ (s.col c).fq.length && !((s.col c).fqWait.isEmpty)) = true then 65536 else 0) + (s.col c).fq.length) = _
  simp only [Bool.and_eq_true, decide_eq_true_eq, Bool.not_eq_true', List.isEmpty_eq_false_iff]
  rfl

/-! ### What a write changes -/

/-- The bits of a trap register that a write reaches: `tvec` is a multiple of 4, reserved bits of `tcause` read 0 (R5, R232). -/
def TrapRegs.written (i : Nat) : D64 := if i = 0 then ~~~3 else if i = 1 then 0xFFFF1CFF else ~~~0

theorem TrapRegs.get_put (t : TrapRegs) (i : Nat) (v : D64) : (t.put i v).get i = v &&& TrapRegs.written i := by
  match i with
  | 0 | 1 => rfl
  | 2 | 3 | 4 | 5 | 6 | 7 | 8 | _ + 9 => exact (BitVec.and_allOnes (x := v)).symm

@[simp] theorem State.col_modCc_same (s : State) (c : Nat) (f : ColCore → ColCore) : (s.modCc c f).col c = { s.col c with core := f (s.cc c) } :=
  s.col_modCol_same c _

theorem State.sysWrite_trapS (s : State) (c : Nat) {n : Nat} (v : D64) (lo : 0x010 ≤ n) (hi : n ≤ 0x019) :
    s.sysWrite c n v = s.modCc c (fun x => { x with trapS := x.trapS.put (n - 0x010) v }) := by
  simp (disch := omega) only [State.sysWrite, Bool.and_eq_true, decide_eq_true_eq, if_neg, if_pos]

theorem State.sysWrite_trapM (s : State) (c : Nat) {n : Nat} (v : D64) (lo : 0x020 ≤ n) (hi : n ≤ 0x029) :
    s.sysWrite c n v = s.modCc c (fun x => { x with trapM := x.trapM.put (n - 0x020) v }) := by
  simp (disch := omega) only [State.sysWrite, Bool.and_eq_true, decide_eq_true_eq, if_neg, if_pos]

theorem State.sysWrite_ctxroot (s : State) (c : Nat) {n : Nat} (v : D64) (lo : 0x100 ≤ n) (hi : n ≤ 0x13F) :
    s.sysWrite c n v = { s with ctxroots := mapSet s.ctxroots (n - 0x100) v } := by
  simp (disch := omega) only [State.sysWrite, Bool.and_eq_true, decide_eq_true_eq, if_neg, if_pos]

/-- `pol_deal` takes a write whose POLICY and AGE are allowed, and ignores another (R233). -/
theorem State.sysWrite_polDeal (s : State) (c : Nat) (v : D64) : s.sysWrite c 0x040 v = if v.toNat / 256 % 4 < 2 ∧ v.toNat % 256 ≠ 0
    then s.modCol c (fun y => { y with policy := v.toNat / 256 % 4, age := v.toNat % 256 }) else s := by
  show (if (decide (2 ≤ v.toNat / 256 % 4) || decide (v.toNat % 256 = 0)) = true then s else _) = _
  simp only [Bool.or_eq_true, decide_eq_true_eq]
  by_cases h : v.toNat / 256 % 4 < 2 ∧ v.toNat % 256 ≠ 0
  · rw [if_pos h, if_neg (by omega)]; rfl
  · rw [if_neg h, if_pos (by omega)]

/-- `swallow_col` ignores a REQ of fewer than 4 ones (R233). -/
theorem State.sysWrite_swallow (s : State) (c : Nat) (v : D64) : s.sysWrite c 0x050 v = if popNat 16 (v.toNat % 65536) < 4 then s
    else s.modPat c (fun g => { g with req := v.setWidth 16 }) := by
  have hreq : BitVec.ofNat 16 (v.toNat % 2 ^ 16) = v.setWidth 16 := by
    apply BitVec.eq_of_toNat_eq; simp
  simp only [State.sysWrite, patternOnes, hreq, Nat.reduceLeDiff, Nat.reduceEqDiff, decide_true, decide_false, Bool.and_false,
    Bool.false_eq_true, if_true, if_false]

@[simp] theorem State.modPat_mem (s : State) (c : Nat) (f : Governor → Governor) : (s.modPat c f).mem = s.mem := rfl
@[simp] theorem State.modPat_cores (s : State) (c : Nat) (f : Governor → Governor) : (s.modPat c f).cores = s.cores := rfl

/-- A write of a register but `rsm_go` reaches neither memory nor an array core. -/
theorem State.sysWrite_frame (s : State) (c n : Nat) (v : D64) (h : n ≠ 0x043) : (s.sysWrite c n v).mem = s.mem ∧ (s.sysWrite c n v).cores = s.cores := by
  simp [State.sysWrite, h, apply_ite State.mem, apply_ite State.cores]

/-! ### What a read after a write gives (R5) -/

/-- The low bits of a doubleword, cut out as a number. -/
theorem ofNat_mod_two_pow (v : D64) (b : Nat) (h : b ≤ 64) : BitVec.ofNat 64 (v.toNat % 2 ^ b) = v &&& BitVec.ofNat 64 (2 ^ b - 1) := by
  apply BitVec.eq_of_toNat_eq
  have : 2 ^ b ≤ 2 ^ 64 := Nat.pow_le_pow_right (by decide) h
  rw [BitVec.toNat_and, BitVec.toNat_ofNat, BitVec.toNat_ofNat, Nat.mod_eq_of_lt (a := 2 ^ b - 1) (by omega), Nat.and_two_pow_sub_one_eq_mod]
  exact Nat.mod_eq_of_lt (Nat.lt_of_le_of_lt (Nat.mod_le _ _) v.isLt)

section AfterWrite

variable (s : State) (c : Nat) (v : D64)

theorem State.sysRead_sysWrite_trapS {n : Nat} (lo : 0x010 ≤ n) (hi : n ≤ 0x019) :
    (s.sysWrite c n v).sysRead c n = v &&& TrapRegs.written (n - 0x010) := by
  rw [s.sysWrite_trapS c v lo hi, State.sysRead_trapS _ c lo hi, State.cc_modCc_same, TrapRegs.get_put]

theorem State.sysRead_sysWrite_trapM {n : Nat} (lo : 0x020 ≤ n) (hi : n ≤ 0x029) :
    (s.sysWrite c n v).sysRead c n = v &&& TrapRegs.written (n - 0x020) := by
  rw [s.sysWrite_trapM c v lo hi, State.sysRead_trapM _ c lo hi, State.cc_modCc_same, TrapRegs.get_put]

theorem State.sysRead_sysWrite_ctxroot {n : Nat} (lo : 0x100 ≤ n) (hi : n ≤ 0x13F) : (s.sysWrite c n v).sysRead c n = v := by
  rw [s.sysWrite_ctxroot c v lo hi, State.sysRead_ctxroot _ c lo hi]
  exact (mapGet_mapSet ..).trans (if_pos rfl)

theorem State.sysRead_sysWrite_eie : (s.sysWrite c 0x01A v).sysRead c 0x01A = v &&& 1 := by
  have hread : (s.sysWrite c 0x01A v).sysRead c 0x01A = if v.getLsbD 0 then 1 else 0 := by simp [State.sysWrite, State.sysRead]
  rw [hread, show (1 : D64) = 1#64 from rfl, BitVec.and_one_eq_setWidth_ofBool_getLsbD]
  cases v.getLsbD 0 <;> rfl

theorem State.sysRead_sysWrite_ptbase : (s.sysWrite c 0x030 v).sysRead c 0x030 = v &&& ~~~0xFFFF := by
  simp [State.sysWrite, State.sysRead]

theorem State.sysRead_sysWrite_asid : (s.sysWrite c 0x031 v).sysRead c 0x031 = v &&& 0xFFFF := by
  have hread : (s.sysWrite c 0x031 v).sysRead c 0x031 = (BitVec.ofNat 32 (v.toNat % 2 ^ 16)).setWidth 64 := by
    simp [State.sysWrite, State.sysRead]
  rw [hread]
  refine Eq.trans ?_ (ofNat_mod_two_pow v 16 (by decide))
  apply BitVec.eq_of_toNat_eq
  simp only [BitVec.toNat_setWidth, BitVec.toNat_ofNat]
  omega

theorem State.sysRead_sysWrite_gbarGap : (s.sysWrite c 0x041 v).sysRead c 0x041 = v &&& 0xFFFF := ofNat_mod_two_pow v 16 (by decide)

theorem State.sysRead_sysWrite_rsmAddr : (s.sysWrite c 0x042 v).sysRead c 0x042 = v &&& ~~~3 := by
  simp [State.sysWrite, State.sysRead]

theorem State.sysRead_sysWrite_calIdx : (s.sysWrite c 0x070 v).sysRead c 0x070 = v &&& 0x3FF := by
  simpa [State.sysWrite, State.sysRead] using ofNat_mod_two_pow v 10 (by decide)

theorem State.sysRead_sysWrite_evmask : (s.sysWrite c 0x081 v).sysRead c 0x081 = v &&& 0x7F := by
  simp [State.sysWrite, State.sysRead]

theorem State.sysRead_sysWrite_tickcmp : (s.sysWrite c 0x082 v).sysRead c 0x082 = v := by
  simp [State.sysWrite, State.sysRead]

theorem State.sysRead_sysWrite_polDeal : (s.sysWrite c 0x040 v).sysRead c 0x040 =
    if v.toNat / 256 % 4 < 2 ∧ v.toNat % 256 ≠ 0 then v &&& 0x1FF else s.sysRead c 0x040 := by
  rw [State.sysWrite_polDeal]
  split_ifs with h
  · have hval : 256 * (v.toNat / 256 % 4) + v.toNat % 256 = v.toNat % 2 ^ 9 := by omega
    refine Eq.trans ?_ (ofNat_mod_two_pow v 9 (by decide))
    simp [State.sysRead, hval]
  · rfl

/-- Clearing latched bits under a mask leaves what lies outside it. -/
theorem and_not_or_of_disjoint {w : Nat} {k m : BitVec w} (h : k &&& m = 0) (l x : BitVec w) :
    (l &&& ~~~x &&& m) ||| k = ((l &&& m) ||| k) &&& ~~~(x &&& m) := by
  ext i hi
  have hbit : (k[i] && m[i]) = false := by simpa [hi] using congrArg (fun b => b[i]) h
  simp only [BitVec.getElem_or, BitVec.getElem_and, BitVec.getElem_not]
  revert hbit
  cases k[i] <;> cases m[i] <;> simp

/-- `evpend` loses the latched bits that a write names, and keeps the level bits (R234). -/
theorem State.sysRead_sysWrite_evpend : (s.sysWrite c 0x080 v).sysRead c 0x080 = s.sysRead c 0x080 &&& ~~~(v &&& 0x76) := by
  have hwrite : s.sysWrite c 0x080 v = s.modCol c (fun y => { y with evLatched := y.evLatched &&& ~~~v }) := rfl
  rw [hwrite, State.sysRead_evpend, State.sysRead_evpend, State.col_modCol_same, State.modCol_tick, BitVec.or_assoc, BitVec.or_assoc]
  refine and_not_or_of_disjoint ?_ _ _
  split_ifs <;> rfl

/-! ### The pattern of a column -/

/-- What is settled at a cycle has no change due by then. -/
theorem Governor.settled_of_later {g : Governor} {m cyc : Nat} (hp : g.patAt = some m) (h : cyc < m) : g.settled cyc = g := by
  simp only [Governor.settled, hp, if_neg (Nat.not_le.2 h)]

theorem Governor.patAt_settled {g : Governor} {m cyc : Nat} (h : (g.settled cyc).patAt = some m) : cyc < m := by
  unfold Governor.settled at h
  split at h
  · split_ifs at h with hm
    simp_all
  · simp_all

/-- After a write of REQ the next change of the pattern lies ahead. -/
theorem Governor.next_pattern_later (g : Governor) (cyc : Nat) : cyc < (g.settled cyc).patAt.getD (16 * (cyc / 16 + 1)) := by
  cases h : (g.settled cyc).patAt with
  | some m => exact Governor.patAt_settled h
  | none => show cyc < 16 * (cyc / 16 + 1); omega

theorem State.gov_modPat_same (f : Governor → Governor) : (s.modPat c f).gov c =
    { f ((s.gov c).settled (s.cyc (dieOf c))) with
      patAt := some (((s.gov c).settled (s.cyc (dieOf c))).patAt.getD (16 * (s.cyc (dieOf c) / 16 + 1))) } := by
  simp only [State.modPat, State.gov_modGov_same]

theorem State.gov_sysWrite_swallow : (s.sysWrite c 0x050 v).gov c = if popNat 16 (v.toNat % 65536) < 4 then s.gov c
    else
      let g := (s.gov c).settled (s.cyc (dieOf c))
      { g with req := v.setWidth 16, patAt := some (g.patAt.getD (16 * (s.cyc (dieOf c) / 16 + 1))) } := by
  rw [State.sysWrite_swallow, apply_ite (fun t : State => t.gov c), State.gov_modPat_same]

theorem State.cyc_sysWrite_swallow (d : Nat) : (s.sysWrite c 0x050 v).cyc d = s.cyc d := by
  rw [State.sysWrite_swallow]
  split_ifs <;> rfl

/-- REQ reads as written at once; EFF stays until the boundary (R391). -/
theorem State.sysRead_sysWrite_swallow (h : 4 ≤ popNat 16 (v.toNat % 65536)) : (s.sysWrite c 0x050 v).sysRead c 0x050 =
    BitVec.ofNat 64 (65536 * (v.toNat % 65536) + (s.sysRead c 0x050).toNat % 65536) := by
  have hgov := s.gov_sysWrite_swallow c v
  rw [if_neg (by omega)] at hgov
  have hset := Governor.settled_of_later (congrArg Governor.patAt hgov) (Governor.next_pattern_later (s.gov c) (s.cyc (dieOf c)))
  have heff : (s.sysRead c 0x050).toNat % 65536 = ((s.gov c).settled (s.cyc (dieOf c))).eff.toNat := by
    rw [s.sysRead_swallow c, BitVec.toNat_ofNat]
    have := ((s.gov c).settled (s.cyc (dieOf c))).eff.isLt
    omega
  rw [State.sysRead_swallow, State.cyc_sysWrite_swallow, hset, hgov, heff]
  congr 1

theorem State.gov_sysWrite_thrEvents : (s.sysWrite c 0x051 v).gov c = { s.gov c with thrCount := 0 } := by
  have hwrite : s.sysWrite c 0x051 v = s.modGov c (fun g => { g with thrCount := 0 }) := rfl
  rw [hwrite, State.gov_modGov_same]

/-- The registers whose reserved bits alone are lost on the way from a write to a read (R5). -/
theorem State.sysRead_sysWrite_masked (n : Nat) (mask : D64)
    (h : (n = 0x010 ∨ n = 0x020 ∨ n = 0x042) ∧ mask = ~~~3 ∨ (n = 0x011 ∨ n = 0x021) ∧ mask = 0xFFFF1CFF
      ∨ (0x012 ≤ n ∧ n ≤ 0x019 ∨ 0x022 ≤ n ∧ n ≤ 0x029 ∨ n = 0x082 ∨ 0x100 ≤ n ∧ n ≤ 0x13F) ∧ mask = ~~~0
      ∨ n = 0x01A ∧ mask = 1 ∨ n = 0x030 ∧ mask = ~~~0xFFFF ∨ (n = 0x031 ∨ n = 0x041) ∧ mask = 0xFFFF ∨ n = 0x070 ∧ mask = 0x3FF
      ∨ n = 0x081 ∧ mask = 0x7F) : (s.sysWrite c n v).sysRead c n = v &&& mask := by
  have hfull : v &&& ~~~0 = v := BitVec.and_allOnes
  rcases h with ⟨rfl | rfl | rfl, rfl⟩ | ⟨rfl | rfl, rfl⟩ | ⟨⟨lo, hi⟩ | ⟨lo, hi⟩ | rfl | ⟨lo, hi⟩, rfl⟩ | ⟨rfl, rfl⟩ | ⟨rfl, rfl⟩
    | ⟨rfl | rfl, rfl⟩ | ⟨rfl, rfl⟩ | ⟨rfl, rfl⟩
  · exact s.sysRead_sysWrite_trapS c v (by decide) (by decide)
  · exact s.sysRead_sysWrite_trapM c v (by decide) (by decide)
  · exact s.sysRead_sysWrite_rsmAddr c v
  · exact s.sysRead_sysWrite_trapS c v (by decide) (by decide)
  · exact s.sysRead_sysWrite_trapM c v (by decide) (by decide)
  · rw [s.sysRead_sysWrite_trapS c v (by omega) hi, TrapRegs.written, if_neg (by omega), if_neg (by omega)]
  · rw [s.sysRead_sysWrite_trapM c v (by omega) hi, TrapRegs.written, if_neg (by omega), if_neg (by omega)]
  · rw [hfull, s.sysRead_sysWrite_tickcmp c v]
  · rw [hfull, s.sysRead_sysWrite_ctxroot c v lo hi]
  · exact s.sysRead_sysWrite_eie c v
  · exact s.sysRead_sysWrite_ptbase c v
  · exact s.sysRead_sysWrite_asid c v
  · exact s.sysRead_sysWrite_gbarGap c v
  · exact s.sysRead_sysWrite_calIdx c v
  · exact s.sysRead_sysWrite_evmask c v

end AfterWrite

/-! ### The statement -/

/-- The ten registers of a trap level are read one by one. -/
theorem State.sysRead_trapLevels (s : State) (c : Nat) : ∀ q ∈ [(0x010, (s.col c).core.trapS), (0x020, (s.col c).core.trapM)],
    s.sysRead c q.1 = q.2.vec ∧ s.sysRead c (q.1 + 1) = q.2.cause ∧ s.sysRead c (q.1 + 2) = q.2.blk ∧ s.sysRead c (q.1 + 3) = q.2.next
      ∧ s.sysRead c (q.1 + 4) = q.2.info ∧ s.sysRead c (q.1 + 5) = q.2.q0 ∧ s.sysRead c (q.1 + 6) = q.2.q1 ∧ s.sysRead c (q.1 + 7) = q.2.q2
      ∧ s.sysRead c (q.1 + 8) = q.2.q3 ∧ s.sysRead c (q.1 + 9) = q.2.scr := by
  intro q hq
  simp only [List.mem_cons, List.not_mem_nil, or_false] at hq
  rcases hq with rfl | rfl <;> exact ⟨rfl, rfl, rfl, rfl, rfl, rfl, rfl, rfl, rfl, rfl⟩

/-- The twelve words of `step_log`, entry by entry. -/
theorem State.sysRead_stepLog_entry (s : State) (c i : Nat) (h : i < 4) :
    s.sysRead c (0x060 + 3 * i) = (s.die (dieOf c)).logWord (3 * i) ∧ s.sysRead c (0x061 + 3 * i) = (s.die (dieOf c)).logWord (3 * i + 1)
      ∧ s.sysRead c (0x062 + 3 * i) = (s.die (dieOf c)).logWord (3 * i + 2) := by
  refine ⟨?_, ?_, ?_⟩
  all_goals
    rw [s.sysRead_stepLog c (by omega) (by omega)]
    congr 1
    omega

/-- Settles O42: the rows of the opcode table run through the checks of R232; the rest is what each register reads and keeps. -/
theorem systemRegisters : Obligations.SystemRegisters := by
  refine ⟨fun mk r f s e ls c lv hi hc => ⟨fun hmk => ?_, fun hmk => exec_syswr_issues hmk hi hc⟩, sysRule_eq_rows, fun s c => ?_,
    fun s c n v mask h => s.sysRead_sysWrite_masked c v n mask h, fun s c v => s.sysRead_sysWrite_polDeal c v, fun s c v => s.sysRead_sysWrite_evpend c v,
    fun s c v => s.gov_sysWrite_swallow c v, fun s c v h => s.sysRead_sysWrite_swallow c v h, fun s c v => s.gov_sysWrite_thrEvents c v,
    fun s c n v h => s.sysWrite_frame c n v h⟩
  · obtain ⟨hreserved, hrule⟩ := exec_sysrd_issues hmk hi hc
    refine ⟨hreserved, fun rd wr h => ?_⟩
    obtain ⟨hlow, hread⟩ := hrule rd wr h
    refine ⟨hlow, fun hp hn => ?_, fun hp hn => ?_⟩
    · rw [hread hp, s.sysReadNote_of_ne c hn]
    · rw [hread hp, hn]; rfl
  · refine ⟨rfl, s.sysRead_trapLevels c, rfl, rfl, rfl, rfl, rfl, rfl, s.sysRead_swallow c, s.sysRead_thrEvents c, s.sysRead_vbusSlow c,
      s.sysRead_eccCol c, fun i hi => ?_, rfl, rfl, s.sysRead_evpend c, rfl, rfl, rfl, rfl, rfl, s.sysRead_fqstat c, fun i hi => ?_⟩
    · obtain ⟨htick, hcyc, hstep⟩ := s.sysRead_stepLog_entry c i hi
      dsimp only
      rw [htick, hcyc, hstep]
      exact (s.die (dieOf c)).logWord_entry i
    · exact (s.sysRead_ctxroot c (by omega) (by omega)).trans (by rw [Nat.add_sub_cancel_left])

end Sys2Proof.Machine
end

section
/-! The words of an instruction (R41, R48, R49, R55): the fields of each format lie side by side, the opcode table is one to one, and so
decoding and encoding are inverse. -/

namespace Sys2Proof

open Machine

/-! ### The fields of a word -/

theorem eq_ofNat_of_toNat {w n : Nat} {x : BitVec w} (h : x.toNat = n) : x = BitVec.ofNat w n := by
  rw [← h, BitVec.ofNat_toNat, BitVec.setWidth_eq]

theorem ofBool_getLsbD {w : Nat} (v : BitVec w) (i : Nat) : BitVec.ofBool (v.getLsbD i) = v.extractLsb' i 1 := by
  ext j hj
  obtain rfl : j = 0 := by omega
  simp

/-- The two words of a 64-bit format are its halves, the upper one first. -/
theorem halves_append (v : D64) : v.extractLsb' 32 32 ++ v.extractLsb' 0 32 = v := BitVec.extractLsb'_append_extractLsb' (w := 32) (len := 32)

theorem extract_upper_half (v : D64) : (v.extractLsb' 32 32).extractLsb' 30 2 = v.extractLsb' 62 2 := by
  ext i hi
  simp only [BitVec.getElem_extractLsb', BitVec.getLsbD_extractLsb']
  rw [decide_eq_true (by omega), Bool.true_and, ← Nat.add_assoc]

/-- The length code of a long form: 0b01 without LIT, 0b10 with it. -/
def lengthCode (lit : Option W) : BitVec 2 := BitVec.ofNat 2 (if lit.isSome then 2 else 1)

theorem encodeFields_decodeFields (v : D64) (lit : Option W) (h : v.extractLsb' 62 2 = lengthCode lit) :
    encodeFields (v.extractLsb' 52 10) (decodeFields v lit) = v := by
  have hcode : BitVec.ofNat 2 (if (decodeFields v lit).lit.isSome then 2 else 1) = v.extractLsb' 62 2 := h.symm
  rw [encodeFields, hcode]
  simp (disch := decide) only [decodeFields, ofBool_getLsbD, BitVec.extractLsb'_append_extractLsb'_eq_extractLsb']
  exact BitVec.extractLsb'_eq_self

theorem extract_encodeFields_code (op : BitVec 10) (f : Fields) : (encodeFields op f).extractLsb' 62 2 = lengthCode f.lit := by
  refine (BitVec.extractLsb'_append_eq_of_le (by decide)).trans ?_
  simp (disch := decide) only [BitVec.extractLsb'_append_eq_of_le, Nat.reduceSub]
  exact BitVec.extractLsb'_eq_self

theorem extract_encodeFields_op (op : BitVec 10) (f : Fields) : (encodeFields op f).extractLsb' 52 10 = op := by
  refine (BitVec.extractLsb'_append_eq_of_le (by decide)).trans ?_
  simp (disch := decide) only [BitVec.extractLsb'_append_eq_of_le, BitVec.extractLsb'_append_eq_of_add_le, Nat.reduceSub]
  exact BitVec.extractLsb'_eq_self

theorem decodeFields_encodeFields (op : BitVec 10) (f : Fields) : decodeFields (encodeFields op f) f.lit = f := by
  obtain ⟨pn, pk, d, a, b, pa, pb, dist, dS, aS, bS, modx, lit⟩ := f
  simp only [decodeFields, encodeFields, Fields.mk.injEq]
  refine ⟨?pn, ?pk, ?d, ?a, ?b, ?pa, ?pb, ?dist, ?dS, ?aS, ?bS, ?modx, trivial⟩
  case modx => exact (BitVec.extractLsb'_append_eq_of_add_le (by decide)).trans BitVec.extractLsb'_eq_self
  case pn | dS | aS | bS =>
    refine BitVec.getLsbD_append.trans ?_
    simp only [BitVec.getLsbD_append, Nat.reduceSub, Nat.reduceLT, if_false, if_true]
    simp
  case pk | d | a | b | pa | pb | dist =>
    refine (BitVec.extractLsb'_append_eq_of_le (by decide)).trans ?_
    simp (disch := decide) only [BitVec.extractLsb'_append_eq_of_le, BitVec.extractLsb'_append_eq_of_add_le, Nat.reduceSub]
    exact BitVec.extractLsb'_eq_self

/-- The 64 bits of a terminator (R55). -/
def termBits (op : BitVec 10) (f : TermFields) : D64 := 1#2 ++ op ++ f.cond ++ f.ta ++ f.tb

theorem encodeTerm_eq_halves (op : BitVec 10) (f : TermFields) :
    encodeTerm op f = [(termBits op f).extractLsb' 32 32, (termBits op f).extractLsb' 0 32] := rfl

theorem termBits_decodeTermFields (v : D64) (h : v.extractLsb' 62 2 = 1#2) : termBits (v.extractLsb' 52 10) (decodeTermFields v) = v := by
  rw [termBits, ← h]
  simp (disch := decide) only [decodeTermFields, BitVec.extractLsb'_append_extractLsb'_eq_extractLsb']
  exact BitVec.extractLsb'_eq_self

theorem extract_termBits_code (op : BitVec 10) (f : TermFields) : (termBits op f).extractLsb' 62 2 = 1#2 := by
  refine (BitVec.extractLsb'_append_eq_of_le (by decide)).trans ?_
  simp (disch := decide) only [BitVec.extractLsb'_append_eq_of_le, Nat.reduceSub]
  exact BitVec.extractLsb'_eq_self

theorem extract_termBits_op (op : BitVec 10) (f : TermFields) : (termBits op f).extractLsb' 52 10 = op := by
  refine (BitVec.extractLsb'_append_eq_of_le (by decide)).trans ?_
  simp (disch := decide) only [BitVec.extractLsb'_append_eq_of_le, BitVec.extractLsb'_append_eq_of_add_le, Nat.reduceSub]
  exact BitVec.extractLsb'_eq_self

theorem decodeTermFields_termBits (op : BitVec 10) (f : TermFields) : decodeTermFields (termBits op f) = f := by
  obtain ⟨cond, ta, tb⟩ := f
  simp only [decodeTermFields, termBits, TermFields.mk.injEq]
  refine ⟨?cond, ?ta, ?tb⟩
  case tb => exact (BitVec.extractLsb'_append_eq_of_add_le (by decide)).trans BitVec.extractLsb'_eq_self
  case cond | ta =>
    refine (BitVec.extractLsb'_append_eq_of_le (by decide)).trans ?_
    simp (disch := decide) only [BitVec.extractLsb'_append_eq_of_le, BitVec.extractLsb'_append_eq_of_add_le, Nat.reduceSub]
    exact BitVec.extractLsb'_eq_self

/-- The bits of a short form (R48). -/
def shortBits (op8 : BitVec 8) (f : ShortFields) : W := 0#2 ++ op8 ++ f.d ++ f.a ++ BitVec.ofBool f.dS ++ BitVec.ofBool f.aS

theorem shortBits_decodeShortFields (w : W) (h : w.extractLsb' 30 2 = 0#2) : shortBits (w.extractLsb' 22 8) (decodeShortFields w) = w := by
  rw [shortBits, ← h]
  simp (disch := decide) only [decodeShortFields, ofBool_getLsbD, BitVec.extractLsb'_append_extractLsb'_eq_extractLsb']
  exact BitVec.extractLsb'_eq_self

theorem extract_shortBits_code (op8 : BitVec 8) (f : ShortFields) : (shortBits op8 f).extractLsb' 30 2 = 0#2 := by
  refine (BitVec.extractLsb'_append_eq_of_le (by decide)).trans ?_
  simp (disch := decide) only [BitVec.extractLsb'_append_eq_of_le, Nat.reduceSub]
  exact BitVec.extractLsb'_eq_self

theorem extract_shortBits_op (op8 : BitVec 8) (f : ShortFields) : (shortBits op8 f).extractLsb' 22 8 = op8 := by
  refine (BitVec.extractLsb'_append_eq_of_le (by decide)).trans ?_
  simp (disch := decide) only [BitVec.extractLsb'_append_eq_of_le, BitVec.extractLsb'_append_eq_of_add_le, Nat.reduceSub]
  exact BitVec.extractLsb'_eq_self

theorem decodeShortFields_shortBits (op8 : BitVec 8) (f : ShortFields) : decodeShortFields (shortBits op8 f) = f := by
  obtain ⟨d, a, dS, aS⟩ := f
  simp only [decodeShortFields, shortBits, ShortFields.mk.injEq]
  refine ⟨?d, ?a, ?dS, ?aS⟩
  case dS | aS =>
    refine BitVec.getLsbD_append.trans ?_
    simp only [BitVec.getLsbD_append, Nat.reduceSub, Nat.reduceLT, if_false, if_true]
    simp
  case d | a =>
    refine (BitVec.extractLsb'_append_eq_of_le (by decide)).trans ?_
    simp (disch := decide) only [BitVec.extractLsb'_append_eq_of_le, BitVec.extractLsb'_append_eq_of_add_le, Nat.reduceSub]
    exact BitVec.extractLsb'_eq_self

/-! ### Words and formats -/

theorem decode_encodeShort (op8 : BitVec 8) (f : ShortFields) (rest : List W) :
    decode (encodeShort op8 f ++ rest) = .ok (decodeShort op8 f, rest) := by
  show decode (shortBits op8 f :: rest) = _
  have hcode : ((shortBits op8 f).extractLsb' 30 2).toNat = 0 := by rw [extract_shortBits_code]; rfl
  simp only [decode, hcode, extract_shortBits_op, decodeShortFields_shortBits]

theorem decode_encodeTerm {op : BitVec 10} {f : TermFields} {i : Instr} (h : decodeTerm op f = some i) (rest : List W) :
    decode (encodeTerm op f ++ rest) = .ok (i, rest) := by
  have hcode : (((termBits op f).extractLsb' 32 32).extractLsb' 30 2).toNat = 1 := by
    rw [extract_upper_half, extract_termBits_code]; rfl
  simp only [encodeTerm_eq_halves, List.cons_append, List.nil_append, decode, hcode, halves_append, extract_termBits_op,
    decodeTermFields_termBits, h]

theorem decode_encodeLong {op : BitVec 10} (h : ∀ f, decodeTerm op f = none) (f : Fields) (rest : List W) :
    decode (encodeLong op f ++ rest) = .ok (decodeLong op f, rest) := by
  have hupper : ((encodeFields op f).extractLsb' 32 32).extractLsb' 30 2 = lengthCode f.lit := by
    rw [extract_upper_half, extract_encodeFields_code]
  have hfields := decodeFields_encodeFields op f
  cases hl : f.lit with
  | none =>
    have hcode : (((encodeFields op f).extractLsb' 32 32).extractLsb' 30 2).toNat = 1 := by rw [hupper, hl]; rfl
    rw [hl] at hfields
    simp only [encodeLong, hl, Option.toList, List.cons_append, List.nil_append, decode, hcode, halves_append, extract_encodeFields_op, h, hfields]
  | some l =>
    have hcode : (((encodeFields op f).extractLsb' 32 32).extractLsb' 30 2).toNat = 2 := by rw [hupper, hl]; rfl
    rw [hl] at hfields
    simp only [encodeLong, hl, Option.toList, List.cons_append, List.nil_append, decode, hcode, halves_append, extract_encodeFields_op, h, hfields]

theorem encodeShort_decodeShortFields (w : W) (h : (w.extractLsb' 30 2).toNat = 0) :
    encodeShort (w.extractLsb' 22 8) (decodeShortFields w) = [w] :=
  congrArg (fun v => [v]) (shortBits_decodeShortFields w (BitVec.eq_of_toNat_eq h))

theorem extract_append_code (w w2 : W) {n : Nat} (h : (w.extractLsb' 30 2).toNat = n) : (w ++ w2 : D64).extractLsb' 62 2 = BitVec.ofNat 2 n := by
  exact (BitVec.extractLsb'_append_eq_of_le (by decide)).trans (eq_ofNat_of_toNat h)

theorem encodeTerm_decodeTermFields (w w2 : W) (h : (w.extractLsb' 30 2).toNat = 1) :
    encodeTerm ((w ++ w2 : D64).extractLsb' 52 10) (decodeTermFields (w ++ w2)) = [w, w2] := by
  rw [encodeTerm_eq_halves, termBits_decodeTermFields _ (extract_append_code w w2 h), BitVec.extractLsb'_append_eq_left,
    BitVec.extractLsb'_append_eq_right]

theorem encodeLong_decodeFields (w w2 : W) (lit : Option W) (h : (w.extractLsb' 30 2).toNat = if lit.isSome then 2 else 1) :
    encodeLong ((w ++ w2 : D64).extractLsb' 52 10) (decodeFields (w ++ w2) lit) = w :: w2 :: lit.toList := by
  simp only [encodeLong, encodeFields_decodeFields _ lit (extract_append_code w w2 h), BitVec.extractLsb'_append_eq_left,
    BitVec.extractLsb'_append_eq_right, List.cons_append, List.nil_append]
  rfl

/-- Words that decode are the words of a short form, of a terminator or of a long form. -/
theorem decode_eq_ok {ws rest : List W} {i : Instr} (h : decode ws = .ok (i, rest)) :
    (∃ op f, ws = encodeShort op f ++ rest ∧ decodeShort op f = i) ∨ (∃ op f, ws = encodeTerm op f ++ rest ∧ decodeTerm op f = some i)
      ∨ ∃ op f, ws = encodeLong op f ++ rest ∧ decodeLong op f = i := by
  unfold decode at h
  split at h
  case h_1 => cases h
  case h_2 w tail =>
  split at h
  case h_1 hcode =>
    cases h
    exact .inl ⟨_, _, by rw [encodeShort_decodeShortFields w hcode]; rfl, rfl⟩
  case h_2 hcode =>
    split at h
    case h_1 => cases h
    case h_2 w2 tail2 =>
    dsimp only at h
    split at h
    case h_1 hterm =>
      cases h
      exact .inr (.inl ⟨_, _, by rw [encodeTerm_decodeTermFields w w2 hcode]; rfl, hterm⟩)
    case h_2 =>
      cases h
      exact .inr (.inr ⟨_, _, by rw [encodeLong_decodeFields w w2 none hcode]; rfl, rfl⟩)
  case h_3 hcode =>
    split at h
    case h_2 => cases h
    case h_1 w2 l tail2 =>
    dsimp only at h
    split at h
    case h_1 => cases h
    case h_2 =>
      cases h
      exact .inr (.inr ⟨_, _, by rw [encodeLong_decodeFields w w2 (some l) hcode]; rfl, rfl⟩)
  case h_4 => cases h

/-! ### The opcode table -/

theorem encode_decodeShort (op8 : BitVec 8) (f : ShortFields) : encode (decodeShort op8 f) = encodeShort op8 f := by
  unfold decodeShort
  split
  case h_5 => rfl
  all_goals
    rename_i h
    obtain rfl := eq_ofNat_of_toNat h
    rfl

theorem encode_decodeTerm {op : BitVec 10} {f : TermFields} {i : Instr} (h : decodeTerm op f = some i) : encode i = encodeTerm op f := by
  unfold decodeTerm at h
  split at h
  case h_8 => cases h
  all_goals
    rename_i hop
    obtain rfl := eq_ofNat_of_toNat hop
    cases h
    rfl

/-- An entry of the opcode table: whatever the fields, the words of its instruction are those of the entry's opcode. -/
def KeepsWords (e : Nat × (Fields → Instr)) : Prop := ∀ f, encode (e.2 f) = encodeLong (BitVec.ofNat 10 e.1) f

/-- Every entry does, the pairs of a form without LIT and one with it and the rows told apart by MODX included. -/
theorem opTable_keepsWords : ∀ e ∈ opTable, KeepsWords e := by
  simp only [opTable, opsInteger, opsPredicate, opsFloatNarrow, opsCrossLane, opsMemoryInstr, opsEngineInstr, opsTaskGroup, opsSystem,
    List.forall_mem_append, List.forall_mem_cons, List.not_mem_nil, false_imp_iff, implies_true, and_true]
  and_intros
  all_goals
    intro f
    dsimp only
    (repeat' split) <;> rfl

theorem encode_decodeLong (op : BitVec 10) (f : Fields) : encode (decodeLong op f) = encodeLong op f := by
  unfold decodeLong
  split
  case h_1 e he =>
    have hop : e.1 = op.toNat := by simpa using List.find?_some he
    rw [opTable_keepsWords e (List.mem_of_find?_eq_some he) f, ← eq_ofNat_of_toNat hop.symm]
  case h_2 => rfl

/-- No opcode of the table is a terminator's (R62). -/
theorem opTable_no_terminator : ∀ e ∈ opTable, e.1 < 0x070 ∨ 0x076 < e.1 := by decide +kernel

theorem decodeTerm_eq_none {op : BitVec 10} (h : op.toNat < 0x070 ∨ 0x076 < op.toNat) (f : TermFields) : decodeTerm op f = none := by
  unfold decodeTerm
  split
  case h_8 => rfl
  all_goals omega

/-! ### The instructions that have words -/

theorem not_isSome_of_short {f : Fields} {b : Bool} (h : (lenOk .short f && b) = true) : ¬ f.lit.isSome = true := by simp_all [lenOk]

theorem isSome_of_long {f : Fields} {b : Bool} (h : (lenOk .long f && b) = true) : f.lit.isSome = true := by simp_all [lenOk]

theorem modx_of_eq {f : Fields} {b : Bool} {n : Nat} (h : (b && decide (f.modx.toNat = n)) = true) : f.modx = BitVec.ofNat 4 n := by
  obtain ⟨-, h⟩ := Bool.and_eq_true_iff.1 h
  exact eq_ofNat_of_toNat (of_decide_eq_true h)

theorem modx_ne_of_ne {f : Fields} {b : Bool} {n : BitVec 4} (h : (f.modx != n && b) = true) : ¬ f.modx = n := by simp_all

/-- A row's opcode and the fields of an encodable instruction decode to that instruction. -/
theorem decodeLong_rowOf {i : Instr} {r : Row} {f : Fields} (hr : rowOf i = some r) (hf : fieldsOf i = some f) (he : i.encodable = true) :
    decodeLong (BitVec.ofNat 10 r.op) f = i := by
  cases i with
  | imad f | iabs f | ineg f | shf f | clz f | popc f | brev f | bfe f | bfi f | movi f | bperm f | icvt f | vird f | viwr f | kand f
  | kor f | kxor f | kandn f | ktov f | ffma f | fcls f | frnd f | frcp f | fsqrt f | frsqrt f | fexp2 f | flog2 f | cvt f | pcvt f
  | upk f | hfma2 f | dot2 f | dot4 f | dot8 f | xmov f | qswz f | vote f | cred f | cscan f | csegred f | cfirst f | xsel f | cperm f
  | lda f | strl f | atom f | atomc f | atoms f | meld f | fence f | cwb f | cinv f | macq f | mrel f | mstg f | mma f | mzro f | mrd f
  | spawn f | tstat f | rxacq f | rxrel f | zacq f | zrel f | getsr f | tick f | cyc f | tret f | ecall f | wfe f | gsave f | grest f
  | fqpop f | kresRetry f | brk f | halt f =>
    cases hr; cases hf; rfl
  | iadd f | isub f | imul f | imulhi f | iadd64 f | isub64 f | imulw f | imin f | imax f | iand f | ior f | ixor f | iandn f | shl f
  | shr f | sar f | rotl f | icmp f | sel f | lea f | icsub f | idiv f | irem f | fadd f | fsub f | fmul f | fmin f | fmax f | fcmp f
  | fscale f | padd4 f | pmul4 f | ld f | st f | lds f | sts f | ldc f | stc f | pref f | mres f | cpy f | cpy2 f | cpyg f | cpyr f
  | potarm f | fwrb f | frdb f | setfm f | sysrd f | syswr f =>
    cases hr; cases hf
    exact if_neg (not_isSome_of_short he)
  | iaddLit f | isubLit f | imulLit f | imulhiLit f | iadd64Lit f | isub64Lit f | imulwLit f | iminLit f | imaxLit f | iandLit f
  | iorLit f | ixorLit f | iandnLit f | shlLit f | shrLit f | sarLit f | rotlLit f | icmpLit f | selLit f | leaLit f | icsubLit f
  | idivLit f | iremLit f | faddLit f | fsubLit f | fmulLit f | fminLit f | fmaxLit f | fcmpLit f | fscaleLit f | padd4Lit f | pmul4Lit f
  | ldMem f | stMem f | ldsMem f | stsMem f | ldcMem f | stcMem f | prefMem f | mresLit f | cpyLit f | cpy2Lit f | cpygLit f | cpyrLit f
  | potarmLit f | fwrbLit f | frdbLit f | setfmLit f | sysrdLit f | syswrLit f =>
    cases hr; cases hf
    exact if_pos (isSome_of_long he)
  | kmov f | gbarGang f | swpgMv f | mscfWb f =>
    cases hr; cases hf
    have h : (f.modx != 1 && lenOk .short f) = true := he
    exact if_neg (modx_ne_of_ne h)
  | kmovReg f | gbarGrid f | swpgXch f | mscfWbi f =>
    cases hr; cases hf
    exact if_pos (modx_of_eq he)
  | fsetSet f =>
    cases hr; cases hf
    have h : (f.modx != 1 && lenOk .short f) = true := he
    exact (if_neg (modx_ne_of_ne h)).trans (if_neg (not_isSome_of_short ((Bool.and_comm ..).trans h)))
  | fsetSetLit f =>
    cases hr; cases hf
    have h : (f.modx != 1 && lenOk .long f) = true := he
    exact (if_neg (modx_ne_of_ne h)).trans (if_pos (isSome_of_long ((Bool.and_comm ..).trans h)))
  | fsetClr f | tlbiAsid f =>
    cases hr; cases hf
    exact (if_pos (modx_of_eq he)).trans (if_neg (not_isSome_of_short he))
  | fsetClrLit f | tlbiAsidLit f =>
    cases hr; cases hf
    exact (if_pos (modx_of_eq he)).trans (if_pos (isSome_of_long he))
  | tlbiPage f =>
    cases hr; cases hf
    have h2 : f.modx = 2 := modx_of_eq he
    exact (if_neg (by rw [h2]; decide)).trans ((if_pos h2).trans (if_neg (not_isSome_of_short he)))
  | tlbiPageLit f =>
    cases hr; cases hf
    have h2 : f.modx = 2 := modx_of_eq he
    exact (if_neg (by rw [h2]; decide)).trans ((if_pos h2).trans (if_pos (isSome_of_long he)))
  | tlbiAll f =>
    cases hr; cases hf
    have h : (f.modx != 1 && f.modx != 2) = true := he
    exact (if_neg (modx_ne_of_ne h)).trans (if_neg (modx_ne_of_ne ((Bool.and_comm ..).trans h)))
  | rsmGoWrite f | calDataRead f | swallowColWrite f | thrEventsWrite f | evpendWrite f | polDealWrite f | kresContinue f | kresRetire f =>
    cases he
  | _ => cases hr

/-- An opcode that makes an instruction with a row is no terminator's. -/
theorem decodeTerm_of_row {op : BitVec 10} {f : Fields} {r : Row} (h : rowOf (decodeLong op f) = some r) (g : TermFields) :
    decodeTerm op g = none := by
  unfold decodeLong at h
  split at h
  case h_1 e he =>
    have hop : e.1 = op.toNat := by simpa using List.find?_some he
    exact decodeTerm_eq_none (hop ▸ opTable_no_terminator e (List.mem_of_find?_eq_some he)) g
  case h_2 => cases h

theorem decodeShort_shortOf {i : Instr} {op : Nat} {f : ShortFields} (h : shortOf i = some (op, f)) : decodeShort (BitVec.ofNat 8 op) f = i := by
  cases i with
  | nop g | mov g | inot g | movsi g => cases h; rfl
  | _ => cases h

theorem decodeTerm_termOf {i : Instr} {op : Nat} {f : TermFields} (h : termOf i = some (op, f)) :
    decodeTerm (BitVec.ofNat 10 op) f = some i := by
  cases i with
  | br g | brc g | brx g | call g | exit g | park g | trap g => cases h; rfl
  | _ => cases h

theorem decodeShort_reserved {op8 : BitVec 8} (h : 4 ≤ op8.toNat) (f : ShortFields) : decodeShort op8 f = .reservedOpcode (.short op8 f) := by
  unfold decodeShort
  split
  case h_5 => rfl
  all_goals omega

theorem decodeLong_reserved {op : BitVec 10} (h : ∀ e ∈ opTable, e.1 ≠ op.toNat) (f : Fields) :
    decodeLong op f = .reservedOpcode (.long op f) := by
  have hnone : opTable.find? (fun e => e.1 == op.toNat) = none := List.find?_eq_none.2 (fun e he => by simpa using h e he)
  simp only [decodeLong, hnone]

/-- An encodable instruction is a reserved word, a short form, a terminator or has a row. -/
theorem encodable_format {i : Instr} (h : i.encodable = true) :
    (∃ w, i = .reservedOpcode w ∧ reservedWf w = true) ∨ (∃ op f, shortOf i = some (op, f)) ∨ (∃ op f, termOf i = some (op, f))
      ∨ ∃ r f, rowOf i = some r ∧ fieldsOf i = some f := by
  unfold Instr.encodable at h
  split at h
  case h_1 w => exact .inl ⟨w, rfl, h⟩
  case h_2 | h_3 | h_4 | h_5 | h_6 | h_7 | h_8 => exact .inr (.inr (.inr ⟨_, _, rfl, rfl⟩))
  case h_9 =>
    obtain ⟨-, h⟩ := Bool.and_eq_true_iff.1 h
    split at h
    case h_1 => exact .inr (.inl ⟨_, _, ‹shortOf i = some _›⟩)
    case h_2 => exact .inr (.inr (.inl ⟨_, _, ‹termOf i = some _›⟩))
    case h_3 => exact .inr (.inr (.inr ⟨_, _, ‹rowOf i = some _›, ‹fieldsOf i = some _›⟩))
    case h_4 => cases h

/-- Decoding undoes encoding, whatever follows. -/
theorem decode_encode {i : Instr} (h : i.encodable = true) (rest : List W) : decode (encode i ++ rest) = .ok (i, rest) := by
  obtain ⟨w, rfl, hw⟩ | ⟨op, f, hs⟩ | ⟨op, f, ht⟩ | ⟨r, f, hr, hf⟩ := encodable_format h
  · cases w with
    | short op8 f =>
      have hd := decodeShort_reserved (of_decide_eq_true hw) f
      rw [← hd, encode_decodeShort, decode_encodeShort]
    | long op f =>
      simp only [reservedWf, Bool.and_eq_true, Bool.not_eq_true', List.any_eq_false, beq_iff_eq, Bool.and_eq_false_iff, decide_eq_false_iff_not] at hw
      obtain ⟨hnot, hterm⟩ := hw
      rw [← decodeLong_reserved hnot f, encode_decodeLong, decode_encodeLong (decodeTerm_eq_none (by omega))]
  · have hd := decodeShort_shortOf hs
    rw [← hd, encode_decodeShort, decode_encodeShort]
  · have hd := decodeTerm_termOf ht
    rw [encode_decodeTerm hd, decode_encodeTerm hd]
  · have hd := decodeLong_rowOf hr hf h
    have hterm := decodeTerm_of_row (op := BitVec.ofNat 10 r.op) (f := f) (hd ▸ hr)
    rw [← hd, encode_decodeLong, decode_encodeLong hterm]

/-- Words that decode are the words of the instruction they decode to. -/
theorem encode_decode {ws rest : List W} {i : Instr} (h : decode ws = .ok (i, rest)) : encode i ++ rest = ws := by
  obtain ⟨op, f, rfl, rfl⟩ | ⟨op, f, rfl, hterm⟩ | ⟨op, f, rfl, rfl⟩ := decode_eq_ok h
  · rw [encode_decodeShort]
  · rw [encode_decodeTerm hterm]
  · rw [encode_decodeLong]

/-- Settles O16: a well-formed instruction is encodable; each format's words decode to its fields, and the opcode table is one to one. -/
theorem encodeDecode : Obligations.EncodeDecode :=
  ⟨fun _ rest h => decode_encode (Bool.and_eq_true_iff.1 h).1 rest, fun _ _ _ h => encode_decode h⟩

/-- Settles O15: each clause is one run of the decoder on closed words. -/
theorem decodeKnownWords : Obligations.DecodeKnownWords :=
  ⟨rfl, rfl, rfl, rfl, rfl, rfl, rfl, rfl, rfl, rfl, rfl, rfl, rfl, rfl⟩

end Sys2Proof
end

section
/-! Quads and crews (R104 to R108, R161 to R171): what each lane receives, the values a crew brings, and the fixed orders of the combining
steps. -/

namespace Sys2Proof.Machine

/-! ### Least elements and lanes by position -/

/-- The least value of a function is a lower bound that some element takes. -/
theorem minOf_spec {α : Type} (f : α → Nat) {l : List α} {a : α} (ha : a ∈ l) :
    ∃ m, minOf f l = some m ∧ (∃ b ∈ l, f b = m) ∧ ∀ b ∈ l, m ≤ f b := by
  induction l generalizing a with
  | nil => cases ha
  | cons x r ih =>
    cases r with
    | nil => exact ⟨f x, rfl, ⟨x, by simp, rfl⟩, by simp⟩
    | cons y r =>
      obtain ⟨m, hm, ⟨b, hb, hfb⟩, hle⟩ := ih (List.mem_cons_self (a := y))
      refine ⟨min (f x) m, by rw [minOf, hm], ?_, ?_⟩
      · rcases Nat.le_total (f x) m with h | h
        · exact ⟨x, by simp, by omega⟩
        · exact ⟨b, List.mem_cons_of_mem _ hb, by omega⟩
      · intro c hc
        rcases List.mem_cons.1 hc with rfl | hc
        · omega
        · have := hle c hc
          omega

/-- The element with the least value, where no other element takes that value. -/
theorem argMin_eq_of_least {α : Type} {f : α → Nat} {l : List α} {a : α} (ha : a ∈ l) (hle : ∀ b ∈ l, f a ≤ f b)
    (huniq : ∀ b ∈ l, f b = f a → b = a) : argMin f l = some a := by
  obtain ⟨m, hm, ⟨b, hb, hfb⟩, hmin⟩ := minOf_spec f ha
  have hma : m = f a := by
    have h1 := hle b hb
    have h2 := hmin a ha
    omega
  simp only [argMin, hm, hma]
  obtain ⟨c, hc⟩ := Option.isSome_iff_exists.1 (List.find?_isSome (p := fun b => f b == f a).2 ⟨a, ha, beq_self_eq_true (f a)⟩)
  rw [hc, huniq c (List.mem_of_find?_eq_some hc) (by simpa using List.find?_some hc)]

/-- Lanes at positions of their own are told apart by them. -/
theorem OwnPositions.eq_of_pos {ls : List LaneView} (h : OwnPositions ls) {l l' : LaneView} (hl : l ∈ ls) (hl' : l' ∈ ls)
    (hpos : l.pos = l'.pos) : l = l' :=
  List.inj_on_of_nodup_map h hl hl' hpos

theorem laneAt_of_mem {ls : List LaneView} (h : OwnPositions ls) {l : LaneView} (hl : l ∈ ls) : laneAt ls l.pos = some l := by
  obtain ⟨c, hc⟩ := Option.isSome_iff_exists.1 (List.find?_isSome (p := fun x : LaneView => x.pos == l.pos).2 ⟨l, hl, beq_self_eq_true l.pos⟩)
  rw [laneAt, hc, h.eq_of_pos (List.mem_of_find?_eq_some hc) hl (by simpa using List.find?_some hc)]

theorem laneAt_eq_none {ls : List LaneView} {i : Nat} (h : ∀ l ∈ ls, l.pos ≠ i) : laneAt ls i = none :=
  List.find?_eq_none.2 (fun l hl => by simpa using h l hl)

/-- The highest occupied position, where a lane bounds all others. -/
theorem lastLane_eq_of_greatest {ls : List LaneView} {last : LaneView} (hlast : last ∈ ls) (hle : ∀ l ∈ ls, l.pos ≤ last.pos) :
    lastLane ls = last.pos := by
  have hbound : ∀ (l : List LaneView) (m : Nat), m ≤ last.pos → (∀ x ∈ l, x.pos ≤ last.pos) → last ∈ l ∨ m = last.pos →
      l.foldl (fun m x => max m x.pos) m = last.pos := by
    intro l
    induction l with
    | nil => intro m _ _ h; exact h.resolve_left (List.not_mem_nil)
    | cons x r ih =>
      intro m hm hx h
      have hxle := hx x (by simp)
      refine ih _ (Nat.max_le.2 ⟨hm, hxle⟩) (fun y hy => hx y (List.mem_cons_of_mem _ hy)) ?_
      rcases h with h | h
      · rcases List.mem_cons.1 h with rfl | h
        · exact .inr (Nat.max_eq_right hm)
        · exact .inl h
      · exact .inr (h ▸ Nat.max_eq_left (h ▸ hxle))
  exact hbound ls 0 (Nat.zero_le _) hle (.inl hlast)

/-! ### The values a crew brings -/

/-- Lane `i` of the value list a function of the 32 lanes makes. -/
theorem crewVal_map_range (g : Nat → Option W) {i : Nat} (h : i < 32) : crewVal ((List.range 32).map g) i = g i := by
  simp [crewVal, List.getElem?_range h]

theorem crewVal_crewGather_of_mem {f : Fields} {ls : List LaneView} (h : OwnPositions ls) {l : LaneView} (hl : l ∈ ls) (hpos : l.pos < 32) :
    crewVal (crewGather f ls) l.pos = if laneActive f l = true ∧ l.helper = false then some (srcA ls l f) else none := by
  rw [crewGather, crewVal_map_range _ hpos, laneAt_of_mem h hl, Option.bind_some]
  simp only [contributes, Bool.and_eq_true, Bool.not_eq_true']
  exact if_congr And.comm rfl rfl

theorem crewVal_crewGather_empty {f : Fields} {ls : List LaneView} {i : Nat} (h : ∀ l ∈ ls, l.pos ≠ i) : crewVal (crewGather f ls) i = none := by
  rcases Nat.lt_or_ge i 32 with hi | hi
  · rw [crewGather, crewVal_map_range _ hi, laneAt_eq_none h, Option.bind_none]
  · have hlen : (crewGather f ls).length ≤ i := by simpa [crewGather] using hi
    rw [crewVal, List.getElem?_eq_none hlen, Option.join_none]

/-- The mask of `csegred` is the lowest lane's B up to the highest lane (R165, R171). -/
theorem segMask_eq {r : Row} {f : Fields} {ls : List LaneView} {first last : LaneView} (h : OwnPositions ls) (hfirst : first ∈ ls)
    (hlast : last ∈ ls) (hall : ∀ l ∈ ls, first.pos ≤ l.pos ∧ l.pos ≤ last.pos) :
    segMask r f ls = (srcB r ls first f).toNat % 2 ^ (last.pos + 1) := by
  have hmin : argMin (fun l : LaneView => l.pos) ls = some first :=
    argMin_eq_of_least hfirst (fun b hb => (hall b hb).1) (fun b hb hp => h.eq_of_pos hb hfirst hp)
  simp only [segMask, hmin, lastLane_eq_of_greatest hlast (fun l hl => (hall l hl).2)]

/-- The last lane of a segment: no start above the lane up to it, and a start or the end of the crew behind it. -/
theorem segEnd_spec (mask : Nat) {n i : Nat} (hi : i < 32) (hn : 31 ≤ n + i) :
    i ≤ segEnd mask n i ∧ segEnd mask n i < 32 ∧ (∀ k, i < k → k ≤ segEnd mask n i → mask.testBit k = false)
      ∧ (segEnd mask n i = 31 ∨ mask.testBit (segEnd mask n i + 1) = true) := by
  induction n generalizing i with
  | zero => exact ⟨Nat.le_refl i, hi, fun k h1 h2 => absurd h2 (Nat.not_le_of_lt h1), .inl (show i = 31 by omega)⟩
  | succ n ih =>
    rw [segEnd]
    split
    · next h =>
      refine ⟨Nat.le_refl i, hi, fun k h1 h2 => absurd h2 (Nat.not_le_of_lt h1), ?_⟩
      simp only [Bool.or_eq_true, decide_eq_true_eq] at h
      exact h.imp_left (fun h => by omega)
    · next h =>
      simp only [Bool.or_eq_true, decide_eq_true_eq, not_or, Bool.not_eq_true] at h
      obtain ⟨hi31, hnext⟩ := h
      obtain ⟨hle, hlt, hgap, hend⟩ := ih (i := i + 1) (by omega) (by omega)
      refine ⟨by omega, hlt, fun k h1 h2 => ?_, hend⟩
      rcases Nat.eq_or_lt_of_le (Nat.succ_le_of_lt h1) with rfl | h3
      · exact hnext
      · exact hgap k h3 h2

/-! ### One step of a fixed order -/

/-- What a lane receives in one step: the combined operands, or its own value. -/
def crewLane (m : Nat) (fm : W) (v : CrewVals) (pick : Nat → Option (Nat × Nat)) (i : Nat) : Option W × FFlags :=
  match pick i with
  | some (x, y) => crewOpE m fm (crewVal v x) (crewVal v y)
  | none => (crewVal v i, 0)

theorem crewVal_crewStep (m : Nat) (fm : W) (v : CrewVals) (pick : Nat → Option (Nat × Nat)) {i : Nat} (h : i < 32) :
    crewVal (crewStep m fm v pick).1 i = (crewLane m fm v pick i).1 := by
  have hstep : (crewStep m fm v pick).1 = (List.range 32).map (fun i => (crewLane m fm v pick i).1) := List.map_map ..
  rw [hstep, crewVal_map_range _ h]

/-- Flags joined one after the other are the flags of any of them. -/
theorem getLsbD_foldl_or {α : Type} (g : α → FFlags) (l : List α) (a : FFlags) (b : Nat) :
    (l.foldl (fun a p => a ||| g p) a).getLsbD b = true ↔ a.getLsbD b = true ∨ ∃ p ∈ l, (g p).getLsbD b = true := by
  induction l generalizing a with
  | nil => simp
  | cons p l ih => simp [ih, or_assoc]

theorem getLsbD_crewStep (m : Nat) (fm : W) (v : CrewVals) (pick : Nat → Option (Nat × Nat)) (b : Nat) :
    (crewStep m fm v pick).2.getLsbD b = true ↔ ∃ i < 32, (crewLane m fm v pick i).2.getLsbD b = true := by
  have hstep : (crewStep m fm v pick).2 = ((List.range 32).map (crewLane m fm v pick)).foldl (fun a p => a ||| p.2) 0 := rfl
  rw [hstep, getLsbD_foldl_or]
  simp

/-! ### The five steps -/

section Steps

variable {σ : Type} (step : Nat → σ → σ × FFlags) (x : σ)

/-- The state before the step of a distance: the steps of the lesser distances are done. -/
def crewStage (d : Nat) : σ := (crewDists.takeWhile (· < d)).foldl (fun y e => (step e y).1) x

/-- The steps of the five distances in turn, their flags joined. -/
def crewRun : σ × FFlags := crewDists.foldl (fun acc d => ((step d acc.1).1, acc.2 ||| (step d acc.1).2)) (x, 0)

theorem crewStage_double {d : Nat} (h : d ∈ crewDists) : crewStage step x (2 * d) = (step d (crewStage step x d)).1 := by
  simp only [crewDists, List.mem_cons, List.not_mem_nil, or_false] at h
  rcases h with rfl | rfl | rfl | rfl | rfl <;> rfl

theorem crewRun_fst : (crewRun step x).1 = crewStage step x 32 := rfl

theorem getLsbD_crewRun (b : Nat) :
    (crewRun step x).2.getLsbD b = true ↔ ∃ d ∈ crewDists, (step d (crewStage step x d)).2.getLsbD b = true := by
  have hrun : (crewRun step x).2 = crewDists.foldl (fun a d => a ||| (step d (crewStage step x d)).2) 0 := rfl
  rw [hrun, getLsbD_foldl_or]
  simp

/-- What holds at the start and is kept by every step holds at each distance and at the end. -/
theorem crewStage_invariant (P : Nat → σ → Prop) (h1 : P 1 x) (hstep : ∀ d ∈ crewDists, ∀ y, P d y → P (2 * d) (step d y).1) :
    (∀ d ∈ crewDists, P d (crewStage step x d)) ∧ P 32 (crewStage step x 32) := by
  have hnext : ∀ d ∈ crewDists, P d (crewStage step x d) → P (2 * d) (crewStage step x (2 * d)) := by
    intro d hd h
    rw [crewStage_double step x hd]
    exact hstep d hd _ h
  have h2 := hnext 1 (by decide) h1
  have h4 := hnext 2 (by decide) h2
  have h8 := hnext 4 (by decide) h4
  have h16 := hnext 8 (by decide) h8
  refine ⟨fun d hd => ?_, hnext 16 (by decide) h16⟩
  simp only [crewDists, List.mem_cons, List.not_mem_nil, or_false] at hd
  rcases hd with rfl | rfl | rfl | rfl | rfl
  · exact h1
  · exact h2
  · exact h4
  · exact h8
  · exact h16

end Steps

/-! ### Reductions and scans (R104, R105) -/

section Trees

variable (m : Nat) (fm : W) (v : CrewVals)

/-- Steps whose operands depend on the distance and the lane alone. -/
def crewTree (pick : Nat → Nat → Option (Nat × Nat)) (d : Nat) (y : CrewVals) : CrewVals × FFlags := crewStep m fm y (pick d)

/-- The operands of the butterfly (R104). -/
def butterfly (d i : Nat) : Option (Nat × Nat) := some (min i (i ^^^ d), max i (i ^^^ d))

/-- The operands of the scan (R105). -/
def behind (d i : Nat) : Option (Nat × Nat) := if d ≤ i then some (i - d, i) else none

theorem crewReduce_eq : crewReduce m fm v = crewRun (crewTree m fm butterfly) v := rfl

theorem crewScan_eq : crewScan m fm v = crewRun (crewTree m fm behind) v := rfl

/-- The value of a lane before the step of a distance. -/
def treeVal (pick : Nat → Nat → Option (Nat × Nat)) (d i : Nat) : Option W := crewVal (crewStage (crewTree m fm pick) v d) i

theorem treeVal_double (pick : Nat → Nat → Option (Nat × Nat)) {d i : Nat} (hd : d ∈ crewDists) (hi : i < 32) :
    treeVal m fm v pick (2 * d) i = (crewLane m fm (crewStage (crewTree m fm pick) v d) (pick d) i).1 := by
  rw [treeVal, crewStage_double _ _ hd, crewTree, crewVal_crewStep m fm _ _ hi]

theorem getLsbD_crewTree (pick : Nat → Nat → Option (Nat × Nat)) (b : Nat) : (crewRun (crewTree m fm pick) v).2.getLsbD b = true ↔
    ∃ d ∈ crewDists, ∃ i < 32, (crewLane m fm (crewStage (crewTree m fm pick) v d) (pick d) i).2.getLsbD b = true := by
  simp only [getLsbD_crewRun, crewTree, getLsbD_crewStep]

/-- A lane of a scan step keeps its value and raises no flag below the distance. -/
theorem crewLane_behind (y : CrewVals) (d i : Nat) :
    crewLane m fm y (behind d) i = if d ≤ i then crewOpE m fm (crewVal y (i - d)) (crewVal y i) else (crewVal y i, 0) := by
  by_cases h : d ≤ i <;> simp [crewLane, behind, h]

/-- The two lanes of a butterfly step lie in the two halves of one block of twice the distance. -/
theorem butterfly_blocks : ∀ d ∈ crewDists, ∀ i < 32,
    min i (i ^^^ d) / d = 2 * (i / (2 * d)) ∧ max i (i ^^^ d) / d = 2 * (i / (2 * d)) + 1 ∧ max i (i ^^^ d) < 32 := by
  decide +kernel

/-- The flags of a lane that may keep its value. -/
theorem getLsbD_guarded {p : Prop} [Decidable p] (o : Option W × FFlags) (y : Option W) (b : Nat) :
    (if p then o else (y, 0)).2.getLsbD b = true ↔ ∃ x, (p ∧ x = o.2) ∧ x.getLsbD b = true := by
  by_cases h : p <;> simp [h]

/-- Lanes of one block of the distance hold one value. -/
def BlocksAgree (d : Nat) (y : CrewVals) : Prop := ∀ i < 32, ∀ j < 32, i / d = j / d → crewVal y i = crewVal y j

theorem crewTree_butterfly_blocksAgree {d : Nat} (hd : d ∈ crewDists) {y : CrewVals} (h : BlocksAgree d y) :
    BlocksAgree (2 * d) (crewTree m fm butterfly d y).1 := by
  intro i hi j hj hij
  obtain ⟨hmini, hmaxi, hlti⟩ := butterfly_blocks d hd i hi
  obtain ⟨hminj, hmaxj, hltj⟩ := butterfly_blocks d hd j hj
  have hmin : crewVal y (min i (i ^^^ d)) = crewVal y (min j (j ^^^ d)) :=
    h _ (by omega) _ (by omega) (by rw [hmini, hminj, hij])
  have hmax : crewVal y (max i (i ^^^ d)) = crewVal y (max j (j ^^^ d)) := h _ hlti _ hltj (by rw [hmaxi, hmaxj, hij])
  rw [crewTree, crewVal_crewStep m fm y _ hi, crewVal_crewStep m fm y _ hj]
  simp only [crewLane, butterfly, hmin, hmax]

/-- Every lane of a reduction holds one result. -/
theorem crewReduce_uniform {i : Nat} (hi : i < 32) : crewVal (crewReduce m fm v).1 i = crewVal (crewReduce m fm v).1 0 := by
  rw [crewReduce_eq, crewRun_fst]
  refine (crewStage_invariant (crewTree m fm butterfly) v BlocksAgree (fun a _ b _ hab => ?_)
    (fun d hd y h => crewTree_butterfly_blocksAgree m fm hd h)).2 i hi 0 (by decide) (by omega)
  rw [Nat.div_one, Nat.div_one] at hab
  rw [hab]

end Trees

/-! ### Segmented scans (R106) -/

section Segments

variable (m : Nat) (fm : W) (mask : Nat) (v : CrewVals)

/-- Whether a segment starts at a lane; outside the crew one does. -/
def startAt (y : List Bool) (i : Nat) : Bool := (y[i]?).getD true

/-- The start flags of a mask. -/
def maskStarts : List Bool := (List.range 32).map (fun i => i == 0 || mask.testBit i)

/-- The operands of a step: none at a start. -/
def segBehind (y : List Bool) (d i : Nat) : Option (Nat × Nat) := if d ≤ i && !(startAt y i) then some (i - d, i) else none

/-- The start flags after a step. -/
def segStarts (d : Nat) (y : List Bool) : List Bool := (List.range 32).map (fun i => startAt y i || (decide (d ≤ i) && startAt y (i - d)))

/-- One step of the segmented scan, on values and start flags. -/
def segStep (d : Nat) (y : CrewVals × List Bool) : (CrewVals × List Bool) × FFlags :=
  let o := crewStep m fm y.1 (segBehind y.2 d)
  ((o.1, segStarts d y.2), o.2)

/-- The model's order of values, flags and start flags. -/
def segParts (r : (CrewVals × List Bool) × FFlags) : CrewVals × FFlags × List Bool := (r.1.1, r.2, r.1.2)

theorem crewSegScan_eq : crewSegScan m fm mask v =
    ((crewRun (segStep m fm) (v, maskStarts mask)).1.1, (crewRun (segStep m fm) (v, maskStarts mask)).2) := by
  simp only [crewSegScan]
  rw [show (v, (0 : FFlags), (List.range 32).map (fun i => i == 0 || mask.testBit i)) = segParts ((v, maskStarts mask), 0) from rfl,
    List.foldl_hom segParts (g₁ := fun acc d => ((segStep m fm d acc.1).1, acc.2 ||| (segStep m fm d acc.1).2)) (fun _ _ => rfl)]
  rfl

/-- The values and start flags before the step of a distance. -/
def segStage (d : Nat) : CrewVals × List Bool := crewStage (segStep m fm) (v, maskStarts mask) d

theorem startAt_map_range (g : Nat → Bool) {i : Nat} (h : i < 32) : startAt ((List.range 32).map g) i = g i := by
  simp [startAt, List.getElem?_range h]

theorem startAt_segStage_one {i : Nat} (h : i < 32) : startAt (segStage m fm mask v 1).2 i = (i == 0 || mask.testBit i) :=
  startAt_map_range (fun i => i == 0 || mask.testBit i) h

theorem startAt_segStage_double {d i : Nat} (hd : d ∈ crewDists) (hi : i < 32) : startAt (segStage m fm mask v (2 * d)).2 i =
    (startAt (segStage m fm mask v d).2 i || (decide (d ≤ i) && startAt (segStage m fm mask v d).2 (i - d))) := by
  rw [segStage, crewStage_double _ _ hd, segStep, segStarts, startAt_map_range _ hi]
  rfl

/-- A lane below the distance stands at a start. -/
theorem startAt_segStage_below {d : Nat} (hd : d ∈ crewDists) {i : Nat} (hi : i < 32) (h : startAt (segStage m fm mask v d).2 i = false) :
    d ≤ i := by
  refine (crewStage_invariant (segStep m fm) (v, maskStarts mask) (fun d y => ∀ i < 32, startAt y.2 i = false → d ≤ i) ?_ ?_).1 d hd i hi h
  · intro i hi h
    rw [maskStarts, startAt_map_range _ hi] at h
    simp only [Bool.or_eq_false_iff, beq_eq_false_iff_ne] at h
    omega
  · intro d _ y ih i hi h
    rw [segStep, segStarts, startAt_map_range _ hi] at h
    simp only [Bool.or_eq_false_iff, Bool.and_eq_false_iff, decide_eq_false_iff_not] at h
    obtain ⟨hat, hbehind⟩ := h
    have hle := ih i hi hat
    have hle2 := ih (i - d) (by omega) (hbehind.resolve_left (by omega))
    omega

/-- What a lane receives in a step: the operation behind it, or its own value at a start. -/
theorem crewLane_segBehind {d i : Nat} (hd : d ∈ crewDists) (hi : i < 32) :
    crewLane m fm (segStage m fm mask v d).1 (segBehind (segStage m fm mask v d).2 d) i =
      if startAt (segStage m fm mask v d).2 i = false then
        crewOpE m fm (crewVal (segStage m fm mask v d).1 (i - d)) (crewVal (segStage m fm mask v d).1 i)
      else (crewVal (segStage m fm mask v d).1 i, 0) := by
  cases h : startAt (segStage m fm mask v d).2 i with
  | true => simp [crewLane, segBehind, h]
  | false => simp [crewLane, segBehind, h, startAt_segStage_below m fm mask v hd hi h]

theorem crewVal_segStage_double {d i : Nat} (hd : d ∈ crewDists) (hi : i < 32) : crewVal (segStage m fm mask v (2 * d)).1 i =
    (crewLane m fm (segStage m fm mask v d).1 (segBehind (segStage m fm mask v d).2 d) i).1 := by
  rw [segStage, crewStage_double _ _ hd]
  exact crewVal_crewStep m fm _ _ hi

theorem getLsbD_crewSegScan (b : Nat) : (crewSegScan m fm mask v).2.getLsbD b = true ↔ ∃ d ∈ crewDists, ∃ i < 32,
    (crewLane m fm (segStage m fm mask v d).1 (segBehind (segStage m fm mask v d).2 d) i).2.getLsbD b = true := by
  rw [crewSegScan_eq, getLsbD_crewRun]
  simp only [segStep, getLsbD_crewStep]
  rfl

end Segments

/-! ### The statement -/

/-- Where no enable bit is set, a lane's float result completes. -/
theorem floatRes_of_no_enables {e : Env} (h : fmEnables e.fmode = 0) (lv out : LaneView) (fl : FFlags) :
    floatRes e lv out fl = .ok out (if lv.helper then 0 else fl) := by
  unfold floatRes
  cases lv.helper <;> simp [h]

/-- An instruction with flags completes where no enable bit is set. -/
theorem SetsF.completes {mk : Fields → Instr} {out : Row → Fields → Env → List LaneView → LaneView → LaneView × FFlags} (h : SetsF mk out) :
    Completes mk out := by
  intro r f s e ls hi hen
  rw [h r f s e ls hi]
  simp only [floatRes_of_no_enables hen]

theorem quadLane_eq (b p : Nat) : p / 4 * 4 + fieldOf b (2 * (p % 4) + 1) (2 * (p % 4)) = p - p % 4 + b / 4 ^ (p % 4) % 4 := by
  have hpow : (2 : Nat) ^ (2 * (p % 4)) = 4 ^ (p % 4) := by rw [Nat.pow_mul]
  have hwidth : 2 * (p % 4) + 1 - 2 * (p % 4) + 1 = 2 := by omega
  rw [fieldOf, hwidth, hpow]
  omega

/-- An instruction that runs one order over the crew gives each lane the value at its own position (R164). -/
theorem setsF_crew {mk : Fields → Instr} (run : Nat → W → CrewVals → CrewVals × FFlags)
    (hx : ∀ f s, exec (mk f) s = .next (runRow (mk f) (crewFn run) s)) :
    SetsF mk (fun _ f e ls lv => (setD lv f ((crewVal (run f.modx.toNat e.fmode (crewGather f ls)).1 lv.pos).getD 0),
      (run f.modx.toNat e.fmode (crewGather f ls)).2)) :=
  setsF_of (crewFn run) hx (fun _ _ _ _ _ => rfl)

/-- `csegred` gives each lane the value at the last lane of its segment (R165). -/
theorem setsF_csegred : SetsF .csegred (fun r f e ls lv =>
    (setD lv f ((crewVal (crewSegScan f.modx.toNat e.fmode (segMask r f ls) (crewGather f ls)).1 (segEnd (segMask r f ls) 32 lv.pos)).getD 0),
      (crewSegScan f.modx.toNat e.fmode (segMask r f ls) (crewGather f ls)).2)) :=
  setsF_of csegredFn (fun _ _ => rfl) (fun _ _ _ _ _ => rfl)

/-- Settles O10: each instruction is its meaning lane by lane; the orders of the combining steps are those of the model's folds. -/
theorem quadsAndCrews : Obligations.QuadsAndCrews := by
  have hcred := setsF_crew (mk := .cred) crewReduce (fun _ _ => rfl)
  have hcscan := setsF_crew (mk := .cscan) crewScan (fun _ _ => rfl)
  refine ⟨⟨?xmov, ?qswz, ?vote, ?cfirst, ?xsel, ?cperm⟩,
    ⟨⟨hcred, hcred.completes⟩, ⟨hcscan, hcscan.completes⟩, ⟨setsF_csegred, setsF_csegred.completes⟩,
    fun f ls hlt hown => ⟨fun l hl => crewVal_crewGather_of_mem hown hl (hlt l hl), fun i hi => crewVal_crewGather_empty hi⟩,
    fun r f ls first last hown hfirst hlast hall => segMask_eq hown hfirst hlast hall⟩,
    ?ops, ?empty, fun m fm a b => rfl, fun m fm v => ⟨?reduce, fun i hi => crewReduce_uniform m fm v hi, ?scan, fun mask => ?segments⟩,
    fun mask i hi => segEnd_spec mask hi (by omega)⟩
  case xmov => exact sets_of (fun _ => xmovFn) (fun _ _ => rfl) (fun _ _ _ _ _ => rfl)
  case qswz =>
    refine sets_of (fun _ => qswzFn) (fun _ _ => rfl) (fun _ f _ ls lv => ?_)
    simp only [qswzFn, quadLane_eq]
    rfl
  case vote => exact sets_of (fun _ => voteFn) (fun _ _ => rfl) (fun _ _ _ _ _ => rfl)
  case cfirst => exact sets_of (fun _ => cfirstFn) (fun _ _ => rfl) (fun _ _ _ _ _ => rfl)
  case xsel => exact sets_of (fun _ => xselFn) (fun _ _ => rfl) (fun _ _ _ _ _ => rfl)
  case cperm => exact sets_of (fun _ => cpermFn) (fun _ _ => rfl) (fun _ _ _ _ _ => rfl)
  case ops =>
    refine fun fm a b => ⟨rfl, rfl, rfl, rfl, rfl, rfl, rfl, rfl, fun p hp => ?_⟩
    simp only [List.mem_cons, List.not_mem_nil, or_false] at hp
    rcases hp with rfl | rfl | rfl <;> rfl
  case empty =>
    intro m fm x
    cases x <;> exact ⟨rfl, rfl⟩
  case reduce =>
    refine ⟨treeVal m fm v butterfly, fun i _ => rfl, fun d hd i hi => treeVal_double m fm v butterfly hd hi, fun i _ => rfl, fun b => ?_⟩
    rw [crewReduce_eq, getLsbD_crewTree]
    simp only [exists_eq_left]
    rfl
  case scan =>
    refine ⟨treeVal m fm v behind, fun i _ => rfl, fun d hd i hi => ?_, fun i _ => rfl, fun b => ?_⟩
    · dsimp only
      rw [treeVal_double m fm v behind hd hi, crewLane_behind]
      split <;> rfl
    · rw [crewScan_eq, getLsbD_crewTree]
      refine exists_congr fun d => and_congr_right fun _ => exists_congr fun i => and_congr_right fun _ => ?_
      rw [crewLane_behind]
      exact getLsbD_guarded ..
  case segments =>
    refine ⟨fun d i => crewVal (segStage m fm mask v d).1 i, fun d i => startAt (segStage m fm mask v d).2 i, fun i _ => rfl,
      fun i hi => startAt_segStage_one m fm mask v hi, fun d hd i hi => ⟨?_, startAt_segStage_double m fm mask v hd hi⟩, fun i _ => ?_, fun b => ?_⟩
    · dsimp only
      rw [crewVal_segStage_double m fm mask v hd hi, crewLane_segBehind m fm mask v hd hi]
      by_cases h : startAt (segStage m fm mask v d).2 i = false
      · rw [if_pos h, if_neg (by simp [h])]
      · rw [if_neg h, if_pos (by simpa using h)]
    · rw [crewSegScan_eq]; rfl
    · rw [getLsbD_crewSegScan]
      refine exists_congr fun d => and_congr_right fun hd => exists_congr fun i => and_congr_right fun hi => ?_
      rw [crewLane_segBehind m fm mask v hd hi]
      exact getLsbD_guarded ..

end Sys2Proof.Machine
end

section
/-! Scalar contexts and retirement (R241, R251, R258): what the memory actions leave alone, what a context resumes with, and what a group
that retires takes with it. -/

namespace Sys2Proof.Machine

/-! ### Groups, launches and time under the actions of memory -/

/-- The groups of every core, the launches, and the tick. -/
def State.roster (s : State) : (Nat → Nat → Option Group) × List (Nat × Inst) × Nat := (s.grp?, s.insts, s.tick)

theorem State.grp?_of_roster {s t : State} (h : t.roster = s.roster) (n g : Nat) : t.grp? n g = s.grp? n g :=
  congrFun (congrFun (congrArg Prod.fst h) n) g

theorem State.insts_of_roster {s t : State} (h : t.roster = s.roster) : t.insts = s.insts := congrArg (fun r => r.2.1) h

theorem State.tick_of_roster {s t : State} (h : t.roster = s.roster) : t.tick = s.tick := congrArg (fun r => r.2.2) h

/-- An update of a core that keeps its groups keeps the roster. -/
theorem State.roster_modCore (s : State) (n : Nat) (f : ACore → ACore) (h : (f (s.core n)).groups = (s.core n).groups) :
    (s.modCore n f).roster = s.roster := by
  refine Prod.ext (funext fun m => funext fun g => ?_) rfl
  show mapGet? ((s.modCore n f).core m).groups g = mapGet? (s.core m).groups g
  rw [State.core_modCore]
  split
  · next hm => rw [hm, h]
  · rfl

theorem foldl_roster {α : Type} (f : State → α → State) (hf : ∀ s a, (f s a).roster = s.roster) (l : List α) (s : State) :
    (l.foldl f s).roster = s.roster := by
  induction l generalizing s with
  | nil => rfl
  | cons a r ih => exact (ih _).trans (hf s a)

@[simp] theorem State.roster_modCol (s : State) (c : Nat) (f : Column → Column) : (s.modCol c f).roster = s.roster := rfl

@[simp] theorem State.roster_setL1 (s : State) (c u : Nat) (m : List (Nat × L1Sector)) : (s.setL1 c u m).roster = s.roster := by
  unfold State.setL1
  split
  · exact s.roster_modCore _ _ rfl
  · rfl

@[simp] theorem State.roster_setSlice (s : State) (c sec : Nat) (x : SliceSector) : (s.setSlice c sec x).roster = s.roster := rfl

@[simp] theorem State.roster_dropSlice (s : State) (c sec : Nat) : (s.dropSlice c sec).roster = s.roster := rfl

@[simp] theorem State.roster_homePoison (s : State) (sec : Nat) (bad : Bool) : (s.homePoison sec bad).roster = s.roster := by
  unfold State.homePoison; split <;> rfl

@[simp] theorem State.roster_homeTouch (s : State) (sec : Nat) (write : Bool) : (s.homeTouch sec write).roster = s.roster := by
  unfold State.homeTouch; split <;> rfl

@[simp] theorem State.roster_revoke (s : State) (c sec : Nat) : (s.revoke c sec).roster = s.roster := by
  unfold State.revoke
  split
  · split <;> simp
  · rfl

@[simp] theorem State.roster_invalidateCopy (s : State) (c sec : Nat) : (s.invalidateCopy c sec).roster = s.roster := by
  unfold State.invalidateCopy
  split
  · split <;> simp
  · rfl

@[simp] theorem State.roster_homeWrite (s : State) (sec : Nat) (d : BitVec 256) (mask : BitVec 32) (except : Option Nat) :
    (s.homeWrite sec d mask except).roster = s.roster := by
  have hdir : (s.directory sec except).roster = s.roster := foldl_roster _ (fun t c => by split <;> simp) _ s
  have hbytes : ((List.range 32).foldl (fun (t : State) (i : Nat) => if mask.getLsbD i then t.setHomeByte (32 * sec + i) (sectorByte d i) else t)
      ((s.directory sec except).homeTouch sec true)).roster = s.roster :=
    (foldl_roster _ (fun t i => by split <;> rfl) _ _).trans (by rw [State.roster_homeTouch, hdir])
  unfold State.homeWrite State.rawHomeWrite
  dsimp only
  split
  · exact hbytes
  · exact hbytes

@[simp] theorem State.roster_writeBack (s : State) (c sec : Nat) : (s.writeBack c sec).roster = s.roster := by
  unfold State.writeBack State.writeBackOf
  split
  · split <;> simp
  · rfl

theorem State.roster_flushLines (s : State) (c : Nat) (lines : List Nat) : (s.flushLines c lines).roster = s.roster :=
  foldl_roster _ (fun t _ => foldl_roster _ (fun u _ => u.roster_writeBack c _) _ t) _ s

theorem State.roster_flushAll (s : State) (c : Nat) : (s.flushAll c).roster = s.roster :=
  foldl_roster _ (fun t k => foldl_roster _ (fun u sec => u.roster_writeBack k sec) _ t) _ s

theorem State.roster_translateNote (s : State) (u : TlbUnit) (asid root va : Nat) : (s.translateNote u asid root va).roster = s.roster := by
  unfold State.translateNote
  split
  · unfold State.keepTlb State.tlbAdd
    rw [State.roster_modCol]
    split
    · exact s.roster_modCore _ _ rfl
    · exact s.roster_modCore _ _ rfl
    · rfl
    · rfl
  · rfl

/-- A fetch leaves translations in caches, and nothing else. -/
theorem State.roster_fetchNote (s : State) (x : Xlate) (addr : D64) (bytes : Nat) : (s.fetchNote x addr bytes).roster = s.roster := by
  unfold State.fetchNote
  split
  · rfl
  · rw [State.roster_translateNote, State.roster_translateNote]

theorem State.isSome_grp?_modGrp (s : State) (n g m h : Nat) (f : Group → Group) : ((s.modGrp n g f).grp? m h).isSome = (s.grp? m h).isSome := by
  rw [State.grp?_modGrp]
  split
  · next hc => rw [Option.isSome_map, hc.1, hc.2]
  · rfl

theorem State.clearFlush_groups (s : State) (who : Agent) :
    (∀ n g, ((s.clearFlush who).grp? n g).isSome = (s.grp? n g).isSome) ∧ (s.clearFlush who).insts = s.insts := by
  cases who with
  | grp m h => exact ⟨fun n g => s.isSome_grp?_modGrp m h n g _, s.modGrp_insts m h _⟩
  | col c => exact ⟨fun _ _ => rfl, rfl⟩

/-- A release removes and adds no group, and changes no launch. -/
theorem State.releaseAct_groups (s : State) (u : MemUnit) (scope : Nat) :
    (∀ n g, ((s.releaseAct u scope).grp? n g).isSome = (s.grp? n g).isSome) ∧ (s.releaseAct u scope).insts = s.insts := by
  have hkeep : ∀ {t : State}, t.roster = s.roster → (∀ n g, (t.grp? n g).isSome = (s.grp? n g).isSome) ∧ t.insts = s.insts :=
    fun h => ⟨fun n g => by rw [State.grp?_of_roster h], State.insts_of_roster h⟩
  unfold State.releaseAct
  dsimp only
  split
  · exact hkeep rfl
  · split
    · split
      · exact hkeep (foldl_roster (fun (t : State) (k : Nat) => t.publish k (fun _ => true)) (fun _ _ => rfl) _ s)
      · exact hkeep rfl
    · have hflush : (if (s.flushSet u.who).2 then s.flushAll u.col else s.flushLines u.col (s.flushSet u.who).1).roster = s.roster := by
        split
        · exact s.roster_flushAll _
        · exact s.roster_flushLines _ _
      obtain ⟨hgrp, hinsts⟩ := hkeep hflush
      obtain ⟨hgrp2, hinsts2⟩ := State.clearFlush_groups (if (s.flushSet u.who).2 then s.flushAll u.col else s.flushLines u.col (s.flushSet u.who).1) u.who
      exact ⟨fun n g => (hgrp2 n g).trans (hgrp n g), hinsts2.trans hinsts⟩

/-! ### A scalar context resumes (R258, R241) -/

theorem State.holding_of_insts {s t : State} (h : t.insts = s.insts) (x : Group) : t.holding x = s.holding x := by
  simp only [State.holding, State.recOf, State.instOf, State.inst?, h]

/-- A context stands in its slot again. -/
def State.backInSlot (s : State) (n slot g : Nat) (d : Deal) : State :=
  { ((s.setDeal n slot (some d)).modGrp n g (fun y => { y with scalar := .running })) with cur := .deal n slot }

/-- The context goes on at its instruction. -/
theorem State.resumeScalar_none (s : State) (n slot g : Nat) (x : Group) (d : Deal) (hg : s.grp? n g = some x) :
    let t := s.resumeScalar n slot g d none
    t.deal? n slot = some d ∧ t.grp? n g = some { x with scalar := .running } ∧ t.cur = .deal n slot ∧ t.mem = s.mem := by
  have hdeal : (s.backInSlot n slot g d).deal? n slot = some d :=
    (State.deal?_modGrp ..).trans (State.deal?_setDeal_same ..)
  have hgrp : (s.backInSlot n slot g d).grp? n g = some { x with scalar := .running } :=
    (State.grp?_modGrp_same ..).trans (by rw [State.grp?_setDeal, hg, Option.map_some])
  have hmem : (s.backInSlot n slot g d).mem = s.mem := (State.modGrp_mem ..).trans (State.setDeal_mem ..)
  exact ⟨hdeal, hgrp, rfl, hmem⟩

/-- The context goes on behind its instruction, with the result of its wait. -/
theorem State.resumeScalar_some {s : State} {n slot g : Nat} {d : Deal} {w : W} {e : Env} {lv : LaneView} {rest : List LaneView} {r : Row}
    {f : Fields} (hctx : issueCtx (s.backInSlot n slot g d) = some (e, lv :: rest)) (hat : standsAt d.body d.pos = some (r, f)) :
    s.resumeScalar n slot g d (some w) = oneOut (s.backInSlot n slot g d) f e lv (setD lv f w) := by
  unfold State.backInSlot at hctx
  simp only [State.resumeScalar, hctx, hat]
  rfl

/-- The place in its body at which a stopped context goes on. -/
def RestartsAt (addr pc : D64) (body : List W) (pos : Nat) : Prop :=
  (pc = addr ∧ pos = 0) ∨ (pc ≠ addr ∧ addr.toNat < pc.toNat ∧ pc.toNat - addr.toNat = 8 + 4 * pos ∧ isBoundary (body.length + 1) body pos = true)

/-- The deal of a context that restarts. -/
def restartDeal (g : Nat) (x : Group) (addr pc hd : D64) (body : List W) (pos : Nat) : Deal :=
  { grp := g, addr := addr, hdr := hd, body := body, pos := pos, tricks := [[threadLane 0 0]], trick := 0, todo := [],
    fmode := x.fmode, fstat := x.fstat, acc := 0, isReturn := decide (pc ≠ addr), pend := [], done := false, held := false }

theorem State.restartScalar_ok {s : State} {n slot g : Nat} {x : Group} {addr pc hd : D64} {body : List W} {pos : Nat}
    (hf : s.fetchBlock (coreColumn n) (s.fetchXlate n x) false addr = .ok hd body) (hv : hdrVhigh hd < s.holding x) (hk : hdrKind hd = 2)
    (hpos : RestartsAt addr pc body pos) :
    s.restartScalar n slot g x addr pc =
      (((s.fetchNote (s.fetchXlate n x) addr (8 + 4 * body.length)).modGrp n g
        (fun y => { y with scalar := .running, q := if pc = addr then [] else y.q })).setDeal n slot
          (some (restartDeal g x addr pc hd body pos))).noteDealt n g := by
  have hheld := State.holding_of_insts (State.insts_of_roster (s.roster_fetchNote (s.fetchXlate n x) addr (8 + 4 * body.length))) x
  unfold State.restartScalar
  simp only [hf]
  rw [if_neg (by rw [hheld]; omega)]
  rcases hpos with ⟨rfl, rfl⟩ | ⟨hne, hlt, hoff, hb⟩
  · simp [hk, restartDeal]
  · have hq : (pc.toNat - addr.toNat - 8) / 4 = pos := by omega
    have h8 : 8 ≤ pc.toNat - addr.toNat := by omega
    have h4 : (pc.toNat - addr.toNat) % 4 = 0 := by omega
    simp [hk, restartDeal, hq, h8, h4, hne, hlt, hb]

/-- A stopped context is dealt again at the instruction of its record. -/
theorem State.restartScalar_deals {s : State} {n slot g : Nat} {x : Group} {addr pc hd : D64} {body : List W} {pos : Nat} (hg : s.grp? n g = some x)
    (hf : s.fetchBlock (coreColumn n) (s.fetchXlate n x) false addr = .ok hd body) (hv : hdrVhigh hd < s.holding x) (hk : hdrKind hd = 2)
    (hpos : RestartsAt addr pc body pos) :
    let t := s.restartScalar n slot g x addr pc
    t.deal? n slot = some (restartDeal g x addr pc hd body pos)
      ∧ ∃ y, t.grp? n g = some y ∧ y.scalar = .running ∧ y.q = (if pc = addr then [] else x.q) ∧ y.lastDeal = some s.tick := by
  have hroster := s.roster_fetchNote (s.fetchXlate n x) addr (8 + 4 * body.length)
  have hgrp := (State.grp?_of_roster hroster n g).trans hg
  have htick := State.tick_of_roster hroster
  dsimp only
  rw [State.restartScalar_ok hf hv hk hpos, State.noteDealt]
  simp [hgrp, htick]

/-- A context whose block cannot be fetched stops again. -/
theorem State.restartScalar_fails {s : State} {n slot g : Nat} {x : Group} {addr pc va : D64} {cause code : Nat} (hg : s.grp? n g = some x)
    (hf : s.fetchBlock (coreColumn n) (s.fetchXlate n x) false addr = .fail cause code va) :
    ∃ y, (s.restartScalar n slot g x addr pc).grp? n g = some y ∧ y.scalar = .stopped ⟨cause, code, addr, va, 64, 0, 0⟩ addr := by
  unfold State.restartScalar
  simp only [hf, State.postRec, State.grp?_modCol, State.grp?_modGrp_same, hg, Option.map_some]
  exact ⟨_, rfl, rfl⟩

theorem State.scalarResume_of_ready {s : State} {n slot g : Nat} {x : Group} (hs : s.freeSlot n = some slot) (hr : (s.core n).scalarReady = some (g, x))
    {d : Deal} {r : Option W} (hx : x.scalar = .ready d r) : s.scalarResume n = s.resumeScalar n slot g d r := by
  simp only [State.scalarResume, hs, hr, hx]

theorem State.scalarResume_of_restart {s : State} {n slot g : Nat} {x : Group} (hs : s.freeSlot n = some slot)
    (hr : (s.core n).scalarReady = some (g, x)) {addr pc : D64} (hx : x.scalar = .restart addr pc) :
    s.scalarResume n = s.restartScalar n slot g x addr pc := by
  simp only [State.scalarResume, hs, hr, hx]

theorem State.scalarResume_idle {s : State} {n : Nat} (h : s.freeSlot n = none ∨ (s.core n).scalarReady = none) : s.scalarResume n = s := by
  unfold State.scalarResume
  rcases h with h | h
  · rw [h]
  · rw [h]; cases s.freeSlot n <;> rfl

/-! ### A group retires (R186, R213, R251) -/

/-- A core's deck, its matrix engine and which groups it holds. -/
def State.seats (s : State) (n : Nat) : List Hand × Matrix × (Nat → Bool) :=
  ((s.core n).deck, (s.core n).matrix, fun g => (s.grp? n g).isSome)

theorem State.deck_of_seats {s t : State} {n : Nat} (h : t.seats n = s.seats n) : (t.core n).deck = (s.core n).deck := congrArg Prod.fst h

theorem State.matrix_of_seats {s t : State} {n : Nat} (h : t.seats n = s.seats n) : (t.core n).matrix = (s.core n).matrix :=
  congrArg (fun v => v.2.1) h

theorem State.isSome_grp?_of_seats {s t : State} {n : Nat} (h : t.seats n = s.seats n) (g : Nat) : (t.grp? n g).isSome = (s.grp? n g).isSome :=
  congrFun (congrArg (fun v => v.2.2) h) g

theorem State.seats_of_cores {s t : State} (h : t.cores = s.cores) (n : Nat) : t.seats n = s.seats n := by
  simp only [State.seats, State.grp?, State.core, h]

theorem State.seats_modInst (s : State) (i n : Nat) (f : Inst → Inst) : (s.modInst i f).seats n = s.seats n :=
  State.seats_of_cores (s.modInst_cores i f) n

theorem mapGet?_map_snd {β : Type} (f : β → β) (m : List (Nat × β)) (k : Nat) : mapGet? (m.map (fun e => (e.1, f e.2))) k = (mapGet? m k).map f := by
  induction m with
  | nil => rfl
  | cons e r ih =>
    simp only [List.map_cons, mapGet?, ih]
    split <;> rfl

/-- Where a map changes one part of every listed value, what is read from another part stays, listed or not. -/
theorem mapGet_map_snd {β γ : Type} (f : β → β) (p : β → γ) (h : ∀ x, p (f x) = p x) (m : List (Nat × β)) (k : Nat) (d : β) :
    p (mapGet (m.map (fun e => (e.1, f e.2))) k d) = p (mapGet m k d) := by
  rw [mapGet, mapGet, mapGet?_map_snd]
  cases mapGet? m k with
  | none => rfl
  | some x => exact h x

theorem State.seats_dropOrphans (s : State) (inst gang n : Nat) : (s.dropOrphans inst gang).seats n = s.seats n := by
  unfold State.dropOrphans
  split
  · rfl
  · next i _ =>
    split
    · exact mapGet_map_snd (fun y : ACore => { y with orphans := y.orphans.filter (fun o => !(o.1 == inst && o.2.1 / i.lrec.gang == gang)) })
        (fun y : ACore => (y.deck, y.matrix, fun g => (mapGet? y.groups g).isSome)) (fun _ => rfl) s.cores n ACore.reset
    · rfl

theorem State.dropOrphans_insts (s : State) (inst gang : Nat) : (s.dropOrphans inst gang).insts = s.insts := by
  unfold State.dropOrphans
  split
  · rfl
  · split <;> rfl

theorem State.seats_barrierTest (s : State) (inst : Nat) (grid : Bool) (gang n : Nat) : (s.barrierTest inst grid gang).seats n = s.seats n := by
  unfold State.barrierTest
  split
  · rfl
  · dsimp only
    split
    · rfl
    · exact s.seats_modInst ..

theorem State.seats_barrierRetire (s : State) (inst gflat n : Nat) : (s.barrierRetire inst gflat).seats n = s.seats n := by
  unfold State.barrierRetire
  split
  · rfl
  · rw [State.seats_barrierTest, State.seats_barrierTest]

theorem State.seats_modGrp (s : State) (n g m : Nat) (f : Group → Group) : (s.modGrp n g f).seats m = s.seats m := by
  have hcore : ((s.modGrp n g f).core m).deck = (s.core m).deck ∧ ((s.modGrp n g f).core m).matrix = (s.core m).matrix := by
    unfold State.modGrp
    split
    · rw [State.setGrp, State.core_modCore]
      split
      · next hm => exact hm ▸ ⟨rfl, rfl⟩
      · exact ⟨rfl, rfl⟩
    · exact ⟨rfl, rfl⟩
  obtain ⟨hdeck, hmatrix⟩ := hcore
  simp only [State.seats, hdeck, hmatrix, State.isSome_grp?_modGrp]

theorem State.seats_fillActive (s : State) (n m : Nat) : (s.fillActive n).seats m = s.seats m := by
  unfold State.fillActive
  split
  · rfl
  · split
    · exact s.seats_modGrp ..
    · rfl

/-! ### The groups a launch counts as retired -/

/-- The groups a launch counts as retired; none of a launch that is not there. -/
def State.retiredOf (s : State) (i : Nat) : Option (List Nat) := (s.inst? i).map (·.retired)

theorem State.retiredOf_of_insts {s t : State} (h : t.insts = s.insts) (i : Nat) : t.retiredOf i = s.retiredOf i := by
  simp only [State.retiredOf, State.inst?, h]

theorem Inst.setBar_retired (i : Inst) (grid : Bool) (gang : Nat) (b : Barrier) : (i.setBar grid gang b).retired = i.retired := by
  cases grid <;> rfl

theorem State.retiredOf_barrierTest (s : State) (inst : Nat) (grid : Bool) (gang i : Nat) :
    (s.barrierTest inst grid gang).retiredOf i = s.retiredOf i := by
  unfold State.barrierTest
  split
  · rfl
  · dsimp only
    split
    · rfl
    · rw [State.retiredOf, State.inst?_modInst]
      split
      · next h =>
        rw [State.retiredOf, h, Option.map_map]
        exact congrArg (fun f => Option.map f _) (funext fun j => j.setBar_retired ..)
      · rfl

theorem State.retiredOf_barrierRetire (s : State) (inst gflat i : Nat) : (s.barrierRetire inst gflat).retiredOf i = s.retiredOf i := by
  unfold State.barrierRetire
  split
  · rfl
  · rw [State.retiredOf_barrierTest, State.retiredOf_barrierTest]

theorem State.fillActive_insts (s : State) (n : Nat) : (s.fillActive n).insts = s.insts := by
  unfold State.fillActive
  split
  · rfl
  · split
    · exact s.modGrp_insts ..
    · rfl

theorem mem_insNat {x y : Nat} {l : List Nat} : y ∈ insNat x l ↔ y = x ∨ y ∈ l := by
  induction l with
  | nil => simp [insNat]
  | cons z r ih =>
    unfold insNat
    split
    · simp
    · split
      · next h => simp [h]
      · simp only [List.mem_cons, ih]
        exact or_left_comm

theorem State.roster_leaveMatrix (s : State) (n g : Nat) : (s.leaveMatrix n g).roster = s.roster := s.roster_modCore n _ rfl

/-- A group leaves its core: its hands, the matrix engine and its place. -/
def State.depart (s : State) (n g : Nat) (x : Group) : State :=
  (((s.releaseAct (engUnit n g) (s.recOf x).scope).leaveMatrix n g).detachRecs n g).modCore n (fun y => { y with
    groups := mapErase y.groups g, deck := y.deck.filter (fun h => h.grp != g),
    orphans := y.orphans ++ [(x.inst, x.gflat, x.scratch)] })

/-- A retirement is a departure that the launch and its barriers count; a pending group takes the free place. -/
theorem State.retireNow_eq (s : State) (n g : Nat) (x : Group) : s.retireNow n g x =
    ((((((s.depart n g x).modInst x.inst (fun i => { i with retired := insNat x.gflat i.retired })).heatMoment).dropOrphans x.inst
      (x.gflat / (s.recOf x).gang)).barrierRetire x.inst x.gflat).fillActive n) := rfl

theorem State.seats_retireNow (s : State) (n g : Nat) (x : Group) (m : Nat) : (s.retireNow n g x).seats m = (s.depart n g x).seats m := by
  rw [State.retireNow_eq, State.seats_fillActive, State.seats_barrierRetire, State.seats_dropOrphans]
  exact State.seats_modInst ..

theorem State.depart_insts (s : State) (n g : Nat) (x : Group) : (s.depart n g x).insts = s.insts := (s.releaseAct_groups _ _).2

theorem State.retiredOf_modInst_retire (s : State) (i gflat : Nat) :
    (s.modInst i (fun y => { y with retired := insNat gflat y.retired })).retiredOf i = (s.retiredOf i).map (insNat gflat) := by
  rw [State.retiredOf, State.inst?_modInst, if_pos rfl, State.retiredOf, Option.map_map, Option.map_map]
  rfl

theorem State.retiredOf_retireNow (s : State) (n g : Nat) (x : Group) :
    (s.retireNow n g x).retiredOf x.inst = (s.retiredOf x.inst).map (insNat x.gflat) := by
  rw [State.retireNow_eq, State.retiredOf_of_insts (State.fillActive_insts ..), State.retiredOf_barrierRetire,
    State.retiredOf_of_insts (State.dropOrphans_insts ..)]
  exact (State.retiredOf_modInst_retire ..).trans (congrArg _ (State.retiredOf_of_insts (s.depart_insts n g x) _))

theorem State.grp?_depart (s : State) (n g : Nat) (x : Group) (h : Nat) :
    ((s.depart n g x).grp? n h).isSome = if h = g then false else (s.grp? n h).isSome := by
  obtain ⟨hgrp, -⟩ := s.releaseAct_groups (engUnit n g) (s.recOf x).scope
  have hleft : (((s.releaseAct (engUnit n g) (s.recOf x).scope).leaveMatrix n g).detachRecs n g).grp? n h
      = (s.releaseAct (engUnit n g) (s.recOf x).scope).grp? n h :=
    State.grp?_of_roster (State.roster_leaveMatrix ..) n h
  rw [State.depart, State.grp?, State.core_modCore_same, mapGet?_mapErase]
  split
  · rfl
  · rw [← hgrp n h, ← hleft]; rfl

theorem State.depart_deck (s : State) (n g : Nat) (x : Group) : ∀ h ∈ ((s.depart n g x).core n).deck, h.grp ≠ g := by
  intro h hh
  rw [State.depart, State.core_modCore_same] at hh
  simpa using (List.mem_filter.1 hh).2

theorem State.depart_owner (s : State) (n g : Nat) (x : Group) : ((s.depart n g x).core n).matrix.owner ≠ some g := by
  have howner : ((s.depart n g x).core n).matrix.owner = (((s.releaseAct (engUnit n g) (s.recOf x).scope).leaveMatrix n g).core n).matrix.owner := by
    rw [State.depart, State.core_modCore_same]; rfl
  rw [howner, State.leaveMatrix, State.core_modCore_same]
  dsimp only
  split
  · simp
  · next h => exact h

/-- What a group that retires takes with it, and what stays. -/
theorem State.retireNow_spec (s : State) (n g : Nat) (x : Group) :
    let t := s.retireNow n g x
    t.grp? n g = none ∧ (∀ h ∈ (t.core n).deck, h.grp ≠ g) ∧ (t.core n).matrix.owner ≠ some g
      ∧ (∀ g', g' ≠ g → (t.grp? n g').isSome = (s.grp? n g').isSome)
      ∧ (∀ i, s.inst? x.inst = some i → ∃ j, t.inst? x.inst = some j ∧ x.gflat ∈ j.retired ∧ ∀ k ∈ i.retired, k ∈ j.retired) := by
  have hseats := s.seats_retireNow n g x n
  have hgrp := State.isSome_grp?_of_seats hseats
  refine ⟨?_, ?_, ?_, fun h hne => ?_, fun i hi => ?_⟩
  · rw [← Option.not_isSome_iff_eq_none, hgrp, State.grp?_depart, if_pos rfl]
    exact Bool.false_ne_true
  · rw [State.deck_of_seats hseats]; exact s.depart_deck n g x
  · rw [State.matrix_of_seats hseats]; exact s.depart_owner n g x
  · rw [hgrp, State.grp?_depart, if_neg hne]
  · have hret := s.retiredOf_retireNow n g x
    rw [State.retiredOf, State.retiredOf, hi, Option.map_some, Option.map_some, Option.map_eq_some_iff] at hret
    obtain ⟨j, hj, hjret⟩ := hret
    refine ⟨j, hj, ?_, fun k hk => ?_⟩
    · rw [hjret]; exact mem_insNat.2 (.inl rfl)
    · rw [hjret]; exact mem_insNat.2 (.inr hk)

/-- No deal in either slot is the group's. -/
theorem State.deals_iff (s : State) (n g : Nat) : (∀ slot d, s.deal? n slot = some d → d.grp ≠ g) ↔
    (s.core n).deal0.all (fun d => d.grp != g) = true ∧ (s.core n).deal1.all (fun d => d.grp != g) = true := by
  simp only [Option.all_eq_true, bne_iff_ne]
  constructor
  · exact fun h => ⟨h 0, h 1⟩
  · rintro ⟨h0, h1⟩ slot d hd
    cases slot with
    | zero => exact h0 d hd
    | succ k => exact h1 d hd

theorem State.mayRetire_eq (s : State) (n g : Nat) (x : Group) : s.mayRetire n g x =
    ((!x.stopped || x.disposed) && x.live.isEmpty && x.shoe.isEmpty && !x.saving && (s.core n).deal0.all (fun d => d.grp != g)
      && (s.core n).deal1.all (fun d => d.grp != g) && decide (x.scalar = .idle) && ((s.core n).cmdsOf g).isEmpty) := by
  have hidle : decide (x.scalar = .idle) = (match x.scalar with | .idle => true | _ => false) := by cases x.scalar <;> simp
  rw [hidle]
  rfl

/-- When a group may retire. -/
theorem State.mayRetire_iff (s : State) (n g : Nat) (x : Group) : s.mayRetire n g x = true ↔
    (x.stopped = false ∨ x.disposed = true) ∧ x.live = [] ∧ x.shoe = [] ∧ x.saving = false ∧ (∀ slot d, s.deal? n slot = some d → d.grp ≠ g)
      ∧ x.scalar = .idle ∧ (s.core n).cmdsOf g = [] := by
  rw [State.deals_iff, State.mayRetire_eq]
  simp only [Bool.and_eq_true, Bool.or_eq_true, Bool.not_eq_true', List.isEmpty_iff, decide_eq_true_eq, and_assoc]

theorem State.groupRetire_eq {s : State} {n g : Nat} {x : Group} (hg : s.grp? n g = some x) :
    s.groupRetire n g = if s.mayRetire n g x && !((s.recOf x).scope = 6 && s.postedPending (.grp n g)) then s.retireNow n g x else s := by
  rw [State.groupRetire, hg]

/-- Settles O52: a ready context takes the slot as its state says; a group retires when nothing of it is left to run. -/
theorem scalarsAndRetirement : Obligations.ScalarsAndRetirement := by
  refine ⟨fun s n => ⟨fun h => ?idle, fun slot g x hs hr hg => ⟨fun d hx => ?ready, fun d w e lv rest r f hx => ?result,
    fun addr pc hd body hx hf hv hk pos hpos => ?restart, fun addr pc cause code va hx hf => ?fail⟩⟩,
    fun s n g => ⟨fun hg => ?gone, fun x hg => ⟨s.mayRetire_iff n g x, fun hm => ?stays, fun hm hscope hposted => ?posted, fun hm hposted => ?retires⟩⟩⟩
  case idle => exact congrArg Host.Outcome.next (State.scalarResume_idle h)
  case ready => exact ⟨_, congrArg Host.Outcome.next (State.scalarResume_of_ready hs hr hx), s.resumeScalar_none n slot g x d hg⟩
  case result =>
    exact fun hctx hat => congrArg Host.Outcome.next ((State.scalarResume_of_ready hs hr hx).trans (State.resumeScalar_some hctx hat))
  case restart => exact ⟨_, congrArg Host.Outcome.next (State.scalarResume_of_restart hs hr hx), State.restartScalar_deals hg hf hv hk hpos⟩
  case fail => exact ⟨_, congrArg Host.Outcome.next (State.scalarResume_of_restart hs hr hx), State.restartScalar_fails hg hf⟩
  case gone => exact congrArg Host.Outcome.next (by rw [State.groupRetire, hg])
  case stays => exact congrArg Host.Outcome.next (by simp [State.groupRetire_eq hg, hm])
  case posted => exact congrArg Host.Outcome.next (by simp [State.groupRetire_eq hg, hscope, hposted])
  case retires =>
    refine ⟨_, congrArg Host.Outcome.next ((State.groupRetire_eq hg).trans (if_pos ?_)), s.retireNow_spec n g x⟩
    by_cases h6 : (s.recOf x).scope = 6
    · simp [hm, hposted h6]
    · simp [hm, h6]

end Sys2Proof.Machine
end

section
/-! Rounding to an integer (R95): what `rintShift` makes of a magnitude that may have a tail below its last unit. -/

namespace Sys2Proof.Machine

/-! ### Signs -/

/-- The sign of a datum as a factor. -/
def signR (neg : Bool) : ℝ := if neg then -1 else 1

@[simp] theorem abs_signR (neg : Bool) : |signR neg| = 1 := by cases neg <;> simp [signR]

theorem signR_mul_self (neg : Bool) : signR neg * signR neg = 1 := by cases neg <;> simp [signR]

theorem signR_xor (x y : Bool) : signR (x != y) = signR x * signR y := by cases x <;> cases y <;> simp [signR]

theorem signR_not (x : Bool) : signR (!x) = -signR x := by cases x <;> simp [signR]

theorem cast_signedOf (neg : Bool) (m : Nat) : ((signedOf neg m : Int) : ℝ) = signR neg * m := by
  cases neg <;> simp [signedOf, signR]

theorem signedOf_eq_zero {neg : Bool} {m : Nat} : signedOf neg m = 0 ↔ m = 0 := by cases neg <;> simp [signedOf]

theorem signR_mul_neg_iff {neg : Bool} {x : ℝ} (h : 0 < x) : signR neg * x < 0 ↔ neg = true := by
  cases neg <;> simp [signR, h, h.le]

/-! ### Rounding to an integer -/

/-- A rounding is less than one away. -/
theorem IsRint.dist_lt {mode : Nat} (hm : mode < 4) {v : ℝ} {n : Int} (h : IsRint mode v n) : |v - n| < 1 := by
  obtain ⟨h0, h1, h2, h3⟩ := h
  rw [abs_lt]
  interval_cases mode
  · have := abs_le.1 (h0 rfl).1
    constructor <;> linarith
  · obtain ⟨hle, hlt, hsign⟩ := h1 rfl
    rcases abs_cases v with ⟨hv, _⟩ | ⟨hv, _⟩ <;> rcases abs_cases (n : ℝ) with ⟨hn, _⟩ | ⟨hn, _⟩ <;> rw [hv, hn] at hle hlt
    · constructor <;> linarith
    · constructor <;> nlinarith
    · constructor <;> nlinarith
    · constructor <;> linarith
  · constructor <;> linarith [h2 rfl]
  · constructor <;> linarith [h3 rfl]

/-- What a magnitude at least an integer is rounded to is at least that integer. -/
theorem IsRint.le_abs {mode : Nat} (hm : mode < 4) {v : ℝ} {n k : Int} (h : IsRint mode v n) (hk : (k : ℝ) ≤ |v|) : k ≤ |n| := by
  have hd := h.dist_lt hm
  have hn : |v| ≤ |v - n| + |(n : ℝ)| := by simpa using abs_add_le (v - n) (n : ℝ)
  have : (k : ℝ) - 1 < ((|n| : Int) : ℝ) := by push_cast; linarith
  have : k - 1 < |n| := by exact_mod_cast this
  omega

theorem IsRint.abs_le {mode : Nat} (hm : mode < 4) {v : ℝ} {n k : Int} (h : IsRint mode v n) (hk : |v| ≤ k) : |n| ≤ k := by
  have hd := h.dist_lt hm
  have hn : |(n : ℝ)| ≤ |v - n| + |v| := by simpa [abs_sub_comm] using abs_add_le ((n : ℝ) - v) v
  have : ((|n| : Int) : ℝ) < k + 1 := by push_cast; linarith
  have : |n| < k + 1 := by exact_mod_cast this
  omega

/-- An integer is rounded to itself. -/
theorem IsRint.eq_of_int {mode : Nat} (hm : mode < 4) {n k : Int} (h : IsRint mode k n) : n = k := by
  have hd : |((k - n : Int) : ℝ)| < 1 := by simpa using h.dist_lt hm
  rw [← Int.cast_abs] at hd
  have : |k - n| < 1 := by exact_mod_cast hd
  rw [Int.abs_lt_one_iff] at this
  omega

/-- How a fraction of a unit compares with one half, in the code of `roundUp`. -/
def HalfCode (cmp : Nat) (ρ : ℝ) : Prop := (cmp = 0 ∧ ρ < 1 / 2) ∨ (cmp = 1 ∧ ρ = 1 / 2) ∨ (cmp = 2 ∧ 1 / 2 < ρ)

theorem roundUp_nearest (neg odd inexact : Bool) (cmp : Nat) : roundUp 0 neg odd inexact cmp = (cmp = 2 || (cmp = 1 && odd)) := rfl
theorem roundUp_zero (neg odd inexact : Bool) (cmp : Nat) : roundUp 1 neg odd inexact cmp = false := rfl
theorem roundUp_up (neg odd inexact : Bool) (cmp : Nat) : roundUp 2 neg odd inexact cmp = (!neg && inexact) := rfl
theorem roundUp_down (neg odd inexact : Bool) (cmp : Nat) : roundUp 3 neg odd inexact cmp = (neg && inexact) := rfl

/-- The next integer where `roundUp` says so, else the integer below: a magnitude N + ρ rounded. -/
def roundTo (mode : Nat) (neg inexact : Bool) (cmp N : Nat) : Nat := if roundUp mode neg (N % 2 == 1) inexact cmp then N + 1 else N

section
variable {N : Nat} {ρ : ℝ} {cmp : Nat} {inexact : Bool} (neg : Bool)

theorem isRint_nearest (hcmp : HalfCode cmp ρ) (h0 : 0 ≤ ρ) (h1 : ρ < 1) :
    IsRint 0 (signR neg * (N + ρ)) (signedOf neg (roundTo 0 neg inexact cmp N)) := by
  refine ⟨fun _ => ?_, by simp, by simp, by simp⟩
  have habs : ∀ k : Nat, |signR neg * (N + ρ) - signR neg * k| = |(N : ℝ) + ρ - k| := fun k => by rw [← mul_sub, abs_mul, abs_signR, one_mul]
  have hpar : ∀ k : Nat, signedOf neg k % 2 = 0 ↔ k % 2 = 0 := fun k => by cases neg <;> simp only [signedOf] <;> simp <;> omega
  rw [cast_signedOf, habs, hpar, roundTo, roundUp_nearest]
  rcases hcmp with ⟨rfl, hlt⟩ | ⟨rfl, rfl⟩ | ⟨rfl, hgt⟩
  · simp only [Nat.reduceEqDiff, decide_false, Bool.false_and, Bool.or_self, Bool.false_eq_true, if_false, add_sub_cancel_left, abs_of_nonneg h0]
    exact ⟨hlt.le, fun h => absurd h hlt.ne⟩
  · rcases Nat.mod_two_eq_zero_or_one N with hN | hN
    · simp [hN]
    · simp only [hN]
      refine ⟨?_, fun _ => by simp; omega⟩
      have : (N : ℝ) + 1 / 2 - ((N + 1 : Nat) : ℝ) = -(1 / 2) := by push_cast; ring
      norm_num [this]
  · simp only [decide_true, Bool.true_or, if_true]
    have : (N : ℝ) + ρ - ((N + 1 : Nat) : ℝ) = -(1 - ρ) := by push_cast; ring
    rw [this, abs_neg, abs_of_pos (by linarith)]
    exact ⟨by linarith, fun h => by linarith⟩

theorem isRint_toward_zero (h0 : 0 ≤ ρ) (h1 : ρ < 1) : IsRint 1 (signR neg * (N + ρ)) (signedOf neg (roundTo 1 neg inexact cmp N)) := by
  refine ⟨by simp, fun _ => ?_, by simp, by simp⟩
  have hN : (0 : ℝ) ≤ N := N.cast_nonneg
  rw [cast_signedOf, roundTo, roundUp_zero, if_neg Bool.false_ne_true, abs_mul, abs_mul, abs_signR, one_mul, one_mul, abs_of_nonneg hN,
    abs_of_nonneg (by linarith)]
  refine ⟨by linarith, by linarith, ?_⟩
  calc (0 : ℝ) ≤ (signR neg * signR neg) * ((N + ρ) * N) := by rw [signR_mul_self]; positivity
    _ = signR neg * (N + ρ) * (signR neg * N) := by ring

theorem isRint_up (hi : inexact = true ↔ ρ ≠ 0) (h0 : 0 ≤ ρ) (h1 : ρ < 1) :
    IsRint 2 (signR neg * (N + ρ)) (signedOf neg (roundTo 2 neg inexact cmp N)) := by
  refine ⟨by simp, by simp, fun _ => ?_, by simp⟩
  rw [cast_signedOf, roundTo, roundUp_up]
  cases inexact with
  | false => simp_all
  | true =>
    have hpos : 0 < ρ := lt_of_le_of_ne h0 (Ne.symm (hi.1 rfl))
    cases neg <;> simp [signR] <;> constructor <;> linarith

theorem isRint_down (hi : inexact = true ↔ ρ ≠ 0) (h0 : 0 ≤ ρ) (h1 : ρ < 1) :
    IsRint 3 (signR neg * (N + ρ)) (signedOf neg (roundTo 3 neg inexact cmp N)) := by
  refine ⟨by simp, by simp, by simp, fun _ => ?_⟩
  rw [cast_signedOf, roundTo, roundUp_down]
  cases inexact with
  | false => simp_all
  | true =>
    have hpos : 0 < ρ := lt_of_le_of_ne h0 (Ne.symm (hi.1 rfl))
    cases neg <;> simp [signR] <;> constructor <;> linarith

/-- `roundUp` rounds by every mode. -/
theorem isRint_roundTo {mode : Nat} (hm : mode < 4) (hcmp : HalfCode cmp ρ) (hi : inexact = true ↔ ρ ≠ 0) (h0 : 0 ≤ ρ) (h1 : ρ < 1) :
    IsRint mode (signR neg * (N + ρ)) (signedOf neg (roundTo mode neg inexact cmp N)) := by
  interval_cases mode
  · exact isRint_nearest neg hcmp h0 h1
  · exact isRint_toward_zero neg h0 h1
  · exact isRint_up neg hi h0 h1
  · exact isRint_down neg hi h0 h1

/-- It changes the value exactly where there was a fraction. -/
theorem roundTo_inexact {mode : Nat} (hm : mode < 4) (hcmp : HalfCode cmp ρ) (hi : inexact = true ↔ ρ ≠ 0) (h0 : 0 ≤ ρ) (h1 : ρ < 1) :
    inexact = true ↔ signR neg * (N + ρ) ≠ (signedOf neg (roundTo mode neg inexact cmp N) : Int) := by
  have hround := isRint_roundTo (N := N) neg hm hcmp hi h0 h1
  rw [hi, not_iff_not]
  constructor
  · rintro rfl
    rw [add_zero, ← cast_signedOf] at hround ⊢
    exact_mod_cast (hround.eq_of_int hm).symm
  · intro h
    have hk : (N : ℝ) + ρ = roundTo mode neg inexact cmp N := by
      rw [cast_signedOf] at h
      exact mul_left_cancel₀ (by cases neg <;> simp [signR]) h
    rw [roundTo] at hk
    split at hk
    · push_cast at hk; linarith
    · linarith
end

/-- A real from m up to below m + 1; `more` says whether it is above m. -/
structure InUnit (m : Nat) (more : Bool) (x : ℝ) : Prop where
  le : (m : ℝ) ≤ x
  lt : x < m + 1
  more_iff : more = true ↔ x ≠ m

theorem inUnit_self (m : Nat) : InUnit m false m := ⟨le_rfl, by linarith, by simp⟩

theorem InUnit.eq {m : Nat} {x : ℝ} (h : InUnit m false x) : x = m := by simpa using h.more_iff

theorem InUnit.lt_two_pow {m : Nat} {more : Bool} {x : ℝ} (h : InUnit m more x) : x < 2 ^ (Nat.log2 m + 1) := by
  have : ((m + 1 : Nat) : ℝ) ≤ ((2 ^ (Nat.log2 m + 1) : Nat) : ℝ) := by exact_mod_cast Nat.lt_log2_self
  push_cast at this
  linarith [h.lt]

theorem InUnit.two_pow_le {m : Nat} {more : Bool} {x : ℝ} (hm : 0 < m) (h : InUnit m more x) : (2 : ℝ) ^ Nat.log2 m ≤ x := by
  have : ((2 ^ Nat.log2 m : Nat) : ℝ) ≤ m := by exact_mod_cast Nat.log2_self_le hm.ne'
  push_cast at this
  linarith [h.le]

/-- The value x is N + ρ units, and `cmp` and `inexact` say what ρ is. -/
structure Splits (x : ℝ) (N : Nat) (ρ : ℝ) (cmp : Nat) (inexact : Bool) : Prop where
  value : x = N + ρ
  nonneg : 0 ≤ ρ
  lt_one : ρ < 1
  half : HalfCode cmp ρ
  inexact_iff : inexact = true ↔ ρ ≠ 0

section
variable {mode : Nat} {neg : Bool} {m : Nat} {s : Int} {more : Bool} {x : ℝ}

theorem rintShift_left (hx : InUnit m more x) (hs : s ≤ 0) (hmore : more = false) :
    rintShift mode neg m s more = (roundTo mode neg more 0 (m * 2 ^ s.natAbs), more) ∧ Splits (x / 2 ^ s) (m * 2 ^ s.natAbs) 0 0 more := by
  subst hmore
  have hpow : (2 : ℝ) ^ s = (2 ^ s.natAbs)⁻¹ := by
    rw [← zpow_natCast, ← zpow_neg]; congr 1; omega
  refine ⟨by rw [rintShift, if_pos hs]; rfl, ?_, le_rfl, one_pos, .inl ⟨rfl, by norm_num⟩, by simp⟩
  rw [hx.eq, hpow, div_inv_eq_mul]
  push_cast
  ring

theorem rintShift_far (hm : 0 < m) (hx : InUnit m more x) (hs : (Nat.log2 m : Int) + 2 < s) :
    rintShift mode neg m s more = (roundTo mode neg true 0 0, true) ∧ Splits (x / 2 ^ s) 0 (x / 2 ^ s) 0 true := by
  have hpos : 0 < x := lt_of_lt_of_le (by positivity) (hx.two_pow_le hm)
  have hquarter : x / 2 ^ s < 1 / 2 := by
    rw [div_lt_iff₀ (by positivity)]
    calc x < 2 ^ (Nat.log2 m + 1) := hx.lt_two_pow
      _ = 2 ^ ((Nat.log2 m : Int) + 1) := by rw [← zpow_natCast]; push_cast; rfl
      _ ≤ 2 ^ (s - 1) := zpow_le_zpow_right₀ (by norm_num) (by omega)
      _ = 1 / 2 * 2 ^ s := by rw [zpow_sub_one₀ (by norm_num)]; ring
  refine ⟨?_, by simp, by positivity, by linarith, .inl ⟨rfl, hquarter⟩, by simp [hpos.ne', zpow_ne_zero]⟩
  rw [rintShift, if_neg (by omega), if_pos hs]
  simp [roundTo]

theorem rintShift_right (hx : InUnit m more x) (h0 : 0 < s) (hs : ¬ (Nat.log2 m : Int) + 2 < s) :
    ∃ cmp N ρ inexact, rintShift mode neg m s more = (roundTo mode neg inexact cmp N, inexact) ∧ Splits (x / 2 ^ s) N ρ cmp inexact := by
  obtain ⟨k, rfl⟩ : ∃ k : Nat, s = (k + 1 : Nat) := ⟨s.natAbs - 1, by omega⟩
  obtain ⟨r, hr⟩ : ∃ r, m % 2 ^ (k + 1) = r := ⟨_, rfl⟩
  have hrlt : r < 2 ^ (k + 1) := hr ▸ Nat.mod_lt _ (by positivity)
  have hm : (m : ℝ) = 2 ^ (k + 1) * (m / 2 ^ (k + 1) : Nat) + r := by
    rw [← hr]; exact_mod_cast (Nat.div_add_mod m (2 ^ (k + 1))).symm
  have hrle : (r : ℝ) + 1 ≤ 2 ^ (k + 1) := by exact_mod_cast hrlt
  refine ⟨if r < 2 ^ k then 0 else if 2 ^ k < r || more then 2 else 1, m / 2 ^ (k + 1), (r + (x - m)) / 2 ^ (k + 1), r != 0 || more, ?_, ?_⟩
  · rw [rintShift, if_neg (by omega), if_neg hs]
    simp only [Int.natAbs_natCast, Nat.add_sub_cancel, hr, roundTo]
  · have hp : (0 : ℝ) < 2 ^ k := by positivity
    have hδ0 := sub_nonneg.2 hx.le
    have hδ1 : x - m < 1 := by linarith [hx.lt]
    have hr0 : (0 : ℝ) ≤ r := r.cast_nonneg
    rw [pow_succ] at hrle
    refine ⟨?_, by positivity, by rw [div_lt_one (by positivity), pow_succ]; linarith, ?_, ?_⟩
    · rw [zpow_natCast]
      field_simp
      linarith
    · have hhalf : (r + (x - m)) / 2 ^ (k + 1) = 1 / 2 * ((r + (x - m)) / 2 ^ k) := by rw [pow_succ]; field_simp
      rw [HalfCode, hhalf]
      rcases lt_trichotomy r (2 ^ k) with hlt | heq | hgt
      · have hlt1 : (r : ℝ) + 1 ≤ 2 ^ k := by exact_mod_cast hlt
        have : (r + (x - m)) / 2 ^ k < 1 := by rw [div_lt_one hp]; linarith
        exact .inl ⟨if_pos hlt, by linarith⟩
      · have hone : (r + (x - m)) / 2 ^ k = 1 + (x - m) / 2 ^ k := by rw [heq]; push_cast; field_simp
        cases more with
        | false => exact .inr (.inl ⟨by simp [heq], by rw [hone, hx.eq]; simp⟩)
        | true =>
          have : 0 < x - m := lt_of_le_of_ne hδ0 (Ne.symm (sub_ne_zero.2 (hx.more_iff.1 rfl)))
          exact .inr (.inr ⟨by simp [heq], by rw [hone]; linarith [div_pos this hp]⟩)
      · have hgt1 : (2 : ℝ) ^ k < r := by exact_mod_cast hgt
        have : 1 < (r + (x - m)) / 2 ^ k := by rw [one_lt_div hp]; linarith
        exact .inr (.inr ⟨by simp [hgt, hgt.le], by linarith⟩)
    · rw [ne_eq, div_eq_zero_iff, or_iff_left (by positivity), Bool.or_eq_true, bne_iff_ne, hx.more_iff]
      constructor
      · rintro (h | h) hzero
        · exact h (by exact_mod_cast (by linarith : (r : ℝ) = 0))
        · exact h (by linarith)
      · intro h
        by_contra hcon
        push Not at hcon
        exact h (by rw [hcon.1, hcon.2]; simp)

/-- `rintShift` splits the value into units and a fraction, and rounds those. -/
theorem rintShift_splits (hm : 0 < m) (hx : InUnit m more x) (hs : more = true → 0 < s) :
    ∃ cmp N ρ inexact, rintShift mode neg m s more = (roundTo mode neg inexact cmp N, inexact) ∧ Splits (x / 2 ^ s) N ρ cmp inexact := by
  by_cases h0 : s ≤ 0
  · exact ⟨_, _, _, _, rintShift_left hx h0 (by rw [← Bool.not_eq_true]; intro h; exact absurd (hs h) (by omega))⟩
  · by_cases hfar : (Nat.log2 m : Int) + 2 < s
    · exact ⟨_, _, _, _, rintShift_far hm hx hfar⟩
    · exact rintShift_right hx (by omega) hfar

/-- `rintShift` rounds the value in units of 2^s once, and says whether that changed it. -/
theorem rintShift_spec (hmode : mode < 4) (hm : 0 < m) (hx : InUnit m more x) (hs : more = true → 0 < s) :
    IsRint mode (signR neg * (x / 2 ^ s)) (signedOf neg (rintShift mode neg m s more).1)
    ∧ ((rintShift mode neg m s more).2 = true ↔ signR neg * (x / 2 ^ s) ≠ (signedOf neg (rintShift mode neg m s more).1 : Int)) := by
  obtain ⟨cmp, N, ρ, inexact, heq, hsplit⟩ := rintShift_splits (mode := mode) (neg := neg) hm hx hs
  rw [heq, hsplit.value]
  exact ⟨isRint_roundTo neg hmode hsplit.half hsplit.inexact_iff hsplit.nonneg hsplit.lt_one,
    roundTo_inexact neg hmode hsplit.half hsplit.inexact_iff hsplit.nonneg hsplit.lt_one⟩
end

end Sys2Proof.Machine
end

section
/-! The formats (R86, R87): what their bits stand for, and which bits stand for a number. -/

namespace Sys2Proof.Machine

/-! ### Constants of the formats -/

theorem Fmt.widths {F : Fmt} : F ∈ Fmt.all → 1 ≤ F.fb ∧ F.fb ≤ 23 ∧ 2 ≤ F.eb ∧ F.emin < F.emax ∧ 2 ^ F.fb ≤ F.maxSig ∧ F.maxSig < 2 ^ (F.fb + 1) := by
  revert F; decide

theorem Fmt.maxBits_eq {F : Fmt} : F ∈ Fmt.all → F.maxBits = (F.emax - F.emin).natAbs * 2 ^ F.fb + F.maxSig := by revert F; decide

theorem Fmt.bits_lt {F : Fmt} : F ∈ Fmt.all → F.maxBits < 2 ^ F.signBit ∧ F.infBits < 2 ^ F.signBit ∧ F.canon < 2 ^ F.signBit := by revert F; decide

theorem Fmt.e4m3_widths {F : Fmt} : F ∈ Fmt.all → F.e4m3 = true → F.isFp8 = true ∧ 2 ^ F.fb = 8 ∧ 2 ^ F.eb - 1 = 15 := by revert F; decide

/-! ### Signs -/

theorem Fmt.withSign_lt {F : Fmt} {b : Nat} (neg : Bool) (h : b < 2 ^ F.signBit) : F.withSign neg b < 2 ^ (F.signBit + 1) := by
  rw [pow_succ, Fmt.withSign]; split <;> omega

theorem Fmt.withSign_testBit {F : Fmt} {b : Nat} (neg : Bool) (h : b < 2 ^ F.signBit) : (F.withSign neg b).testBit F.signBit = neg := by
  cases neg with
  | false => exact Nat.testBit_lt_two_pow h
  | true => rw [Fmt.withSign, if_pos rfl, Nat.add_comm, Nat.testBit_two_pow_add_eq, Nat.testBit_lt_two_pow h]; rfl

theorem Fmt.withSign_fields (F : Fmt) (neg : Bool) (b : Nat) :
    F.withSign neg b / 2 ^ F.fb % 2 ^ F.eb = b / 2 ^ F.fb % 2 ^ F.eb ∧ F.withSign neg b % 2 ^ F.fb = b % 2 ^ F.fb := by
  cases neg with
  | false => exact ⟨rfl, rfl⟩
  | true =>
    rw [Fmt.withSign, if_pos rfl, Fmt.signBit, pow_add, Nat.add_mul_div_right _ _ (by positivity)]
    simp

/-! ### What bits stand for -/

/-- What the fields of a number stand for. -/
def Fmt.datum (F : Fmt) (daz neg : Bool) (ex fr : Nat) : Datum :=
  if ex = 0 then (if fr = 0 || (daz && !F.isFp8) then .zero neg else .fin neg fr (F.emin - F.fb) false)
  else if F.e4m3 then (if ex = 15 && fr = 7 then .qnan else .fin neg (8 + fr) ((ex : Int) - F.bias - F.fb) false)
  else if ex = 2 ^ F.eb - 1 then (if fr = 0 then .inf neg else if F.isFp8 || 2 ^ (F.fb - 1) ≤ fr then .qnan else .snan)
  else .fin neg (2 ^ F.fb + fr) ((ex : Int) - F.bias - F.fb) false

theorem fdec_eq (F : Fmt) (x : Nat) (daz : Bool) : fdec F x daz = F.datum daz (x.testBit F.signBit) (x / 2 ^ F.fb % 2 ^ F.eb) (x % 2 ^ F.fb) := by
  have hsign : bitOf (x % 2 ^ (F.signBit + 1)) F.signBit = x.testBit F.signBit := by simp [bitOf, Nat.testBit_mod_two_pow]
  have hex : x % 2 ^ (F.signBit + 1) / 2 ^ F.fb % 2 ^ F.eb = x / 2 ^ F.fb % 2 ^ F.eb := by
    have : F.signBit + 1 = F.fb + (F.eb + 1) := by rw [Fmt.signBit]; omega
    rw [this, pow_add, Nat.mod_mul_right_div_self, pow_succ, Nat.mod_mul_right_mod]
  have hfr : x % 2 ^ (F.signBit + 1) % 2 ^ F.fb = x % 2 ^ F.fb :=
    Nat.mod_mod_of_dvd _ (pow_dvd_pow 2 (by rw [Fmt.signBit]; omega))
  rw [fdec, Fmt.datum, hsign, hex, hfr]

theorem fdec_withSign {F : Fmt} {ex fr : Nat} (neg daz : Bool) (hex : ex < 2 ^ F.eb) (hfr : fr < 2 ^ F.fb) :
    fdec F (F.withSign neg (ex * 2 ^ F.fb + fr)) daz = F.datum daz neg ex fr := by
  have hlt : ex * 2 ^ F.fb + fr < 2 ^ F.signBit := by
    rw [Fmt.signBit, pow_add]
    calc ex * 2 ^ F.fb + fr < (ex + 1) * 2 ^ F.fb := by rw [Nat.succ_mul]; omega
      _ ≤ 2 ^ F.eb * 2 ^ F.fb := Nat.mul_le_mul_right _ hex
  obtain ⟨hdiv, hmod⟩ := F.withSign_fields neg (ex * 2 ^ F.fb + fr)
  rw [fdec_eq, Fmt.withSign_testBit neg hlt, hdiv, hmod, Nat.mul_add_mod_of_lt hfr, Nat.mul_comm, Nat.mul_add_div (by positivity),
    Nat.div_eq_of_lt hfr, Nat.add_zero, Nat.mod_eq_of_lt hex]

section
variable {F : Fmt} (hF : F ∈ Fmt.all) {daz neg : Bool} {ex fr : Nat}

/-- The fields of a number that is not below the minimum normal, or are those of a subnormal number or zero. -/
def Fmt.Finite (F : Fmt) (ex fr : Nat) : Prop := ex < 2 ^ F.eb - 1 ∨ (F.e4m3 = true ∧ fr ≠ 7)

theorem Fmt.datum_subnormal : F.datum daz neg 0 fr = if fr = 0 || (daz && !F.isFp8) then .zero neg else .fin neg fr (F.emin - F.fb) false := rfl

include hF in
theorem Fmt.datum_normal (hex : ex ≠ 0) (h : F.Finite ex fr) : F.datum daz neg ex fr = .fin neg (2 ^ F.fb + fr) ((ex : Int) - F.bias - F.fb) false := by
  rw [Fmt.datum, if_neg hex]
  by_cases h4 : F.e4m3 = true
  · obtain ⟨-, h8, h15⟩ := Fmt.e4m3_widths hF h4
    rw [if_pos h4, h8, if_neg]
    rw [Fmt.Finite, h15] at h
    simp only [Bool.and_eq_true, decide_eq_true_eq]
    rcases h with h | h <;> omega
  · rw [if_neg h4, if_neg]
    rcases h with h | h
    · omega
    · exact absurd h.1 h4

theorem Fmt.datum_top (h4 : F.e4m3 = false) (h0 : 2 ^ F.eb - 1 ≠ 0) :
    F.datum daz neg (2 ^ F.eb - 1) fr = if fr = 0 then .inf neg else if F.isFp8 || 2 ^ (F.fb - 1) ≤ fr then .qnan else .snan := by
  rw [Fmt.datum, if_neg h0, h4, if_neg Bool.false_ne_true, if_pos rfl]

include hF in
theorem Fmt.datum_e4m3_nan (h4 : F.e4m3 = true) : F.datum daz neg (2 ^ F.eb - 1) 7 = .qnan := by
  obtain ⟨-, -, h15⟩ := Fmt.e4m3_widths hF h4
  rw [Fmt.datum, h15, if_neg (by decide), if_pos h4]
  rfl

include hF in
/-- Bits up to those of the largest finite value are those of a number. -/
theorem Fmt.finite_of_le (hfr : fr < 2 ^ F.fb) (h : ex * 2 ^ F.fb + fr ≤ F.maxBits) : ex < 2 ^ F.eb ∧ F.Finite ex fr := by
  rw [Fmt.Finite]
  simp only [Fmt.all, List.mem_cons, List.not_mem_nil, or_false] at hF
  rcases hF with rfl | rfl | rfl | rfl | rfl <;> simp [fmtF32, fmtF16, fmtBf16, fmtE4m3, fmtE5m2, Fmt.maxBits] at hfr h ⊢ <;> omega

theorem Datum.val_fin (neg : Bool) (m : Nat) (e : Int) (more : Bool) : ((Datum.fin neg m e more).val : ℝ) = signR neg * (m * 2 ^ e) := by
  cases neg <;> simp [Datum.val, signR]

include hF in
/-- What the bits of N units of the exponent E above the minimum stand for. -/
theorem fdec_units {E N : Nat} (hE : E = 0 ∨ 2 ^ F.fb ≤ N) (hN : N < 2 ^ (F.fb + 1)) (h0 : N ≠ 0) (hmax : E * 2 ^ F.fb + N ≤ F.maxBits) :
    fdec F (F.withSign neg (E * 2 ^ F.fb + N)) false = .fin neg N ((E : Int) + F.emin - F.fb) false := by
  rw [pow_succ'] at hN
  rcases lt_or_ge N (2 ^ F.fb) with hlt | hge
  · obtain rfl : E = 0 := by omega
    rw [fdec_withSign neg false (by positivity) hlt, Fmt.datum_subnormal]
    simp [h0]
  · have hsum : E * 2 ^ F.fb + N = (E + 1) * 2 ^ F.fb + (N - 2 ^ F.fb) := by rw [Nat.succ_mul]; omega
    rw [hsum] at hmax ⊢
    obtain ⟨hex, hfin⟩ := Fmt.finite_of_le hF (by omega) hmax
    rw [fdec_withSign neg false hex (by omega), Fmt.datum_normal hF (by omega) hfin, Nat.add_sub_cancel' hge]
    congr 1
    rw [Fmt.emin]; push_cast; ring

include hF in
/-- The same with the carry to the next exponent. -/
theorem fdec_units_carry {E N : Nat} (hE : E = 0 ∨ 2 ^ F.fb ≤ N) (hN : N ≤ 2 ^ (F.fb + 1)) (h0 : N ≠ 0) (hmax : E * 2 ^ F.fb + N ≤ F.maxBits) :
    ∃ m e, fdec F (F.withSign neg (E * 2 ^ F.fb + N)) false = .fin neg m e false
      ∧ (m : ℝ) * 2 ^ e = N * (2 : ℝ) ^ ((E : Int) + F.emin - F.fb) := by
  rcases hN.lt_or_eq with hlt | rfl
  · exact ⟨_, _, fdec_units hF hE hlt h0 hmax, rfl⟩
  · have hsum : E * 2 ^ F.fb + 2 ^ (F.fb + 1) = (E + 1) * 2 ^ F.fb + 2 ^ F.fb := by rw [pow_succ']; ring
    rw [hsum] at hmax ⊢
    refine ⟨_, _, fdec_units hF (.inr le_rfl) (by rw [pow_succ']; have := Nat.two_pow_pos F.fb; omega) (by positivity) hmax, ?_⟩
    push_cast
    rw [pow_succ, mul_assoc, ← zpow_one_add₀ (by norm_num)]
    congr 2
    ring
end

end Sys2Proof.Machine
end

section
/-! `fround` delivers the rounding of R95. -/

namespace Sys2Proof.Machine

theorem Fmt.maxFinite_eq {F : Fmt} (hF : F ∈ Fmt.all) : (F.maxFinite : ℝ) = F.maxSig * 2 ^ (F.emax - F.fb) := by
  obtain ⟨hfb, -, -, hexp, hlo, hhi⟩ := Fmt.widths hF
  have hbits := Fmt.maxBits_eq hF
  have h := fdec_units hF (neg := false) (E := (F.emax - F.emin).natAbs) (N := F.maxSig) (.inr hlo) hhi
    (by have := Nat.two_pow_pos F.fb; omega) hbits.ge
  rw [Fmt.withSign, if_neg Bool.false_ne_true, ← hbits] at h
  rw [Fmt.maxFinite, h, Datum.val_fin, signR, if_neg Bool.false_ne_true, one_mul]
  congr 2
  omega

/-- Where a rounded magnitude of N units goes: overflow, a flushed subnormal, or its bits (R95). -/
def Fmt.place (F : Fmt) (mode : Nat) (sat ftz neg : Bool) (l : Int) (r : Nat × Bool) : Nat × FFlags :=
  if F.emax < l ∨ (max l F.emin = F.emax ∧ F.maxSig < r.1) then (overflowBits F neg mode sat, flOF ||| flNX)
  else
    let bits := (max l F.emin - F.emin).natAbs * 2 ^ F.fb + r.1
    if ftz = true ∧ r.1 ≠ 0 ∧ bits < 2 ^ F.fb then (F.withSign neg 0, flUF ||| flNX)
    else (F.withSign neg bits, flIf r.2 flNX ||| flIf (r.2 && decide (l < F.emin)) flUF)

theorem flIf_or_underflow (p q : Bool) : flIf p flNX ||| flIf q flUF ||| flUF ||| flNX = flUF ||| flNX := by cases p <;> cases q <;> rfl

theorem fround_fin (F : Fmt) (neg : Bool) (m : Nat) (e : Int) (more : Bool) (mode : Nat) (sat ftz : Bool) :
    fround F (.fin neg m e more) mode sat ftz = F.place mode sat ftz neg (Nat.log2 m + e)
      (rintShift mode neg m (max (Nat.log2 m + e) F.emin - F.fb - e) more) := by
  have hex : (if (Nat.log2 m : Int) + e < F.emin then F.emin else Nat.log2 m + e) = max (Nat.log2 m + e) F.emin := by split <;> omega
  simp only [fround, Fmt.place, hex, flIf_or_underflow, Bool.and_eq_true, decide_eq_true_eq, bne_iff_ne, ite_or, and_assoc]

section
variable {F : Fmt} (hF : F ∈ Fmt.all) {mode : Nat} (hm : mode < 4) {sat ftz neg : Bool} {a : ℝ} {l : Int} {N : Nat}

/-- The magnitude a, of exponent l, is rounded to N units. -/
structure Fmt.Rounds (F : Fmt) (mode : Nat) (neg : Bool) (a : ℝ) (l : Int) (N : Nat) : Prop where
  le : (2 : ℝ) ^ l ≤ a
  lt : a < 2 ^ (l + 1)
  rint : IsRint mode (signR neg * (a / 2 ^ (max l F.emin - F.fb))) (signedOf neg N)

theorem abs_signedOf (neg : Bool) (N : Nat) : |signedOf neg N| = N := by cases neg <;> simp [signedOf]

theorem Fmt.Rounds.pos (h : F.Rounds mode neg a l N) : 0 < a := lt_of_lt_of_le (by positivity) h.le

theorem Fmt.Rounds.abs_scaled (h : F.Rounds mode neg a l N) :
    |signR neg * (a / 2 ^ (max l F.emin - F.fb))| = a / 2 ^ (max l F.emin - F.fb) := by
  rw [abs_mul, abs_signR, one_mul, abs_of_pos (div_pos h.pos (by positivity))]

include hm in
theorem Fmt.Rounds.units_le (h : F.Rounds mode neg a l N) : N ≤ 2 ^ (F.fb + 1) := by
  have hle : a / 2 ^ (max l F.emin - F.fb) ≤ ((2 ^ (F.fb + 1) : Nat) : Int) := by
    rw [div_le_iff₀ (by positivity)]
    push_cast
    rw [← zpow_natCast, ← zpow_add₀ (by norm_num)]
    exact h.lt.le.trans (zpow_le_zpow_right₀ (by norm_num) (by push_cast; omega))
  have := h.rint.abs_le hm (h.abs_scaled.le.trans hle)
  rw [abs_signedOf] at this
  exact_mod_cast this

include hm in
theorem Fmt.Rounds.le_units (h : F.Rounds mode neg a l N) (hl : F.emin ≤ l) : 2 ^ F.fb ≤ N := by
  have hle : (((2 ^ F.fb : Nat) : Int) : ℝ) ≤ a / 2 ^ (max l F.emin - F.fb) := by
    rw [le_div_iff₀ (by positivity), max_eq_left hl]
    push_cast
    rw [← zpow_natCast, ← zpow_add₀ (by norm_num), add_sub_cancel]
    exact h.le
  have := h.rint.le_abs hm (hle.trans h.abs_scaled.ge)
  rw [abs_signedOf] at this
  exact_mod_cast this

theorem mul_zpow_le {x y : Nat} {i j : Int} {k : Nat} (hx : x ≤ 2 ^ k) (hy : 2 ^ (k - 1) ≤ y) (h : i + k ≤ j + (k - 1 : Nat)) :
    (x : ℝ) * 2 ^ i ≤ y * 2 ^ j := by
  calc (x : ℝ) * 2 ^ i ≤ ((2 ^ k : Nat) : ℝ) * 2 ^ i := by gcongr
    _ = 2 ^ (i + k) := by rw [zpow_add₀ (by norm_num), zpow_natCast]; push_cast; ring
    _ ≤ 2 ^ (j + (k - 1 : Nat)) := zpow_le_zpow_right₀ (by norm_num) h
    _ = ((2 ^ (k - 1) : Nat) : ℝ) * 2 ^ j := by rw [zpow_add₀ (by norm_num), zpow_natCast]; push_cast; ring
    _ ≤ y * 2 ^ j := by gcongr

include hF hm in
/-- Overflow is what `place` takes for it. -/
theorem Fmt.Rounds.overflow_iff (h : F.Rounds mode neg a l N) :
    (F.emax < l ∨ (max l F.emin = F.emax ∧ F.maxSig < N)) ↔ (F.maxFinite : ℝ) < N * 2 ^ (max l F.emin - F.fb) := by
  obtain ⟨-, -, -, hexp, hlo, hhi⟩ := Fmt.widths hF
  rw [Fmt.maxFinite_eq hF]
  have hpos : ∀ i : Int, (0 : ℝ) < 2 ^ i := fun i => by positivity
  constructor
  · rintro (hl | ⟨hex, hsig⟩)
    · have hN := h.le_units hm (by omega)
      calc (F.maxSig : ℝ) * 2 ^ (F.emax - F.fb) < ((2 ^ (F.fb + 1) : Nat) : ℝ) * 2 ^ (F.emax - F.fb) :=
            mul_lt_mul_of_pos_right (by exact_mod_cast hhi) (hpos _)
        _ ≤ N * 2 ^ (max l F.emin - F.fb) := mul_zpow_le le_rfl (by simpa using hN) (by push_cast; omega)
    · rw [hex]
      exact mul_lt_mul_of_pos_right (by exact_mod_cast hsig) (hpos _)
  · intro hgt
    by_contra hcon
    push Not at hcon
    obtain ⟨hl, hsig⟩ := hcon
    refine absurd hgt (not_lt.2 ?_)
    rcases eq_or_ne (max l F.emin) F.emax with hex | hex
    · rw [hex]
      exact mul_le_mul_of_nonneg_right (by exact_mod_cast hsig hex) (hpos _).le
    · exact mul_zpow_le (h.units_le hm) (by simpa using hlo) (by push_cast; omega)

include hF in
/-- What overflow delivers (R95). -/
theorem overflowBits_spec : if F.e4m3 = true ∧ sat = false then overflowBits F neg mode sat = F.canon
    else overflowBits F neg mode sat = F.withSign neg (if F.isFp8 then (if sat then F.maxBits else F.infBits)
      else if mode = 0 ∨ (mode = 2 ∧ neg = false) ∨ (mode = 3 ∧ neg = true) then F.infBits else F.maxBits) := by
  by_cases h8 : F.isFp8 = true
  · cases sat <;> cases h4 : F.e4m3 <;> simp [overflowBits, h8, h4]
  · have h4 : F.e4m3 = false := by
      rw [← Bool.not_eq_true]
      exact fun h => h8 (Fmt.e4m3_widths hF h).1
    simp [overflowBits, h8, h4, or_assoc]

include hF hm in
/-- Bits that do not overflow are those of a number. -/
theorem Fmt.Rounds.bits_le (h : F.Rounds mode neg a l N) (hover : ¬ (F.emax < l ∨ (max l F.emin = F.emax ∧ F.maxSig < N))) :
    (max l F.emin - F.emin).natAbs * 2 ^ F.fb + N ≤ F.maxBits := by
  obtain ⟨-, -, -, hexp, hlo, -⟩ := Fmt.widths hF
  push Not at hover
  obtain ⟨hl, hsig⟩ := hover
  rw [Fmt.maxBits_eq hF]
  rcases eq_or_ne (max l F.emin) F.emax with hex | hex
  · rw [hex]
    exact Nat.add_le_add_left (hsig hex) _
  · have hN := h.units_le hm
    rw [pow_succ] at hN
    have hE : (max l F.emin - F.emin).natAbs + 1 ≤ (F.emax - F.emin).natAbs := by omega
    have := Nat.mul_le_mul_right (2 ^ F.fb) hE
    rw [Nat.succ_mul] at this
    omega

include hm in
/-- Bits below those of the minimum normal are those of a magnitude below it. -/
theorem Fmt.Rounds.subnormal_iff (h : F.Rounds mode neg a l N) :
    (max l F.emin - F.emin).natAbs * 2 ^ F.fb + N < 2 ^ F.fb ↔ (N : ℝ) * 2 ^ (max l F.emin - F.fb) < 2 ^ F.emin := by
  have hmin : (2 : ℝ) ^ F.emin = ((2 ^ F.fb : Nat) : ℝ) * 2 ^ (F.emin - F.fb) := by
    push_cast; rw [← zpow_natCast, ← zpow_add₀ (by norm_num), add_sub_cancel]
  rcases le_or_gt l F.emin with hl | hl
  · rw [max_eq_right hl, sub_self, hmin, mul_lt_mul_iff_left₀ (by positivity)]
    simp only [Int.natAbs_zero, Nat.zero_mul, Nat.zero_add, Nat.cast_lt]
  · have hN := h.le_units hm hl.le
    refine iff_of_false (by omega) (not_lt.2 ?_)
    rw [hmin]
    gcongr
    · norm_num
    · omega

theorem Fmt.Rounds.lt_min_iff (h : F.Rounds mode neg a l N) : a < 2 ^ F.emin ↔ l < F.emin := by
  constructor
  · intro ha
    exact (zpow_lt_zpow_iff_right₀ (by norm_num : (1 : ℝ) < 2)).1 (h.le.trans_lt ha)
  · intro hl
    exact h.lt.trans_le (zpow_le_zpow_right₀ (by norm_num) (by omega))

theorem flags_inexact (p q : Bool) : (flIf p flNX ||| flIf (p && q) flUF).getLsbD 0 = p
    ∧ (flIf p flNX ||| flIf (p && q) flUF).getLsbD 1 = (p && q) ∧ (flIf p flNX ||| flIf (p && q) flUF).toNat < 4 := by
  cases p <;> cases q <;> decide

include hF hm in
/-- A magnitude rounded to N units and placed is the rounding of R95. -/
theorem Fmt.Rounds.isRound (h : F.Rounds mode neg a l N) {inexact : Bool}
    (hi : inexact = true ↔ signR neg * (a / 2 ^ (max l F.emin - F.fb)) ≠ (signedOf neg N : Int)) :
    IsRound F mode sat ftz (signR neg * a) (F.place mode sat ftz neg l (N, inexact)) := by
  have hq : (0 : ℝ) < 2 ^ (max l F.emin - F.fb) := by positivity
  have habs : |signR neg * a| = a := by rw [abs_mul, abs_signR, one_mul, abs_of_pos h.pos]
  have hw : |((signedOf neg N : Int) : ℝ) * 2 ^ (max l F.emin - F.fb)| = N * 2 ^ (max l F.emin - F.fb) := by
    rw [cast_signedOf, abs_mul, abs_mul, abs_signR, one_mul, Nat.abs_cast, abs_of_pos hq]
  have hne : ((signedOf neg N : Int) : ℝ) * 2 ^ (max l F.emin - F.fb) ≠ signR neg * a ↔ inexact = true := by
    rw [hi, ← mul_div_assoc, ne_eq, ne_eq, div_eq_iff hq.ne', eq_comm]
  have hsign : neg = true ↔ signR neg * a < 0 := (signR_mul_neg_iff h.pos).symm
  refine ⟨l, signedOf neg N, by rw [habs]; exact h.le, by rw [habs]; exact h.lt, ?_⟩
  dsimp only
  rw [mul_div_assoc, hw, habs, ← h.overflow_iff hF hm, ← not_lt, ← h.overflow_iff hF hm, ← h.subnormal_iff hm, h.lt_min_iff, hne]
  refine ⟨h.rint, fun hover => ?_, fun hover => ?_⟩
  · rw [Fmt.place, if_pos hover]
    refine ⟨rfl, ?_⟩
    have hspec := overflowBits_spec hF (sat := sat) (neg := neg) (mode := mode)
    split at hspec
    · next hc => rw [if_pos hc]; exact hspec
    · next hc => rw [if_neg hc]; exact ⟨neg, hsign, hspec⟩
  · rw [Fmt.place, if_neg hover]
    have hbits := h.bits_le hF hm hover
    dsimp only
    rw [show (signedOf neg N ≠ 0 ↔ N ≠ 0) from not_congr signedOf_eq_zero, signedOf_eq_zero]
    refine ⟨fun hflush => ?_, fun hflush => ?_⟩
    · rw [if_pos hflush]
      exact ⟨rfl, neg, hsign, rfl⟩
    · rw [if_neg hflush]
      obtain ⟨hnx, huf, hlt⟩ := flags_inexact inexact (decide (l < F.emin))
      refine ⟨F.withSign_lt neg (hbits.trans_lt (Fmt.bits_lt hF).1), by rw [hnx], by rw [huf]; simp, hlt, fun h0 => ⟨neg, hsign, ?_⟩, fun h0 => ?_⟩
      · have hl : ¬ F.emin ≤ l := fun hl => by have := h.le_units hm hl; have := Nat.two_pow_pos F.fb; omega
        rw [h0, max_eq_right (by omega)]
        simp
      · obtain ⟨m, e, hdec, hval⟩ := fdec_units_carry hF (neg := neg) (E := (max l F.emin - F.emin).natAbs) (N := N)
          (by by_cases hl : F.emin ≤ l
              · exact .inr (h.le_units hm hl)
              · exact .inl (by omega)) (h.units_le hm) h0 hbits
        rw [hdec, Datum.val_fin, hval, cast_signedOf, mul_assoc]
        refine ⟨⟨rfl, rfl⟩, ?_⟩
        congr 3
        omega

/-- `fround` rounds once: a magnitude with a tail has more bits than the format. -/
theorem isRound_fround (hF : F ∈ Fmt.all) (hm : mode < 4) {m : Nat} (h0 : 0 < m) {e : Int} {more : Bool} {x : ℝ} (hx : InUnit m more x)
    (hp : more = true → 25 ≤ Nat.log2 m) :
    IsRound F mode sat ftz (signR neg * (x * 2 ^ e)) (fround F (.fin neg m e more) mode sat ftz) := by
  obtain ⟨-, hfb, -⟩ := Fmt.widths hF
  obtain ⟨s, hs⟩ : ∃ s : Int, max (Nat.log2 m + e) F.emin - F.fb - e = s := ⟨_, rfl⟩
  have hscale : x * 2 ^ e / 2 ^ (max (Nat.log2 m + e) F.emin - F.fb) = x / 2 ^ s := by
    rw [← hs, mul_div_assoc, ← zpow_sub₀ (by norm_num), div_eq_mul_inv, ← zpow_neg]
    congr 2
    ring
  obtain ⟨hrint, hinexact⟩ := rintShift_spec (neg := neg) hm h0 hx (s := s) (fun h => by have := hp h; omega)
  rw [fround_fin, hs]
  refine Fmt.Rounds.isRound hF hm ⟨?_, ?_, hscale.symm ▸ hrint⟩ (hscale.symm ▸ hinexact)
  · rw [zpow_add₀ (by norm_num), zpow_natCast]
    gcongr
    exact hx.two_pow_le h0
  · rw [show (Nat.log2 m : Int) + e + 1 = ((Nat.log2 m + 1 : Nat) : Int) + e by push_cast; ring, zpow_add₀ (by norm_num), zpow_natCast]
    gcongr
    exact hx.lt_two_pow
end

end Sys2Proof.Machine
end

section
/-! Data as numbers (R94, R96): the exact operations, and what `fres` and `deliver` make of their results. -/

namespace Sys2Proof.Machine

/-! ### Numbers -/

/-- A datum the model computes exactly: a zero, or a significand without a tail. -/
inductive Datum.Number : Datum → Prop
  | zero (neg : Bool) : Number (.zero neg)
  | fin (neg : Bool) {m : Nat} (e : Int) (h : 0 < m) : Number (.fin neg m e false)

theorem Datum.Number.isNum {d : Datum} (h : d.Number) : d.isNum := by cases h <;> exact ⟨rfl, rfl⟩

theorem Datum.val_signed (neg : Bool) (m : Nat) (e : Int) (more : Bool) : (Datum.fin neg m e more).val = (signedOf neg m : Int) * (2 : Rat) ^ e := by
  cases neg <;> simp [Datum.val, signedOf]

theorem Datum.val_fin_eq_zero {neg : Bool} {m : Nat} {e : Int} {more : Bool} : (Datum.fin neg m e more).val = 0 ↔ m = 0 := by
  rw [Datum.val_signed, mul_eq_zero, or_iff_left (by positivity), Int.cast_eq_zero, signedOf_eq_zero]

theorem Datum.Number.isZero_iff {d : Datum} (h : d.Number) : d.isZero = true ↔ d.val = 0 := by
  cases h with
  | zero neg => exact iff_of_true rfl rfl
  | fin neg e hm => rw [Datum.val_fin_eq_zero]; exact iff_of_false Bool.false_ne_true hm.ne'

theorem Datum.Number.neg_iff {d : Datum} (h : d.Number) (h0 : d.isZero = false) : d.neg = true ↔ d.val < 0 := by
  cases h with
  | zero neg => exact absurd h0 (by simp [Datum.isZero])
  | @fin neg m e hm =>
    have hpos : (0 : Rat) < m * 2 ^ e := by positivity
    cases neg <;> simp [Datum.neg, Datum.val, hpos, hpos.le]

/-- What bits stand for is a NaN, an infinity or such a number. -/
theorem fdec_number {F : Fmt} {x : Nat} {daz : Bool} (h : (fdec F x daz).isNum) : (fdec F x daz).Number := by
  obtain ⟨hnan, hinf⟩ := h
  rw [fdec_eq] at hnan hinf ⊢
  obtain ⟨ex, hex⟩ : ∃ ex, x / 2 ^ F.fb % 2 ^ F.eb = ex := ⟨_, rfl⟩
  obtain ⟨fr, hfr⟩ : ∃ fr, x % 2 ^ F.fb = fr := ⟨_, rfl⟩
  rw [hex, hfr] at hnan hinf ⊢
  unfold Fmt.datum at hnan hinf ⊢
  split
  · split
    · exact .zero _
    · next h0 => exact .fin _ _ (by simp at h0; omega)
  · split
    · split
      · simp_all [Datum.isNan]
      · exact .fin _ _ (by omega)
    · split
      · split <;> simp_all [Datum.isInf]
        split at hnan <;> simp_all [Datum.isNan]
      · exact .fin _ _ (by positivity)

theorem frd_number {F : Fmt} {fm : W} {x : Nat} (h : (frd F fm x).isNum) : (frd F fm x).Number := fdec_number h

/-! ### Exact operations -/

theorem ofSigned_spec (m e : Int) (z : Bool) : (ofSigned m e z).Number ∧ (ofSigned m e z).val = m * 2 ^ e
    ∧ ((ofSigned m e z).isZero = true → (ofSigned m e z).neg = z) := by
  rcases lt_trichotomy m 0 with h | rfl | h
  · rw [ofSigned, if_neg h.ne, decide_eq_true h]
    refine ⟨.fin _ _ (by omega), ?_, by simp [Datum.isZero]⟩
    rw [Datum.val_signed, signedOf, if_pos rfl, Int.ofNat_natAbs_of_nonpos h.le, neg_neg]
  · exact ⟨.zero z, by simp [ofSigned, Datum.val], fun _ => rfl⟩
  · rw [ofSigned, if_neg h.ne', decide_eq_false h.not_gt]
    refine ⟨.fin _ _ (by omega), ?_, by simp [Datum.isZero]⟩
    rw [Datum.val_signed, signedOf, if_neg Bool.false_ne_true, Int.natAbs_of_nonneg h.le]

theorem Datum.Number.dneg {d : Datum} (h : d.Number) : (dneg d).Number ∧ (dneg d).val = -d.val ∧ (dneg d).isZero = d.isZero := by
  cases h with
  | zero neg => exact ⟨.zero _, by simp [Machine.dneg, Datum.val], rfl⟩
  | fin neg e hm => exact ⟨.fin _ _ hm, by cases neg <;> simp [Machine.dneg, Datum.val], rfl⟩

section
variable {a b : Datum} (ha : a.Number) (hb : b.Number)

include ha hb in
theorem dmul_number : (dmul a b).Number ∧ (dmul a b).val = a.val * b.val ∧ (dmul a b).neg = (a.neg != b.neg)
    ∧ (dmul a b).isZero = (a.isZero || b.isZero) := by
  cases ha with
  | zero x =>
    cases hb with
    | zero y => exact ⟨.zero _, by simp [dmul, Datum.isNan, Datum.val], rfl, rfl⟩
    | fin y f hn => exact ⟨.zero _, by simp [dmul, Datum.isNan, Datum.val], rfl, rfl⟩
  | @fin x m e hm =>
    cases hb with
    | zero y => exact ⟨.zero _, by simp [dmul, Datum.isNan, Datum.val], rfl, rfl⟩
    | @fin y n f hn =>
      refine ⟨.fin _ _ (Nat.mul_pos hm hn), ?_, rfl, rfl⟩
      have : dmul (.fin x m e false) (.fin y n f false) = .fin (x != y) (m * n) (e + f) false := rfl
      rw [this]
      simp only [Datum.val, zpow_add₀ (two_ne_zero' Rat)]
      cases x <;> cases y <;> simp <;> ring

/-- The sign a sum takes where it is zero. -/
def zeroSign (down : Bool) (a b : Datum) : Bool := if a.isZero = true ∧ b.isZero = true ∧ a.neg = b.neg then a.neg else down

theorem mul_zpow_sub (m : Int) {e lo : Int} (h : lo ≤ e) : ((m * 2 ^ (e - lo).natAbs : Int) : Rat) * 2 ^ lo = m * 2 ^ e := by
  push_cast
  rw [mul_assoc, ← zpow_natCast, ← zpow_add₀ (two_ne_zero' Rat)]
  congr 2
  omega

include ha hb in
theorem dadd_number (down : Bool) : (dadd down a b).Number ∧ (dadd down a b).val = a.val + b.val
    ∧ ((dadd down a b).isZero = true → (dadd down a b).neg = zeroSign down a b) := by
  cases ha with
  | zero x =>
    cases hb with
    | zero y => exact ⟨.zero _, by simp [dadd, Datum.isNan, Datum.val], fun _ => by simp [dadd, Datum.isNan, zeroSign, Datum.isZero, Datum.neg]⟩
    | fin y f hn => exact ⟨.fin _ _ hn, by simp [dadd, Datum.isNan, Datum.val], fun h => by simp [dadd, Datum.isNan, Datum.isZero] at h⟩
  | @fin x m e hm =>
    cases hb with
    | zero y => exact ⟨.fin _ _ hm, by simp [dadd, Datum.isNan, Datum.val], fun h => by simp [dadd, Datum.isNan, Datum.isZero] at h⟩
    | @fin y n f hn =>
      have heq : dadd down (.fin x m e false) (.fin y n f false) = ofSigned (signedOf x m * 2 ^ (e - min e f).natAbs
        + signedOf y n * 2 ^ (f - min e f).natAbs) (min e f) down := rfl
      obtain ⟨hnum, hval, hzero⟩ := ofSigned_spec (signedOf x m * 2 ^ (e - min e f).natAbs + signedOf y n * 2 ^ (f - min e f).natAbs) (min e f) down
      rw [heq]
      refine ⟨hnum, ?_, hzero⟩
      rw [hval, Int.cast_add, add_mul, mul_zpow_sub _ (min_le_left e f), mul_zpow_sub _ (min_le_right e f), Datum.val_signed, Datum.val_signed]
end

/-! ### Delivering -/

/-- The datum stands for the real v, with a tail only below more bits than any format keeps; a zero has the sign given. -/
def Datum.Stands (v : ℝ) (zneg : Bool) : Datum → Prop
  | .zero neg => v = 0 ∧ neg = zneg
  | .fin neg m e more => 0 < m ∧ (more = true → 25 ≤ Nat.log2 m) ∧ ∃ x, InUnit m more x ∧ v = signR neg * (x * 2 ^ e)
  | _ => False

theorem Datum.Number.stands {d : Datum} (h : d.Number) {z : Bool} (hz : d.isZero = true → d.neg = z) : d.Stands d.val z := by
  cases h with
  | zero neg => exact ⟨by simp [Datum.val], hz rfl⟩
  | @fin neg m e hm => exact ⟨hm, by simp, m, inUnit_self m, Datum.val_fin ..⟩

theorem rmode_lt (F : Fmt) (fm : W) : rmode F fm < 4 := by
  rw [rmode, fmRnd]; split <;> omega

/-- The value zero is not that of a significand. -/
theorem InUnit.pos {m : Nat} {more : Bool} {x : ℝ} (hm : 0 < m) (h : InUnit m more x) : 0 < x := lt_of_lt_of_le (by positivity) h.le

theorem delivers_fres {F : Fmt} (hF : F ∈ Fmt.all) (fm : W) {d : Datum} {v : ℝ} {z : Bool} (h : d.Stands v z) : Delivers F fm v z (fres F fm d) := by
  cases d with
  | zero neg =>
    obtain ⟨rfl, rfl⟩ := h
    exact ⟨fun _ => rfl, fun h => absurd rfl h⟩
  | fin neg m e more =>
    obtain ⟨hm, hp, x, hx, rfl⟩ := h
    have hne : signR neg * (x * 2 ^ e) ≠ 0 := by
      have := hx.pos hm
      rw [← abs_pos, abs_mul, abs_signR, one_mul, abs_pos]
      positivity
    exact ⟨fun h => absurd h hne, fun _ => isRound_fround hF (rmode_lt F fm) hm hx hp⟩
  | _ => exact h.elim

theorem fres_inf (F : Fmt) (fm : W) (neg : Bool) : fres F fm (.inf neg) = F.infRes neg := rfl

theorem deliver_invalid (F : Fmt) (fm : W) (v : Datum) (sn : Bool) : deliver F fm v true sn = (F.canon, flNV) := rfl

theorem deliver_nan {F : Fmt} {fm : W} {v : Datum} (sn : Bool) (h : v.isNan = true) : deliver F fm v false sn = (F.canon, flIf sn flNV) := by
  rw [deliver, if_neg Bool.false_ne_true, if_pos h]

theorem deliver_valid {F : Fmt} {fm : W} {v : Datum} (sn : Bool) (h : v.isNan = false) : deliver F fm v false sn = fres F fm v := by
  rw [deliver, if_neg Bool.false_ne_true, h, if_neg Bool.false_ne_true]

/-! ### What a rounding is -/

theorem IsRound.lt {F : Fmt} (hF : F ∈ Fmt.all) {mode : Nat} {sat ftz : Bool} {v : ℝ} {o : Nat × FFlags} (h : IsRound F mode sat ftz v o) :
    o.1 < 2 ^ (F.signBit + 1) := by
  obtain ⟨hmax, hinf, hcanon⟩ := Fmt.bits_lt hF
  obtain ⟨l, n, -, -, -, hover, hle⟩ := h
  rcases lt_or_ge (F.maxFinite : ℝ) |(n : ℝ) * 2 ^ (max l F.emin - F.fb)| with hgt | hge
  · obtain ⟨-, hbits⟩ := hover hgt
    split at hbits
    · rw [hbits, pow_succ]; omega
    · obtain ⟨neg, -, hbits⟩ := hbits
      rw [hbits]
      refine F.withSign_lt neg ?_
      split_ifs <;> assumption
  · obtain ⟨hflush, hkeep⟩ := hle hge
    by_cases hc : ftz = true ∧ n ≠ 0 ∧ |(n : ℝ) * 2 ^ (max l F.emin - F.fb)| < 2 ^ F.emin
    · obtain ⟨-, neg, -, hbits⟩ := hflush hc
      rw [hbits]
      exact F.withSign_lt neg (by positivity)
    · exact (hkeep hc).1

/-- A value the format holds is delivered as it stands, without flags. -/
theorem IsRound.exact {F : Fmt} {mode : Nat} (hm : mode < 4) {sat : Bool} {v : ℝ} {o : Nat × FFlags} (h : IsRound F mode sat false v o)
    (hmax : |v| ≤ F.maxFinite) (h0 : v ≠ 0) (hint : ∀ l : Int, (2 : ℝ) ^ l ≤ |v| → ∃ k : Int, v = k * 2 ^ (max l F.emin - F.fb)) :
    o.2 = 0 ∧ (fdec F o.1 false).isNum ∧ ((fdec F o.1 false).val : ℝ) = v := by
  obtain ⟨l, n, hl, -, hrint, -, hle⟩ := h
  obtain ⟨k, hk⟩ := hint l hl
  have hq : (0 : ℝ) < 2 ^ (max l F.emin - F.fb) := by positivity
  have hn : (n : ℝ) * 2 ^ (max l F.emin - F.fb) = v := by
    rw [hk, mul_div_cancel_right₀ _ hq.ne'] at hrint
    rw [hk, hrint.eq_of_int hm]
  rw [hn] at hle
  obtain ⟨-, hnx, huf, hlt, -, hval⟩ := (hle hmax).2 (by simp)
  have hn0 : n ≠ 0 := by rintro rfl; exact h0 (by rw [← hn]; simp)
  refine ⟨?_, hval hn0⟩
  have h0 : o.2.getLsbD 0 = false := by rw [← Bool.not_eq_true, hnx]; simp
  have h1 : o.2.getLsbD 1 = false := by rw [← Bool.not_eq_true, huf]; simp
  clear hle hval hnx huf
  generalize o.2 = fl at *
  revert fl
  decide

end Sys2Proof.Machine
end

section
/-! Sums, differences, products, fused products and scalings (R92, R96, R141, R142, R144). -/

namespace Sys2Proof.Machine

/-! ### The cases of the exact operations -/

theorem Datum.exists_inf {d : Datum} (h : d.isInf = true) : d = .inf d.neg := by
  cases d with
  | inf neg => rfl
  | _ => exact absurd h Bool.false_ne_true

theorem Datum.not_snan {d : Datum} (h : d.isNan = false) : d.isSnan = false := by
  cases d <;> simp_all [Datum.isNan, Datum.isSnan]

theorem Datum.not_inf_of_nan {d : Datum} (h : d.isNan = true) : d.isInf = false ∧ d.isZero = false := by
  cases d <;> simp_all [Datum.isNan, Datum.isInf, Datum.isZero]

theorem dneg_class (d : Datum) : (dneg d).isNan = d.isNan ∧ (dneg d).isInf = d.isInf ∧ (dneg d).isSnan = d.isSnan := by
  cases d <;> exact ⟨rfl, rfl, rfl⟩

theorem dadd_of_nan {down : Bool} {a b : Datum} (h : a.isNan = true ∨ b.isNan = true) : dadd down a b = .qnan := by
  unfold dadd
  rw [if_pos (by simpa using h)]

theorem dmul_of_nan {a b : Datum} (h : a.isNan = true ∨ b.isNan = true) : dmul a b = .qnan := by
  unfold dmul
  rw [if_pos (by simpa using h)]

theorem dadd_inf_inf (down x y : Bool) : dadd down (.inf x) (.inf y) = if x = y then .inf x else .qnan := rfl

theorem dadd_inf_num {down x : Bool} {b : Datum} (hb : b.isNum) : dadd down (.inf x) b = .inf x := by
  obtain ⟨hnan, hinf⟩ := hb
  cases b <;> simp_all [dadd, Datum.isNan, Datum.isInf]

theorem dadd_num_inf {down y : Bool} {a : Datum} (ha : a.isNum) : dadd down a (.inf y) = .inf y := by
  obtain ⟨hnan, hinf⟩ := ha
  cases a <;> simp_all [dadd, Datum.isNan, Datum.isInf]

theorem dmul_zero_inf {a b : Datum} (h : mulInvalid a b = true) : dmul a b = .qnan := by
  cases a <;> cases b <;> simp_all [dmul, mulInvalid, Datum.isNan, Datum.isInf, Datum.isZero]

theorem dmul_inf {a b : Datum} (ha : a.isNan = false) (hb : b.isNan = false)
    (h : (a.isInf = true ∧ b.isZero = false) ∨ (b.isInf = true ∧ a.isZero = false)) : dmul a b = .inf (a.neg != b.neg) := by
  cases a <;> cases b <;> simp_all [dmul, Datum.isNan, Datum.isInf, Datum.isZero, Datum.neg]

/-! ### A sum delivered -/

/-- a + b, delivered. -/
def addRes (F : Fmt) (fm : W) (a b : Datum) : Nat × FFlags :=
  deliver F fm (dadd (rmode F fm = 3) a b) (!(a.isNan || b.isNan) && addInvalid a b) (a.isSnan || b.isSnan)

theorem faddBits_eq (F : Fmt) (fm : W) (x y : Nat) : faddBits F fm x y = addRes F fm (frd F fm x) (frd F fm y) := rfl
theorem fsubBits_eq (F : Fmt) (fm : W) (x y : Nat) : fsubBits F fm x y = addRes F fm (frd F fm x) (dneg (frd F fm y)) := rfl

section
variable {F : Fmt} {fm : W} {a b : Datum}

theorem addRes_nan (h : a.isNan = true ∨ b.isNan = true) : addRes F fm a b = (F.canon, flIf (a.isSnan || b.isSnan) flNV) := by
  have hor : (a.isNan || b.isNan) = true := by simpa using h
  rw [addRes, hor, dadd_of_nan h]
  exact deliver_nan _ rfl

theorem addRes_num (hF : F ∈ Fmt.all) (ha : a.Number) (hb : b.Number) :
    Delivers F fm (a.val + b.val) (zeroSign (decide (rmode F fm = 3)) a b) (addRes F fm a b) := by
  obtain ⟨hnum, hval, hzero⟩ := dadd_number ha hb (decide (rmode F fm = 3))
  have hinf : addInvalid a b = false := by rw [addInvalid, ha.isNum.2]; rfl
  rw [addRes, hinf, Bool.and_false, deliver_valid _ hnum.isNum.1]
  have := delivers_fres hF fm (hnum.stands hzero)
  rw [hval] at this
  exact_mod_cast this

theorem addRes_inf_inf (ha : a.isInf = true) (hb : b.isInf = true) :
    addRes F fm a b = if a.neg = b.neg then F.infRes a.neg else (F.canon, flNV) := by
  rw [Datum.exists_inf ha, Datum.exists_inf hb]
  cases a.neg <;> cases b.neg <;> rfl

theorem addRes_inf_num (ha : a.isInf = true) (hb : b.isNum) : addRes F fm a b = F.infRes a.neg := by
  have hinf : addInvalid a b = false := by simp [addInvalid, hb.2]
  rw [addRes, hinf, Datum.exists_inf ha, dadd_inf_num hb, Bool.and_false, deliver_valid _ rfl, fres_inf]
  rfl

theorem addRes_num_inf (ha : a.isNum) (hb : b.isInf = true) : addRes F fm a b = F.infRes b.neg := by
  have hinf : addInvalid a b = false := by simp [addInvalid, ha.2]
  rw [addRes, hinf, Datum.exists_inf hb, dadd_num_inf ha, Bool.and_false, deliver_valid _ rfl, fres_inf]
  rfl
end

/-! ### A product delivered -/

/-- a × b, delivered. -/
def mulRes (F : Fmt) (fm : W) (a b : Datum) : Nat × FFlags := deliver F fm (dmul a b) (mulInvalid a b) (a.isSnan || b.isSnan)

theorem fmulBits_eq (F : Fmt) (fm : W) (x y : Nat) : fmulBits F fm x y = mulRes F fm (frd F fm x) (frd F fm y) := rfl

section
variable {F : Fmt} {fm : W} {a b : Datum}

theorem mulInvalid_of_nan (h : a.isNan = true ∨ b.isNan = true) : mulInvalid a b = false := by
  rcases h with h | h
  · simp [mulInvalid, Datum.not_inf_of_nan h]
  · simp [mulInvalid, Datum.not_inf_of_nan h]

theorem mulInvalid_of_num (ha : a.isNum) (hb : b.isNum) : mulInvalid a b = false := by simp [mulInvalid, ha.2, hb.2]

theorem mulInvalid_of_inf (h : (a.isInf = true ∧ b.isZero = false) ∨ (b.isInf = true ∧ a.isZero = false)) : mulInvalid a b = false := by
  cases a <;> cases b <;> simp_all [mulInvalid, Datum.isInf, Datum.isZero]

theorem mulRes_nan (h : a.isNan = true ∨ b.isNan = true) : mulRes F fm a b = (F.canon, flIf (a.isSnan || b.isSnan) flNV) := by
  rw [mulRes, mulInvalid_of_nan h, dmul_of_nan h]
  exact deliver_nan _ rfl

theorem mulRes_num (hF : F ∈ Fmt.all) (ha : a.Number) (hb : b.Number) : Delivers F fm (a.val * b.val) (a.neg != b.neg) (mulRes F fm a b) := by
  obtain ⟨hnum, hval, hneg, -⟩ := dmul_number ha hb
  rw [mulRes, mulInvalid_of_num ha.isNum hb.isNum, deliver_valid _ hnum.isNum.1]
  have := delivers_fres hF fm (hnum.stands (fun _ => hneg))
  rw [hval] at this
  exact_mod_cast this

theorem mulRes_invalid (h : mulInvalid a b = true) : mulRes F fm a b = (F.canon, flNV) := by rw [mulRes, h]; rfl

theorem mulRes_inf (ha : a.isNan = false) (hb : b.isNan = false) (h : (a.isInf = true ∧ b.isZero = false) ∨ (b.isInf = true ∧ a.isZero = false)) :
    mulRes F fm a b = F.infRes (a.neg != b.neg) := by
  rw [mulRes, mulInvalid_of_inf h, dmul_inf ha hb h, deliver_valid _ rfl, fres_inf]

theorem mulRes_inf_inf (ha : a.isInf = true) (hb : b.isInf = true) : mulRes F fm a b = F.infRes (a.neg != b.neg) := by
  rw [Datum.exists_inf ha, Datum.exists_inf hb]
  rfl

theorem mulRes_inf_num (ha : a.isInf = true) (hb : b.isNum) :
    mulRes F fm a b = if b.isZero then (F.canon, flNV) else F.infRes (a.neg != b.neg) := by
  split
  · next hz => exact mulRes_invalid (by simp [mulInvalid, ha, hz])
  · next hz => exact mulRes_inf (by rw [Datum.exists_inf ha]; rfl) hb.1 (.inl ⟨ha, by simpa using hz⟩)

theorem mulRes_num_inf (ha : a.isNum) (hb : b.isInf = true) :
    mulRes F fm a b = if a.isZero then (F.canon, flNV) else F.infRes (a.neg != b.neg) := by
  split
  · next hz => exact mulRes_invalid (by simp [mulInvalid, hb, hz])
  · next hz => exact mulRes_inf ha.1 (by rw [Datum.exists_inf hb]; rfl) (.inr ⟨hb, by simpa using hz⟩)
end

/-! ### Fused products and scalings -/

section
variable {F : Fmt} {fm : W} {x y z : Nat}

theorem ffmaBits_invalid (h : mulInvalid (frd F fm x) (frd F fm y) = true) : ffmaBits F fm x y z = (F.canon, flNV) := by
  rw [ffmaBits, h]; rfl

theorem ffmaBits_nan (h : (frd F fm x).isNan = true ∨ (frd F fm y).isNan = true) :
    ffmaBits F fm x y z = (F.canon, flIf ((frd F fm x).isSnan || (frd F fm y).isSnan || (frd F fm z).isSnan) flNV) := by
  have hor : ((frd F fm x).isNan || (frd F fm y).isNan || (frd F fm z).isNan) = true := by rcases h with h | h <;> simp [h]
  simp only [ffmaBits, mulInvalid_of_nan h, hor, dmul_of_nan h]
  rw [dadd_of_nan (.inl rfl)]
  exact deliver_nan _ rfl

/-- A fused product that is no NaN is a sum with C. -/
theorem ffmaBits_eq_addRes (hx : (frd F fm x).isNan = false) (hy : (frd F fm y).isNan = false)
    (hinv : mulInvalid (frd F fm x) (frd F fm y) = false) : ffmaBits F fm x y z = addRes F fm (dmul (frd F fm x) (frd F fm y)) (frd F fm z) := by
  have hp : (dmul (frd F fm x) (frd F fm y)).isNan = false := by
    revert hx hy hinv
    generalize frd F fm x = a
    generalize frd F fm y = b
    cases a <;> cases b <;> simp [dmul, mulInvalid, Datum.isNan, Datum.isInf, Datum.isZero]
  simp only [ffmaBits, addRes, hinv, hx, hy, hp, Datum.not_snan hx, Datum.not_snan hy, Datum.not_snan hp, Bool.false_or]

theorem ffmaBits_num_nan (ha : (frd F fm x).isNum) (hb : (frd F fm y).isNum) (hc : (frd F fm z).isNan = true) :
    ffmaBits F fm x y z = (F.canon, flIf (frd F fm z).isSnan flNV) := by
  have hp := (dmul_number (frd_number ha) (frd_number hb)).1.isNum.1
  rw [ffmaBits_eq_addRes ha.1 hb.1 (mulInvalid_of_num ha hb), addRes_nan (.inr hc), Datum.not_snan hp, Bool.false_or]

theorem ffmaBits_num (hF : F ∈ Fmt.all) (ha : (frd F fm x).isNum) (hb : (frd F fm y).isNum) (hc : (frd F fm z).isNum) :
    Delivers F fm ((frd F fm x).val * (frd F fm y).val + (frd F fm z).val)
      (if ((frd F fm x).isZero = true ∨ (frd F fm y).isZero = true) ∧ (frd F fm z).isZero = true
        ∧ ((frd F fm x).neg != (frd F fm y).neg) = (frd F fm z).neg then (frd F fm z).neg else decide (rmode F fm = 3)) (ffmaBits F fm x y z) := by
  obtain ⟨hp, hval, hneg, hzero⟩ := dmul_number (frd_number ha) (frd_number hb)
  have hsign : zeroSign (decide (rmode F fm = 3)) (dmul (frd F fm x) (frd F fm y)) (frd F fm z)
      = if ((frd F fm x).isZero = true ∨ (frd F fm y).isZero = true) ∧ (frd F fm z).isZero = true
        ∧ ((frd F fm x).neg != (frd F fm y).neg) = (frd F fm z).neg then (frd F fm z).neg else decide (rmode F fm = 3) := by
    simp only [zeroSign, hneg, hzero, Bool.or_eq_true]
    exact ite_congr rfl (fun h => h.2.2) (fun _ => rfl)
  have h := addRes_num (fm := fm) hF hp (frd_number hc)
  rw [hval, hsign] at h
  rw [ffmaBits_eq_addRes ha.1 hb.1 (mulInvalid_of_num ha hb)]
  exact_mod_cast h

theorem ffmaBits_num_inf (ha : (frd F fm x).isNum) (hb : (frd F fm y).isNum) (hc : (frd F fm z).isInf = true) :
    ffmaBits F fm x y z = F.infRes (frd F fm z).neg := by
  rw [ffmaBits_eq_addRes ha.1 hb.1 (mulInvalid_of_num ha hb), addRes_num_inf (dmul_number (frd_number ha) (frd_number hb)).1.isNum hc]

theorem ffmaBits_inf (ha : (frd F fm x).isNan = false) (hb : (frd F fm y).isNan = false)
    (h : ((frd F fm x).isInf = true ∧ (frd F fm y).isZero = false) ∨ ((frd F fm y).isInf = true ∧ (frd F fm x).isZero = false)) :
    ffmaBits F fm x y z = if (frd F fm z).isNan then (F.canon, flIf (frd F fm z).isSnan flNV)
      else if (frd F fm z).isInf = true ∧ (frd F fm z).neg ≠ ((frd F fm x).neg != (frd F fm y).neg) then (F.canon, flNV)
      else F.infRes ((frd F fm x).neg != (frd F fm y).neg) := by
  rw [ffmaBits_eq_addRes ha hb (mulInvalid_of_inf h), dmul_inf ha hb h]
  generalize ((frd F fm x).neg != (frd F fm y).neg) = p
  by_cases hnan : (frd F fm z).isNan = true
  · rw [if_pos hnan, addRes_nan (.inr hnan)]
    rfl
  · rw [if_neg hnan]
    by_cases hinf : (frd F fm z).isInf = true
    · rw [addRes_inf_inf rfl hinf, show (Datum.inf p).neg = p from rfl]
      by_cases hp : (frd F fm z).neg = p
      · rw [if_pos hp.symm, if_neg (fun hc => hc.2 hp)]
      · rw [if_neg (Ne.symm hp), if_pos ⟨hinf, hp⟩]
    · rw [addRes_inf_num rfl ⟨by simpa using hnan, by simpa using hinf⟩, if_neg (fun hc => hinf hc.1)]
      rfl

theorem fscaleBits_nan {k : Int} (h : (frd F fm x).isNan = true) : fscaleBits F fm x k = (F.canon, flIf (frd F fm x).isSnan flNV) := by
  unfold fscaleBits
  revert h
  generalize frd F fm x = a
  cases a <;> simp [Datum.isNan] <;> rfl

theorem fscaleBits_inf {k : Int} (h : (frd F fm x).isInf = true) : fscaleBits F fm x k = F.infRes (frd F fm x).neg := by
  simp only [fscaleBits]
  rw [Datum.exists_inf h]
  rfl

theorem fscaleBits_num {k : Int} (hF : F ∈ Fmt.all) (h : (frd F fm x).Number) :
    Delivers F fm ((frd F fm x).val * 2 ^ k) (frd F fm x).neg (fscaleBits F fm x k) := by
  unfold fscaleBits
  revert h
  generalize frd F fm x = a
  intro h
  cases h with
  | zero neg => exact delivers_fres hF fm (d := .zero neg) ⟨by simp [Datum.val], rfl⟩
  | @fin neg m e hm =>
    refine delivers_fres hF fm (d := .fin neg m (e + k) false) ⟨hm, by simp, m, inUnit_self m, ?_⟩
    rw [Datum.val_fin, zpow_add₀ (by norm_num)]
    ring
end

/-! ### Differences -/

section
variable {F : Fmt} {fm : W} {a b : Datum}

theorem subRes_nan (h : a.isNan = true ∨ b.isNan = true) : addRes F fm a (dneg b) = (F.canon, flIf (a.isSnan || b.isSnan) flNV) := by
  obtain ⟨hnan, -, hsn⟩ := dneg_class b
  rw [addRes_nan (by rwa [hnan]), hsn]

theorem subRes_num (hF : F ∈ Fmt.all) (ha : a.Number) (hb : b.Number) :
    Delivers F fm (a.val - b.val) (zeroSign (decide (rmode F fm = 3)) a (dneg b)) (addRes F fm a (dneg b)) := by
  obtain ⟨hnum, hval, -⟩ := hb.dneg
  have := addRes_num (fm := fm) hF ha hnum
  rw [hval] at this
  rw [sub_eq_add_neg]
  exact_mod_cast this

theorem subRes_inf_inf (ha : a.isInf = true) (hb : b.isInf = true) :
    addRes F fm a (dneg b) = if a.neg = b.neg then (F.canon, flNV) else F.infRes a.neg := by
  rw [Datum.exists_inf ha, Datum.exists_inf hb]
  cases a.neg <;> cases b.neg <;> rfl

theorem subRes_num_inf (ha : a.isNum) (hb : b.isInf = true) : addRes F fm a (dneg b) = F.infRes (!b.neg) := by
  rw [addRes_num_inf ha ((dneg_class b).2.1.trans hb), Datum.exists_inf hb]
  rfl

theorem isNum_dneg (h : b.isNum) : (dneg b).isNum := by
  obtain ⟨hnan, hinf, -⟩ := dneg_class b
  exact ⟨hnan.trans h.1, hinf.trans h.2⟩
end

end Sys2Proof.Machine
end

section
/-! Exact encodings, orders, rounding to an integer and classes (R143, R145, R147, R148). -/

namespace Sys2Proof.Machine

/-! ### What a format holds -/

/-- A datum of a format that is no NaN: a finite one is N units of the exponent E above the minimum. -/
inductive Fmt.Holds (F : Fmt) : Datum → Prop
  | zero (neg : Bool) : Holds F (.zero neg)
  | inf (neg : Bool) (h : F.e4m3 = false) : Holds F (.inf neg)
  | fin (neg : Bool) {E N : Nat} (hE : E = 0 ∨ 2 ^ F.fb ≤ N) (hN : N < 2 ^ (F.fb + 1)) (h0 : N ≠ 0) (hmax : E * 2 ^ F.fb + N ≤ F.maxBits) :
      Holds F (.fin neg N ((E : Int) + F.emin - F.fb) false)

theorem Fmt.Holds.not_nan {F : Fmt} {d : Datum} (h : F.Holds d) : d.isNan = false := by cases h <;> rfl

theorem Fmt.Holds.number {F : Fmt} {d : Datum} (h : F.Holds d) (hinf : d.isInf = false) : d.Number := by
  cases h with
  | zero neg => exact .zero neg
  | inf neg h => exact absurd hinf (by simp [Datum.isInf])
  | fin neg hE hN h0 hmax => exact .fin neg _ (Nat.pos_of_ne_zero h0)

section
variable {F : Fmt} (hF : F ∈ Fmt.all)

include hF in
theorem Fmt.le_of_finite {ex fr : Nat} (hex : ex < 2 ^ F.eb) (hfr : fr < 2 ^ F.fb) (h : F.Finite ex fr) : ex * 2 ^ F.fb + fr ≤ F.maxBits := by
  rw [Fmt.Finite] at h
  simp only [Fmt.all, List.mem_cons, List.not_mem_nil, or_false] at hF
  rcases hF with rfl | rfl | rfl | rfl | rfl <;> simp [fmtF32, fmtF16, fmtBf16, fmtE4m3, fmtE5m2, Fmt.maxBits] at hex hfr h ⊢ <;> omega

omit hF in
theorem Fmt.finite_or {ex fr : Nat} (hex : ex < 2 ^ F.eb) : F.Finite ex fr ∨ (ex = 2 ^ F.eb - 1 ∧ (F.e4m3 = true → fr = 7)) := by
  rw [Fmt.Finite]
  by_cases h : ex < 2 ^ F.eb - 1
  · exact .inl (.inl h)
  · by_cases h4 : F.e4m3 = true ∧ fr ≠ 7
    · exact .inl (.inr h4)
    · exact .inr ⟨by omega, fun h => by simpa [h] using h4⟩

include hF in
theorem Fmt.datum_holds {daz neg : Bool} {ex fr : Nat} (hex : ex < 2 ^ F.eb) (hfr : fr < 2 ^ F.fb) (hnan : (F.datum daz neg ex fr).isNan = false) :
    F.Holds (F.datum daz neg ex fr) := by
  obtain ⟨-, -, heb, -⟩ := Fmt.widths hF
  have hmin : 4 ≤ 2 ^ F.eb := by simpa using Nat.pow_le_pow_right (n := 2) (by omega) heb
  rcases eq_or_ne ex 0 with rfl | h0
  · rw [Fmt.datum_subnormal]
    split
    · exact .zero neg
    · next hz =>
      have hfr0 : fr ≠ 0 := by rintro rfl; simp at hz
      have hsmall : 0 * 2 ^ F.fb + fr ≤ F.maxBits := Fmt.le_of_finite hF (by omega) hfr (.inl (by omega))
      simpa using Fmt.Holds.fin (F := F) neg (.inl rfl) (by rw [pow_succ]; omega) hfr0 hsmall
  · rcases Fmt.finite_or (F := F) (ex := ex) (fr := fr) hex with hfin | ⟨rfl, h7⟩
    · have hmax := Fmt.le_of_finite hF hex hfr hfin
      obtain ⟨E, rfl⟩ : ∃ E, ex = E + 1 := ⟨ex - 1, by omega⟩
      rw [Nat.succ_mul, Nat.add_assoc] at hmax
      rw [Fmt.datum_normal hF h0 hfin, show ((E + 1 : Nat) : Int) - F.bias - F.fb = E + F.emin - F.fb by rw [Fmt.emin]; push_cast; ring]
      exact .fin neg (.inr (by omega)) (by rw [pow_succ]; omega) (by have := Nat.two_pow_pos F.fb; omega) hmax
    · cases h4 : F.e4m3 with
      | true => rw [h7 h4, Fmt.datum_e4m3_nan hF h4] at hnan; exact absurd hnan (by simp [Datum.isNan])
      | false =>
        rw [Fmt.datum_top h4 h0] at hnan ⊢
        split
        · exact .inf neg h4
        · next hz => rw [if_neg hz] at hnan; split at hnan <;> exact absurd hnan (by simp [Datum.isNan])

include hF in
theorem fdec_holds {x : Nat} {daz : Bool} (h : (fdec F x daz).isNan = false) : F.Holds (fdec F x daz) := by
  rw [fdec_eq] at h ⊢
  exact Fmt.datum_holds hF (Nat.mod_lt _ (by positivity)) (Nat.mod_lt _ (by positivity)) h

/-! ### Exact encodings -/

theorem rintShift_zero (mode : Nat) (neg : Bool) (m : Nat) : rintShift mode neg m 0 false = (m, false) := by
  simp [rintShift, roundUp]

include hF in
/-- N units of the exponent E above the minimum are encoded as they stand. -/
theorem fround_units {mode : Nat} {sat neg : Bool} {E N : Nat} (hE : E = 0 ∨ 2 ^ F.fb ≤ N) (hN : N < 2 ^ (F.fb + 1)) (h0 : N ≠ 0)
    (hmax : E * 2 ^ F.fb + N ≤ F.maxBits) :
    fround F (.fin neg N ((E : Int) + F.emin - F.fb) false) mode sat false = (F.withSign neg (E * 2 ^ F.fb + N), 0) := by
  obtain ⟨-, -, -, hexp, hlo, hhi⟩ := Fmt.widths hF
  rw [pow_succ] at hhi
  rw [Fmt.maxBits_eq hF] at hmax
  have hlog : Nat.log2 N ≤ F.fb := Nat.lt_succ_iff.1 ((Nat.log2_lt h0).2 hN)
  have hlogE : E = 0 ∨ Nat.log2 N = F.fb := hE.imp_right fun h => le_antisymm hlog ((Nat.le_log2 h0).2 h)
  have hex : max ((Nat.log2 N : Int) + (E + F.emin - F.fb)) F.emin = E + F.emin := by omega
  have hEle : E ≤ (F.emax - F.emin).natAbs := by
    by_contra hlt
    have := Nat.mul_le_mul_right (2 ^ F.fb) (Nat.succ_le_of_lt (not_le.1 hlt))
    rw [Nat.succ_mul] at this
    omega
  rw [fround_fin, hex, show (E : Int) + F.emin - F.fb - (E + F.emin - F.fb) = 0 by ring, rintShift_zero, Fmt.place, hex, if_neg, if_neg (by simp)]
  · simp [flIf]
  · rintro (hl | ⟨heq, hsig⟩)
    · omega
    · obtain rfl : E = (F.emax - F.emin).natAbs := by omega
      omega

include hF in
theorem Fmt.Holds.encode {d : Datum} (h : F.Holds d) : encodeExact F d < 2 ^ (F.signBit + 1) ∧ fdec F (encodeExact F d) false = d := by
  obtain ⟨hmax, hinf, -⟩ := Fmt.bits_lt hF
  obtain ⟨-, -, heb, -⟩ := Fmt.widths hF
  have htop : 4 ≤ 2 ^ F.eb := by simpa using Nat.pow_le_pow_right (n := 2) (by omega) heb
  have hpos := Nat.two_pow_pos F.fb
  cases h with
  | zero neg =>
    refine ⟨F.withSign_lt neg (by positivity), ?_⟩
    have : encodeExact F (.zero neg) = F.withSign neg (0 * 2 ^ F.fb + 0) := by rw [Nat.zero_mul]; rfl
    rw [this, fdec_withSign neg false (by positivity) hpos, Fmt.datum_subnormal]
    rfl
  | inf neg h4 =>
    have : encodeExact F (.inf neg) = F.withSign neg ((2 ^ F.eb - 1) * 2 ^ F.fb + 0) := by
      simp [encodeExact, fround, h4, Fmt.infBits]
    rw [this, fdec_withSign neg false (by omega) hpos, Fmt.datum_top h4 (by omega)]
    exact ⟨F.withSign_lt neg hinf, rfl⟩
  | fin neg hE hN h0 hle =>
    rw [encodeExact, fround_units hF hE hN h0 hle]
    exact ⟨F.withSign_lt neg (hle.trans_lt hmax), fdec_units hF hE hN h0 hle⟩

include hF in
/-- A significand and exponent the format has room for are delivered as they stand, without flags. -/
theorem fround_exact {mode : Nat} (hm : mode < 4) {sat neg : Bool} {m : Nat} {e : Int} (h0 : 0 < m) (hlt : m < 2 ^ (F.fb + 1))
    (he : F.emin - F.fb ≤ e) (hmax : (m : ℝ) * 2 ^ e ≤ F.maxFinite) :
    (fround F (.fin neg m e false) mode sat false).2 = 0 ∧ (fround F (.fin neg m e false) mode sat false).1 < 2 ^ (F.signBit + 1)
    ∧ (fdec F (fround F (.fin neg m e false) mode sat false).1 false).isNum
    ∧ (fdec F (fround F (.fin neg m e false) mode sat false).1 false).val = (Datum.fin neg m e false).val := by
  have hround := isRound_fround (neg := neg) (sat := sat) (ftz := false) (e := e) hF hm h0 (inUnit_self m) (by simp)
  have hpos : (0 : ℝ) < m * 2 ^ e := by positivity
  have habs : |signR neg * (m * 2 ^ e : ℝ)| = m * 2 ^ e := by rw [abs_mul, abs_signR, one_mul, abs_of_pos hpos]
  have hne : signR neg * (m * 2 ^ e : ℝ) ≠ 0 := by rw [← abs_pos, habs]; exact hpos
  have hunits : ∀ l : Int, (2 : ℝ) ^ l ≤ |signR neg * (m * 2 ^ e : ℝ)| → ∃ k : Int, signR neg * (m * 2 ^ e : ℝ) = k * 2 ^ (max l F.emin - F.fb) := by
    intro l hl
    rw [habs] at hl
    have hlt' : (m : ℝ) * 2 ^ e < 2 ^ (((F.fb + 1 : Nat) : Int) + e) := by
      rw [zpow_add₀ (by norm_num), zpow_natCast]
      gcongr
      exact_mod_cast hlt
    have hle : l < ((F.fb + 1 : Nat) : Int) + e := (zpow_lt_zpow_iff_right₀ (by norm_num : (1 : ℝ) < 2)).1 (hl.trans_lt hlt')
    refine ⟨signedOf neg m * 2 ^ (e - (max l F.emin - F.fb)).natAbs, ?_⟩
    push_cast
    rw [cast_signedOf, ← zpow_natCast, mul_assoc, mul_assoc, ← zpow_add₀ (by norm_num)]
    congr 3
    push_cast at hle
    omega
  obtain ⟨hfl, hnum, hval⟩ := hround.exact hm (by rwa [habs]) hne hunits
  rw [← Datum.val_fin neg m e false] at hval
  exact ⟨hfl, hround.lt hF, hnum, by exact_mod_cast hval⟩
end

/-! ### Orders (R143, R147) -/

@[simp] theorem Datum.val_zero (neg : Bool) : (Datum.zero neg).val = 0 := rfl

/-- The order of minimum and maximum: −0 is below +0. -/
def Datum.Below (p q : Datum) : Prop := p.Less q ∨ (p.isZero = true ∧ q.isZero = true ∧ p.neg = true ∧ q.neg = false)

theorem val_lt_iff {x y : Bool} {m n : Nat} {e f : Int} {k l : Bool} : (Datum.fin x m e k).val < (Datum.fin y n f l).val ↔
    signedOf x m * 2 ^ (e - min e f).natAbs < signedOf y n * 2 ^ (f - min e f).natAbs := by
  rw [Datum.val_signed, Datum.val_signed, ← mul_zpow_sub _ (min_le_left e f), ← mul_zpow_sub _ (min_le_right e f),
    mul_lt_mul_iff_left₀ (by positivity), Int.cast_lt]

theorem Datum.Number.val_pos_iff {neg : Bool} {m : Nat} (e : Int) (k : Bool) (hm : 0 < m) :
    (0 < (Datum.fin neg m e k).val ↔ neg = false) ∧ ((Datum.fin neg m e k).val < 0 ↔ neg = true) := by
  have hpos : (0 : Rat) < m * 2 ^ e := by positivity
  cases neg <;> simp [Datum.val, hpos, hpos.le]

section
variable {F G : Fmt} {a b : Datum} (ha : F.Holds a) (hb : G.Holds b)

include ha hb in
theorem dlt_iff : dlt false a b = true ↔ a.Less b := by
  cases ha with
  | zero x =>
    cases hb with
    | zero y => simp [dlt, Datum.Less, Datum.rank, Datum.val]
    | inf y _ => cases y <;> simp [dlt, Datum.Less, Datum.rank]
    | fin y _ _ h0 _ => simp [dlt, Datum.Less, Datum.rank, Datum.val_zero, (Datum.Number.val_pos_iff _ _ (Nat.pos_of_ne_zero h0)).1]
  | inf x _ =>
    cases hb with
    | zero y => cases x <;> simp [dlt, Datum.Less, Datum.rank]
    | inf y _ => cases x <;> cases y <;> simp [dlt, Datum.Less, Datum.rank, Datum.val]
    | fin y _ _ h0 _ => cases x <;> simp [dlt, Datum.Less, Datum.rank]
  | fin x _ _ h0 _ =>
    cases hb with
    | zero y => simp [dlt, Datum.Less, Datum.rank, Datum.val_zero, (Datum.Number.val_pos_iff _ _ (Nat.pos_of_ne_zero h0)).2]
    | inf y _ => cases y <;> simp [dlt, Datum.Less, Datum.rank]
    | fin y _ _ _ _ => simp only [dlt, Datum.Less, Datum.rank, lt_self_iff_false, false_or, true_and, val_lt_iff, decide_eq_true_eq]

include ha hb in
theorem dlt_zeros_iff : dlt true a b = true ↔ a.Below b := by
  rw [Datum.Below, ← dlt_iff ha hb]
  cases ha <;> cases hb <;> simp [dlt, Datum.isZero, Datum.neg]
end

/-! ### Minimum and maximum (R143) -/

theorem fcmp_snan_flag (p q : Bool) : flIf (p || q) flNV = if p = true ∨ q = true then flNV else 0 := by cases p <;> cases q <;> rfl

section
variable {F : Fmt} (hF : F ∈ Fmt.all) {fm : W} {x y : Nat}

/-- The datum is what bits of the format encode. -/
def Fmt.Encodes (F : Fmt) (r : Nat) (d : Datum) : Prop := r < 2 ^ (F.signBit + 1) ∧ fdec F r false = d

include hF in
theorem frd_holds (h : (frd F fm x).isNan = false) : F.Holds (frd F fm x) := fdec_holds hF h

include hF in
theorem frd_encode (h : (frd F fm x).isNan = false) : F.Encodes (encodeExact F (frd F fm x)) (frd F fm x) := (frd_holds hF h).encode hF

theorem fminmaxBits_flags (w : Bool) : (fminmaxBits F fm w x y).2 = flIf ((frd F fm x).isSnan || (frd F fm y).isSnan) flNV := by
  simp only [fminmaxBits]
  split_ifs <;> rfl

theorem fminmaxBits_nan (w : Bool) (ha : (frd F fm x).isNan = true) (hb : (frd F fm y).isNan = true) : (fminmaxBits F fm w x y).1 = F.canon := by
  simp [fminmaxBits, ha, hb]

include hF in
theorem fminmaxBits_nan_left (w : Bool) (ha : (frd F fm x).isNan = true) (hb : (frd F fm y).isNan = false) :
    F.Encodes (fminmaxBits F fm w x y).1 (frd F fm y) := by
  simpa [fminmaxBits, ha, hb] using frd_encode hF hb

include hF in
theorem fminmaxBits_nan_right (w : Bool) (ha : (frd F fm x).isNan = false) (hb : (frd F fm y).isNan = true) :
    F.Encodes (fminmaxBits F fm w x y).1 (frd F fm x) := by
  simpa [fminmaxBits, ha, hb] using frd_encode hF ha

theorem fminBits_num (ha : (frd F fm x).isNan = false) (hb : (frd F fm y).isNan = false) : (fminmaxBits F fm false x y).1
    = encodeExact F (if dlt true (frd F fm y) (frd F fm x) then frd F fm y else frd F fm x) := by
  simp [fminmaxBits, ha, hb]

theorem fmaxBits_num (ha : (frd F fm x).isNan = false) (hb : (frd F fm y).isNan = false) : (fminmaxBits F fm true x y).1
    = encodeExact F (if dlt true (frd F fm x) (frd F fm y) then frd F fm y else frd F fm x) := by
  simp [fminmaxBits, ha, hb]
end

theorem Datum.Less.asymm {a b : Datum} (h : a.Less b) : ¬ b.Less a := by
  rintro (h' | ⟨h', hv'⟩) <;> rcases h with h | ⟨h, hv⟩
  · omega
  · omega
  · omega
  · exact lt_asymm hv hv'

theorem Datum.Less.not_zeros {a b : Datum} (h : a.Less b) : ¬ (a.isZero = true ∧ b.isZero = true) := by
  rintro ⟨ha, hb⟩
  cases a <;> cases b <;> simp_all [Datum.isZero, Datum.Less, Datum.rank]

theorem Datum.Below.asymm {a b : Datum} (h : a.Below b) : ¬ b.Below a := by
  rintro (h' | ⟨hb, ha, hneg, -⟩) <;> rcases h with h | ⟨ha', hb', -, hneg'⟩
  · exact h.asymm h'
  · exact h'.not_zeros ⟨hb', ha'⟩
  · exact h.not_zeros ⟨ha, hb⟩
  · rw [hneg] at hneg'; exact absurd hneg' (by simp)

section
variable {F : Fmt} (hF : F ∈ Fmt.all) {fm : W} {x y : Nat} (ha : (frd F fm x).isNan = false) (hb : (frd F fm y).isNan = false)

include hF ha hb

theorem fminmaxBits_below (h : (frd F fm x).Below (frd F fm y)) :
    F.Encodes (fminmaxBits F fm false x y).1 (frd F fm x) ∧ F.Encodes (fminmaxBits F fm true x y).1 (frd F fm y) := by
  rw [fminBits_num ha hb, fmaxBits_num ha hb, if_neg ((dlt_zeros_iff (frd_holds hF hb) (frd_holds hF ha)).not.2 h.asymm),
    if_pos ((dlt_zeros_iff (frd_holds hF ha) (frd_holds hF hb)).2 h)]
  exact ⟨frd_encode hF ha, frd_encode hF hb⟩

theorem fminmaxBits_above (h : (frd F fm y).Below (frd F fm x)) :
    F.Encodes (fminmaxBits F fm false x y).1 (frd F fm y) ∧ F.Encodes (fminmaxBits F fm true x y).1 (frd F fm x) := by
  rw [fminBits_num ha hb, fmaxBits_num ha hb, if_pos ((dlt_zeros_iff (frd_holds hF hb) (frd_holds hF ha)).2 h),
    if_neg ((dlt_zeros_iff (frd_holds hF ha) (frd_holds hF hb)).not.2 h.asymm)]
  exact ⟨frd_encode hF hb, frd_encode hF ha⟩

theorem fminmaxBits_neither (w : Bool) (h1 : ¬ (frd F fm x).Below (frd F fm y)) (h2 : ¬ (frd F fm y).Below (frd F fm x)) :
    F.Encodes (fminmaxBits F fm w x y).1 (frd F fm x) := by
  cases w with
  | false => rw [fminBits_num ha hb, if_neg ((dlt_zeros_iff (frd_holds hF hb) (frd_holds hF ha)).not.2 h2)]; exact frd_encode hF ha
  | true => rw [fmaxBits_num ha hb, if_neg ((dlt_zeros_iff (frd_holds hF ha) (frd_holds hF hb)).not.2 h1)]; exact frd_encode hF ha

/-! ### Comparison (R147) -/

omit hF ha hb in
theorem fcmpBits_nan {cond : Nat} (h : (frd F fm x).isNan = true ∨ (frd F fm y).isNan = true) (hc : cond < 4) : fcmpBits F fm cond x y
    = (cond == 3, if cond = 1 ∨ cond = 2 then flNV else flIf ((frd F fm x).isSnan || (frd F fm y).isSnan) flNV) := by
  have hor : ((frd F fm x).isNan || (frd F fm y).isNan) = true := by simpa using h
  simp only [fcmpBits, hor]
  interval_cases cond <;> simp [flIf]

theorem fcmpBits_num {cond : Nat} (hc : cond < 4) : (fcmpBits F fm cond x y).2 = 0 ∧ ((fcmpBits F fm cond x y).1 = true ↔
    (cond = 0 ∧ ¬ (frd F fm x).Less (frd F fm y) ∧ ¬ (frd F fm y).Less (frd F fm x)) ∨ (cond = 1 ∧ (frd F fm x).Less (frd F fm y))
      ∨ (cond = 2 ∧ ¬ (frd F fm y).Less (frd F fm x))) := by
  have hxy := dlt_iff (frd_holds hF ha) (frd_holds hF hb)
  have hyx := dlt_iff (frd_holds hF hb) (frd_holds hF ha)
  simp only [fcmpBits, ha, hb, Datum.not_snan ha, Datum.not_snan hb, deq, Bool.or_self, Bool.false_eq_true, if_false]
  interval_cases cond <;> simp [← hxy, ← hyx, flIf]
end

/-! ### Rounding to an integer (R145) -/

theorem isRint_int {mode : Nat} (k : Int) : IsRint mode k k := by
  refine ⟨fun _ => ?_, fun _ => ?_, fun _ => ?_, fun _ => ?_⟩
  · simp
  · exact ⟨le_rfl, by linarith, mul_self_nonneg _⟩
  · exact ⟨le_rfl, by linarith⟩
  · exact ⟨le_rfl, by linarith⟩

section
variable {F : Fmt} (hF : F ∈ Fmt.all) {fm : W} {mode x : Nat}

theorem Fmt.fb_le_emax {F : Fmt} : F ∈ Fmt.all → (F.fb : Int) ≤ F.emax ∧ F.emin ≤ 0 := by revert F; decide

include hF in
theorem Fmt.two_pow_fb_le : ((2 ^ F.fb : Nat) : ℝ) ≤ F.maxFinite := by
  obtain ⟨-, -, -, -, hlo, -⟩ := Fmt.widths hF
  rw [Fmt.maxFinite_eq hF]
  calc ((2 ^ F.fb : Nat) : ℝ) ≤ F.maxSig := by exact_mod_cast hlo
    _ ≤ F.maxSig * 2 ^ (F.emax - F.fb) := le_mul_of_one_le_right (by positivity) (one_le_zpow₀ (by norm_num) (by have := (Fmt.fb_le_emax hF).1; omega))

/-- A datum of the format is encoded that is the value rounded to an integer; a zero keeps the sign. -/
structure Fmt.EncodesRint (F : Fmt) (mode : Nat) (a : Datum) (r : Nat) : Prop where
  lt : r < 2 ^ (F.signBit + 1)
  num : (fdec F r false).isNum
  rint : ∃ n : Int, IsRint mode a.val n ∧ (fdec F r false).val = n ∧ (n = 0 → (fdec F r false).neg = a.neg)

theorem drint_zero (neg : Bool) : drint mode (.zero neg) = .zero neg := rfl
theorem drint_inf (neg : Bool) : drint mode (.inf neg) = .inf neg := rfl

theorem drint_left {neg : Bool} {m : Nat} {e : Int} {more : Bool} (h : 0 ≤ e) : drint mode (.fin neg m e more) = .fin neg m e more := if_pos h

theorem drint_right {neg : Bool} {m : Nat} {e : Int} {more : Bool} (h : e < 0) : drint mode (.fin neg m e more)
    = if (rintShift mode neg m (-e) more).1 = 0 then .zero neg else .fin neg (rintShift mode neg m (-e) more).1 0 false := if_neg (by omega)

/-- A value with no bits below the point is an integer. -/
theorem val_of_nonneg {neg : Bool} {m : Nat} {e : Int} {more : Bool} (h : 0 ≤ e) :
    (Datum.fin neg m e more).val = (signedOf neg m * 2 ^ e.natAbs : Int) := by
  obtain ⟨k, rfl⟩ := Int.eq_ofNat_of_zero_le h
  rw [Datum.val_signed]
  push_cast
  simp

/-- A significand below 2^(FB + 1) with bits below the point is rounded to at most 2^FB. -/
theorem rintShift_le (hm : mode < 4) {neg : Bool} {m k : Nat} {e : Int} (h0 : 0 < m) (hlt : m < 2 ^ (k + 1)) (he : e < 0) :
    (rintShift mode neg m (-e) false).1 ≤ 2 ^ k := by
  obtain ⟨hrint, -⟩ := rintShift_spec (neg := neg) hm h0 (inUnit_self m) (s := -e) (by simp)
  have hle : |signR neg * ((m : ℝ) / 2 ^ (-e))| ≤ ((2 ^ k : Nat) : Int) := by
    rw [abs_mul, abs_signR, one_mul, abs_of_nonneg (by positivity), div_le_iff₀ (by positivity)]
    have h2 : (2 : ℝ) ^ (1 : Int) ≤ 2 ^ (-e) := zpow_le_zpow_right₀ (by norm_num) (by omega)
    have hm : (m : ℝ) ≤ 2 ^ k * 2 := by exact_mod_cast hlt.le
    push_cast
    calc (m : ℝ) ≤ 2 ^ k * 2 := hm
      _ ≤ 2 ^ k * 2 ^ (-e) := by gcongr; simpa using h2
  have := hrint.abs_le hm hle
  rw [abs_signedOf] at this
  exact_mod_cast this

include hF in
theorem encode_drint (hm : mode < 4) {d : Datum} (h : F.Holds d) (hnum : d.isNum) : F.EncodesRint mode d (encodeExact F (drint mode d)) := by
  obtain ⟨hlt, hdec⟩ := h.encode hF
  cases h with
  | zero neg =>
    rw [drint_zero]
    exact ⟨hlt, hdec.symm ▸ hnum, 0, by simpa using isRint_int (mode := mode) 0, by rw [hdec]; rfl, fun _ => by rw [hdec]⟩
  | inf neg h4 => exact absurd hnum.2 (by simp [Datum.isInf])
  | @fin neg E N hE hN h0 hmax =>
    obtain ⟨e, he⟩ : ∃ e : Int, (E : Int) + F.emin - F.fb = e := ⟨_, rfl⟩
    rw [he] at hlt hdec hnum ⊢
    by_cases h0e : 0 ≤ e
    · rw [drint_left h0e]
      have hval := val_of_nonneg (neg := neg) (m := N) (more := false) h0e
      refine ⟨hlt, hdec.symm ▸ hnum, signedOf neg N * 2 ^ e.natAbs, ?_, by rw [hdec, hval], fun _ => by rw [hdec]⟩
      rw [hval, Rat.cast_intCast]
      exact isRint_int _
    · have hneg : e < 0 := not_le.1 h0e
      have hle := rintShift_le (neg := neg) hm (Nat.pos_of_ne_zero h0) hN hneg
      obtain ⟨hrint, -⟩ := rintShift_spec (neg := neg) hm (Nat.pos_of_ne_zero h0) (inUnit_self N) (s := -e) (by simp)
      rw [zpow_neg, div_inv_eq_mul, ← Datum.val_fin neg N e false] at hrint
      rw [drint_right hneg]
      generalize (rintShift mode neg N (-e) false).1 = n at hrint hle ⊢
      split
      · next hz =>
        rw [hz, show signedOf neg 0 = 0 from signedOf_eq_zero.2 rfl] at hrint
        obtain ⟨hlt0, hdec0⟩ := (Fmt.Holds.zero (F := F) neg).encode hF
        exact ⟨hlt0, hdec0.symm ▸ ⟨rfl, rfl⟩, 0, hrint, by rw [hdec0]; rfl, fun _ => by rw [hdec0]; rfl⟩
      · next hz =>
        obtain ⟨hfb, hmin⟩ := Fmt.fb_le_emax hF
        obtain ⟨-, hlt1, hnum1, hval1⟩ := fround_exact hF (mode := 0) (by omega) (sat := true) (neg := neg) (e := 0) (Nat.pos_of_ne_zero hz)
          (by rw [pow_succ]; have := Nat.two_pow_pos F.fb; omega) (by omega) (by
            rw [zpow_zero, mul_one]
            exact le_trans (by exact_mod_cast hle) (Fmt.two_pow_fb_le hF))
        refine ⟨hlt1, hnum1, signedOf neg n, hrint, ?_, fun h => absurd (signedOf_eq_zero.1 h) hz⟩
        rw [encodeExact, hval1, Datum.val_signed, zpow_zero, mul_one]

theorem frndBits_nan (h : (frd F fm x).isNan = true) : frndBits F fm mode x = (F.canon, flIf (frd F fm x).isSnan flNV) := by
  simp [frndBits, h]

theorem frndBits_valid (h : (frd F fm x).isNan = false) : frndBits F fm mode x = (encodeExact F (drint mode (frd F fm x)), 0) := by
  simp [frndBits, h]

theorem drint_special {d : Datum} (h : d.isInf = true ∨ d.isZero = true) : drint mode d = d ∧ d.isNan = false := by
  cases d with
  | inf neg => exact ⟨rfl, rfl⟩
  | zero neg => exact ⟨rfl, rfl⟩
  | _ => rcases h with h | h <;> exact absurd h (by simp [Datum.isInf, Datum.isZero])

include hF in
theorem frndBits_special (h : (frd F fm x).isInf = true ∨ (frd F fm x).isZero = true) :
    (frndBits F fm mode x).2 = 0 ∧ F.Encodes (frndBits F fm mode x).1 (frd F fm x) := by
  obtain ⟨hself, hnan⟩ := drint_special (mode := mode) h
  rw [frndBits_valid hnan, hself]
  exact ⟨rfl, frd_encode hF hnan⟩

include hF in
theorem frndBits_num (hm : mode < 4) (h : (frd F fm x).isNum) : (frndBits F fm mode x).2 = 0 ∧ (frndBits F fm mode x).1 < 2 ^ (F.signBit + 1)
    ∧ ∃ n : Int, IsRint mode (frd F fm x).val n ∧ (fdec F (frndBits F fm mode x).1 false).isNum
      ∧ (fdec F (frndBits F fm mode x).1 false).val = n ∧ (n = 0 → (fdec F (frndBits F fm mode x).1 false).neg = (frd F fm x).neg) := by
  obtain ⟨hlt, hnum, n, hrint, hval, hneg⟩ := encode_drint hF hm (frd_holds hF h.1) h
  rw [frndBits_valid h.1]
  exact ⟨rfl, hlt, n, hrint, hnum, hval, hneg⟩
end

/-! ### Classes (R148) -/

theorem testBit_top {b x : Nat} (h : x < 2 ^ (b + 1)) : x.testBit b = decide (2 ^ b ≤ x) := by
  rw [pow_succ'] at h
  rw [Nat.testBit_eq_decide_div_mod_eq]
  congr 1
  rw [eq_iff_iff]
  rcases lt_or_ge x (2 ^ b) with hlt | hge
  · simp [Nat.div_eq_of_lt hlt, hlt]
  · rw [Nat.div_eq_of_lt_le (by omega : 1 * 2 ^ b ≤ x) (by omega)]
    simp [hge]

/-- The class of what the fields stand for. -/
def Fmt.classOf (F : Fmt) (neg : Bool) (ex fr : Nat) : Nat :=
  if ex = 2 ^ F.eb - 1 then (if fr = 0 then (if neg then 0 else 7) else if fr < 2 ^ (F.fb - 1) then 8 else 9)
  else if ex = 0 then (if fr = 0 then (if neg then 3 else 4) else if neg then 2 else 5)
  else if neg then 1 else 6

theorem fclsBits_eq {F : Fmt} (hF : F ∈ Fmt.all) (h4 : F.e4m3 = false) (h8 : F.isFp8 = false) {x : Nat} (h : x < 2 ^ (F.signBit + 1)) :
    fclsBits F x = 2 ^ F.classOf (decide (2 ^ F.signBit ≤ x)) (x / 2 ^ F.fb % 2 ^ F.eb) (x % 2 ^ F.fb) := by
  obtain ⟨-, -, heb, -⟩ := Fmt.widths hF
  have htop : 4 ≤ 2 ^ F.eb := by simpa using Nat.pow_le_pow_right (n := 2) (by omega) heb
  have hsub : x % 2 ^ F.signBit < 2 ^ F.fb ↔ x / 2 ^ F.fb % 2 ^ F.eb = 0 := by
    rw [← Nat.mod_mul_right_div_self, Nat.div_eq_zero_iff, or_iff_right (by positivity), Fmt.signBit, ← pow_add, Nat.add_comm]
  have hex : x / 2 ^ F.fb % 2 ^ F.eb < 2 ^ F.eb := Nat.mod_lt _ (by positivity)
  unfold fclsBits
  rw [fdec_eq, testBit_top h]
  simp only [hsub]
  generalize x / 2 ^ F.fb % 2 ^ F.eb = ex at hex ⊢
  generalize x % 2 ^ F.fb = fr
  generalize decide (2 ^ F.signBit ≤ x) = neg
  rcases eq_or_ne ex 0 with rfl | h0
  · have hne : ¬ 0 = 2 ^ F.eb - 1 := by omega
    rw [Fmt.datum_subnormal, Fmt.classOf, if_neg hne, if_pos rfl]
    by_cases hz : fr = 0 <;> cases neg <;> simp [hz]
  · rcases Fmt.finite_or (F := F) (fr := fr) hex with hfin | ⟨rfl, -⟩
    · have hlt : ex < 2 ^ F.eb - 1 := hfin.resolve_right (by simp [h4])
      rw [Fmt.datum_normal hF h0 hfin, Fmt.classOf, if_neg hlt.ne, if_neg h0]
      cases neg <;> simp [h0]
    · rw [Fmt.datum_top h4 h0, Fmt.classOf, if_pos rfl, h8]
      by_cases hz : fr = 0
      · cases neg <;> simp [hz]
      · by_cases hq : 2 ^ (F.fb - 1) ≤ fr
        · simp [hz, hq, Nat.not_lt.2 hq]
        · simp [hz, hq, Nat.lt_of_not_le hq]

end Sys2Proof.Machine
end

section
/-! The special functions (R98, R146): the inputs of the table, and correct rounding where the statement asks for it. -/

namespace Sys2Proof.Machine

/-! ### Integer square roots -/

theorem isqrtAux_spec (n : Nat) : ∀ (i r : Nat), r * r ≤ n → n < (r + 2 ^ i) * (r + 2 ^ i) →
    isqrtAux n i r * isqrtAux n i r ≤ n ∧ n < (isqrtAux n i r + 1) * (isqrtAux n i r + 1)
  | 0, r, hle, hlt => by simpa [isqrtAux] using ⟨hle, hlt⟩
  | i + 1, r, hle, hlt => by
    simp only [isqrtAux]
    split
    · next h => exact isqrtAux_spec n i _ h (by rw [pow_succ'] at hlt; convert hlt using 2 <;> ring)
    · next h => exact isqrtAux_spec n i r hle (by omega)

theorem isqrt_eq_sqrt (n : Nat) : isqrt n = n.sqrt := by
  refine Nat.eq_sqrt.2 (isqrtAux_spec n _ 0 (Nat.zero_le n) ?_)
  have hlt : n < 2 ^ (Nat.log2 n + 1) := Nat.lt_log2_self
  refine hlt.trans_le ?_
  rw [Nat.zero_add, ← pow_add]
  exact Nat.pow_le_pow_right (by omega) (by omega)

/-! ### Reciprocals and roots -/

theorem inUnit_div (a : Nat) {m : Nat} (hm : 0 < m) : InUnit (a / m) (a % m != 0) ((a : ℝ) / m) := by
  have hpos : (0 : ℝ) < m := by exact_mod_cast hm
  refine ⟨Nat.cast_div_le, ?_, ?_⟩
  · rw [div_lt_iff₀ hpos]
    exact_mod_cast (Nat.lt_mul_div_succ a hm).trans_eq (mul_comm _ _)
  · rw [bne_iff_ne, ne_eq, ne_eq, not_iff_not, div_eq_iff hpos.ne', ← Nat.cast_mul, Nat.cast_inj]
    have hdiv := Nat.div_add_mod' a m
    generalize a / m * m = q at hdiv ⊢
    generalize a % m = t at hdiv ⊢
    omega

theorem inUnit_sqrt {y : ℝ} {r : Nat} {more : Bool} (h0 : 0 ≤ y) (hle : ((r * r : Nat) : ℝ) ≤ y) (hlt : y < (((r + 1) * (r + 1) : Nat) : ℝ))
    (hmore : more = true ↔ ((r * r : Nat) : ℝ) ≠ y) : InUnit r more (√y) := by
  refine ⟨Real.le_sqrt_of_sq_le (by rw [sq]; exact_mod_cast hle), ?_, ?_⟩
  · rw [Real.sqrt_lt' (by positivity), sq]
    exact_mod_cast hlt
  · rw [hmore, ne_eq, ne_eq, not_iff_not, Real.sqrt_eq_iff_mul_self_eq h0 r.cast_nonneg, Nat.cast_mul, eq_comm]

theorem le_log2_of_pow_le {n : Nat} (h : 2 ^ 25 ≤ n) : 25 ≤ Nat.log2 n := (Nat.le_log2 (by omega)).2 h

section
variable {m : Nat} (hm : 0 < m) (e : Int)

include hm

theorem recipPos_stands : (recipPos m e).Stands (1 / (m * 2 ^ e)) false := by
  have hpos : (0 : ℝ) < m := by exact_mod_cast hm
  have hlt : m < 2 ^ (Nat.log2 m + 1) := Nat.lt_log2_self
  have hbits : 2 ^ 25 ≤ 2 ^ (Nat.log2 m + 80) / m := by
    rw [Nat.le_div_iff_mul_le hm]
    calc 2 ^ 25 * m ≤ 2 ^ 25 * 2 ^ (Nat.log2 m + 1) := by gcongr
      _ = 2 ^ (Nat.log2 m + 26) := by rw [← pow_add]; congr 1; omega
      _ ≤ 2 ^ (Nat.log2 m + 80) := Nat.pow_le_pow_right (by omega) (by omega)
  refine ⟨by omega, fun _ => le_log2_of_pow_le hbits, _, inUnit_div _ hm, ?_⟩
  rw [signR, if_neg Bool.false_ne_true, one_mul, zpow_sub₀ (by norm_num), zpow_neg, zpow_natCast]
  push_cast
  field_simp

theorem sqrtPos_stands : (sqrtPos m e).Stands (√(m * 2 ^ e)) false := by
  obtain ⟨k, hk, h160, h, hh⟩ : ∃ k : Nat, (if e % 2 = 0 then 160 else 161) = k ∧ 160 ≤ k ∧ ∃ h : Int, e - k = 2 * h := by
    split
    · exact ⟨160, rfl, le_rfl, (e - 160) / 2, by push_cast; omega⟩
    · exact ⟨161, rfl, by omega, (e - 161) / 2, by push_cast; omega⟩
  have hbits : 2 ^ 25 ≤ (m * 2 ^ k).sqrt := by
    rw [Nat.le_sqrt]
    calc 2 ^ 25 * 2 ^ 25 ≤ 1 * 2 ^ k := by rw [one_mul, ← pow_add]; exact Nat.pow_le_pow_right (by omega) (by omega)
      _ ≤ m * 2 ^ k := Nat.mul_le_mul_right _ hm
  simp only [sqrtPos, isqrt_eq_sqrt, hk]
  refine ⟨by omega, fun _ => le_log2_of_pow_le hbits, √((m * 2 ^ k : Nat) : ℝ),
    inUnit_sqrt (by positivity) (by exact_mod_cast Nat.sqrt_le _) (by exact_mod_cast Nat.lt_succ_sqrt _) (by rw [bne_iff_ne]; norm_cast), ?_⟩
  rw [hh, Int.mul_ediv_cancel_left _ (by norm_num), signR, if_neg Bool.false_ne_true, one_mul]
  have hsq : (m : ℝ) * 2 ^ e = ((m * 2 ^ k : Nat) : ℝ) * (2 ^ h) ^ 2 := by
    push_cast
    rw [mul_assoc, ← zpow_natCast, ← zpow_natCast, ← zpow_mul, ← zpow_add₀ (by norm_num)]
    congr 2
    push_cast
    omega
  rw [hsq, Real.sqrt_mul (by positivity), Real.sqrt_sq (by positivity)]

theorem rsqrtPos_stands : (rsqrtPos m e).Stands (1 / √(m * 2 ^ e)) false := by
  have hpos : (0 : ℝ) < m := by exact_mod_cast hm
  have hlt : m < 2 ^ (Nat.log2 m + 1) := Nat.lt_log2_self
  obtain ⟨k, hk, h160, h, hh⟩ : ∃ k : Nat, (Nat.log2 m + (if ((Nat.log2 m : Int) + e) % 2 = 0 then 160 else 161)) = k ∧ Nat.log2 m + 160 ≤ k
      ∧ ∃ h : Int, (k : Int) + e = 2 * h := by
    split
    · exact ⟨_, rfl, by omega, (Nat.log2 m + 160 + e) / 2, by push_cast; omega⟩
    · exact ⟨_, rfl, by omega, (Nat.log2 m + 161 + e) / 2, by push_cast; omega⟩
  have hbits : 2 ^ 25 ≤ (2 ^ k / m).sqrt := by
    rw [Nat.le_sqrt, Nat.le_div_iff_mul_le hm]
    calc 2 ^ 25 * 2 ^ 25 * m ≤ 2 ^ 25 * 2 ^ 25 * 2 ^ (Nat.log2 m + 1) := by gcongr
      _ = 2 ^ (Nat.log2 m + 51) := by rw [← pow_add, ← pow_add]; congr 1; omega
      _ ≤ 2 ^ k := Nat.pow_le_pow_right (by omega) (by omega)
  simp only [rsqrtPos, isqrt_eq_sqrt, hk]
  obtain ⟨r, hr⟩ : ∃ r, (2 ^ k / m).sqrt = r := ⟨_, rfl⟩
  have hle : r * r * m ≤ 2 ^ k := by rw [← Nat.le_div_iff_mul_le hm, ← hr]; exact Nat.sqrt_le _
  have hgt : 2 ^ k < (r + 1) * (r + 1) * m := by rw [← Nat.div_lt_iff_lt_mul hm, ← hr]; exact Nat.lt_succ_sqrt _
  rw [hr] at hbits ⊢
  refine ⟨by omega, fun _ => le_log2_of_pow_le hbits, √(((2 ^ k : Nat) : ℝ) / m), inUnit_sqrt (by positivity) ?_ ?_ ?_, ?_⟩
  · rw [le_div_iff₀ hpos]; exact_mod_cast hle
  · rw [div_lt_iff₀ hpos]; exact_mod_cast hgt
  · rw [bne_iff_ne, ne_eq, ne_eq, not_iff_not, eq_div_iff hpos.ne']; norm_cast
  · rw [hh, ← mul_neg, Int.mul_ediv_cancel_left _ (by norm_num), signR, if_neg Bool.false_ne_true, one_mul]
    have hsq : 1 / ((m : ℝ) * 2 ^ e) = ((2 ^ k : Nat) : ℝ) / m * (2 ^ (-h)) ^ 2 := by
      have he : (2 : ℝ) ^ e = 2 ^ (2 * h) / 2 ^ k := by
        rw [← hh, zpow_add₀ (by norm_num), zpow_natCast]; field_simp
      rw [he, zpow_neg, mul_comm 2 h, zpow_mul]
      push_cast
      field_simp
    rw [one_div, ← Real.sqrt_inv, ← one_div, hsq, Real.sqrt_mul (by positivity), Real.sqrt_sq (by positivity)]
end

/-! ### Powers of two -/

section
variable {F : Fmt} (hF : F ∈ Fmt.all) {fm : W}

theorem Fmt.exponent_range {F : Fmt} : F ∈ Fmt.all → -126 ≤ F.emin ∧ F.emax ≤ 127 := by revert F; decide

theorem Fmt.place_congr (F : Fmt) {mode : Nat} {sat ftz neg : Bool} {i j : Int} {r : Nat × Bool} (h1 : max i F.emin = max j F.emin)
    (h2 : F.emax < i ↔ F.emax < j) (h3 : i < F.emin ↔ j < F.emin) : F.place mode sat ftz neg i r = F.place mode sat ftz neg j r := by
  simp only [Fmt.place, h1, h2, h3]

include hF in
/-- Powers of two above every format overflow alike, and those below every format are rounded alike. -/
theorem fround_pow_far {mode : Nat} {sat ftz : Bool} {i j : Int} (h : (128 ≤ i ∧ 128 ≤ j) ∨ (i ≤ -160 ∧ j ≤ -160)) :
    fround F (.fin false 1 i false) mode sat ftz = fround F (.fin false 1 j false) mode sat ftz := by
  obtain ⟨hmin, hmax⟩ := Fmt.exponent_range hF
  obtain ⟨-, hfb, -, hexp, -⟩ := Fmt.widths hF
  have hlog : Nat.log2 1 = 0 := rfl
  simp only [fround_fin, hlog, Nat.cast_zero, zero_add]
  rcases h with ⟨hi, hj⟩ | ⟨hi, hj⟩
  · rw [Fmt.place, Fmt.place, if_pos (.inl (by omega)), if_pos (.inl (by omega))]
  · rw [max_eq_right (by omega : i ≤ F.emin), max_eq_right (by omega : j ≤ F.emin),
      (rintShift_far one_pos (inUnit_self 1) (by rw [hlog]; push_cast; omega)).1,
      (rintShift_far one_pos (inUnit_self 1) (by rw [hlog]; push_cast; omega)).1]
    exact F.place_congr (by omega) (by omega) (by omega)

theorem pow_number (n : Int) : (Datum.fin false 1 n false).Stands ((2 : ℝ) ^ n) false :=
  ⟨one_pos, by simp, 1, by simpa using inUnit_self 1, by simp [signR]⟩

theorem one_le_of_int {m : Nat} {e n : Int} {neg : Bool} (hm : 0 < m) (h : (Datum.fin neg m e false).val = n) :
    (1 : ℝ) ≤ m * 2 ^ e ∧ ((|n| : Int) : ℝ) = m * 2 ^ e := by
  have habs : ((|n| : Int) : ℝ) = m * 2 ^ e := by
    have hval := Datum.val_fin neg m e false
    rw [h, Rat.cast_intCast] at hval
    rw [Int.cast_abs, hval, abs_mul, abs_signR, one_mul, abs_of_pos (by positivity)]
  have hpos : (0 : ℝ) < ((|n| : Int) : ℝ) := by rw [habs]; positivity
  refine ⟨?_, habs⟩
  rw [← habs]
  exact_mod_cast hpos

theorem log2_bounds {m : Nat} (hm : 0 < m) (e : Int) : (2 : ℝ) ^ ((Nat.log2 m : Int) + e) ≤ m * 2 ^ e ∧ (m : ℝ) * 2 ^ e < 2 ^ ((Nat.log2 m : Int) + e + 1) := by
  have hlo := (inUnit_self m).two_pow_le hm
  have hhi := (inUnit_self m).lt_two_pow
  constructor
  · rw [zpow_add₀ (by norm_num), zpow_natCast]
    gcongr
  · rw [show (Nat.log2 m : Int) + e + 1 = ((Nat.log2 m + 1 : Nat) : Int) + e by push_cast; ring, zpow_add₀ (by norm_num), zpow_natCast]
    gcongr

include hF in
/-- 2^n for an integer n is rounded once. -/
theorem exp2Fin_delivers {neg : Bool} {m : Nat} {e n : Int} (hm : 0 < m) (h : (Datum.fin neg m e false).val = n) :
    Delivers F fm ((2 : ℝ) ^ n) false (fres F fm (exp2Fin neg m e)) := by
  obtain ⟨hone, habs⟩ := one_le_of_int hm h
  obtain ⟨hlo, hhi⟩ := log2_bounds hm e
  have htop : 0 ≤ (Nat.log2 m : Int) + e := by
    have : (2 : ℝ) ^ (0 : Int) < 2 ^ ((Nat.log2 m : Int) + e + 1) := by rw [zpow_zero]; linarith
    have := (zpow_lt_zpow_iff_right₀ (by norm_num : (1 : ℝ) < 2)).1 this
    omega
  have hexact := delivers_fres hF fm (pow_number n)
  rw [exp2Fin, if_neg (by omega)]
  split
  · next h0e =>
    have hn : n = signedOf neg m * 2 ^ e.natAbs := by
      rw [val_of_nonneg h0e] at h
      exact_mod_cast h.symm
    split
    · next hbig =>
      have hlarge : 128 ≤ |n| ∧ 160 ≤ |n| := by
        have h41 : (2 : ℝ) ^ (41 : Int) ≤ ((|n| : Int) : ℝ) := by
          rw [habs]
          exact (zpow_le_zpow_right₀ (by norm_num) (by omega)).trans hlo
        have : (2 : Int) ^ 41 ≤ |n| := by exact_mod_cast h41
        omega
      have hsign : n < 0 ↔ neg = true := by
        rw [← (Datum.Number.val_pos_iff (neg := neg) e false hm).2, h]
        exact_mod_cast Iff.rfl
      rw [fres, fround_pow_far hF (j := n)]
      · exact hexact
      · cases neg with
        | false => exact .inl ⟨by norm_num, by rw [abs_of_nonneg (by simpa using hsign)] at hlarge; exact hlarge.1⟩
        | true => exact .inr ⟨by norm_num, by rw [abs_of_neg (by simpa using hsign)] at hlarge; omega⟩
    · rw [← hn]
      exact hexact
  · next h0e =>
    have hn : signedOf neg m = n * (2 ^ e.natAbs : Nat) := by
      have hd : ((2 ^ e.natAbs : Nat) : Rat) * 2 ^ e = 1 := by
        push_cast
        rw [← zpow_natCast, ← zpow_add₀ (by norm_num), show ((e.natAbs : Nat) : Int) + e = 0 by omega, zpow_zero]
      rw [Datum.val_signed] at h
      have : (signedOf neg m : Rat) = n * (2 ^ e.natAbs : Nat) := by rw [← h, mul_assoc, mul_comm ((2 : Rat) ^ e), hd, mul_one]
      exact_mod_cast this
    have hd : ((2 ^ e.natAbs : Nat) : Int) ≠ 0 := by positivity
    simp only [hn, Int.mul_emod_left, Int.mul_ediv_cancel _ hd, Int.natAbs_zero, if_true]
    exact hexact

/-! ### Logarithms -/

/-- A power of two has a power of two as its significand. -/
theorem pow_significand {m : Nat} {e n : Int} (hm : 0 < m) (h : (m : ℝ) * 2 ^ e = 2 ^ n) : m = 2 ^ Nat.log2 m ∧ (Nat.log2 m : Int) + e = n := by
  obtain ⟨hlo, hhi⟩ := log2_bounds hm e
  rw [h] at hlo hhi
  have h1 := (zpow_le_zpow_iff_right₀ (by norm_num : (1 : ℝ) < 2)).1 hlo
  have h2 := (zpow_lt_zpow_iff_right₀ (by norm_num : (1 : ℝ) < 2)).1 hhi
  have hn : (Nat.log2 m : Int) + e = n := by omega
  refine ⟨?_, hn⟩
  rw [← hn, zpow_add₀ (by norm_num), zpow_natCast] at h
  exact_mod_cast mul_right_cancel₀ (zpow_ne_zero e (by norm_num)) h

include hF in
/-- log2 of a power of two is rounded once. -/
theorem log2Pos_delivers {m : Nat} {e n : Int} (hm : 0 < m) (h : (m : ℝ) * 2 ^ e = 2 ^ n) : Delivers F fm n false (fres F fm (log2Pos m e)) := by
  obtain ⟨hpow, hn⟩ := pow_significand hm h
  obtain ⟨hnum, hval, hzero⟩ := ofSigned_spec n 0 false
  have heq : log2Pos m e = ofSigned n 0 false := by
    simp only [log2Pos]
    rw [if_pos hpow, hn]
  rw [heq]
  have := delivers_fres hF fm (hnum.stands hzero)
  rw [hval] at this
  simpa using this
end

/-! ### The functions delivered -/

theorem exp2Fin_not_nan (neg : Bool) (m : Nat) (e : Int) : (exp2Fin neg m e).isNan = false := by
  unfold exp2Fin
  dsimp only
  split_ifs <;> rfl

theorem log2Pos_not_nan (m : Nat) (e : Int) : (log2Pos m e).isNan = false := by
  unfold log2Pos ofSigned
  dsimp only
  split_ifs <;> rfl

section
variable {F : Fmt} (hF : F ∈ Fmt.all) {fm : W} {x fn : Nat}

theorem specialRes_nan (h : (special fn (frd F fm x)).1.isNan = true) : specialRes F fm fn x = (F.canon, (special fn (frd F fm x)).2) := by
  rw [specialRes, if_pos h]

theorem specialRes_valid (h : (special fn (frd F fm x)).1.isNan = false) : specialRes F fm fn x
    = ((fres F fm (special fn (frd F fm x)).1).1, (fres F fm (special fn (frd F fm x)).1).2 ||| (special fn (frd F fm x)).2) := by
  rw [specialRes, h]
  rfl

theorem specialRes_exact {d : Datum} (h : special fn (frd F fm x) = (d, 0)) (hd : d.isNan = false) : specialRes F fm fn x = fres F fm d := by
  rw [specialRes_valid (by rw [h]; exact hd), h]
  simp

theorem specialRes_invalid {fl : FFlags} (h : special fn (frd F fm x) = (.qnan, fl)) : specialRes F fm fn x = (F.canon, fl) := by
  rw [specialRes_nan (by rw [h]; rfl), h]

theorem special_nan {d : Datum} (h : d.isNan = true) : special fn d = (.qnan, flIf d.isSnan flNV) := by
  cases d <;> simp_all [special, Datum.isNan, Datum.isSnan, flIf]

theorem Datum.Stands.not_nan {d : Datum} {v : ℝ} {z : Bool} (h : d.Stands v z) : d.isNan = false := by
  cases d with
  | zero neg => rfl
  | fin neg m e more => rfl
  | _ => exact h.elim
theorem fres_infinite (h4 : F.e4m3 = false) (neg : Bool) : fres F fm (.inf neg) = (F.withSign neg F.infBits, 0) := by
  rw [fres_inf, Fmt.infRes, h4]; rfl

theorem specialRes_neg_inf (h : frd F fm x = .inf true) : specialRes F fm 0 x = (F.withSign true 0, 0) ∧ specialRes F fm 1 x = (F.canon, flNV)
    ∧ specialRes F fm 2 x = (F.canon, flNV) ∧ specialRes F fm 3 x = (F.withSign false 0, 0) ∧ specialRes F fm 4 x = (F.canon, flNV) := by
  have hzero : ∀ fn s, special fn (.inf true) = (.zero s, 0) → specialRes F fm fn x = (F.withSign s 0, 0) := fun fn s hs =>
    specialRes_exact (d := .zero s) (by rw [h, hs]) rfl
  have hinv : ∀ fn, special fn (.inf true) = (.qnan, flNV) → specialRes F fm fn x = (F.canon, flNV) := fun fn hs => specialRes_invalid (by rw [h, hs])
  exact ⟨hzero 0 true rfl, hinv 1 rfl, hinv 2 rfl, hzero 3 false rfl, hinv 4 rfl⟩

theorem specialRes_pos_inf (h4 : F.e4m3 = false) (h : frd F fm x = .inf false) : specialRes F fm 0 x = (F.withSign false 0, 0)
    ∧ specialRes F fm 1 x = (F.withSign false F.infBits, 0) ∧ specialRes F fm 2 x = (F.withSign false 0, 0)
    ∧ specialRes F fm 3 x = (F.withSign false F.infBits, 0) ∧ specialRes F fm 4 x = (F.withSign false F.infBits, 0) := by
  have hinf : ∀ fn, special fn (.inf false) = (.inf false, 0) → specialRes F fm fn x = (F.withSign false F.infBits, 0) := fun fn hs => by
    rw [specialRes_exact (d := .inf false) (by rw [h, hs]) rfl, fres_infinite h4]
  have hzero : ∀ fn, special fn (.inf false) = (.zero false, 0) → specialRes F fm fn x = (F.withSign false 0, 0) := fun fn hs =>
    specialRes_exact (d := .zero false) (by rw [h, hs]) rfl
  exact ⟨hzero 0 rfl, hinf 1 rfl, hzero 2 rfl, hinf 3 rfl, hinf 4 rfl⟩

theorem roundUp_exact {mode : Nat} {neg odd : Bool} : roundUp mode neg odd false 0 = false := by simp [roundUp]

include hF in
/-- 1 is held by every format. -/
theorem fres_one : fres F fm (.fin false 1 0 false) = (F.bias * 2 ^ F.fb, 0) := by
  obtain ⟨-, hfb, -, hexp, -⟩ := Fmt.widths hF
  obtain ⟨hemax, hmin⟩ := Fmt.fb_le_emax hF
  have hbias : F.bias = (0 - F.emin).natAbs + 1 ∧ 0 < F.emax := by clear hfb hexp hemax hmin; revert F; decide
  have hlog : Nat.log2 1 = 0 := rfl
  rw [fres, fround_fin, hlog, Nat.cast_zero, zero_add, max_eq_left hmin,
    (rintShift_left (inUnit_self 1) (by omega : (0 : Int) - F.fb - 0 ≤ 0) rfl).1, roundTo, roundUp_exact, Fmt.place, max_eq_left hmin,
    show ((0 : Int) - F.fb - 0).natAbs = F.fb by omega, if_neg Bool.false_ne_true, one_mul, if_neg (by omega), hbias.1, Nat.succ_mul, if_neg (by simp)]
  simp [flIf, Fmt.withSign]

theorem specialRes_zero (h4 : F.e4m3 = false) {neg : Bool} (h : frd F fm x = .zero neg) : specialRes F fm 0 x = (F.withSign neg F.infBits, flDZ)
    ∧ specialRes F fm 1 x = (F.withSign neg 0, 0) ∧ specialRes F fm 2 x = (F.withSign neg F.infBits, flDZ)
    ∧ specialRes F fm 4 x = (F.withSign true F.infBits, flDZ) := by
  have hinf : ∀ fn s, special fn (.zero neg) = (.inf s, flDZ) → specialRes F fm fn x = (F.withSign s F.infBits, flDZ) := fun fn s hs => by
    rw [specialRes_valid (by rw [h, hs]; rfl), h, hs, fres_infinite h4]
    simp
  exact ⟨hinf 0 neg rfl, specialRes_exact (d := .zero neg) (by rw [h]; rfl) rfl, hinf 2 neg rfl, hinf 4 true rfl⟩

include hF in
theorem specialRes_zero_exp2 {neg : Bool} (h : frd F fm x = .zero neg) : specialRes F fm 3 x = (F.bias * 2 ^ F.fb, 0) := by
  rw [specialRes_exact (d := .fin false 1 0 false) (by rw [h]; rfl) rfl, fres_one hF]

theorem specialRes_negative (h : (frd F fm x).isNum) (hneg : (frd F fm x).val < 0) :
    specialRes F fm 1 x = (F.canon, flNV) ∧ specialRes F fm 2 x = (F.canon, flNV) ∧ specialRes F fm 4 x = (F.canon, flNV) := by
  have hnum := frd_number h
  generalize ha : frd F fm x = a at hnum hneg
  cases hnum with
  | zero neg => exact absurd hneg (lt_irrefl _)
  | fin neg e hm =>
    obtain rfl := (Datum.Number.val_pos_iff e false hm).2.1 hneg
    exact ⟨specialRes_invalid (ha ▸ rfl), specialRes_invalid (ha ▸ rfl), specialRes_invalid (ha ▸ rfl)⟩

include hF in
theorem specialRes_delivers {d : Datum} {v : ℝ} {z : Bool} (h : special fn (frd F fm x) = (d, 0)) (hd : d.Stands v z) :
    Delivers F fm v z (specialRes F fm fn x) := by
  rw [specialRes_exact h hd.not_nan]
  exact delivers_fres hF fm hd

theorem Datum.Stands.dneg {d : Datum} {v : ℝ} {z : Bool} (h : d.Stands v z) (hv : v ≠ 0) (w : Bool) : (dneg d).Stands (-v) w := by
  cases d with
  | zero neg => exact absurd h.1 hv
  | fin neg m e more =>
    obtain ⟨hm, hp, x, hx, rfl⟩ := h
    exact ⟨hm, hp, x, hx, by rw [signR_not]; ring⟩
  | _ => exact h.elim

include hF in
theorem specialRes_rcp (h : (frd F fm x).isNum) (h0 : (frd F fm x).isZero = false) :
    Delivers F fm (1 / (frd F fm x).val) false (specialRes F fm 0 x) := by
  have hnum := frd_number h
  generalize ha : frd F fm x = a at hnum h0
  cases hnum with
  | zero neg => exact absurd h0 (by simp [Datum.isZero])
  | @fin neg m e hm =>
    have hstands := recipPos_stands hm e
    rw [Datum.val_fin]
    cases neg with
    | false =>
      have hs : special 0 (frd F fm x) = (recipPos m e, 0) := by rw [ha]; rfl
      simpa [signR] using specialRes_delivers hF hs hstands
    | true =>
      have hs : special 0 (frd F fm x) = (dneg (recipPos m e), 0) := by rw [ha]; rfl
      have := specialRes_delivers hF hs (hstands.dneg (by positivity) false)
      rwa [← one_div_neg_eq_neg_one_div, ← neg_one_mul] at this

include hF in
theorem specialRes_roots (h : (frd F fm x).isNum) (hpos : 0 < (frd F fm x).val) :
    Delivers F fm (√(frd F fm x).val) false (specialRes F fm 1 x) ∧ Delivers F fm (1 / √(frd F fm x).val) false (specialRes F fm 2 x) := by
  have hnum := frd_number h
  generalize ha : frd F fm x = a at hnum hpos
  cases hnum with
  | zero neg => exact absurd hpos (lt_irrefl _)
  | @fin neg m e hm =>
    obtain rfl := (Datum.Number.val_pos_iff e false hm).1.1 hpos
    have h1 : special 1 (frd F fm x) = (sqrtPos m e, 0) := by rw [ha]; rfl
    have h2 : special 2 (frd F fm x) = (rsqrtPos m e, 0) := by rw [ha]; rfl
    rw [Datum.val_fin, signR, if_neg Bool.false_ne_true, one_mul]
    exact ⟨specialRes_delivers hF h1 (sqrtPos_stands hm e), specialRes_delivers hF h2 (rsqrtPos_stands hm e)⟩

include hF in
theorem specialRes_exp2 {n : Int} (h : (frd F fm x).isNum) (h0 : (frd F fm x).isZero = false) (hn : (frd F fm x).val = n) :
    Delivers F fm ((2 : ℝ) ^ n) false (specialRes F fm 3 x) := by
  have hnum := frd_number h
  generalize ha : frd F fm x = a at hnum h0 hn
  cases hnum with
  | zero neg => exact absurd h0 (by simp [Datum.isZero])
  | @fin neg m e hm =>
    have hs : special 3 (frd F fm x) = (exp2Fin neg m e, 0) := by rw [ha]; rfl
    rw [specialRes_exact hs (exp2Fin_not_nan ..)]
    exact exp2Fin_delivers hF hm hn

include hF in
theorem specialRes_log2 {n : Int} (h : (frd F fm x).isNum) (hn : (frd F fm x).val = (2 : Rat) ^ n) :
    Delivers F fm n false (specialRes F fm 4 x) := by
  have hnum := frd_number h
  generalize ha : frd F fm x = a at hnum hn
  have hpos : 0 < a.val := by rw [hn]; positivity
  cases hnum with
  | zero neg => exact absurd hpos (lt_irrefl _)
  | @fin neg m e hm =>
    obtain rfl := (Datum.Number.val_pos_iff e false hm).1.1 hpos
    have hs : special 4 (frd F fm x) = (log2Pos m e, 0) := by rw [ha]; rfl
    have hval : (m : ℝ) * 2 ^ e = 2 ^ n := by
      have := Datum.val_fin false m e false
      rw [hn, signR, if_neg Bool.false_ne_true, one_mul] at this
      rw [← this]; push_cast; rfl
    rw [specialRes_exact hs (log2Pos_not_nan ..)]
    exact log2Pos_delivers hF hm hval
end

end Sys2Proof.Machine
end

section
/-! The statement on scalar floating point (R86, R87, R92, R94 to R98, R141 to R148). -/

namespace Sys2Proof.Machine

section
variable {F : Fmt} (hF : F ∈ Fmt.all) {x : Nat} {daz : Bool}

theorem Fmt.datum_neg {neg : Bool} {ex fr : Nat} (h : (F.datum daz neg ex fr).isNan = false) : (F.datum daz neg ex fr).neg = neg := by
  unfold Fmt.datum at h ⊢
  split_ifs at h ⊢ <;> simp_all [Datum.isNan, Datum.neg]

theorem fdec_neg_iff (hx : x < 2 ^ (F.signBit + 1)) (h : (fdec F x daz).isNan = false) : (fdec F x daz).neg = true ↔ 2 ^ F.signBit ≤ x := by
  rw [fdec_eq] at h ⊢
  rw [Fmt.datum_neg h, testBit_top hx, decide_eq_true_eq]

/-- The sign of bits as a factor. -/
theorem sign_factor (hx : x < 2 ^ (F.signBit + 1)) : (if x < 2 ^ F.signBit then 1 else -1 : Rat) = if x.testBit F.signBit then -1 else 1 := by
  rw [testBit_top hx]
  by_cases h : x < 2 ^ F.signBit
  · simp [h]
  · simp [h, not_lt.1 h]

theorem fdec_subnormal (hx : x < 2 ^ (F.signBit + 1)) (hex : x / 2 ^ F.fb % 2 ^ F.eb = 0) : (fdec F x daz).isNum ∧ (fdec F x daz).val
    = if daz = true ∧ F.isFp8 = false then 0 else (if x < 2 ^ F.signBit then 1 else -1) * ((x % 2 ^ F.fb : Nat) : Rat) * (2 : Rat) ^ (F.emin - F.fb) := by
  rw [fdec_eq, hex, Fmt.datum_subnormal, sign_factor hx]
  by_cases hflush : daz = true ∧ F.isFp8 = false
  · simp only [hflush.1, hflush.2, Bool.not_false, Bool.and_true, Bool.or_true, if_true, and_self]
    exact ⟨⟨rfl, rfl⟩, rfl⟩
  · have hkeep : (daz && !F.isFp8) = false := by simpa using hflush
    rw [if_neg hflush, hkeep, Bool.or_false]
    by_cases h0 : x % 2 ^ F.fb = 0
    · rw [h0, if_pos (by simp)]
      exact ⟨⟨rfl, rfl⟩, by simp⟩
    · rw [if_neg (by simpa using h0)]
      exact ⟨⟨rfl, rfl⟩, rfl⟩

include hF in
theorem fdec_normal (hx : x < 2 ^ (F.signBit + 1)) (hex : x / 2 ^ F.fb % 2 ^ F.eb ≠ 0) (hfin : F.Finite (x / 2 ^ F.fb % 2 ^ F.eb) (x % 2 ^ F.fb)) :
    (fdec F x daz).isNum ∧ (fdec F x daz).val = (if x < 2 ^ F.signBit then 1 else -1) * ((2 ^ F.fb + x % 2 ^ F.fb : Nat) : Rat)
      * (2 : Rat) ^ (((x / 2 ^ F.fb % 2 ^ F.eb : Nat) : Int) - F.bias - F.fb) := by
  rw [fdec_eq, Fmt.datum_normal hF hex hfin, sign_factor hx]
  exact ⟨⟨rfl, rfl⟩, rfl⟩

include hF in
theorem fdec_top (h4 : F.e4m3 = false) (hex : x / 2 ^ F.fb % 2 ^ F.eb = 2 ^ F.eb - 1) : (fdec F x daz).isInf = decide (x % 2 ^ F.fb = 0)
    ∧ (fdec F x daz = .snan ↔ (F.isFp8 = false ∧ x % 2 ^ F.fb ≠ 0 ∧ x % 2 ^ F.fb < 2 ^ (F.fb - 1)))
    ∧ (fdec F x daz).isNan = decide (x % 2 ^ F.fb ≠ 0) := by
  have h0 : 2 ^ F.eb - 1 ≠ 0 := by clear hex h4; revert F; decide
  rw [fdec_eq, hex, Fmt.datum_top h4 h0]
  by_cases hz : x % 2 ^ F.fb = 0
  · simp [hz, Datum.isInf, Datum.isNan]
  · by_cases hq : F.isFp8 = true ∨ 2 ^ (F.fb - 1) ≤ x % 2 ^ F.fb
    · rw [if_neg hz, if_pos (by simpa using hq)]
      simp only [hz, Datum.isInf, Datum.isNan, decide_false, not_false_eq_true, decide_true, true_and, and_true, reduceCtorEq, false_iff, ne_eq]
      rcases hq with hq | hq
      · simp [hq]
      · exact fun h => absurd h.2 (not_lt.2 hq)
    · push Not at hq
      rw [if_neg hz, if_neg (by simpa using hq)]
      simp only [hz, Datum.isInf, Datum.isNan, decide_false, not_false_eq_true, decide_true, true_and, and_true, true_iff, ne_eq]
      exact ⟨by simpa using hq.1, hq.2⟩

include hF in
theorem fdec_e4m3_nan (h4 : F.e4m3 = true) (hex : x / 2 ^ F.fb % 2 ^ F.eb = 2 ^ F.eb - 1) (hfr : x % 2 ^ F.fb = 7) : fdec F x daz = .qnan := by
  rw [fdec_eq, hex, hfr, Fmt.datum_e4m3_nan hF h4]
end

theorem isRound_fround_fin {F : Fmt} (hF : F ∈ Fmt.all) (neg : Bool) (m : Nat) (e : Int) (mode : Nat) (sat ftz : Bool) (h0 : 0 < m) (hm : mode < 4) :
    IsRound F mode sat ftz (Datum.fin neg m e false).val (fround F (.fin neg m e false) mode sat ftz) := by
  rw [Datum.val_fin]
  exact isRound_fround hF hm h0 (inUnit_self m) (by simp)

/-- Settles O7: `fround` places what `rintShift` rounds, and every operation is an exact datum rounded by it. -/
theorem floatLaws : Obligations.FloatLaws := by
  refine ⟨⟨?bits, rfl, rfl, rfl, @isRound_fround_fin, ?special⟩, ?arithmetic, ?orders, ?functions⟩
  case bits =>
    exact fun F hF x daz hx => ⟨fdec_neg_iff hx, fdec_subnormal hx, fdec_normal hF hx, fdec_e4m3_nan hF, fdec_top hF⟩
  case special => exact fun F _ neg mode sat ftz => ⟨rfl, rfl, rfl, rfl⟩
  case arithmetic =>
    intro F hF fm x y z k
    exact ⟨fun h => ⟨addRes_nan h, subRes_nan h, mulRes_nan h⟩, fun ha hb => ⟨addRes_num hF (frd_number ha) (frd_number hb),
      subRes_num hF (frd_number ha) (frd_number hb), mulRes_num hF (frd_number ha) (frd_number hb)⟩,
      fun ha hb => ⟨addRes_inf_inf ha hb, subRes_inf_inf ha hb, mulRes_inf_inf ha hb⟩,
      fun ha hb => ⟨addRes_inf_num ha hb, addRes_inf_num ha (isNum_dneg hb), mulRes_inf_num ha hb⟩,
      fun ha hb => ⟨addRes_num_inf ha hb, subRes_num_inf ha hb, mulRes_num_inf ha hb⟩,
      fun h => ffmaBits_invalid (by simpa [mulInvalid] using h), ffmaBits_nan, ffmaBits_num_nan, ffmaBits_num hF, ffmaBits_num_inf, ffmaBits_inf,
      fscaleBits_nan, fun ha => fscaleBits_num hF (frd_number ha), fscaleBits_inf⟩
  case orders =>
    intro F hF3 fm x y
    obtain ⟨hF, h4, h8⟩ : F ∈ Fmt.all ∧ F.e4m3 = false ∧ F.isFp8 = false := by revert F; decide
    dsimp only
    rw [← fcmp_snan_flag]
    exact ⟨fminmaxBits_flags, fminmaxBits_nan, fminmaxBits_nan_left hF, fminmaxBits_nan_right hF, fminmaxBits_below hF, fminmaxBits_above hF,
      fun ha hb h1 h2 w => fminmaxBits_neither hF ha hb w h1 h2, fun cond h hc => fcmpBits_nan h hc, fun ha hb cond hc => fcmpBits_num hF ha hb hc,
      fun mode hm => ⟨frndBits_nan, frndBits_special hF, fun h _ => frndBits_num hF hm h⟩, fclsBits_eq hF h4 h8⟩
  case functions =>
    intro F hF3 fm x
    obtain ⟨hF, h4⟩ : F ∈ Fmt.all ∧ F.e4m3 = false := by revert F; decide
    refine ⟨fun fn _ h => specialRes_invalid (special_nan h), specialRes_neg_inf, specialRes_pos_inf h4, fun neg h => ?_, specialRes_negative,
      specialRes_rcp hF, specialRes_roots hF, fun n => specialRes_exp2 hF, fun n => specialRes_log2 hF⟩
    obtain ⟨h0, h1, h2, h4⟩ := specialRes_zero h4 h
    exact ⟨h0, h1, h2, specialRes_zero_exp2 hF h, h4⟩

end Sys2Proof.Machine
end

section
/-! Narrow conversions, packed arithmetic and dot products as instructions (R93, R149 to R154). -/

namespace Sys2Proof.Machine

/-- A result word and flags from one value of a lane. -/
theorem gives_of {mk : Fields → Instr} {out : Row → Fields → Env → List LaneView → LaneView → LaneView × FFlags} (fn : RowFn)
    (hx : ∀ f s, exec (mk f) s = .next (runRow (mk f) fn s))
    (h : ∀ r f e ls lv, fn r f e ls lv = flagged e lv (out r f e ls lv).1 (out r f e ls lv).2) : SetsF mk out ∧ Completes mk out :=
  have hs := setsF_of fn hx h
  ⟨hs, hs.completes⟩

theorem gives_fnarrow2 {mk : Fields → Instr} (g : Nat → W → Nat → Nat → Nat × FFlags) (hx : ∀ f s, exec (mk f) s = .next (runRow (mk f) (fnarrow2 g) s)) :
    let out := fun (r : Row) (f : Fields) (e : Env) (ls : List LaneView) (lv : LaneView) =>
      let o := g f.modx.toNat e.fmode (srcA ls lv f).toNat (srcB r ls lv f).toNat
      (setD lv f (BitVec.ofNat 32 o.1), o.2)
    SetsF mk out ∧ Completes mk out := gives_of _ hx (fun _ _ _ _ _ => rfl)

theorem gives_fnarrow3 {mk : Fields → Instr} (g : Nat → W → Nat → Nat → Nat → Nat × FFlags)
    (hx : ∀ f s, exec (mk f) s = .next (runRow (mk f) (fnarrow3 g) s)) :
    let out := fun (r : Row) (f : Fields) (e : Env) (ls : List LaneView) (lv : LaneView) =>
      let o := g f.modx.toNat e.fmode (srcA ls lv f).toNat (srcB r ls lv f).toNat (srcC lv f).toNat
      (setD lv f (BitVec.ofNat 32 o.1), o.2)
    SetsF mk out ∧ Completes mk out := gives_of _ hx (fun _ _ _ _ _ => rfl)

/-- `dot8` in the statement's words. -/
theorem dot8Bits_eq (m : Nat) (fm : W) (x y z : Nat) : dot8Bits m fm x y z =
    (let el := fun (v i : Nat) => if m = 0 then (BitVec.ofNat 4 (v / 16 ^ i)).toInt else ((v / 16 ^ i % 16 : Nat) : Int)
    ((BitVec.ofInt 32 (((List.range 8).map (fun i => el x i * el y i)).sum + z)).toNat, 0)) := by
  have hel : ∀ v i, (if decide (m = 0) then (BitVec.ofNat 4 (element 4 v i)).toInt else (element 4 v i : Int))
      = if m = 0 then (BitVec.ofNat 4 (v / 16 ^ i)).toInt else ((v / 16 ^ i % 16 : Nat) : Int) := by
    intro v i
    have hmod : BitVec.ofNat 4 (v / 16 ^ i % 16) = BitVec.ofNat 4 (v / 16 ^ i) := BitVec.eq_of_toNat_eq (by simp)
    simp only [element, pow_mul, decide_eq_true_eq]
    exact ite_congr rfl (fun _ => congrArg BitVec.toInt hmod) (fun _ => rfl)
  simp only [dot8Bits, dotInt, hel]

/-- Settles O8: each instruction is its result with flags in every lane. -/
theorem narrowFormats : Obligations.NarrowFormats := by
  refine ⟨gives_of cvtFn (fun _ _ => rfl) (fun _ _ _ _ _ => rfl), gives_of pcvtFn (fun _ _ => rfl) (fun _ _ _ _ _ => rfl),
    gives_of upkFn (fun _ _ => rfl) (fun _ _ _ _ _ => rfl), gives_fnarrow2 padd4Bits (fun _ _ => rfl), gives_fnarrow2 padd4Bits (fun _ _ => rfl),
    gives_fnarrow2 pmul4Bits (fun _ _ => rfl), gives_fnarrow2 pmul4Bits (fun _ _ => rfl), gives_fnarrow3 hfma2Bits (fun _ _ => rfl),
    gives_fnarrow3 dot2Bits (fun _ _ => rfl), gives_fnarrow3 dot4Bits (fun _ _ => rfl), ?_⟩
  have h := gives_fnarrow3 (mk := .dot8) dot8Bits (fun _ _ => rfl)
  simp only [dot8Bits_eq] at h
  exact h

end Sys2Proof.Machine
end

section
/-! Conversions (R97, R149 to R151): the value of the source, rounded once or exact. -/

namespace Sys2Proof.Machine

/-! ### Bits of a format -/

/-- A finite datum has a significand and no tail. -/
def Datum.Exact : Datum → Prop
  | .fin _ m _ more => 0 < m ∧ more = false
  | _ => True

theorem Datum.Exact.number {d : Datum} (h : d.Exact) (hn : d.isNum) : d.Number := by
  obtain ⟨hnan, hinf⟩ := hn
  cases d with
  | zero neg => exact .zero neg
  | fin neg m e more => obtain ⟨hm, rfl⟩ := h; exact .fin neg e hm
  | inf neg => exact absurd hinf (by simp [Datum.isInf])
  | _ => exact absurd hnan (by simp [Datum.isNan])

theorem Datum.Number.exact {d : Datum} (h : d.Number) : d.Exact := by
  cases h with
  | zero neg => trivial
  | fin neg e hm => exact ⟨hm, rfl⟩

theorem fdec_exact (F : Fmt) (x : Nat) (daz : Bool) : (fdec F x daz).Exact := by
  by_cases h : (fdec F x daz).isNum
  · exact (fdec_number h).exact
  · rw [Datum.isNum] at h
    generalize fdec F x daz = d at h
    cases d with
    | fin neg m e more => exact absurd ⟨rfl, rfl⟩ h
    | _ => trivial

theorem frd_exact (F : Fmt) (fm : W) (x : Nat) : (frd F fm x).Exact := fdec_exact ..

theorem Datum.nan_or_inf_or_num (d : Datum) : d.isNan = true ∨ d.isInf = true ∨ d.isNum := by
  unfold Datum.isNum
  cases d.isNan <;> cases d.isInf <;> simp

theorem dmul_exact {a b : Datum} (ha : a.Exact) (hb : b.Exact) : (dmul a b).Exact := by
  by_cases hnan : a.isNan = true ∨ b.isNan = true
  · rw [dmul_of_nan hnan]; trivial
  · simp only [not_or, Bool.not_eq_true] at hnan
    by_cases hinf : (a.isInf = true ∧ b.isZero = false) ∨ (b.isInf = true ∧ a.isZero = false)
    · rw [dmul_inf hnan.1 hnan.2 hinf]; trivial
    · by_cases hinv : mulInvalid a b = true
      · rw [dmul_zero_inf hinv]; trivial
      · have hnum : a.isInf = false ∧ b.isInf = false := by
          simp only [mulInvalid, Bool.or_eq_true, Bool.and_eq_true, not_or, not_and, Bool.not_eq_true, Bool.not_eq_false] at hinf hinv
          exact ⟨by by_contra h; simp_all, by by_contra h; simp_all⟩
        exact (dmul_number (ha.number ⟨hnan.1, hnum.1⟩) (hb.number ⟨hnan.2, hnum.2⟩)).1.exact

theorem dadd_exact {down : Bool} {a b : Datum} (ha : a.Exact) (hb : b.Exact) : (dadd down a b).Exact := by
  rcases a.nan_or_inf_or_num with han | hai | han
  · rw [dadd_of_nan (.inl han)]; trivial
  · rcases b.nan_or_inf_or_num with hbn | hbi | hbn
    · rw [dadd_of_nan (.inr hbn)]; trivial
    · rw [Datum.exists_inf hai, Datum.exists_inf hbi, dadd_inf_inf]; split <;> trivial
    · rw [Datum.exists_inf hai, dadd_inf_num hbn]; trivial
  · rcases b.nan_or_inf_or_num with hbn | hbi | hbn
    · rw [dadd_of_nan (.inr hbn)]; trivial
    · rw [Datum.exists_inf hbi, dadd_num_inf han]; trivial
    · exact (dadd_number (ha.number han) (hb.number hbn) down).1.exact

section
variable {F : Fmt} (hF : F ∈ Fmt.all)

include hF in
theorem fround_lt {mode : Nat} (hm : mode < 4) {sat ftz : Bool} {d : Datum} (h : d.Exact) : (fround F d mode sat ftz).1 < 2 ^ (F.signBit + 1) := by
  obtain ⟨-, hinf, hcanon⟩ := Fmt.bits_lt hF
  have hcanon' : F.canon < 2 ^ (F.signBit + 1) := by rw [pow_succ]; omega
  cases d with
  | qnan => exact hcanon'
  | snan => exact hcanon'
  | zero neg => exact F.withSign_lt neg (by positivity)
  | inf neg =>
    rw [fround]
    split
    · exact hcanon'
    · exact F.withSign_lt neg hinf
  | fin neg m e more => obtain ⟨h0, rfl⟩ := h; exact (isRound_fround (neg := neg) hF hm h0 (inUnit_self m) (by simp)).lt hF

include hF in
theorem deliver_lt {fm : W} {d : Datum} {inv sn : Bool} (h : d.Exact) : (deliver F fm d inv sn).1 < 2 ^ (F.signBit + 1) := by
  have hcanon : F.canon < 2 ^ (F.signBit + 1) := by rw [pow_succ]; have := (Fmt.bits_lt hF).2.2; omega
  rw [deliver]
  split
  · exact hcanon
  · split
    · exact hcanon
    · exact fround_lt hF (rmode_lt F fm) h
end

/-! ### Float to float (R97) -/

section
variable {src dst : Fmt} {fm : W} {x : Nat}

theorem fconv_nan (h : (frd src fm x).isNan = true) : fconv src dst fm x = (dst.canon, flIf (frd src fm x).isSnan flNV) := deliver_nan _ h

theorem fconv_inf (h : (frd src fm x).isInf = true) : fconv src dst fm x = dst.infRes (frd src fm x).neg := by
  have hd := Datum.exists_inf h
  rw [fconv, hd]
  rfl

theorem fconv_num (hdst : dst ∈ Fmt.all) (h : (frd src fm x).isNum) : Delivers dst fm (frd src fm x).val (frd src fm x).neg (fconv src dst fm x) := by
  rw [fconv, deliver_valid _ h.1]
  exact delivers_fres hdst fm ((frd_number h).stands (fun _ => rfl))

/-! ### Exact widening (R97) -/

/-- The format holds every value of another, more finely or as finely. -/
structure Fmt.Widens (src dst : Fmt) : Prop where
  src_mem : src ∈ Fmt.all
  dst_mem : dst ∈ Fmt.all
  inf : dst.e4m3 = false
  bits : src.fb ≤ dst.fb
  unit : dst.emin - dst.fb ≤ src.emin - src.fb
  top : src.maxFinite ≤ dst.maxFinite

theorem Fmt.units_le_maxFinite {F : Fmt} (hF : F ∈ Fmt.all) {E N : Nat} (hN : N < 2 ^ (F.fb + 1)) (hmax : E * 2 ^ F.fb + N ≤ F.maxBits)
    (hE : E = 0 ∨ 2 ^ F.fb ≤ N) : (N : ℝ) * 2 ^ ((E : Int) + F.emin - F.fb) ≤ F.maxFinite := by
  obtain ⟨-, -, -, hexp, hlo, hhi⟩ := Fmt.widths hF
  rw [pow_succ] at hhi
  rw [Fmt.maxBits_eq hF] at hmax
  have hEle : E ≤ (F.emax - F.emin).natAbs := by
    by_contra hlt
    have := Nat.mul_le_mul_right (2 ^ F.fb) (Nat.succ_le_of_lt (not_le.1 hlt))
    rw [Nat.succ_mul] at this
    omega
  rw [Fmt.maxFinite_eq hF]
  rcases hEle.eq_or_lt with rfl | hlt
  · rw [show (((F.emax - F.emin).natAbs : Nat) : Int) + F.emin - F.fb = F.emax - F.fb by omega]
    gcongr
    omega
  · exact mul_zpow_le hN.le (by simpa using hlo) (by push_cast; omega)

theorem fwiden_flags : (fwiden src dst fm x).2 = flIf (frd src fm x).isSnan flNV := rfl

theorem fwiden_nan (h : (frd src fm x).isNan = true) : fwiden src dst fm x = (dst.canon, flIf (frd src fm x).isSnan flNV) := by
  rw [fwiden]
  cases ha : frd src fm x <;> simp_all [Datum.isNan, encodeExact, fround]

theorem fwiden_lt (hdst : dst ∈ Fmt.all) : (fwiden src dst fm x).1 < 2 ^ (dst.signBit + 1) := fround_lt hdst (by omega) (frd_exact ..)

/-- The datum is no NaN and stands for what another does, a zero with its sign. -/
def Datum.SameValue (b a : Datum) : Prop := b.isNan = false ∧ b.rank = a.rank ∧ b.val = a.val ∧ b.neg = a.neg

theorem Datum.Number.rank {d : Datum} (h : d.Number) : d.rank = 0 := by cases h <;> rfl

theorem Datum.Number.sameValue {a b : Datum} (ha : a.Number) (hb : b.Number) (hval : b.val = a.val) (h0 : a.isZero = false) : b.SameValue a := by
  have hb0 : b.isZero = false := by
    rw [← Bool.not_eq_true, hb.isZero_iff, hval, ← ha.isZero_iff, h0]
    exact Bool.false_ne_true
  refine ⟨hb.isNum.1, by rw [ha.rank, hb.rank], hval, ?_⟩
  rw [Bool.eq_iff_iff, hb.neg_iff hb0, ha.neg_iff h0, hval]

theorem encode_widened (h : src.Widens dst) {a : Datum} (ha : src.Holds a) : (fdec dst (encodeExact dst a) false).SameValue a := by
  cases ha with
  | zero neg => rw [((Fmt.Holds.zero (F := dst) neg).encode h.dst_mem).2]; exact ⟨rfl, rfl, rfl, rfl⟩
  | inf neg _ => rw [((Fmt.Holds.inf (F := dst) neg h.inf).encode h.dst_mem).2]; exact ⟨rfl, rfl, rfl, rfl⟩
  | @fin neg E N hE hN h0 hmax =>
    have hpos := Nat.pos_of_ne_zero h0
    have hle : (N : ℝ) * 2 ^ ((E : Int) + src.emin - src.fb) ≤ dst.maxFinite :=
      (Fmt.units_le_maxFinite h.src_mem hN hmax hE).trans (by exact_mod_cast h.top)
    obtain ⟨-, -, hnum, hval⟩ := fround_exact h.dst_mem (mode := 0) (by omega) (sat := true) (neg := neg) hpos
      (hN.trans_le (Nat.pow_le_pow_right (by omega) (by have := h.bits; omega))) (by have := h.unit; omega) hle
    exact (Datum.Number.fin neg _ hpos).sameValue (fdec_number hnum) hval rfl

theorem fwiden_valid (h : src.Widens dst) (hnan : (frd src fm x).isNan = false) :
    (fwiden src dst fm x).2 = 0 ∧ (fdec dst (fwiden src dst fm x).1 false).SameValue (frd src fm x) :=
  ⟨by rw [fwiden_flags, Datum.not_snan hnan]; rfl, encode_widened h (frd_holds h.src_mem hnan)⟩

theorem widening_formats : ∀ p ∈ [(fmtF16, fmtF32), (fmtBf16, fmtF32), (fmtE4m3, fmtF32), (fmtE5m2, fmtF32), (fmtE4m3, fmtF16), (fmtE5m2, fmtF16)],
    p.1.Widens p.2 := by
  have hshape : ∀ p ∈ [(fmtF16, fmtF32), (fmtBf16, fmtF32), (fmtE4m3, fmtF32), (fmtE5m2, fmtF32), (fmtE4m3, fmtF16), (fmtE5m2, fmtF16)],
      p.1 ∈ Fmt.all ∧ p.2 ∈ Fmt.all ∧ p.2.e4m3 = false ∧ p.1.fb ≤ p.2.fb ∧ p.2.emin - p.2.fb ≤ p.1.emin - p.1.fb
        ∧ p.1.emax ≤ p.2.emax ∧ p.1.maxSig * 2 ^ (p.2.fb - p.1.fb) ≤ p.2.maxSig := by decide
  intro p hp
  obtain ⟨h1, h2, h3, h4, h5, h6, h7⟩ := hshape p hp
  refine ⟨h1, h2, h3, h4, h5, ?_⟩
  have : (p.1.maxFinite : ℝ) ≤ p.2.maxFinite := by
    rw [Fmt.maxFinite_eq h1, Fmt.maxFinite_eq h2]
    calc (p.1.maxSig : ℝ) * 2 ^ (p.1.emax - p.1.fb) ≤ p.1.maxSig * 2 ^ (((p.2.fb - p.1.fb : Nat) : Int) + (p.2.emax - p.2.fb)) := by
          gcongr
          · norm_num
          · omega
      _ = ((p.1.maxSig * 2 ^ (p.2.fb - p.1.fb) : Nat) : ℝ) * 2 ^ (p.2.emax - p.2.fb) := by
          rw [zpow_add₀ (by norm_num), zpow_natCast]; push_cast; ring
      _ ≤ p.2.maxSig * 2 ^ (p.2.emax - p.2.fb) := by gcongr
  exact_mod_cast this
end

/-! ### FP32 to an integer, and back (R97) -/

/-- The least and the greatest value of a 32-bit integer. -/
def intHi (signed : Bool) : Int := if signed then 2 ^ 31 - 1 else 2 ^ 32 - 1
def intLo (signed : Bool) : Int := if signed then -(2 ^ 31) else 0

/-- An integer delivered in 32 bits, with NX where it is not the value it was rounded from. -/
def intRes (signed inexact : Bool) (n : Int) : W × FFlags :=
  if intHi signed < n then (BitVec.ofInt 32 (intHi signed), flNV)
  else if n < intLo signed then (BitVec.ofInt 32 (intLo signed), flNV)
  else (BitVec.ofInt 32 n, flIf inexact flNX)

section
variable {fm : W} {signed : Bool} {mode x : Nat}

theorem fToInt_nan (h : (frd fmtF32 fm x).isNan = true) : fToInt fm signed mode x = (0, flNV) := by
  unfold fToInt
  cases ha : frd fmtF32 fm x <;> simp_all [Datum.isNan]

theorem fToInt_inf (h : (frd fmtF32 fm x).isInf = true) :
    fToInt fm signed mode x = (BitVec.ofInt 32 (if (frd fmtF32 fm x).neg then intLo signed else intHi signed), flNV) := by
  have hd := Datum.exists_inf h
  unfold fToInt
  rw [hd]
  rfl

theorem fToInt_fin {neg : Bool} {m : Nat} {e : Int} (h : frd fmtF32 fm x = .fin neg m e false) : fToInt fm signed mode x =
    if 100 < e then (BitVec.ofInt 32 (if neg then intLo signed else intHi signed), flNV)
    else intRes signed (rintShift mode neg m (-e) false).2 (signedOf neg (rintShift mode neg m (-e) false).1) := by
  unfold fToInt
  rw [h]
  rfl

theorem intRes_huge {neg inexact : Bool} {n : Nat} (h : 2 ^ 32 < n) :
    intRes signed inexact (signedOf neg n) = (BitVec.ofInt 32 (if neg then intLo signed else intHi signed), flNV) := by
  have hn : (2 : Int) ^ 32 < n := by exact_mod_cast h
  have hhi : intHi signed < 2 ^ 32 := by cases signed <;> decide
  have hlo : -(2 ^ 32) < intLo signed ∧ intLo signed ≤ intHi signed ∧ 0 ≤ intHi signed := by cases signed <;> decide
  cases neg with
  | false => rw [intRes, signedOf, if_neg Bool.false_ne_true, if_pos (by omega)]; rfl
  | true => rw [intRes, signedOf, if_pos rfl, if_neg (by omega), if_pos (by omega)]; rfl

theorem fToInt_num (hm : mode < 4) (h : (frd fmtF32 fm x).isNum) : ∃ n : Int, IsRint mode (frd fmtF32 fm x).val n
    ∧ fToInt fm signed mode x = intRes signed (decide ((frd fmtF32 fm x).val ≠ n)) n := by
  have hnum := frd_number h
  generalize ha : frd fmtF32 fm x = a at hnum
  cases hnum with
  | zero neg =>
    refine ⟨0, by simpa using isRint_int (mode := mode) 0, ?_⟩
    unfold fToInt
    rw [ha]
    cases signed <;> rfl
  | @fin neg m e h0 =>
    rw [fToInt_fin ha]
    split
    · next hbig =>
      have hval := val_of_nonneg (neg := neg) (m := m) (e := e) (more := false) (by omega)
      have hmul : signedOf neg m * 2 ^ e.natAbs = signedOf neg (m * 2 ^ e.natAbs) := by cases neg <;> simp [signedOf]
      refine ⟨_, by rw [hval, Rat.cast_intCast]; exact isRint_int _, ?_⟩
      rw [hmul, intRes_huge]
      calc 2 ^ 32 < 2 ^ e.natAbs := Nat.pow_lt_pow_right (by omega) (by omega)
        _ ≤ m * 2 ^ e.natAbs := Nat.le_mul_of_pos_left _ h0
    · obtain ⟨hrint, hinexact⟩ := rintShift_spec (neg := neg) hm h0 (inUnit_self m) (s := -e) (by simp)
      rw [zpow_neg, div_inv_eq_mul, ← Datum.val_fin neg m e false] at hrint hinexact
      refine ⟨_, hrint, congrArg (fun p => intRes signed p _) ?_⟩
      rw [Bool.eq_iff_iff, hinexact, decide_eq_true_eq]
      norm_cast
end

theorem intToF32_delivers (fm : W) (v : Int) : Delivers fmtF32 fm v false (intToF32 fm v) := by
  obtain ⟨hnum, hval, hzero⟩ := ofSigned_spec v 0 false
  have h := delivers_fres (F := fmtF32) (by decide) fm (hnum.stands hzero)
  rw [hval] at h
  rw [intToF32]
  simpa using h

end Sys2Proof.Machine
end

section
/-! Packed elements, dot products, and the statement on narrow formats (R97, R99, R149 to R154). -/

namespace Sys2Proof.Machine

/-! ### Elements side by side -/

/-- The word o holds n elements of w bits, each the part's, with their flags joined. -/
def ElemWise (w n : Nat) (o : Nat × FFlags) (part : Nat → Nat × FFlags) : Prop :=
  o.1 < 2 ^ (w * n) ∧ (∀ i < n, o.1 / 2 ^ (w * i) % 2 ^ w = (part i).1) ∧ ∀ b, o.2.getLsbD b = true ↔ ∃ i < n, (part i).2.getLsbD b = true

theorem packElems_lt (w : Nat) : ∀ l : List (Nat × FFlags), (packElems w l).1 < 2 ^ (w * l.length)
  | [] => by simp [packElems]
  | e :: rest => by
    have hrest := packElems_lt w rest
    have he : e.1 % 2 ^ w < 2 ^ w := Nat.mod_lt _ (by positivity)
    rw [packElems, List.length_cons, Nat.mul_succ, Nat.add_comm (w * _), pow_add]
    calc e.1 % 2 ^ w + 2 ^ w * (packElems w rest).1 < 2 ^ w * ((packElems w rest).1 + 1) := by rw [Nat.mul_succ]; omega
      _ ≤ 2 ^ w * 2 ^ (w * rest.length) := Nat.mul_le_mul_left _ hrest

theorem packElems_elem (w : Nat) : ∀ (l : List (Nat × FFlags)) (i : Nat) (h : i < l.length), (packElems w l).1 / 2 ^ (w * i) % 2 ^ w = l[i].1 % 2 ^ w
  | e :: rest, 0, _ => by simp [packElems]
  | e :: rest, i + 1, h => by
    rw [packElems, Nat.mul_succ, Nat.add_comm (w * i), pow_add, ← Nat.div_div_eq_div_mul, Nat.add_mul_div_left _ _ (by positivity),
      Nat.div_eq_of_lt (Nat.mod_lt _ (by positivity)), Nat.zero_add]
    exact packElems_elem w rest i (by simpa using h)

theorem packElems_flags (w b : Nat) : ∀ l : List (Nat × FFlags), (packElems w l).2.getLsbD b = true ↔ ∃ e ∈ l, e.2.getLsbD b = true
  | [] => by simp [packElems]
  | e :: rest => by simp [packElems, packElems_flags w b rest]

/-- Packing puts each part, where it fits, in its place. -/
theorem elemWise_packElems {w n : Nat} {part : Nat → Nat × FFlags} (h : ∀ i < n, (part i).1 < 2 ^ w) :
    ElemWise w n (packElems w ((List.range n).map part)) part := by
  refine ⟨by simpa using packElems_lt w ((List.range n).map part), fun i hi => ?_, fun b => ?_⟩
  · rw [packElems_elem w _ i (by simpa using hi)]
    simp [Nat.mod_eq_of_lt (h i hi)]
  · simp [packElems_flags]

/-! ### Operations stay in the format -/

section
variable {F : Fmt} (hF : F ∈ Fmt.all) (fm : W) (x y z : Nat)

theorem fconv_lt (src : Fmt) {dst : Fmt} (hdst : dst ∈ Fmt.all) : (fconv src dst fm x).1 < 2 ^ (dst.signBit + 1) := deliver_lt hdst (frd_exact ..)

include hF in
theorem faddBits_lt : (faddBits F fm x y).1 < 2 ^ (F.signBit + 1) := deliver_lt hF (dadd_exact (frd_exact ..) (frd_exact ..))

include hF in
theorem fmulBits_lt : (fmulBits F fm x y).1 < 2 ^ (F.signBit + 1) := deliver_lt hF (dmul_exact (frd_exact ..) (frd_exact ..))

include hF in
theorem ffmaBits_lt : (ffmaBits F fm x y z).1 < 2 ^ (F.signBit + 1) :=
  deliver_lt hF (dadd_exact (dmul_exact (frd_exact ..) (frd_exact ..)) (frd_exact ..))
end

/-! ### Sums of many data (R99) -/

/-- The exact sum of data, from the first on. -/
def dsum (down : Bool) : List Datum → Datum
  | [] => .zero false
  | t :: rest => rest.foldl (dadd down) t

section
variable (down : Bool)

theorem dsum_append (t u : Datum) (l : List Datum) : dsum down ((t :: l) ++ [u]) = dadd down (dsum down (t :: l)) u := by
  simp [dsum]

/-- What a sum keeps as each datum is added to it. -/
theorem dsum_induction {P : List Datum → Datum → Prop} (one : ∀ t, P [t] t) (add : ∀ l d u, l ≠ [] → P l d → P (l ++ [u]) (dadd down d u)) :
    ∀ l, l ≠ [] → P l (dsum down l) := by
  intro l
  induction l using List.reverseRecOn with
  | nil => exact fun h => absurd rfl h
  | append_singleton l u ih =>
    intro _
    cases l with
    | nil => exact one u
    | cons t l => rw [dsum_append]; exact add _ _ u (by simp) (ih (by simp))

theorem dsum_nan {l : List Datum} (h : ∃ t ∈ l, t.isNan = true) : (dsum down l).isNan = true := by
  refine dsum_induction down (P := fun l d => (∃ t ∈ l, t.isNan = true) → d.isNan = true) (by simp) ?_ l (by rintro rfl; simp at h) h
  intro l d u _ ih hex
  have hnan : d.isNan = true ∨ u.isNan = true := by
    obtain ⟨t, ht, hn⟩ := hex
    rcases List.mem_append.1 ht with ht | ht
    · exact .inl (ih ⟨t, ht, hn⟩)
    · exact .inr (List.mem_singleton.1 ht ▸ hn)
  rw [dadd_of_nan hnan]
  rfl

theorem dsum_inf {l : List Datum} {neg : Bool} (h : ∀ t ∈ l, t = .inf neg ∨ t.Number) (hinf : .inf neg ∈ l) : dsum down l = .inf neg := by
  have key := dsum_induction down (P := fun l d => (∀ t ∈ l, t = .inf neg ∨ t.Number) →
    (.inf neg ∈ l → d = .inf neg) ∧ (.inf neg ∉ l → d.Number)) ?_ ?_ l (by rintro rfl; simp at hinf) h
  · exact key.1 hinf
  · intro t ht
    refine ⟨fun h => (List.mem_singleton.1 h).symm, fun hn => (ht t (by simp)).resolve_left (fun h => hn (by simp [h]))⟩
  · intro l d u _ ih hall
    obtain ⟨ih1, ih2⟩ := ih (fun t ht => hall t (by simp [ht]))
    rcases hall u (by simp) with rfl | hu
    · refine ⟨fun _ => ?_, fun hn => absurd (by simp) hn⟩
      by_cases hl : .inf neg ∈ l
      · rw [ih1 hl, dadd_inf_inf, if_pos rfl]
      · exact dadd_num_inf (ih2 hl).isNum
    · have hne : .inf neg ≠ u := by rintro rfl; cases hu
      simp only [List.mem_append, List.mem_singleton, hne, or_false]
      exact ⟨fun hl => by rw [ih1 hl, dadd_inf_num hu.isNum], fun hl => (dadd_number (ih2 hl) hu down).1⟩

/-- A sum of numbers is exact; a zero of it is `down`, unless it is made of zeros of one sign. -/
structure SumOf (l : List Datum) (d : Datum) : Prop where
  number : d.Number
  value : d.val = (l.map Datum.val).sum
  zeros : ∀ neg, (∀ t ∈ l, t = .zero neg) → d = .zero neg
  sign : d.isZero = true → d.neg = down ∨ ∀ t ∈ l, t = .zero d.neg

theorem Datum.eq_zero {d : Datum} (h : d.isZero = true) : d = .zero d.neg := by
  cases d with
  | zero neg => rfl
  | _ => exact absurd h Bool.false_ne_true

theorem dsum_number {l : List Datum} (h0 : l ≠ []) (h : ∀ t ∈ l, t.Number) : SumOf down l (dsum down l) := by
  refine dsum_induction down (P := fun l d => (∀ t ∈ l, t.Number) → SumOf down l d) ?_ ?_ l h0 h
  · intro t ht
    exact ⟨ht t (by simp), by simp, fun neg h => h t (by simp), fun hz => .inr (by simpa using Datum.eq_zero hz)⟩
  · intro l d u hl ih hall
    obtain ⟨hd, hval, hzeros, hsign⟩ := ih (fun t ht => hall t (by simp [ht]))
    obtain ⟨hnum, hsum, hzero⟩ := dadd_number hd (hall u (by simp)) down
    refine ⟨hnum, by rw [hsum, hval]; simp, fun neg hn => ?_, fun hz => ?_⟩
    · rw [hzeros neg (fun t ht => hn t (by simp [ht])), hn u (by simp)]
      simp [dadd, Datum.isNan]
    · rw [hzero hz, zeroSign]
      split
      · next hc =>
        obtain ⟨hdz, huz, hneg⟩ := hc
        refine (hsign hdz).imp_right fun hall t ht => ?_
        rcases List.mem_append.1 ht with ht | ht
        · exact hall t ht
        · rw [List.mem_singleton.1 ht, Datum.eq_zero huz, hneg]
      · exact .inl rfl
end

/-! ### Dot products (R99, R154) -/

/-- The dot product of n pairs of data and C, delivered. -/
def dotTerms (n : Nat) (a b : Nat → Datum) (c : Datum) : List Datum := (List.range n).map (fun i => dmul (a i) (b i)) ++ [c]

def dotRes (fm : W) (n : Nat) (a b : Nat → Datum) (c : Datum) : Nat × FFlags :=
  deliver fmtF32 fm (dsum (rmode fmtF32 fm = 3) (dotTerms n a b c))
    ((List.range n).any (fun i => mulInvalid (a i) (b i)) || (!((dotTerms n a b c).any Datum.isNan)
      && (dotTerms n a b c).any (fun t => t == .inf false) && (dotTerms n a b c).any (fun t => t == .inf true)))
    (c.isSnan || (List.range n).any (fun i => (a i).isSnan || (b i).isSnan))

theorem dotBits_eq (E : Fmt) (w n : Nat) (fm : W) (x y z : Nat) :
    dotBits E w n fm x y z = dotRes fm n (fun i => frd E fm (element w x i)) (fun i => frd E fm (element w y i)) (frd fmtF32 fm z) := by
  simp only [dotBits, dotRes, dotTerms, List.map_map, List.any_map]
  rfl

/-- The data of a dot product are those of bits. -/
structure DotArgs (n : Nat) (a b : Nat → Datum) (c : Datum) : Prop where
  a : ∀ i < n, (a i).Exact
  b : ∀ i < n, (b i).Exact
  c : c.Exact

section
variable {fm : W} {n : Nat} {a b : Nat → Datum} {c : Datum}

/-- 0 × ∞ among the products. -/
def DotInvalid (n : Nat) (a b : Nat → Datum) : Prop := ∃ i < n, mulInvalid (a i) (b i) = true

/-- A NaN among the sources. -/
def DotNan (n : Nat) (a b : Nat → Datum) (c : Datum) : Prop := c.isNan = true ∨ ∃ i < n, (a i).isNan = true ∨ (b i).isNan = true

theorem mem_dotTerms {t : Datum} : t ∈ dotTerms n a b c ↔ t = c ∨ ∃ i < n, dmul (a i) (b i) = t := by
  simp [dotTerms, or_comm]

theorem dotInvalid_iff : (List.range n).any (fun i => mulInvalid (a i) (b i)) = true ↔ DotInvalid n a b := by
  simp [DotInvalid]

theorem dotRes_invalid (h : DotInvalid n a b) : dotRes fm n a b c = (fmtF32.canon, flNV) := by
  rw [dotRes, dotInvalid_iff.2 h, Bool.true_or]
  rfl

theorem dotInvalid_def : DotInvalid n a b ↔ ∃ i < n, ((a i).isZero = true ∧ (b i).isInf = true) ∨ ((a i).isInf = true ∧ (b i).isZero = true) := by
  simp only [DotInvalid, mulInvalid, Bool.or_eq_true, Bool.and_eq_true, or_comm]

theorem dotRes_nan (hinv : ¬ DotInvalid n a b) (h : DotNan n a b c) : dotRes fm n a b c
    = (fmtF32.canon, flIf (c.isSnan || (List.range n).any (fun i => (a i).isSnan || (b i).isSnan)) flNV) := by
  have hterm : ∃ t ∈ dotTerms n a b c, t.isNan = true := by
    rcases h with hc | ⟨i, hi, hab⟩
    · exact ⟨c, mem_dotTerms.2 (.inl rfl), hc⟩
    · exact ⟨_, mem_dotTerms.2 (.inr ⟨i, hi, rfl⟩), by rw [dmul_of_nan hab]; rfl⟩
  have hany : (dotTerms n a b c).any Datum.isNan = true := by simpa using hterm
  rw [dotRes, Bool.eq_false_iff.2 (mt dotInvalid_iff.1 hinv), hany, Bool.not_true, Bool.false_and, Bool.false_and, Bool.or_false]
  exact deliver_nan _ (dsum_nan _ hterm)

/-- A signalling NaN among the sources. -/
def DotSnan (n : Nat) (a b : Nat → Datum) (c : Datum) : Prop := c.isSnan = true ∨ ∃ i < n, (a i).isSnan = true ∨ (b i).isSnan = true

theorem dotSnan_iff : (c.isSnan || (List.range n).any (fun i => (a i).isSnan || (b i).isSnan)) = true ↔ DotSnan n a b c := by
  simp [DotSnan]

theorem dotRes_snan (hinv : ¬ DotInvalid n a b) (h : DotNan n a b c) (hs : DotSnan n a b c) : dotRes fm n a b c = (fmtF32.canon, flNV) := by
  rw [dotRes_nan hinv h, dotSnan_iff.2 hs]; rfl

theorem dotRes_qnan (hinv : ¬ DotInvalid n a b) (h : DotNan n a b c) (hs : ¬ DotSnan n a b c) : dotRes fm n a b c = (fmtF32.canon, 0) := by
  rw [dotRes_nan hinv h, Bool.eq_false_iff.2 (mt dotSnan_iff.1 hs)]; rfl

theorem dmul_class {p q : Datum} (hp : p.Exact) (hq : q.Exact) (hpn : p.isNan = false) (hqn : q.isNan = false) (hinv : mulInvalid p q = false) :
    (((p.isInf = true ∨ q.isInf = true) ∧ dmul p q = .inf (p.neg != q.neg)) ∨ (p.isNum ∧ q.isNum ∧ (dmul p q).Number)) := by
  rcases p.nan_or_inf_or_num with h | hpi | hpnum
  · rw [hpn] at h; exact absurd h Bool.false_ne_true
  · refine .inl ⟨.inl hpi, dmul_inf hpn hqn (.inl ⟨hpi, ?_⟩)⟩
    simpa [mulInvalid, hpi] using (Bool.or_eq_false_iff.1 hinv).1
  · rcases q.nan_or_inf_or_num with h | hqi | hqnum
    · rw [hqn] at h; exact absurd h Bool.false_ne_true
    · refine .inl ⟨.inr hqi, dmul_inf hpn hqn (.inr ⟨hqi, ?_⟩)⟩
      simpa [hqi] using (Bool.or_eq_false_iff.1 hinv).2
    · exact .inr ⟨hpnum, hqnum, (dmul_number (hp.number hpnum) (hq.number hqnum)).1⟩

/-- An infinity of a sign among the terms. -/
def DotInf (n : Nat) (a b : Nat → Datum) (c : Datum) (neg : Bool) : Prop :=
  c = .inf neg ∨ ∃ i < n, ((a i).isInf = true ∨ (b i).isInf = true) ∧ ((a i).neg != (b i).neg) = neg

section
variable (hargs : DotArgs n a b c) (hinv : ¬ DotInvalid n a b) (hnan : ¬ DotNan n a b c)

include hargs hinv hnan

theorem dotTerms_product {i : Nat} (hi : i < n) :
    ((((a i).isInf = true ∨ (b i).isInf = true) ∧ dmul (a i) (b i) = .inf ((a i).neg != (b i).neg))
      ∨ ((a i).isNum ∧ (b i).isNum ∧ (dmul (a i) (b i)).Number)) :=
  dmul_class (hargs.a i hi) (hargs.b i hi) (by rw [← Bool.not_eq_true]; exact fun h => hnan (.inr ⟨i, hi, .inl h⟩))
    (by rw [← Bool.not_eq_true]; exact fun h => hnan (.inr ⟨i, hi, .inr h⟩)) (by rw [← Bool.not_eq_true]; exact fun h => hinv ⟨i, hi, h⟩)

theorem dotTerms_class {t : Datum} (ht : t ∈ dotTerms n a b c) : (∃ neg, t = .inf neg) ∨ t.Number := by
  rcases mem_dotTerms.1 ht with rfl | ⟨i, hi, rfl⟩
  · rcases t.nan_or_inf_or_num with h | h | h
    · exact absurd (.inl h) hnan
    · exact .inl ⟨_, Datum.exists_inf h⟩
    · exact .inr (hargs.c.number h)
  · rcases dotTerms_product hargs hinv hnan hi with ⟨-, h⟩ | ⟨-, -, h⟩
    · exact .inl ⟨_, h⟩
    · exact .inr h

theorem inf_mem_dotTerms (neg : Bool) : .inf neg ∈ dotTerms n a b c ↔ DotInf n a b c neg := by
  rw [mem_dotTerms, DotInf, eq_comm]
  refine or_congr_right (exists_congr fun i => and_congr_right fun hi => ?_)
  rcases dotTerms_product hargs hinv hnan hi with ⟨hinf, h⟩ | ⟨ha, hb, h⟩
  · rw [h, Datum.inf.injEq]
    exact (and_iff_right hinf).symm
  · refine iff_of_false (fun he => by rw [he] at h; cases h) ?_
    rw [ha.2, hb.2]
    simp

theorem dotTerms_not_nan : (dotTerms n a b c).any Datum.isNan = false := by
  rw [List.any_eq_false]
  intro t ht
  rcases dotTerms_class hargs hinv hnan ht with ⟨neg, rfl⟩ | h
  · exact Bool.false_ne_true
  · rw [h.isNum.1]; exact Bool.false_ne_true

theorem dotTerms_any_inf (neg : Bool) : (dotTerms n a b c).any (fun t => t == .inf neg) = true ↔ DotInf n a b c neg := by
  rw [← inf_mem_dotTerms hargs hinv hnan]
  simp

/-- Infinities of both signs are invalid. -/
theorem dotRes_infs (h1 : DotInf n a b c true) (h0 : DotInf n a b c false) : dotRes fm n a b c = (fmtF32.canon, flNV) := by
  rw [dotRes, dotTerms_not_nan hargs hinv hnan, (dotTerms_any_inf hargs hinv hnan false).2 h0, (dotTerms_any_inf hargs hinv hnan true).2 h1,
    Bool.not_false, Bool.and_true, Bool.and_true, Bool.or_true]
  rfl

theorem dot_valid {neg : Bool} (h : ¬ DotInf n a b c neg) : ((List.range n).any (fun i => mulInvalid (a i) (b i)) || (!((dotTerms n a b c).any Datum.isNan)
      && (dotTerms n a b c).any (fun t => t == .inf false) && (dotTerms n a b c).any (fun t => t == .inf true))) = false := by
  have hno : ((dotTerms n a b c).any (fun t => t == .inf false) && (dotTerms n a b c).any (fun t => t == .inf true)) = false := by
    have := Bool.eq_false_iff.2 (mt (dotTerms_any_inf hargs hinv hnan neg).1 h)
    cases neg <;> simp only [this, Bool.false_and, Bool.and_false]
  rw [Bool.eq_false_iff.2 (mt dotInvalid_iff.1 hinv), Bool.and_assoc, hno, Bool.and_false, Bool.or_false]

/-- One infinity, or several of one sign, is the sum. -/
theorem dotRes_inf (neg : Bool) (h : DotInf n a b c neg) (hno : ¬ DotInf n a b c (!neg)) :
    dotRes fm n a b c = (fmtF32.withSign neg fmtF32.infBits, 0) := by
  have hterms : ∀ t ∈ dotTerms n a b c, t = .inf neg ∨ t.Number := by
    intro t ht
    refine (dotTerms_class hargs hinv hnan ht).imp_left ?_
    rintro ⟨s, rfl⟩
    have hs : s ≠ !neg := by rintro rfl; exact hno ((inf_mem_dotTerms hargs hinv hnan _).1 ht)
    rw [show s = neg by cases s <;> cases neg <;> simp_all]
  rw [dotRes, dot_valid hargs hinv hnan hno, dsum_inf _ hterms ((inf_mem_dotTerms hargs hinv hnan neg).2 h), deliver_valid _ rfl, fres_inf]
  rfl
end

/-- Every term a zero of one sign. -/
def DotZeros (n : Nat) (a b : Nat → Datum) (c : Datum) (neg : Bool) : Prop :=
  c = .zero neg ∧ ∀ i < n, ((a i).isZero = true ∨ (b i).isZero = true) ∧ ((a i).neg != (b i).neg) = neg

section
variable (hargs : DotArgs n a b c) (hnan : ¬ DotNan n a b c) (h1 : ¬ DotInf n a b c true) (h0 : ¬ DotInf n a b c false)

include hargs hnan h1 h0

theorem dot_numbers : c.Number ∧ ∀ i < n, (a i).Number ∧ (b i).Number := by
  have hno : ∀ neg, ¬ DotInf n a b c neg := fun neg => by cases neg <;> assumption
  refine ⟨hargs.c.number ⟨?_, ?_⟩, fun i hi => ⟨(hargs.a i hi).number ⟨?_, ?_⟩, (hargs.b i hi).number ⟨?_, ?_⟩⟩⟩ <;> rw [← Bool.not_eq_true] <;> intro h
  · exact hnan (.inl h)
  · exact hno _ (.inl (Datum.exists_inf h))
  · exact hnan (.inr ⟨i, hi, .inl h⟩)
  · exact hno _ (.inr ⟨i, hi, .inl h, rfl⟩)
  · exact hnan (.inr ⟨i, hi, .inr h⟩)
  · exact hno _ (.inr ⟨i, hi, .inr h, rfl⟩)

theorem dot_not_invalid : ¬ DotInvalid n a b := by
  rintro ⟨i, hi, h⟩
  obtain ⟨ha, hb⟩ := (dot_numbers hargs hnan h1 h0).2 i hi
  rw [mulInvalid_of_num ha.isNum hb.isNum] at h
  exact Bool.false_ne_true h

theorem dotTerms_zero_iff (neg : Bool) : (∀ t ∈ dotTerms n a b c, t = .zero neg) ↔ DotZeros n a b c neg := by
  obtain ⟨-, hab⟩ := dot_numbers hargs hnan h1 h0
  have hprod : ∀ i < n, (dmul (a i) (b i) = .zero neg ↔ ((a i).isZero = true ∨ (b i).isZero = true) ∧ ((a i).neg != (b i).neg) = neg) := by
    intro i hi
    obtain ⟨-, -, hneg, hzero⟩ := dmul_number (hab i hi).1 (hab i hi).2
    rw [← Bool.or_eq_true, ← hzero, ← hneg]
    exact ⟨fun h => by rw [h]; exact ⟨rfl, rfl⟩, fun ⟨h1, h2⟩ => by rw [Datum.eq_zero h1, h2]⟩
  simp only [mem_dotTerms, DotZeros]
  constructor
  · exact fun h => ⟨h c (.inl rfl), fun i hi => (hprod i hi).1 (h _ (.inr ⟨i, hi, rfl⟩))⟩
  · rintro ⟨hc, hall⟩ t (rfl | ⟨i, hi, rfl⟩)
    · exact hc
    · exact (hprod i hi).2 (hall i hi)

/-- The exact sum, rounded once. -/
theorem dotRes_num {zneg : Bool} (hz : zneg = true ↔ DotZeros n a b c true ∨ (rmode fmtF32 fm = 3 ∧ ¬ DotZeros n a b c false)) :
    Delivers fmtF32 fm (((List.range n).map (fun i => (a i).val * (b i).val)).sum + c.val : Rat) zneg (dotRes fm n a b c) := by
  have hinv := dot_not_invalid hargs hnan h1 h0
  obtain ⟨hc, hab⟩ := dot_numbers hargs hnan h1 h0
  have hterms : ∀ t ∈ dotTerms n a b c, t.Number := by
    intro t ht
    rcases mem_dotTerms.1 ht with rfl | ⟨i, hi, rfl⟩
    · exact hc
    · exact (dmul_number (hab i hi).1 (hab i hi).2).1
  obtain ⟨hnum, hval, hzeros, hsign⟩ := dsum_number (decide (rmode fmtF32 fm = 3)) (by simp [dotTerms]) hterms
  have hsum : ((dotTerms n a b c).map Datum.val).sum = ((List.range n).map (fun i => (a i).val * (b i).val)).sum + c.val := by
    rw [dotTerms, List.map_append, List.sum_append, List.map_map]
    congr 1
    · refine congrArg List.sum (List.map_congr_left fun i hi => ?_)
      exact (dmul_number (hab i (List.mem_range.1 hi)).1 (hab i (List.mem_range.1 hi)).2).2.1
    · simp
  rw [dotRes, dot_valid hargs hinv hnan h1, deliver_valid _ hnum.isNum.1, ← hsum, ← hval]
  refine delivers_fres (by decide) fm (hnum.stands fun hzero => ?_)
  generalize dsum _ (dotTerms n a b c) = d at hzeros hsign hzero
  have hneg : ∀ neg, DotZeros n a b c neg → d.neg = neg := fun neg h => by rw [hzeros neg ((dotTerms_zero_iff hargs hnan h1 h0 neg).2 h)]; rfl
  have hdown : d.neg = decide (rmode fmtF32 fm = 3) ∨ DotZeros n a b c d.neg := (hsign hzero).imp_right (dotTerms_zero_iff hargs hnan h1 h0 _).1
  rw [Bool.eq_iff_iff, hz]
  constructor
  · intro ht
    rw [ht] at hdown
    rcases hdown with hdown | hdown
    · exact .inr ⟨of_decide_eq_true hdown.symm, fun hf => absurd ((hneg _ hf).symm.trans ht) Bool.false_ne_true⟩
    · exact .inl hdown
  · rintro (ht | ⟨hmode, hf⟩)
    · exact hneg _ ht
    · rw [decide_eq_true hmode] at hdown
      refine hdown.elim id fun h => ?_
      cases hd : d.neg with
      | true => rfl
      | false => exact absurd (hd ▸ h) hf
end
end

/-! ### Integer dot products (R154) -/

/-- Element i of a word of elements of w bits, read as the statement reads it. -/
def elementOf (w : Nat) (signed : Bool) (v i : Nat) : Int :=
  let k := v / 2 ^ (w * i) % 2 ^ w
  if signed = true ∧ 2 ^ (w - 1) ≤ k then (k : Int) - 2 ^ w else k

theorem toInt_ofNat_of_lt {w k : Nat} (hw : 0 < w) (hk : k < 2 ^ w) : (BitVec.ofNat w k).toInt = if 2 ^ (w - 1) ≤ k then (k : Int) - 2 ^ w else k := by
  obtain ⟨w, rfl⟩ : ∃ v, w = v + 1 := ⟨w - 1, by omega⟩
  rw [BitVec.toInt_eq_toNat_cond, BitVec.toNat_ofNat, Nat.mod_eq_of_lt hk, Nat.add_sub_cancel, pow_succ]
  have hcond : 2 * k < 2 ^ w * 2 ↔ ¬ 2 ^ w ≤ k := by omega
  simp only [hcond, ite_not]
  push_cast
  ring_nf

theorem dotInt_eq (signed : Bool) {w : Nat} (hw : 0 < w) (n x y z : Nat) : dotInt signed w n x y z
    = (BitVec.ofInt 32 (((List.range n).map (fun i => elementOf w signed x i * elementOf w signed y i)).sum + z)).toNat := by
  have hel : ∀ v i, (if signed then (BitVec.ofNat w (element w v i)).toInt else (element w v i : Int)) = elementOf w signed v i := by
    intro v i
    rw [element, toInt_ofNat_of_lt hw (Nat.mod_lt _ (by positivity))]
    cases signed <;> simp [elementOf]
  simp only [dotInt, hel]

/-! ### The statement -/

theorem cvtBits_sint (fm : W) {x : Nat} (h : x < 2 ^ 32) : cvtBits 6 fm x = intToF32 fm (if x < 2 ^ 31 then x else (x : Int) - 2 ^ 32) := by
  have hx : (BitVec.ofNat 32 x).toInt = if x < 2 ^ 31 then (x : Int) else (x : Int) - 2 ^ 32 := by
    rw [toInt_ofNat_of_lt (by omega) h]
    exact (ite_congr (propext not_lt.symm) (fun _ => rfl) (fun _ => rfl)).trans (ite_not ..)
  exact congrArg (intToF32 fm) hx

theorem intRes_eq (signed : Bool) (n : Int) (v : Rat) : intRes signed (decide (v ≠ n)) n =
    let hi : Int := if signed then 2 ^ 31 - 1 else 2 ^ 32 - 1
    let lo : Int := if signed then -(2 ^ 31) else 0
    if hi < n then (BitVec.ofInt 32 hi, flNV) else if n < lo then (BitVec.ofInt 32 lo, flNV)
      else (BitVec.ofInt 32 n, if v = n then 0 else flNX) := by
  by_cases h : v = n <;> simp [intRes, intHi, intLo, flIf, h]

theorem upkBits_fp8 (fm : W) (x : Nat) {h : Nat} (hh : h < 2) :
    upkBits (4 + h) fm x = packElems 16 ((List.range 2).map (fun i => fwiden fmtE4m3 fmtF16 fm (x / 2 ^ (16 * h + 8 * i) % 2 ^ 8)))
    ∧ upkBits (6 + h) fm x = packElems 16 ((List.range 2).map (fun i => fwiden fmtE5m2 fmtF16 fm (x / 2 ^ (16 * h + 8 * i) % 2 ^ 8))) := by
  have hpos : ∀ i, 8 * (2 * h + i) = 16 * h + 8 * i := fun i => by ring
  simp only [← hpos]
  interval_cases h <;> exact ⟨rfl, rfl⟩

/-- Settles O9: a conversion delivers its source's value; packed results are their elements side by side; a dot product is one exact sum. -/
theorem narrowLaws : Obligations.NarrowLaws := by
  refine ⟨⟨?convert, ?widen, ?toInt, intToF32_delivers, ?codes, ?packed⟩, ?arithmetic, ?fused, ?dots, ?integers⟩
  case convert =>
    intro src _ dst hdst fm x
    exact ⟨fconv_nan, fconv_inf, fconv_num hdst⟩
  case widen =>
    intro p hp fm x
    have h := widening_formats p hp
    exact ⟨fwiden_lt h.dst_mem, fwiden_nan, fwiden_valid h⟩
  case toInt =>
    intro fm signed mode x hm
    refine ⟨fToInt_nan, fToInt_inf, fun h => ?_⟩
    obtain ⟨n, hrint, hres⟩ := fToInt_num (signed := signed) hm h
    exact ⟨n, hrint, hres.trans (intRes_eq ..)⟩
  case codes =>
    intro fm x hx
    exact ⟨rfl, rfl, rfl, rfl, rfl, rfl, rfl, rfl, cvtBits_sint fm hx, rfl, rfl, rfl, rfl, rfl, rfl, rfl, rfl, rfl⟩
  case packed =>
    intro fm x
    refine ⟨elemWise_packElems fun i _ => fconv_lt fm _ fmtF32 (by decide), elemWise_packElems fun i _ => fconv_lt fm _ fmtF32 (by decide),
      elemWise_packElems fun i _ => fconv_lt fm _ fmtF16 (by decide), elemWise_packElems fun i _ => fconv_lt fm _ fmtF16 (by decide),
      elemWise_packElems fun i _ => fconv_lt fm _ fmtBf16 (by decide), elemWise_packElems fun i _ => fconv_lt fm _ fmtBf16 (by decide),
      elemWise_packElems fun i _ => fwiden_lt (dst := fmtF32) (by decide), elemWise_packElems fun i _ => fwiden_lt (dst := fmtF32) (by decide),
      fun h hh => ?_⟩
    obtain ⟨h4, h5⟩ := upkBits_fp8 fm x hh
    rw [h4, h5]
    exact ⟨elemWise_packElems fun i _ => fwiden_lt (dst := fmtF16) (by decide), elemWise_packElems fun i _ => fwiden_lt (dst := fmtF16) (by decide)⟩
  case arithmetic =>
    intro fm x y p hp
    simp only [List.mem_cons, List.not_mem_nil, or_false] at hp
    rcases hp with rfl | rfl
    · exact ⟨elemWise_packElems fun i _ => faddBits_lt (F := fmtE4m3) (by decide) .., elemWise_packElems fun i _ => fmulBits_lt (F := fmtE4m3) (by decide) ..⟩
    · exact ⟨elemWise_packElems fun i _ => faddBits_lt (F := fmtE5m2) (by decide) .., elemWise_packElems fun i _ => fmulBits_lt (F := fmtE5m2) (by decide) ..⟩
  case fused =>
    intro fm x y z p hp
    simp only [List.mem_cons, List.not_mem_nil, or_false] at hp
    rcases hp with rfl | rfl
    · exact elemWise_packElems fun i _ => ffmaBits_lt (F := fmtF16) (by decide) ..
    · exact elemWise_packElems fun i _ => ffmaBits_lt (F := fmtBf16) (by decide) ..
  case dots =>
    intro fm x y z p hp
    have hdot : p.2.2.2 = dotRes fm p.2.2.1 (fun i => frd p.1 fm (x / 2 ^ (p.2.1 * i) % 2 ^ p.2.1)) (fun i => frd p.1 fm (y / 2 ^ (p.2.1 * i) % 2 ^ p.2.1))
        (frd fmtF32 fm z) := by
      simp only [List.mem_cons, List.not_mem_nil, or_false] at hp
      rcases hp with rfl | rfl | rfl | rfl <;> exact dotBits_eq ..
    have hargs : DotArgs p.2.2.1 (fun i => frd p.1 fm (x / 2 ^ (p.2.1 * i) % 2 ^ p.2.1)) (fun i => frd p.1 fm (y / 2 ^ (p.2.1 * i) % 2 ^ p.2.1))
        (frd fmtF32 fm z) := ⟨fun _ _ => frd_exact .., fun _ _ => frd_exact .., frd_exact ..⟩
    dsimp only
    rw [hdot, ← dotInvalid_def]
    exact ⟨dotRes_invalid, fun hinv hnan => ⟨dotRes_snan hinv hnan, dotRes_qnan hinv hnan⟩, fun hinv hnan => dotRes_infs hargs hinv hnan,
      fun neg hinv hnan => dotRes_inf hargs hinv hnan neg, fun hnan h1 h0 zneg => dotRes_num hargs hnan h1 h0⟩
  case integers =>
    intro fm x y z
    exact ⟨congrArg (·, (0 : FFlags)) (dotInt_eq true (by omega) 4 x y z), congrArg (·, (0 : FFlags)) (dotInt_eq false (by omega) 4 x y z),
      congrArg (·, (0 : FFlags)) (dotInt_eq true (by omega) 8 x y z), congrArg (·, (0 : FFlags)) (dotInt_eq false (by omega) 8 x y z)⟩

end Sys2Proof.Machine
end

section
/-! Matrix tiles (R100, R102, R215, R216): reading a tile, its elements after a product, and the commands that write one. -/

namespace Sys2Proof.Machine

/-! ### Reading a tile (R216) -/

/-- Results lane by lane, said for the active lanes. -/
theorem laneResults_congr {r : Row} {f : Fields} {fn : LaneFn} {e : Env} {ls : List LaneView} {res : LaneView → LRes}
    (h : ∀ lv ∈ ls, laneActive f lv = true → helperRes r f lv (fn e ls lv) = res lv) : laneResults r f fn e ls = laneRes f ls res := by
  refine List.map_congr_left fun lv hlv => ?_
  by_cases ha : laneActive f lv = true
  · rw [if_pos ha, if_pos ha, h lv hlv ha]
  · rw [if_neg ha, if_neg ha]

/-- The word of `mrd` names a row and a tile the group holds, and its other bits are zero. -/
def MrdWord (x : Group) (a : Nat) : Prop := a / 2 ^ 14 = 0 ∧ a / 64 % 4 = 0 ∧ a / 256 < x.tiles.length

theorem MrdWord.tile {x : Group} {a : Nat} (h : MrdWord x a) : fieldOf a 13 8 = a / 256 := by
  obtain ⟨h14, -, -⟩ := h
  simp only [fieldOf]
  omega

theorem MrdWord.code {x : Group} {a : Nat} (h : MrdWord x a) :
    lowestCode [(1, fieldOf a 31 14 != 0 || fieldOf a 7 6 != 0), (6, decide (x.tiles.length ≤ a / 256))] = none := by
  obtain ⟨h14, h6, hz⟩ := h
  have hhigh : fieldOf a 31 14 = 0 := by simp only [fieldOf, h14, Nat.zero_mod]
  have hmid : fieldOf a 7 6 = 0 := h6
  rw [hhigh, hmid, decide_eq_false (not_le.2 hz)]
  rfl

section
variable {r : Row} {f : Fields} {s : State} {e : Env} {ls : List LaneView} {n g : Nat} {x : Group}

/-- `mrd` that waits for no command commits what it delivers to each lane. -/
theorem exec_mrd (hi : Issues (.mrd f) r f s e ls) (hg : s.issueGroup e = some (n, g, x))
    (hword : ∀ lv ∈ ls, laneActive f lv = true → MrdWord x (srcA ls lv f).toNat)
    (hfree : ∀ c ∈ (s.core n).matrix.cmds, c.grp = g → c.op = 0x164 ∨ c.op = 0x165 → ∀ lv ∈ ls, laneActive f lv = true → (srcA ls lv f).toNat / 256 ≠ c.z) :
    exec (.mrd f) s = .next (s.commit e (laneResults r f (mrdFn x r f) e ls) (wordsOf f)) := by
  have hwait : (s.core n).matrix.cmds.any (fun c => c.grp == g && (c.op == 0x164 || c.op == 0x165)
      && ((ls.filter (laneActive f)).map (fun lv => fieldOf (srcA ls lv f).toNat 13 8)).contains c.z) = false := by
    rw [List.any_eq_false]
    intro c hc
    simp only [Bool.and_eq_true, Bool.or_eq_true, beq_iff_eq, List.contains_iff_mem, List.mem_map, List.mem_filter, not_and, not_exists, and_imp]
    intro hgrp hop lv hlv ha hz
    exact hfree c hc hgrp hop lv hlv ha ((hword lv hlv ha).tile ▸ hz)
  change Host.Outcome.next (runMem (.mrd f) mrdBody s) = _
  rw [runMem_issues _ hi]
  simp only [mrdBody, hg, hwait]
  rfl

/-- The elements a lane reads: those of row A[5:0], columns 2t and 2t + 1 for lane t. -/
def mrdPair (x : Group) (f : Fields) (ls : List LaneView) (lv : LaneView) : W × W :=
  let a := (srcA ls lv f).toNat
  (getReg ((x.tiles[a / 256]?).getD []) (64 * (a % 64) + 2 * lv.pos), getReg ((x.tiles[a / 256]?).getD []) (64 * (a % 64) + 2 * lv.pos + 1))

theorem mrdFn_eq {lv : LaneView} (h : MrdWord x (srcA ls lv f).toNat) : mrdFn x r f e ls lv =
    if f.modx.toNat = 0 ∨ f.modx.toNat = 5 then .ok (setD64 lv f (pairOf (mrdPair x f ls lv).1 (mrdPair x f ls lv).2)) 0
    else
      let dst := if f.modx.toNat = 1 then fmtBf16 else if f.modx.toNat = 2 then fmtF16 else if f.modx.toNat = 3 then fmtE4m3 else fmtE5m2
      let p := fconv fmtF32 dst e.fmode (mrdPair x f ls lv).1.toNat
      let q := fconv fmtF32 dst e.fmode (mrdPair x f ls lv).2.toNat
      flagged e lv (setD lv f (BitVec.ofNat 32 (p.1 + (if f.modx.toNat ≤ 2 then 65536 else 256) * q.1))) (p.2 ||| q.2) := by
  unfold mrdFn
  simp only [h.code, h.tile, mrdPair, Bool.or_eq_true, decide_eq_true_eq]
/-- The pair as it stands. -/
theorem mrdFn_plain {lv : LaneView} (h : MrdWord x (srcA ls lv f).toNat) (hm : f.modx = 0 ∨ f.modx = 5) :
    helperRes r f lv (mrdFn x r f e ls lv) = .ok (setD64 lv f ((mrdPair x f ls lv).2 ++ (mrdPair x f ls lv).1)) 0 := by
  have hm' : f.modx.toNat = 0 ∨ f.modx.toNat = 5 := hm.imp (fun h => by rw [h]; rfl) (fun h => by rw [h]; rfl)
  rw [mrdFn_eq h, if_pos hm', helperRes_ok]
  rfl

/-- Each element converted, with the flags of both. -/
def mrdConverted (x : Group) (f : Fields) (F : Fmt) (fm : W) (ls : List LaneView) (lv : LaneView) : LaneView × FFlags :=
  let p := fconv fmtF32 F fm (mrdPair x f ls lv).1.toNat
  let q := fconv fmtF32 F fm (mrdPair x f ls lv).2.toNat
  (setD lv f (BitVec.ofNat 32 (p.1 + (if f.modx.toNat ≤ 2 then 65536 else 256) * q.1)), p.2 ||| q.2)

theorem mrdFn_converted {lv : LaneView} {F : Fmt} (h : MrdWord x (srcA ls lv f).toNat)
    (hm : (f.modx, F) ∈ [((1 : BitVec 4), fmtBf16), (2, fmtF16), (3, fmtE4m3), (4, fmtE5m2)]) :
    helperRes r f lv (mrdFn x r f e ls lv) = floatRes e lv (mrdConverted x f F e.fmode ls lv).1 (mrdConverted x f F e.fmode ls lv).2 := by
  have hdst : ¬ (f.modx.toNat = 0 ∨ f.modx.toNat = 5)
      ∧ (if f.modx.toNat = 1 then fmtBf16 else if f.modx.toNat = 2 then fmtF16 else if f.modx.toNat = 3 then fmtE4m3 else fmtE5m2) = F := by
    simp only [List.mem_cons, List.not_mem_nil, or_false, Prod.mk.injEq] at hm
    rcases hm with ⟨hm, rfl⟩ | ⟨hm, rfl⟩ | ⟨hm, rfl⟩ | ⟨hm, rfl⟩ <;> rw [hm] <;> decide
  rw [mrdFn_eq h, if_neg hdst.1, hdst.2]
  dsimp only
  rw [flagged_eq, helperRes_float]
  rfl
end

/-! ### Elements of a tile after a product (R100, R102) -/

theorem getReg_setReg (t : Regs) (n m : Nat) (v : W) : getReg (setReg t n v) m = if m = n then v else getReg t m := mapGet_mapPut ..

/-- Writes in turn: a register some write names holds the value they agree on. -/
theorem getReg_foldl_setReg {α : Type} (key : α → Nat) (val : α → W) {k : Nat} {w : W} : ∀ (l : List α) (t : Regs), (∀ e ∈ l, key e = k → val e = w) →
    ((∃ e ∈ l, key e = k) ∨ getReg t k = w) → getReg (l.foldl (fun t e => setReg t (key e) (val e)) t) k = w
  | [], _, _, hex => by simpa using hex
  | e :: rest, t, hval, hex => by
    refine getReg_foldl_setReg key val rest _ (fun e' he' => hval e' (by simp [he'])) ?_
    rw [getReg_setReg]
    by_cases hk : k = key e
    · rw [if_pos hk]; exact .inr (hval e (by simp) hk.symm)
    · rw [if_neg hk]
      refine hex.imp_left ?_
      rintro ⟨e', he', hk'⟩
      rcases List.mem_cons.1 he' with rfl | he'
      · exact absurd hk'.symm hk
      · exact ⟨e', he', hk'⟩

/-- Element (i, j) of a tile after a product. -/
def tileElement (buf scratch : List Host.Cell) (bytes : Nat) (ra rb : Rsv) (t : Regs) (i j : Nat) : W :=
  if rsvFloat ra.fmt then
    BitVec.ofNat 32 (mmaFloat (getReg t (64 * i + j)).toNat ((bufLine buf ra i).map (elementDatum ra.fmt)) ((bufLine buf rb j).map (elementDatum rb.fmt))
      (lineScales bytes scratch ra i) (lineScales bytes scratch rb j))
  else mmaInt (getReg t (64 * i + j)) ((bufLine buf ra i).map (elementInt ra.fmt)) ((bufLine buf rb j).map (elementInt rb.fmt))

theorem zipIdx_map_range {α : Type} (g : Nat → α) (n : Nat) : ((List.range n).map g).zipIdx = (List.range n).map (fun m => (g m, m)) := by
  refine List.ext_getElem (by simp) fun i h1 h2 => by simp

theorem mmaTile_eq (buf scratch : List Host.Cell) (bytes : Nat) (ra rb : Rsv) (t : Regs) : mmaTile buf scratch bytes ra rb t =
    ((List.range 64).flatMap (fun i => (List.range 64).map (fun j => (i, j)))).foldl
      (fun u p => setReg u (64 * p.1 + p.2) (tileElement buf scratch bytes ra rb t p.1 p.2)) t := by
  simp only [mmaTile, zipIdx_map_range, List.foldl_map, List.foldl_flatMap]
  rfl

theorem getReg_mmaTile (buf scratch : List Host.Cell) (bytes : Nat) (ra rb : Rsv) (t : Regs) {i j : Nat} (hi : i < 64) (hj : j < 64) :
    getReg (mmaTile buf scratch bytes ra rb t) (64 * i + j) = tileElement buf scratch bytes ra rb t i j := by
  rw [mmaTile_eq]
  refine getReg_foldl_setReg _ _ _ _ ?_ (.inl ⟨(i, j), by simp [hi, hj], rfl⟩)
  rintro ⟨i', j'⟩ hp hk
  simp only [List.mem_flatMap, List.mem_range, List.mem_map, Prod.mk.injEq] at hp
  obtain ⟨_, hi', _, hj', h1, h2⟩ := hp
  obtain ⟨rfl, rfl⟩ : i' = i ∧ j' = j := by omega
  rfl

theorem foldl_add_int (l : List Int) : l.foldl (· + ·) 0 = l.sum := by rw [List.sum_eq_foldl]

theorem mmaInt_eq (acc : W) (a b : List Int) : mmaInt acc a b = BitVec.ofInt 32 (acc.toInt + (List.zipWith (· * ·) a b).sum) := by
  rw [mmaInt, BitVec.ofInt_add, BitVec.ofInt_toInt, foldl_add_int]

theorem bufLine_getElem? (buf : List Host.Cell) (q : Rsv) (m : Nat) {k : Nat} (hk : k < q.k) : (bufLine buf q m)[k]? = some (bufElement buf q m k) := by
  simp [bufLine, hk]

theorem bufElement_eq (buf : List Host.Cell) (q : Rsv) (m k : Nat) :
    let p := m * q.k + k
    let byte := fun (o : Nat) => (mapGet buf (256 * q.base + o) 0).toNat
    bufElement buf q m k = if q.fmt = 2 ∨ q.fmt = 3 then byte (2 * p) + 256 * byte (2 * p + 1)
      else if q.fmt = 6 ∨ q.fmt = 7 then byte (p / 2) / 16 ^ (p % 2) % 16 else byte p := by
  intro p byte
  have hbase : ∀ o, q.base * 256 + o = 256 * q.base + o := fun o => by rw [Nat.mul_comm]
  by_cases h16 : q.fmt = 2 ∨ q.fmt = 3
  · have hw : rsvBits q.fmt = 16 := by simp [rsvBits, h16]
    have hbit : p * 16 / 8 = 2 * p := by omega
    simp only [bufElement, hw, if_pos h16, if_true]
    rw [show (m * q.k + k) * 16 / 8 = 2 * p from hbit, hbase, Nat.add_assoc]
    rfl
  · by_cases h4 : q.fmt = 6 ∨ q.fmt = 7
    · have hw : rsvBits q.fmt = 4 := by rcases h4 with h | h <;> rw [h] <;> rfl
      have hbit : p * 4 / 8 = p / 2 ∧ p * 4 % 8 = 4 * (p % 2) := by omega
      simp only [bufElement, hw, if_neg h16, if_pos h4]
      rw [show (m * q.k + k) * 4 / 8 = p / 2 from hbit.1, show (m * q.k + k) * 4 % 8 = 4 * (p % 2) from hbit.2, hbase, pow_mul]
      rfl
    · have hw : rsvBits q.fmt = 8 := by
        simp only [not_or] at h16 h4
        simp [rsvBits, h16, h4]
      simp only [bufElement, hw, if_neg h16, if_neg h4]
      rw [Nat.mul_div_cancel _ (by omega), Nat.mul_mod_left, hbase, pow_zero, Nat.div_one]
      exact Nat.mod_eq_of_lt (mapGet buf (256 * q.base + p) unwritten).isLt

/-! ### The commands (R215) -/

theorem listMod_eq_set {α : Type} (f : α → α) : ∀ (l : List α) (i : Nat) (d : α), i < l.length → listMod l i f = l.set i (f ((l[i]?).getD d))
  | a :: r, 0, _, _ => rfl
  | a :: r, i + 1, d, h => by
    rw [listMod, listMod_eq_set f r i d (by simpa using h)]
    rfl

section
variable {s : State} {n : Nat} {c : Cmd} {x : Group}

theorem potCount_of_not_pen (t : State) (hpen : c.pen = false) (bytes : Nat) : counted (t.potCount n c bytes) = (.done, t) := by
  rw [State.potCount, hpen]; rfl

theorem runMzro_tiles (hg : s.grp? n c.grp = some x) (hpen : c.pen = false) (hz : c.z < x.tiles.length) :
    (s.runMzro n c).1 = .done ∧ (((s.runMzro n c).2.grp? n c.grp).map (fun y => y.tiles)) = some (x.tiles.set c.z []) := by
  rw [State.runMzro, potCount_of_not_pen _ hpen]
  refine ⟨rfl, ?_⟩
  rw [State.grp?_modGrp_same, hg]
  exact congrArg some (listMod_eq_set _ _ _ [] hz)

theorem scalesInside_iff (bytes : Nat) (q : Rsv) : scalesInside bytes q = true ↔ q.bl = 0 ∨ q.soff + 2 * (64 * (q.k / scaleBlock q.bl)) ≤ bytes := by
  simp [scalesInside]

theorem scratchBytes_eq (r : LaunchRec) : r.scratchBytes = 16384 * (r.part.toNat % 256) := by
  simp [LaunchRec.scratchBytes, LaunchRec.scr, fieldOf]

theorem runMma_inside {ra rb : Rsv} (hg : s.grp? n c.grp = some x) (ha : c.rsvA = some ra) (hb : c.rsvB = some rb) (hpen : c.pen = false)
    (hz : c.z < x.tiles.length) (hra : scalesInside (s.recOf x).scratchBytes ra = true) (hrb : scalesInside (s.recOf x).scratchBytes rb = true) :
    (s.runMma n x c).1 = .done ∧ (((s.runMma n x c).2.grp? n c.grp).map (fun y => y.tiles))
      = some (x.tiles.set c.z (mmaTile (s.core n).matrix.buf x.scratch (s.recOf x).scratchBytes ra rb ((x.tiles[c.z]?).getD []))) := by
  simp only [State.runMma, ha, hb, hra, hrb, Bool.not_true, Bool.or_self, Bool.false_eq_true, if_false, potCount_of_not_pen _ hpen]
  refine ⟨trivial, ?_⟩
  rw [State.grp?_modGrp_same, hg]
  exact congrArg some (listMod_eq_set _ _ _ [] hz)

theorem runMma_outside {ra rb : Rsv} (ha : c.rsvA = some ra) (hb : c.rsvB = some rb)
    (h : ¬ (scalesInside (s.recOf x).scratchBytes ra = true ∧ scalesInside (s.recOf x).scratchBytes rb = true)) : s.runMma n x c = (.error 4, s) := by
  have hor : (!(scalesInside (s.recOf x).scratchBytes ra) || !(scalesInside (s.recOf x).scratchBytes rb)) = true := by
    simpa [imp_iff_not_or] using h
  simp only [State.runMma, ha, hb, hor, if_true]
end

end Sys2Proof.Machine
end

section
/-! The tile product of floating-point formats (R100, R101), and the statement on matrix results. -/

namespace Sys2Proof.Machine

/-! ### Rounding in the matrix engine -/

/-- A datum rounded to FP32, nearest even, subnormals kept. -/
def roundF32 (d : Datum) : Nat := (fround fmtF32 d 0 false false).1

theorem fres_zero_mode (d : Datum) : fres fmtF32 0 d = fround fmtF32 d 0 false false := rfl

theorem roundF32_delivers {d : Datum} {v : ℝ} {z : Bool} (h : d.Stands v z) :
    Delivers fmtF32 0 v z (roundF32 d, (fround fmtF32 d 0 false false).2) := delivers_fres (F := fmtF32) (by decide) 0 h

theorem roundF32_nan {d : Datum} (h : d.isNan = true) : roundF32 d = 0x7FC00000 := by
  cases d with
  | qnan => rfl
  | snan => rfl
  | _ => exact absurd h Bool.false_ne_true

theorem roundF32_inf {d : Datum} (h : d.isInf = true) : roundF32 d = fmtF32.withSign d.neg fmtF32.infBits := by
  rw [Datum.exists_inf h]; rfl

/-! ### The parts of a chunk (R101) -/

/-- A datum without its tail. -/
def Datum.core : Datum → Datum
  | .fin neg m e _ => .fin neg m e false
  | d => d

/-- A datum that counts as a number: a finite one has a value. -/
def Datum.Counts (d : Datum) : Prop := d.isNum ∧ (d.isZero = true ∨ d.val ≠ 0)

theorem Datum.core_fields (d : Datum) : d.core.isNan = d.isNan ∧ d.core.isInf = d.isInf ∧ d.core.isZero = d.isZero ∧ d.core.neg = d.neg ∧ d.core.val = d.val := by
  cases d <;> exact ⟨rfl, rfl, rfl, rfl, rfl⟩

theorem Datum.Counts.core {d : Datum} (h : d.Counts) : d.core.Number := by
  obtain ⟨⟨hnan, hinf⟩, hval⟩ := h
  cases d with
  | zero neg => exact .zero neg
  | fin neg m e more =>
    refine .fin neg e (Nat.pos_of_ne_zero ?_)
    have hne := hval.resolve_left Bool.false_ne_true
    rwa [ne_eq, Datum.val_fin_eq_zero] at hne
  | inf neg => exact absurd hinf (by simp [Datum.isInf])
  | _ => exact absurd hnan (by simp [Datum.isNan])

theorem dmul_core (a b : Datum) : dmul a b = dmul a b.core := by
  cases a <;> cases b <;> rfl

/-- t1 of a chunk: the aligned sum of its products. -/
def chunkT1 (ps : List Datum) : Nat := roundF32 (chunkSum ps)
/-- t2: t1 times both scales. -/
def chunkT2 (ps : List Datum) (sa sb : Datum) : Nat := roundF32 (dmul (dmul (fdec fmtF32 (chunkT1 ps) false) sa) sb)

theorem chunkStep_bad {acc : Nat} {ps : List Datum} {sa sb : Datum}
    (h : (fdec fmtF32 acc false).isNan = true ∨ (∃ p ∈ ps, p.isNan = true ∨ p.isInf = true) ∨ sa.isNan = true ∨ sa.isInf = true ∨ sb.isNan = true
      ∨ sb.isInf = true) : chunkStep acc ps sa sb = 0x7FC00000 := by
  have hbad : ((fdec fmtF32 acc false).isNan || ps.any (fun d => d.isNan || d.isInf) || (sa.isNan || sa.isInf) || (sb.isNan || sb.isInf)) = true := by
    simpa only [Bool.or_eq_true, List.any_eq_true, or_assoc] using h
  exact if_pos hbad

theorem chunkStep_eq {acc : Nat} {ps : List Datum} {sa sb : Datum} (hacc : (fdec fmtF32 acc false).isNan = false) (hps : ∀ p ∈ ps, p.isNum)
    (ha : sa.isNum) (hb : sb.isNum) :
    chunkStep acc ps sa sb = roundF32 (dadd false (fdec fmtF32 acc false) (fdec fmtF32 (chunkT2 ps sa sb) false)) := by
  have hany : ps.any (fun d => d.isNan || d.isInf) = false := by
    rw [List.any_eq_false]
    intro p hp
    obtain ⟨hn, hi⟩ := hps p hp
    simp [hn, hi]
  have hgood : ¬ ((fdec fmtF32 acc false).isNan || ps.any (fun d => d.isNan || d.isInf) || (sa.isNan || sa.isInf) || (sb.isNan || sb.isInf)) = true := by
    simp [hacc, hany, ha.1, ha.2, hb.1, hb.2]
  exact if_neg hgood

/-! ### t1: the aligned sum -/

/-- Whether a datum is finite and no zero. -/
def Datum.isFin : Datum → Bool
  | .fin _ _ _ _ => true
  | _ => false

theorem Datum.Counts.isFin_iff {d : Datum} (h : d.Counts) : d.isFin = true ↔ d.val ≠ 0 := by
  obtain ⟨⟨hnan, hinf⟩, hval⟩ := h
  cases d with
  | zero neg => simp [Datum.isFin]
  | fin neg m e more => exact iff_of_true rfl (hval.resolve_left Bool.false_ne_true)
  | inf neg => exact absurd hinf (by simp [Datum.isInf])
  | _ => exact absurd hnan (by simp [Datum.isNan])

/-- The greatest exponent of a nonempty list. -/
def maxExp (p : Datum) (rest : List Datum) : Int := rest.foldl (fun a q => max a (datumExp q)) (datumExp p)

/-- The sum of finite data, each truncated to 60 bits below the largest. -/
def alignedSum (nz : List Datum) : Datum :=
  match nz with
  | [] => .zero false
  | p :: rest => ofSigned ((nz.map (truncUnits (maxExp p rest - 60))).foldl (· + ·) 0) (maxExp p rest - 60) false

theorem chunkSum_eq (ps : List Datum) : chunkSum ps = alignedSum (ps.filter Datum.isFin) := rfl

theorem foldl_max_spec (l : List Datum) (a : Int) :
    (∀ q ∈ l, datumExp q ≤ l.foldl (fun a q => max a (datumExp q)) a) ∧ a ≤ l.foldl (fun a q => max a (datumExp q)) a
    ∧ (l.foldl (fun a q => max a (datumExp q)) a = a ∨ ∃ q ∈ l, l.foldl (fun a q => max a (datumExp q)) a = datumExp q) := by
  induction l generalizing a with
  | nil => simp
  | cons t l ih =>
    obtain ⟨hall, hle, hmem⟩ := ih (max a (datumExp t))
    refine ⟨?_, by simp only [List.foldl_cons]; omega, ?_⟩
    · intro q hq
      rcases List.mem_cons.1 hq with rfl | hq
      · simp only [List.foldl_cons]; omega
      · exact hall q hq
    · simp only [List.foldl_cons, List.mem_cons, exists_eq_or_imp]
      rcases hmem with h | ⟨q, hq, h⟩
      · rw [h]
        rcases max_choice a (datumExp t) with h' | h' <;> rw [h'] <;> simp
      · exact .inr (.inr ⟨q, hq, h⟩)

theorem maxExp_spec (p : Datum) (rest : List Datum) : (∀ q ∈ p :: rest, datumExp q ≤ maxExp p rest) ∧ ∃ q ∈ p :: rest, maxExp p rest = datumExp q := by
  obtain ⟨hall, hle, hmem⟩ := foldl_max_spec rest (datumExp p)
  refine ⟨fun q hq => ?_, ?_⟩
  · rcases List.mem_cons.1 hq with rfl | hq
    · exact hle
    · exact hall q hq
  · rcases hmem with h | ⟨q, hq, h⟩
    · exact ⟨p, by simp, h⟩
    · exact ⟨q, by simp [hq], h⟩

/-- The exponent of a datum is that of its magnitude. -/
theorem datumExp_bounds {d : Datum} (h : d.Counts) (hf : d.isFin = true) : (2 : Rat) ^ datumExp d ≤ |d.val| ∧ |d.val| < 2 ^ (datumExp d + 1) := by
  cases d with
  | fin neg m e more =>
    have hm : 0 < m := by cases h.core with | fin _ _ hm => exact hm
    obtain ⟨hlo, hhi⟩ := log2_bounds hm e
    have habs : |((Datum.fin neg m e more).val : ℝ)| = m * 2 ^ e := by
      rw [Datum.val_fin, abs_mul, abs_signR, one_mul, abs_of_pos (by positivity)]
    rw [← habs] at hlo hhi
    rw [datumExp, ← Rat.cast_le (K := ℝ), ← Rat.cast_lt (K := ℝ)]
    push_cast
    exact ⟨hlo, hhi⟩
  | _ => exact absurd hf Bool.false_ne_true

/-- Truncation toward zero. -/
def truncRat (v : Rat) : Int := if 0 ≤ v then ⌊v⌋ else ⌈v⌉

theorem truncRat_neg (v : Rat) : truncRat (-v) = -truncRat v := by
  rcases lt_trichotomy v 0 with h | rfl | h
  · rw [truncRat, truncRat, if_pos (by linarith), if_neg h.not_ge, Int.floor_neg]
  · simp [truncRat]
  · rw [truncRat, truncRat, if_neg (by linarith), if_pos h.le, Int.ceil_neg]

theorem truncRat_signed (neg : Bool) (n d : Nat) : truncRat ((signedOf neg n : Int) / (d : Nat)) = signedOf neg (n / d) := by
  have hpos : truncRat ((n : Rat) / d) = (n / d : Nat) := by
    rw [truncRat, if_pos (by positivity), Rat.floor_natCast_div_natCast]
    norm_cast
  cases neg with
  | false => exact hpos
  | true =>
    have hneg : (((signedOf true n : Int) : Rat) / d) = -((n : Rat) / d) := by simp [signedOf, neg_div]
    rw [hneg, truncRat_neg, hpos]
    rfl

theorem truncUnits_eq (g : Int) (d : Datum) : truncUnits g d = truncRat (d.val / 2 ^ g) := by
  cases d with
  | fin neg m e more =>
    rw [truncUnits, Datum.val_signed, mul_div_assoc, ← zpow_sub₀ (two_ne_zero' Rat)]
    split
    · next h =>
      have hpow : ((signedOf neg m : Int) : Rat) * 2 ^ (e - g) = ((signedOf neg (m * 2 ^ (e - g).natAbs) : Int) : Rat) / (1 : Nat) := by
        rw [show (2 : Rat) ^ (e - g) = 2 ^ (e - g).natAbs by rw [← zpow_natCast]; congr 1; omega]
        cases neg <;> simp [signedOf]
      rw [hpow, truncRat_signed, Nat.div_one]
    · next h =>
      have hpow : (2 : Rat) ^ (e - g) = 1 / ((2 ^ (g - e).natAbs : Nat) : Rat) := by
        push_cast
        rw [one_div, ← zpow_natCast, ← zpow_neg]; congr 1; omega
      rw [hpow, mul_one_div, truncRat_signed]
  | _ => simp [truncUnits, Datum.val, truncRat]

section
variable {ps : List Datum} (hps : ∀ p ∈ ps, p.Counts)

include hps

theorem filter_isFin_counts {q : Datum} (hq : q ∈ ps.filter Datum.isFin) : q.Counts ∧ q.isFin = true := by
  obtain ⟨hmem, hfin⟩ := List.mem_filter.1 hq
  exact ⟨hps q hmem, hfin⟩

/-- Where every product is a zero, so is their sum. -/
theorem chunkSum_of_zeros (h : ∀ p ∈ ps, p.val = 0) : chunkSum ps = .zero false := by
  have hnil : ps.filter Datum.isFin = [] := List.filter_eq_nil_iff.2 fun p hp hf => (hps p hp).isFin_iff.1 hf (h p hp)
  rw [chunkSum_eq, hnil]
  rfl

/-- The exponent of the largest product is the greatest of the finite ones. -/
theorem maxExp_eq {e : Int} (hlt : ∀ p ∈ ps, |p.val| < (2 : Rat) ^ (e + 1)) (hge : ∃ p ∈ ps, (2 : Rat) ^ e ≤ |p.val|) :
    ∃ p rest, ps.filter Datum.isFin = p :: rest ∧ maxExp p rest = e := by
  obtain ⟨p, hp, hple⟩ := hge
  have hpos : (0 : Rat) < 2 ^ e := by positivity
  have hfin : p.isFin = true := (hps p hp).isFin_iff.2 (abs_pos.1 (hpos.trans_le hple))
  have hmem : p ∈ ps.filter Datum.isFin := List.mem_filter.2 ⟨hp, hfin⟩
  obtain ⟨t, rest, heq⟩ := List.exists_cons_of_ne_nil (List.ne_nil_of_mem hmem)
  obtain ⟨hall, q, hq, hmax⟩ := maxExp_spec t rest
  rw [← heq] at hall hq
  have h1 : e < datumExp p + 1 := (zpow_lt_zpow_iff_right₀ (by norm_num : (1 : Rat) < 2)).1 (hple.trans_lt (datumExp_bounds (hps p hp) hfin).2)
  obtain ⟨hqc, hqf⟩ := filter_isFin_counts hps hq
  have h2 : datumExp q < e + 1 := (zpow_lt_zpow_iff_right₀ (by norm_num : (1 : Rat) < 2)).1
    ((datumExp_bounds hqc hqf).1.trans_lt (hlt q (List.mem_filter.1 hq).1))
  exact ⟨t, rest, heq, by have := hall p hmem; omega⟩

theorem sum_filter_isFin (g : Int) : ((ps.filter Datum.isFin).map (truncUnits g)).sum = (ps.map (truncUnits g)).sum := by
  induction ps with
  | nil => rfl
  | cons p ps ih =>
    have ih := ih fun q hq => hps q (by simp [hq])
    cases hf : p.isFin with
    | true => rw [List.filter_cons_of_pos hf, List.map_cons, List.sum_cons, ih, List.map_cons, List.sum_cons]
    | false =>
      have hval : p.val = 0 := by
        by_contra h
        exact Bool.false_ne_true (hf.symm.trans ((hps p (by simp)).isFin_iff.2 h))
      rw [List.filter_cons_of_neg (by simp [hf]), ih, List.map_cons, List.sum_cons, truncUnits_eq, hval]
      simp [truncRat]

/-- The aligned sum is exact in its units. -/
theorem chunkSum_stands {e : Int} (hlt : ∀ p ∈ ps, |p.val| < (2 : Rat) ^ (e + 1)) (hge : ∃ p ∈ ps, (2 : Rat) ^ e ≤ |p.val|) :
    (chunkSum ps).Stands (((ps.map (fun p => (truncRat (p.val / 2 ^ (e - 60)) : Rat) * 2 ^ (e - 60))).sum : Rat) : ℝ) false := by
  obtain ⟨p, rest, heq, hmax⟩ := maxExp_eq hps hlt hge
  obtain ⟨hnum, hval, hzero⟩ := ofSigned_spec ((ps.map (truncUnits (e - 60))).sum) (e - 60) false
  have hsum : chunkSum ps = ofSigned ((ps.map (truncUnits (e - 60))).sum) (e - 60) false := by
    rw [chunkSum_eq, ← sum_filter_isFin hps, heq]
    simp only [alignedSum, hmax, foldl_add_int]
  have hstands := hnum.stands hzero
  have hunits : (ps.map (fun p => (truncRat (p.val / 2 ^ (e - 60)) : Rat) * 2 ^ (e - 60))).sum
      = ((ps.map (truncUnits (e - 60))).sum : Int) * (2 : Rat) ^ (e - 60) := by
    simp only [← truncUnits_eq, List.sum_map_mul_right]
    rw [Int.cast_list_sum, List.map_map]
    rfl
  rw [hval, ← hsum, ← hunits] at hstands
  exact hstands
end

/-! ### t2 and the sum (R101) -/

section
variable {a sa sb : Datum}

theorem scaled_num (ha : a.Number) (hsa : sa.Counts) (hsb : sb.Counts) :
    (dmul (dmul a sa) sb).Stands ((a.val * sa.val * sb.val : Rat) : ℝ) ((a.neg != sa.neg) != sb.neg) := by
  obtain ⟨hp, hpv, hpn, -⟩ := dmul_number ha hsa.core
  obtain ⟨hq, hqv, hqn, -⟩ := dmul_number hp hsb.core
  rw [hpv, sa.core_fields.2.2.2.2, sb.core_fields.2.2.2.2] at hqv
  rw [hpn, sa.core_fields.2.2.2.1, sb.core_fields.2.2.2.1] at hqn
  rw [dmul_core a sa, dmul_core _ sb, ← hqv]
  exact hq.stands fun _ => hqn

theorem scaled_inf_zero (ha : a.isInf = true) (hsa : sa.Counts) (h : sa.isZero = true ∨ sb.isZero = true) :
    (dmul (dmul a sa) sb).isNan = true := by
  have hnan : a.isNan = false := by rw [Datum.exists_inf ha]; rfl
  cases h0 : sa.isZero with
  | true =>
    rw [dmul_zero_inf (a := a) (b := sa) (by simp [mulInvalid, ha, h0]), dmul_of_nan (.inl rfl)]
    rfl
  | false =>
    have hsb0 : sb.isZero = true := h.resolve_left (by simp [h0])
    rw [dmul_inf hnan hsa.1.1 (.inl ⟨ha, h0⟩), dmul_zero_inf (by simp [mulInvalid, Datum.isInf, hsb0])]
    rfl

theorem scaled_inf (ha : a.isInf = true) (hsa : sa.Counts) (hsb : sb.Counts) (hsa0 : sa.isZero = false) (hsb0 : sb.isZero = false) :
    dmul (dmul a sa) sb = .inf ((a.neg != sa.neg) != sb.neg) := by
  have hnan : a.isNan = false := by rw [Datum.exists_inf ha]; rfl
  rw [dmul_inf hnan hsa.1.1 (.inl ⟨ha, hsa0⟩), dmul_inf rfl hsb.1.1 (.inl ⟨rfl, hsb0⟩)]
  rfl

theorem zeroSign_false (a b : Datum) : zeroSign false a b = (a.isZero && b.isZero && a.neg && b.neg) := by
  rw [zeroSign]
  cases a.isZero <;> cases b.isZero <;> cases a.neg <;> cases b.neg <;> rfl

theorem sum_num {b : Datum} (ha : a.Number) (hb : b.Number) :
    (dadd false a b).Stands ((a.val + b.val : Rat) : ℝ) (a.isZero && b.isZero && a.neg && b.neg) := by
  obtain ⟨hnum, hval, hzero⟩ := dadd_number ha hb false
  rw [← hval, ← zeroSign_false]
  exact hnum.stands hzero
end

/-- What a chunk makes of the accumulator, where nothing in it is a NaN or an infinity. -/
theorem chunkStep_parts {acc : Nat} {ps : List Datum} {sa sb : Datum} (hacc : (fdec fmtF32 acc false).isNan = false) (hps : ∀ p ∈ ps, p.Counts)
    (hsa : sa.Counts) (hsb : sb.Counts) :
    ∃ (t1 t2 : Nat) (f1 f2 f3 : FFlags),
      let A := fdec fmtF32 acc false
      let T1 := fdec fmtF32 t1 false
      let T2 := fdec fmtF32 t2 false
      let product := (T1.neg != sa.neg) != sb.neg
      ((∀ p ∈ ps, p.val = 0) → t1 = 0)
      ∧ (∀ e : Int, (∀ p ∈ ps, |p.val| < 2 ^ (e + 1)) → (∃ p ∈ ps, 2 ^ e ≤ |p.val|) →
          Delivers fmtF32 0 (((ps.map (fun p => (truncRat (p.val / 2 ^ (e - 60)) : Rat) * 2 ^ (e - 60))).sum : Rat) : ℝ) false (t1, f1))
      ∧ (T1.isNum → Delivers fmtF32 0 ((T1.val * sa.val * sb.val : Rat) : ℝ) product (t2, f2))
      ∧ (T1.isInf = true → sa.isZero = true ∨ sb.isZero = true → t2 = 0x7FC00000)
      ∧ (T1.isInf = true → sa.isZero = false → sb.isZero = false → t2 = fmtF32.withSign product fmtF32.infBits)
      ∧ (A.isNum → T2.isNum → Delivers fmtF32 0 ((A.val + T2.val : Rat) : ℝ) (A.isZero && T2.isZero && A.neg && T2.neg) (chunkStep acc ps sa sb, f3))
      ∧ (A.isNum → T2.isInf = true → chunkStep acc ps sa sb = fmtF32.withSign T2.neg fmtF32.infBits)
      ∧ (A.isInf = true → T2.isNum ∨ (T2.isInf = true ∧ T2.neg = A.neg) → chunkStep acc ps sa sb = fmtF32.withSign A.neg fmtF32.infBits)
      ∧ (A.isInf = true → T2.isInf = true → T2.neg ≠ A.neg → chunkStep acc ps sa sb = 0x7FC00000)
      ∧ (T2.isNan = true → chunkStep acc ps sa sb = 0x7FC00000) := by
  rw [chunkStep_eq hacc (fun p hp => (hps p hp).1) hsa.1 hsb.1]
  refine ⟨chunkT1 ps, chunkT2 ps sa sb, (fround fmtF32 (chunkSum ps) 0 false false).2,
    (fround fmtF32 (dmul (dmul (fdec fmtF32 (chunkT1 ps) false) sa) sb) 0 false false).2,
    (fround fmtF32 (dadd false (fdec fmtF32 acc false) (fdec fmtF32 (chunkT2 ps sa sb) false)) 0 false false).2,
    ?zeros, ?aligned, ?scaled, ?invalid, ?infinite, ?sum, ?toInf, ?fromInf, ?opposite, ?nan⟩
  case zeros => exact fun h => by rw [chunkT1, chunkSum_of_zeros hps h]; rfl
  case aligned => exact fun e hlt hge => roundF32_delivers (chunkSum_stands hps hlt hge)
  case scaled => exact fun h => roundF32_delivers (scaled_num (fdec_number h) hsa hsb)
  case invalid => exact fun h h0 => roundF32_nan (scaled_inf_zero h hsa h0)
  case infinite => exact fun h ha hb => by rw [chunkT2, scaled_inf h hsa hsb ha hb]; rfl
  case sum => exact fun hA hT => roundF32_delivers (sum_num (fdec_number hA) (fdec_number hT))
  case toInf => exact fun hA hT => by rw [Datum.exists_inf hT, dadd_num_inf hA]; rfl
  case fromInf =>
    rintro hA (hT | ⟨hT, hneg⟩)
    · rw [Datum.exists_inf hA, dadd_inf_num hT]; rfl
    · rw [Datum.exists_inf hA, Datum.exists_inf hT, dadd_inf_inf, if_pos hneg.symm]; rfl
  case opposite => exact fun hA hT hneg => by rw [Datum.exists_inf hA, Datum.exists_inf hT, dadd_inf_inf, if_neg (Ne.symm hneg)]; rfl
  case nan => exact fun hT => by rw [dadd_of_nan (.inr hT)]; rfl

/-! ### The chunks of a product (R100) -/

/-- The scale of line m for chunk c, where it lies in the scratch. -/
def chunkScale (scratch : List Host.Cell) (q : Rsv) (m c : Nat) : Datum :=
  if q.bl = 0 then Datum.fin false 1 0 false
  else
    let at_ := q.soff + 2 * (m * (q.k / scaleBlock q.bl) + 32 * c / scaleBlock q.bl)
    fdec fmtBf16 ((mapGet scratch at_ 0).toNat + 256 * (mapGet scratch (at_ + 1) 0).toNat) false

/-- The value of element k of line m. -/
def elementValue (buf : List Host.Cell) (q : Rsv) (m k : Nat) : Datum := elementDatum q.fmt (((bufLine buf q m)[k]?).getD 0)

section
variable {buf scratch : List Host.Cell} {bytes : Nat} {q : Rsv} {m c : Nat}

theorem scaleBlock_pos (bl : Nat) : 0 < scaleBlock bl := by unfold scaleBlock; split_ifs <;> decide

theorem scaleOf_inside (hm : m < 64) (hc : c < q.k / 32) (h : q.bl ≠ 0 → q.k % scaleBlock q.bl = 0 ∧ q.soff + 2 * (64 * (q.k / scaleBlock q.bl)) ≤ bytes) :
    scaleOf bytes scratch q m c = some (chunkScale scratch q m c) := by
  by_cases h0 : q.bl = 0
  · simp [scaleOf, chunkScale, h0, oneDatum]
  · obtain ⟨hmod, hin⟩ := h h0
    have hblock : 32 * c / scaleBlock q.bl < q.k / scaleBlock q.bl := by
      rw [Nat.div_lt_iff_lt_mul (scaleBlock_pos _), Nat.div_mul_cancel (Nat.dvd_of_mod_eq_zero hmod)]
      omega
    have hline : m * (q.k / scaleBlock q.bl) + q.k / scaleBlock q.bl ≤ 64 * (q.k / scaleBlock q.bl) := by
      rw [← Nat.succ_mul]
      exact Nat.mul_le_mul_right _ hm
    have hle : ¬ bytes < q.soff + 2 * (m * (q.k / scaleBlock q.bl) + 32 * c / scaleBlock q.bl) + 2 := by omega
    simp only [scaleOf, chunkScale, if_neg h0, if_neg hle]
    rfl

theorem lineScales_inside (hm : m < 64) (hc : c < q.k / 32) (h : q.bl ≠ 0 → q.k % scaleBlock q.bl = 0 ∧ q.soff + 2 * (64 * (q.k / scaleBlock q.bl)) ≤ bytes) :
    ((lineScales bytes scratch q m)[c]?).getD oneDatum = chunkScale scratch q m c := by
  simp [lineScales, hc, scaleOf_inside hm hc h]

theorem bufLine_length : (bufLine buf q m).length = q.k := by simp [bufLine]

/-- The products of a chunk. -/
theorem chunk_products {ra rb : Rsv} {i j : Nat} (hk : ra.k = rb.k) (hc : c < ra.k / 32) :
    List.zipWith dmul ((((bufLine buf ra i).map (elementDatum ra.fmt)).drop (32 * c)).take 32) ((((bufLine buf rb j).map (elementDatum rb.fmt)).drop (32 * c)).take 32)
      = (List.range 32).map (fun k => dmul (elementValue buf ra i (32 * c + k)) (elementValue buf rb j (32 * c + k))) := by
  refine List.ext_getElem (by simp [bufLine_length]; omega) fun k h1 h2 => ?_
  have hk32 : k < 32 := by simpa using h2
  have hka : 32 * c + k < ra.k := by omega
  simp [elementValue, bufLine, hka, hk ▸ hka]

/-- An element of a floating-point product: the chunks in ascending order, each with the scales that cover it. -/
theorem tileElement_float {t : Regs} {ra rb : Rsv} {i j : Nat} (hi : i < 64) (hj : j < 64) (hk : ra.k = rb.k) (hfmt : ra.fmt < 4)
    (ha : ra.bl ≠ 0 → ra.k % scaleBlock ra.bl = 0 ∧ ra.soff + 2 * (64 * (ra.k / scaleBlock ra.bl)) ≤ bytes)
    (hb : rb.bl ≠ 0 → rb.k % scaleBlock rb.bl = 0 ∧ rb.soff + 2 * (64 * (rb.k / scaleBlock rb.bl)) ≤ bytes) :
    tileElement buf scratch bytes ra rb t i j = BitVec.ofNat 32 ((List.range (ra.k / 32)).foldl (fun acc c =>
      chunkStep acc ((List.range 32).map (fun k => dmul (elementValue buf ra i (32 * c + k)) (elementValue buf rb j (32 * c + k))))
        (chunkScale scratch ra i c) (chunkScale scratch rb j c)) (getReg t (64 * i + j)).toNat) := by
  rw [tileElement, if_pos (by simpa [rsvFloat] using hfmt), mmaFloat, List.length_map, bufLine_length]
  refine congrArg (BitVec.ofNat 32) (List.foldl_ext _ _ _ fun acc c hc => ?_)
  have hc := List.mem_range.1 hc
  rw [chunk_products hk hc, lineScales_inside hi hc ha, lineScales_inside hj (hk ▸ hc) hb]
end

/-- Settles O36: a tile is read lane by lane, each element after a product is one chain of chunks, and the commands write that tile. -/
theorem matrixResults : Obligations.MatrixResults := by
  refine ⟨?read, ⟨mmaInt_eq, ?mzro, ?integer, ?line, ?mma⟩, ?float, rfl, ?bad, ?parts⟩
  case read =>
    intro r f s e ls n g x hi hg a hword hfree at_ next
    have hexec := exec_mrd hi hg hword hfree
    refine ⟨fun hm => ?_, fun F hm => ?_⟩
    · rw [hexec, laneResults_congr fun lv hlv ha => mrdFn_plain (hword lv hlv ha) hm]
      rfl
    · rw [hexec, laneResults_congr fun lv hlv ha => mrdFn_converted (hword lv hlv ha) hm]
      refine ⟨rfl, fun hen => ?_⟩
      simp only [floatRes_of_no_enables hen]
      rfl
  case mzro => exact fun s n c x hg hpen hz => runMzro_tiles hg hpen hz
  case integer =>
    intro buf scratch bytes ra rb t i j hi hj hfmt
    rw [getReg_mmaTile _ _ _ _ _ _ hi hj, tileElement, hfmt, if_neg Bool.false_ne_true, mmaInt_eq]
  case line => exact fun buf q m k hk => (bufLine_getElem? buf q m hk).trans (congrArg some (bufElement_eq buf q m k))
  case mma =>
    intro s n c x ra rb hg ha hb hpen hz bytes inside
    have hbytes : (s.recOf x).scratchBytes = bytes := scratchBytes_eq _
    have hinside : inside ↔ scalesInside (s.recOf x).scratchBytes ra = true ∧ scalesInside (s.recOf x).scratchBytes rb = true := by
      rw [scalesInside_iff, scalesInside_iff, hbytes]
      simp only [inside, List.forall_mem_cons, List.not_mem_nil, false_imp_iff, implies_true, and_true]
    rw [hinside, ← hbytes]
    exact ⟨fun h => runMma_inside hg ha hb hpen hz h.1 h.2, runMma_outside ha hb⟩
  case float =>
    intro buf scratch bytes ra rb t i j hi hj hk hq
    obtain ⟨hfa, hsa⟩ := hq ra (by simp)
    obtain ⟨-, hsb⟩ := hq rb (by simp)
    exact (getReg_mmaTile _ _ _ _ _ _ hi hj).trans (tileElement_float hi hj hk hfa hsa hsb)
  case bad => exact fun acc ps sa sb h => chunkStep_bad h
  case parts => exact fun acc ps sa sb hA hps hsa hsb => chunkStep_parts hA hps hsa hsb

end Sys2Proof.Machine
end

section
/-! The checks of an access (R177, R347): on one page that is translated, on one that is not, and at machine privilege. -/

namespace Sys2Proof.Machine

/-! ### One page -/

theorem pageCuts_of_page {ea n : Nat} (h : ea % 2 ^ 16 + n ≤ 2 ^ 16) : pageCuts ea n = [(ea, n)] := by
  unfold pageCuts; dsimp only; rw [if_pos (by omega)]

section
variable {s : State} {m : MemCtx} {e : Env} {kind : AccKind} {scope : Option Nat} {ea n : Nat} (hpage : ea % 2 ^ 16 + n ≤ 2 ^ 16)
include hpage

/-- An access on one page whose walk has still to end waits for it (R350). -/
theorem State.checkGlobal_walking (h : s.pageOf (s.trickOf e.who) m.xl ea kind (s.accPoison m.unit scope kind n) = .walking) :
    s.checkGlobal m e ea n kind scope = .walking [ea] := by
  simp [State.checkGlobal, pageCuts_of_page hpage, h]

/-- An access whose one page fails a check fails with it (R177 steps 3 to 5). -/
theorem State.checkGlobal_fail {c k : Nat} (h : s.pageOf (s.trickOf e.who) m.xl ea kind (s.accPoison m.unit scope kind n) = .fail (.cause c k)) :
    s.checkGlobal m e ea n kind scope = .fail (accFault e c k ea (kind != .load)) := by
  simp [State.checkGlobal, pageCuts_of_page hpage, h]

/-- An access whose one page passes meets the protected copies and the locks next (R177 steps 5 to 7). -/
theorem State.checkGlobal_place {k : Nat} {cr : Bool} (h : s.pageOf (s.trickOf e.who) m.xl ea kind (s.accPoison m.unit scope kind n) = .place k cr) :
    s.checkGlobal m e ea n kind scope = if copyStore kind k n then .fail (accFault e 5 0 ea (kind != .load))
      else match s.lockHit m [⟨ea, n, k, cr⟩] ea n kind with
        | some .sysLock => .held (accFault e 0 0 ea (kind != .load))
        | some (.cause c k) => .fail (accFault e c k ea (kind != .load))
        | none => .segs [⟨ea, n, k, cr⟩] := by
  unfold State.checkGlobal
  by_cases hc : copyStore kind k n = true
  · simp [pageCuts_of_page hpage, h, hc]
  · simp [pageCuts_of_page hpage, h, hc] <;> rfl
end

theorem State.checkForm_of_aligned {s : State} {m : MemCtx} {e : Env} {kind : AccKind} {scope : Option Nat} {ea n : Nat} {aligned : Bool}
    (h : aligned = true → ea % n = 0) : s.checkForm m e ea n kind scope aligned = s.checkGlobal m e ea n kind scope := by
  unfold State.checkForm
  rw [if_neg]
  simpa using h

/-! ### Translated accesses -/

section
variable {s : State} {who : Issuer × Nat} {u : TlbUnit} {asid root ea : Nat} {user : Bool} {kind : AccKind} {bad : Nat → Bool}

theorem State.pageOf_cached {t : TlbEntry} (hea : ea < 2 ^ 48) (ht : s.cached u asid ea = some t) :
    s.pageOf who (.tables u asid root user) ea kind bad = match s.pageFail t.leaf kind user (bad (s.placeOf t.leaf t.size ea)) with
      | some f => .fail f
      | none => .place (s.placeOf t.leaf t.size ea) (pteCR t.leaf && !(isWindow (placeAddr (s.placeOf t.leaf t.size ea)))) := by
  have h0 : ea / 2 ^ 48 = 0 := Nat.div_eq_of_lt hea
  simp only [State.pageOf, h0, ht, ne_eq, not_true_eq_false, if_false] <;> rfl

theorem State.pageOf_uncached (hea : ea < 2 ^ 48) (ht : s.cached u asid ea = none) :
    s.pageOf who (.tables u asid root user) ea kind bad = match s.walkFailed who u.column asid ea with
      | some code => .fail (.cause 16 code)
      | none => .walking := by
  have h0 : ea / 2 ^ 48 = 0 := Nat.div_eq_of_lt hea
  simp only [State.pageOf, h0, ht, ne_eq, not_true_eq_false, if_false] <;> rfl

/-- Steps 3 to 5 for a data access: poison, the far mark, permissions. -/
theorem State.pageFail_data (e : D64) (user : Bool) (p : Bool) (hk : kind ≠ .fetch) : s.pageFail e kind user p =
    if p then some (.cause 16 3) else if isFar (pteFrame e) then some (.cause 17 0) else if permDenied e kind user then some (.cause 5 0) else none := by
  simp [State.pageFail, hk]
end

/-- Steps 6 and 7 for a translated access: the entries of its ASID that meet its sectors (R304). -/
theorem State.lockHit_tables {s : State} {m : MemCtx} {u : TlbUnit} {asid root : Nat} {user : Bool} (hm : m.xl = .tables u asid root user)
    (segs : List Seg) (ea n : Nat) (kind : AccKind) :
    let hit := (s.col m.unit.col).locks.filter (fun l => l.asid = m.asid && l.first ≤ (ea + n - 1) / 32 && ea / 32 ≤ l.last)
    s.lockHit m segs ea n kind = if hit.any (fun l => l.sys) then some .sysLock
      else if hit.any (fun l => l.dst || kind != .load) then some (.cause 6 0) else none := by
  simp only [State.lockHit, hm]
  rfl

/-- No lock meets an access that reaches its place. -/
theorem Reaches.lockHit {s : State} {m : MemCtx} {kind : AccKind} {ea n k : Nat} (h : Reaches s m kind ea n k) (cr : Bool) :
    s.lockHit m [⟨ea, n, k, cr⟩] ea n kind = none := by
  have hfree := h.free
  cases hx : m.xl with
  | tables u asid root user =>
    have hnil : (s.col m.unit.col).locks.filter (fun l => l.asid = m.asid && l.first ≤ (ea + n - 1) / 32 && ea / 32 ≤ l.last) = [] :=
      List.filter_eq_nil_iff.2 (fun l hl => by simpa [and_assoc] using (hfree l hl).1)
    rw [State.lockHit_tables hx, hnil]
    rfl
  | physical c =>
    have hno : ∀ i < n, s.frameLocked m.unit.col (k + i) = false := by
      intro i hi
      simp only [State.frameLocked, List.any_eq_false, Bool.and_eq_true, decide_eq_true_eq, not_and, List.any_eq_true, not_exists]
      intro l hl _ fr hfr
      have := (hfree l hl).2 fr hfr
      omega
    simp only [State.lockHit, hx, List.any_cons, List.any_nil, Bool.or_false]
    rw [if_neg]
    simpa using hno

theorem Reaches.lt {s : State} {m : MemCtx} {kind : AccKind} {ea n k : Nat} (h : Reaches s m kind ea n k) : k < 0x8000000000 := by
  have := h.near; have := h.some_; omega

theorem isWindow_of_near {k : Nat} (h : k < 0x8000000000) : isWindow k = false := by
  simp only [isWindow, Bool.and_eq_false_iff, decide_eq_false_iff_not]; omega

theorem isRemote_of_near {k : Nat} (h : k < 0x8000000000) : isRemote k = false := by
  simp only [isRemote, decide_eq_false_iff_not]; omega

theorem placeAddr_of_near {k : Nat} (h : k < 0x8000000000) : placeAddr k = k := Nat.mod_eq_of_lt (by omega)

theorem copyStore_of_near {k : Nat} (h : k < 0x8000000000) (kind : AccKind) (n : Nat) : copyStore kind k n = false := by
  simp [copyStore, placeAddr_of_near h, isWindow_of_near h]

/-- The one page of an access that reaches its place, and meets no poison there, passes. -/
theorem Reaches.pageOf {s : State} {m : MemCtx} {kind : AccKind} {ea n k : Nat} (h : Reaches s m kind ea n k) (hk : kind ≠ .fetch)
    {bad : Nat → Bool} (hbad : bad k = false) (who : Issuer × Nat) : ∃ cr, s.pageOf who m.xl ea kind bad = .place k cr := by
  have hlt := h.lt
  have hmap := h.map
  cases hx : m.xl with
  | physical c =>
    rw [hx] at hmap
    obtain ⟨rfl, hgone⟩ := hmap
    have hres : isReservedPa k = false := by simp [isReservedPa, isNear, hlt]
    have hfar : isFar k = false := by simp only [isFar, Bool.and_eq_false_iff, decide_eq_false_iff_not]; omega
    exact ⟨false, by simp [State.pageOf, hres, hgone, hbad, hfar]⟩
  | tables u asid root user =>
    rw [hx] at hmap
    obtain ⟨hea, t, ht, hpkg, hplace, hperm⟩ := hmap
    have hk2 : s.placeOf t.leaf t.size ea = k := by simp only [State.placeOf, hpkg, if_true]; exact hplace.symm
    have hfar : isFar (pteFrame t.leaf) = false := by simp only [isFar, Bool.and_eq_false_iff, decide_eq_false_iff_not]; omega
    refine ⟨pteCR t.leaf && !(isWindow (placeAddr k)), ?_⟩
    rw [State.pageOf_cached hea ht, hk2, State.pageFail_data _ _ _ hk]
    simp [hbad, hfar, hperm]

/-- An access that reaches its place and meets no poison there passes its checks (R177). -/
theorem Reaches.checkForm {s : State} {m : MemCtx} {kind : AccKind} {ea n k : Nat} (h : Reaches s m kind ea n k) (hk : kind ≠ .fetch) (e : Env)
    {scope : Option Nat} {aligned : Bool} (hal : aligned = true → ea % n = 0) (hp : s.accPoison m.unit scope kind n k = false) :
    ∃ cr, s.checkForm m e ea n kind scope aligned = .segs [⟨ea, n, k, cr⟩] := by
  obtain ⟨cr, hpage⟩ := h.pageOf hk hp (s.trickOf e.who)
  refine ⟨cr, ?_⟩
  rw [State.checkForm_of_aligned hal, State.checkGlobal_place h.page hpage, h.lockHit cr, copyStore_of_near h.lt]
  rfl

/-! ### The statement -/

/-- Every outcome of the checks of an access whose page is translated, in their order. -/
theorem State.checkForm_cached {s : State} {m : MemCtx} {e : Env} {u : TlbUnit} {asid root ea n : Nat} {user : Bool} {kind : AccKind} {t : TlbEntry}
    (hm : m.xl = .tables u asid root user) (hea : ea < 2 ^ 48) (hpage : ea % 2 ^ 16 + n ≤ 2 ^ 16) (hk : kind ≠ .fetch) (ht : s.cached u asid ea = some t)
    (scope : Option Nat) (aligned : Bool) :
    let wr := kind != .load
    let hit := (s.col m.unit.col).locks.filter (fun l => l.asid = m.asid && l.first ≤ (ea + n - 1) / 32 && ea / 32 ≤ l.last)
    let place := s.placeOf t.leaf t.size ea
    s.checkForm m e ea n kind scope aligned =
      if aligned && ea % n ≠ 0 then .fail (accFault e 4 0 ea wr)
      else if s.accPoison m.unit scope kind n place then .fail (accFault e 16 3 ea wr)
      else if isFar (pteFrame t.leaf) then .fail (accFault e 17 0 ea wr)
      else if permDenied t.leaf kind user then .fail (accFault e 5 0 ea wr)
      else if copyStore kind place n then .fail (accFault e 5 0 ea wr)
      else if hit.any (fun l => l.sys) then .held (accFault e 0 0 ea wr)
      else if hit.any (fun l => l.dst || wr) then .fail (accFault e 6 0 ea wr)
      else .segs [⟨ea, n, place, pteCR t.leaf && !(isWindow (placeAddr place))⟩] := by
  intro wr hit place
  have hpg := State.pageOf_cached (s := s) (who := s.trickOf e.who) (root := root) (user := user) (kind := kind)
    (bad := s.accPoison m.unit scope kind n) hea ht
  rw [← hm, State.pageFail_data _ _ _ hk] at hpg
  unfold State.checkForm
  refine if_congr Iff.rfl rfl ?_
  by_cases h1 : s.accPoison m.unit scope kind n place = true
  · rw [if_pos h1] at hpg ⊢; exact State.checkGlobal_fail hpage hpg
  rw [if_neg h1] at hpg ⊢
  by_cases h2 : isFar (pteFrame t.leaf) = true
  · rw [if_pos h2] at hpg ⊢; exact State.checkGlobal_fail hpage hpg
  rw [if_neg h2] at hpg ⊢
  by_cases h3 : permDenied t.leaf kind user = true
  · rw [if_pos h3] at hpg ⊢; exact State.checkGlobal_fail hpage hpg
  rw [if_neg h3] at hpg ⊢
  rw [State.checkGlobal_place hpage hpg, State.lockHit_tables hm]
  refine if_congr Iff.rfl rfl ?_
  change (match (if hit.any (fun l => l.sys) then some AccFail.sysLock else if hit.any (fun l => l.dst || wr) then some (.cause 6 0) else none) with
    | some .sysLock => AccRes.held (accFault e 0 0 ea wr)
    | some (.cause c k) => .fail (accFault e c k ea wr)
    | none => .segs [⟨ea, n, place, pteCR t.leaf && !(isWindow (placeAddr place))⟩]) = _
  split_ifs <;> rfl

theorem State.checkForm_uncached {s : State} {m : MemCtx} {e : Env} {u : TlbUnit} {asid root ea n : Nat} {user : Bool}
    (hm : m.xl = .tables u asid root user) (hea : ea < 2 ^ 48) (hpage : ea % 2 ^ 16 + n ≤ 2 ^ 16) (ht : s.cached u asid ea = none) (kind : AccKind)
    (scope : Option Nat) : s.checkForm m e ea n kind scope false = match s.walkFailed (s.trickOf e.who) u.column asid ea with
      | some code => .fail (accFault e 16 code ea (kind != .load))
      | none => .walking [ea] := by
  have hpg := State.pageOf_uncached (s := s) (who := s.trickOf e.who) (root := root) (user := user) (kind := kind)
    (bad := s.accPoison m.unit scope kind n) hea ht
  rw [← hm] at hpg
  rw [State.checkForm_of_aligned (by simp)]
  cases hw : s.walkFailed (s.trickOf e.who) u.column asid ea with
  | none => rw [hw] at hpg; exact State.checkGlobal_walking hpage hpg
  | some code => rw [hw] at hpg; exact State.checkGlobal_fail hpage hpg

/-- Settles O25: each outcome of the checks is decided by the first of them that fails, on the one page of the access. -/
theorem accessChecks : Obligations.AccessChecks := by
  unfold Obligations.AccessChecks
  refine ⟨⟨?cached, ?uncached, ?reaches⟩, ?physical⟩
  case cached => exact fun s m e u asid root user ea n kind scope aligned t hm hea hpage hk ht => State.checkForm_cached hm hea hpage hk ht scope aligned
  case uncached =>
    intro s m e u asid root user ea n kind scope hm hea hpage ht
    have h := State.checkForm_uncached (e := e) hm hea hpage ht kind scope
    refine ⟨fun hw => by rw [h, hw], fun code hw => ?_⟩
    rw [h, hw]
    cases kind <;> rfl
  case reaches => exact fun s m e kind ea n k scope aligned hk hr hal hp => hr.checkForm hk e hal hp
  case physical =>
    intro s who c va kind bad
    simp only [State.pageOf, isFar, Bool.and_eq_true, decide_eq_true_eq]

end Sys2Proof.Machine
end

section
/-! The caches and the homes (R274 to R277): what every operation on one sector leaves as it was. -/

namespace Sys2Proof.Machine

/-! ### Lengths of sparse maps -/

theorem mapSet_mapSet {β : Type} (m : List (Nat × β)) (x : Nat) (a b : β) : mapSet (mapSet m x a) x b = mapSet m x b := by
  induction m with
  | nil => simp [mapSet]
  | cons e r ih =>
    obtain ⟨k, v⟩ := e
    by_cases h1 : x < k
    · simp [mapSet, h1]
    · by_cases h2 : x = k
      · simp [mapSet, h2]
      · simp [mapSet, h1, h2, ih]

theorem length_mapSet_le {β : Type} (m : List (Nat × β)) (x : Nat) (b : β) : (mapSet m x b).length ≤ m.length + 1 := by
  induction m with
  | nil => simp [mapSet]
  | cons e r ih => simp only [mapSet]; split_ifs <;> simp_all

theorem length_le_mapSet {β : Type} (m : List (Nat × β)) (x : Nat) (b : β) : m.length ≤ (mapSet m x b).length := by
  induction m with
  | nil => simp [mapSet]
  | cons e r ih => simp only [mapSet]; split_ifs <;> simp_all

theorem length_mapSet_congr {β : Type} (m : List (Nat × β)) (x : Nat) (a b : β) : (mapSet m x a).length = (mapSet m x b).length := by
  induction m with
  | nil => simp [mapSet]
  | cons e r ih => simp only [mapSet]; split_ifs <;> simp_all

theorem length_mapSet_of_none {β : Type} {m : List (Nat × β)} {x : Nat} (h : mapGet? m x = none) (b : β) : (mapSet m x b).length = m.length + 1 := by
  induction m with
  | nil => simp [mapSet]
  | cons e r ih =>
    obtain ⟨k, v⟩ := e
    simp only [mapGet?] at h
    split at h
    · cases h
    · next hk => simp only [mapSet]; split_ifs <;> simp_all

theorem mapErase_of_none {β : Type} {m : List (Nat × β)} {x : Nat} (h : mapGet? m x = none) : mapErase m x = m := by
  induction m with
  | nil => rfl
  | cons e r ih =>
    obtain ⟨k, v⟩ := e
    simp only [mapGet?] at h
    split at h
    · cases h
    · next hk => simp [mapErase, hk, ih h]

theorem length_mapErase_le {β : Type} (m : List (Nat × β)) (x : Nat) : (mapErase m x).length ≤ m.length := by
  induction m with
  | nil => simp [mapErase]
  | cons e r ih => simp only [mapErase]; split_ifs <;> simp <;> omega

theorem length_mapErase_lt {β : Type} {m : List (Nat × β)} {x : Nat} (h : mapGet? m x ≠ none) : (mapErase m x).length < m.length := by
  induction m with
  | nil => exact absurd rfl h
  | cons e r ih =>
    obtain ⟨k, v⟩ := e
    by_cases hk : k = x
    · have := length_mapErase_le r x
      simp [mapErase, hk]; omega
    · simp only [mapGet?, hk, if_false] at h
      have := ih h
      simp [mapErase, hk]; omega

/-- Erasing a key and listing it again makes no map longer than listing it does. -/
theorem length_mapSet_mapErase_le {β : Type} (m : List (Nat × β)) (x : Nat) (b : β) : (mapSet (mapErase m x) x b).length ≤ (mapSet m x b).length := by
  by_cases h : mapGet? m x = none
  · rw [mapErase_of_none h]
  · have h1 := length_mapSet_le (mapErase m x) x b
    have h2 := length_mapErase_lt h
    have h3 := length_le_mapSet m x b
    omega

theorem mapGet?_eq_none {β : Type} {m : List (Nat × β)} {x : Nat} : mapGet? m x = none ↔ x ∉ m.map (·.1) := by
  induction m with
  | nil => simp [mapGet?]
  | cons e r ih =>
    obtain ⟨k, v⟩ := e
    by_cases hk : k = x
    · simp [mapGet?, hk]
    · simp only [mapGet?, hk, if_false, ih, List.map_cons, List.mem_cons, not_or]
      exact ⟨fun h => ⟨Ne.symm hk, h⟩, fun h => h.2⟩

theorem mem_keys_of_mapGet? {β : Type} {m : List (Nat × β)} {x : Nat} {b : β} (h : mapGet? m x = some b) : x ∈ m.map (·.1) := by
  by_contra hx
  rw [mapGet?_eq_none.2 hx] at h
  cases h

theorem mem_of_mapGet? {β : Type} {m : List (Nat × β)} {x : Nat} {b : β} (h : mapGet? m x = some b) : (x, b) ∈ m := by
  induction m with
  | nil => cases h
  | cons e r ih =>
    obtain ⟨k, v⟩ := e
    simp only [mapGet?] at h
    split at h
    · next hk => cases h; simp [hk]
    · exact List.mem_cons_of_mem _ (ih h)

/-- Keys kept by a test on the key alone. -/
theorem mapGet?_filter_key {β : Type} (m : List (Nat × β)) (p : Nat → Bool) (x : Nat) :
    mapGet? (m.filter (fun e => p e.1)) x = if p x then mapGet? m x else none := by
  induction m with
  | nil => simp [mapGet?]
  | cons e r ih =>
    obtain ⟨k, v⟩ := e
    by_cases hk : k = x
    · subst hk
      by_cases hp : p k = true
      · simp [hp, mapGet?]
      · simp [hp, ih]
    · by_cases hp : p k = true
      · simp [hp, mapGet?, hk, ih]
      · simp [hp, mapGet?, hk, ih]

/-! ### Only caches and homes change -/

/-- Two states differ in slices, L1s, memory-side caches, homes and their poison alone. -/
structure CacheOnly (s t : State) : Prop where
  rest : { t with mem := s.mem, poison := s.poison, cols := s.cols, cores := s.cores, dies := s.dies } = s
  col : ∀ c, { t.col c with slice := (s.col c).slice, core := { t.cc c with l1 := (s.cc c).l1 } } = s.col c
  core : ∀ n, { t.core n with l1 := (s.core n).l1 } = s.core n

namespace CacheOnly
variable {s t u : State}

theorem refl (s : State) : CacheOnly s s := ⟨rfl, fun _ => rfl, fun _ => rfl⟩

theorem trans (h1 : CacheOnly s t) (h2 : CacheOnly t u) : CacheOnly s u where
  rest := (congrArg (fun x : State => { x with mem := s.mem, poison := s.poison, cols := s.cols, cores := s.cores, dies := s.dies }) h2.rest).trans h1.rest
  col c := (congrArg (fun x : Column => { x with slice := (s.col c).slice, core := { x.core with l1 := (s.cc c).l1 } }) (h2.col c)).trans (h1.col c)
  core n := (congrArg (fun x : ACore => { x with l1 := (s.core n).l1 }) (h2.core n)).trans (h1.core n)

theorem foldl {α : Type} {f : State → α → State} (h : ∀ s a, CacheOnly s (f s a)) (l : List α) (s : State) : CacheOnly s (l.foldl f s) := by
  induction l generalizing s with
  | nil => exact refl s
  | cons a r ih => exact (h s a).trans (ih _)

theorem fabric (h : CacheOnly s t) : t.fabric = s.fabric := (congrArg State.fabric h.rest :)
theorem tick (h : CacheOnly s t) : t.tick = s.tick := (congrArg State.tick h.rest :)
theorem marks (h : CacheOnly s t) : t.marks = s.marks := (congrArg State.marks h.rest :)
theorem reports (h : CacheOnly s t) : t.reports = s.reports := (congrArg State.reports h.rest :)
theorem pkgId (h : CacheOnly s t) : t.pkgId = s.pkgId := (congrArg State.pkgId h.rest :)
theorem savings (h : CacheOnly s t) : t.savings = s.savings := (congrArg State.savings h.rest :)
theorem saves (h : CacheOnly s t) : t.saves = s.saves := (congrArg State.saves h.rest :)
theorem locks (h : CacheOnly s t) (c : Nat) : (t.col c).locks = (s.col c).locks := (congrArg Column.locks (h.col c) :)
theorem cc (h : CacheOnly s t) (c : Nat) : { t.cc c with l1 := (s.cc c).l1 } = s.cc c := (congrArg Column.core (h.col c) :)
theorem groups (h : CacheOnly s t) (n : Nat) : (t.core n).groups = (s.core n).groups := (congrArg ACore.groups (h.core n) :)
theorem blocks (h : CacheOnly s t) (n : Nat) : (t.core n).blocks = (s.core n).blocks := (congrArg ACore.blocks (h.core n) :)
theorem grp? (h : CacheOnly s t) (n g : Nat) : t.grp? n g = s.grp? n g := congrArg (fun l => mapGet? l g) (h.groups n)
theorem deal? (h : CacheOnly s t) (n slot : Nat) : t.deal? n slot = s.deal? n slot :=
  (congrArg (fun x : ACore => x.deal slot) (h.core n) :)
theorem flushSet (h : CacheOnly s t) (who : Agent) : t.flushSet who = s.flushSet who := by
  cases who with
  | grp n g => simp only [State.flushSet, h.grp?]
  | col c => exact (congrArg (fun x : ColCore => (x.flush, x.flushFull)) (h.cc c) :)

theorem sameRegisters (h : CacheOnly s t) : SameRegisters s t where
  thr n g i := by simp only [State.thr?, h.grp?]
  scalar n g := by rw [h.grp?]
  deal := h.deal?
  col c := ⟨(t.cc c).l1, (s.cc c).flush, (s.cc c).flushFull, by
    have h2 := congrArg (fun x : ColCore => { x with l1 := (t.cc c).l1 }) (h.cc c)
    exact h2⟩

theorem of_modCol (c : Nat) {f : Column → Column} (hf : { f (s.col c) with slice := (s.col c).slice, core := { (f (s.col c)).core with l1 := (s.cc c).l1 } } = s.col c) :
    CacheOnly s (s.modCol c f) where
  rest := rfl
  col d := by
    rw [State.cc, State.col_modCol]
    split
    · next h => subst h; exact hf
    · rfl
  core _ := rfl

end CacheOnly

theorem SameRegisters.refl (s : State) : SameRegisters s s := (CacheOnly.refl s).sameRegisters

theorem SameRegisters.trans {s t u : State} (h1 : SameRegisters s t) (h2 : SameRegisters t u) : SameRegisters s u where
  thr n g i := (h2.thr n g i).trans (h1.thr n g i)
  scalar n g := (h2.scalar n g).trans (h1.scalar n g)
  deal n slot := (h2.deal n slot).trans (h1.deal n slot)
  col c := by
    obtain ⟨l1, flush, full, h⟩ := h2.col c
    obtain ⟨_, _, _, h'⟩ := h1.col c
    exact ⟨l1, flush, full, by rw [h, h']⟩

theorem SameRegisters.foldl {α : Type} {f : State → α → State} (h : ∀ s a, SameRegisters s (f s a)) (l : List α) (s : State) :
    SameRegisters s (l.foldl f s) := by
  induction l generalizing s with
  | nil => exact refl s
  | cons a r ih => exact (h s a).trans (ih _)

/-! ### L1s -/

theorem State.cacheOnly_setL1 (s : State) (c u : Nat) (m : List (Nat × L1Sector)) : CacheOnly s (s.setL1 c u m) := by
  unfold State.setL1
  split
  · refine ⟨rfl, fun _ => rfl, fun n => ?_⟩
    rw [State.core_modCore]
    split
    · next h => subst h; rfl
    · rfl
  · exact CacheOnly.of_modCol c (f := fun y => { y with core := { s.cc c with l1 := m } }) rfl

theorem State.l1_setL1 (s : State) (c u : Nat) (m : List (Nat × L1Sector)) {d v : Nat} (hu : u < 13) (hv : v < 13) :
    (s.setL1 c u m).l1 d v = if d = c ∧ v = u then m else s.l1 d v := by
  unfold State.setL1 State.l1
  by_cases h1 : u < 12 <;> by_cases h2 : v < 12
  · simp only [h1, h2, if_true, State.core_modCore]
    by_cases h : d = c ∧ v = u
    · simp [h]
    · rw [if_neg h, if_neg (by omega)]
  · simp only [h1, h2, if_true, if_false]
    rw [if_neg (by omega)]
    rfl
  · simp only [h1, h2, if_true, if_false]
    rw [if_neg (by omega)]
    rfl
  · simp only [h1, h2, if_false, State.cc_modCc]
    have : v = u := by omega
    by_cases h : d = c <;> simp [h, this]

/-- The L1 that is set reads as set. -/
@[simp] theorem State.l1_setL1_same (s : State) (c u : Nat) (m : List (Nat × L1Sector)) : (s.setL1 c u m).l1 c u = m := by
  unfold State.setL1 State.l1
  by_cases h : u < 12 <;> simp [h]

/-- An L1 is that of a core or of a column core: another reads as before, or is the same one. -/
theorem State.l1_setL1_or (s : State) (c u : Nat) (m : List (Nat × L1Sector)) (d v : Nat) :
    (s.setL1 c u m).l1 d v = s.l1 d v ∨ ((s.setL1 c u m).l1 d v = m ∧ s.l1 d v = s.l1 c u) := by
  unfold State.setL1 State.l1
  by_cases h1 : u < 12 <;> by_cases h2 : v < 12
  · simp only [h1, h2, if_true, State.core_modCore]
    by_cases h : 12 * d + v = 12 * c + u
    · rw [if_pos h, h]; exact .inr ⟨rfl, rfl⟩
    · rw [if_neg h]; exact .inl rfl
  · simp only [h1, h2, if_true, if_false]; exact .inl rfl
  · simp only [h1, h2, if_true, if_false]; exact .inl rfl
  · simp only [h1, h2, if_false, State.cc_modCc]
    by_cases h : d = c
    · subst h; rw [if_pos rfl]; exact .inr ⟨rfl, rfl⟩
    · rw [if_neg h]; exact .inl rfl

@[simp] theorem State.slice_setL1 (s : State) (c u d : Nat) (m : List (Nat × L1Sector)) : ((s.setL1 c u m).col d).slice = (s.col d).slice := by
  unfold State.setL1
  split
  · rfl
  · unfold State.modCc State.setCc
    rw [State.col_modCol]
    split
    · next h => subst h; rfl
    · rfl

@[simp] theorem State.slice?_setL1 (s : State) (c u d x : Nat) (m : List (Nat × L1Sector)) : (s.setL1 c u m).slice? d x = s.slice? d x := by
  simp [State.slice?]

@[simp] theorem State.poison_setL1 (s : State) (c u : Nat) (m : List (Nat × L1Sector)) : (s.setL1 c u m).poison = s.poison := by
  unfold State.setL1; split <;> rfl

theorem State.homeByte_of_mem {s t : State} (h : t.mem = s.mem) (a : Nat) : t.homeByte a = s.homeByte a := by rw [State.homeByte, h]; rfl

/-! ### One sector -/

/-- A step concerns one sector: every other sector of slice and home is as before, and no slice grows by more than this sector. -/
structure AtSector (sec : Nat) (s t : State) : Prop where
  slices : ∀ c x, x ≠ sec → t.slice? c x = s.slice? c x
  homes : ∀ a, a / 32 ≠ sec → t.homeByte a = s.homeByte a
  poison : ∀ x, x ≠ sec → t.poison.contains x = s.poison.contains x
  room : ∀ c z, (mapSet (t.col c).slice sec z).length ≤ (mapSet (s.col c).slice sec z).length

/-- The same of a step in which only caches and homes change. -/
structure CacheStep (sec : Nat) (s t : State) : Prop extends AtSector sec s t where
  only : CacheOnly s t

/-- Copies only go: no slice and no L1 holds a sector that it did not hold. -/
structure Sheds (s t : State) : Prop where
  slice : ∀ c x, s.slice? c x = none → t.slice? c x = none
  l1 : ∀ c u x, mapGet? (s.l1 c u) x = none → mapGet? (t.l1 c u) x = none

namespace AtSector
variable {sec : Nat} {s t u : State}

theorem refl (sec : Nat) (s : State) : AtSector sec s s := ⟨fun _ _ _ => rfl, fun _ _ => rfl, fun _ _ => rfl, fun _ _ => Nat.le_refl _⟩

theorem trans (h1 : AtSector sec s t) (h2 : AtSector sec t u) : AtSector sec s u where
  slices c x hx := (h2.slices c x hx).trans (h1.slices c x hx)
  homes a ha := (h2.homes a ha).trans (h1.homes a ha)
  poison x hx := (h2.poison x hx).trans (h1.poison x hx)
  room c z := (h2.room c z).trans (h1.room c z)
end AtSector

namespace CacheStep
variable {sec : Nat} {s t u : State}

theorem refl (sec : Nat) (s : State) : CacheStep sec s s := ⟨AtSector.refl sec s, CacheOnly.refl s⟩
theorem trans (h1 : CacheStep sec s t) (h2 : CacheStep sec t u) : CacheStep sec s u := ⟨h1.toAtSector.trans h2.toAtSector, h1.only.trans h2.only⟩

theorem foldl {α : Type} {f : State → α → State} (h : ∀ s a, CacheStep sec s (f s a)) (l : List α) (s : State) : CacheStep sec s (l.foldl f s) := by
  induction l generalizing s with
  | nil => exact refl sec s
  | cons a r ih => exact (h s a).trans (ih _)
end CacheStep

namespace Sheds
variable {s t u : State}

theorem refl (s : State) : Sheds s s := ⟨fun _ _ h => h, fun _ _ _ h => h⟩
theorem trans (h1 : Sheds s t) (h2 : Sheds t u) : Sheds s u := ⟨fun c x h => h2.slice c x (h1.slice c x h), fun c v x h => h2.l1 c v x (h1.l1 c v x h)⟩

theorem foldl {α : Type} {f : State → α → State} (h : ∀ s a, Sheds s (f s a)) (l : List α) (s : State) : Sheds s (l.foldl f s) := by
  induction l generalizing s with
  | nil => exact refl s
  | cons a r ih => exact (h s a).trans (ih _)
end Sheds

/-! ### Slices -/

theorem State.slice?_setSlice (s : State) (c sec : Nat) (x : SliceSector) (d y : Nat) :
    (s.setSlice c sec x).slice? d y = if d = c ∧ y = sec then some x else s.slice? d y := by
  unfold State.setSlice State.slice?
  rw [State.col_modCol]
  by_cases h : d = c
  · subst h; simp [mapGet?_mapSet]
  · simp [h]

theorem State.slice?_dropSlice (s : State) (c sec d y : Nat) :
    (s.dropSlice c sec).slice? d y = if d = c ∧ y = sec then none else s.slice? d y := by
  unfold State.dropSlice State.slice?
  rw [State.col_modCol]
  by_cases h : d = c
  · subst h; simp [mapGet?_mapErase]
  · simp [h]

theorem State.cacheStep_setSlice (s : State) (c sec : Nat) (x : SliceSector) : CacheStep sec s (s.setSlice c sec x) where
  only := CacheOnly.of_modCol c rfl
  slices d y hy := by rw [State.slice?_setSlice, if_neg (fun h => hy h.2)]
  homes _ _ := rfl
  poison _ _ := rfl
  room d z := by
    unfold State.setSlice
    rw [State.col_modCol]
    split
    · next h => subst h; exact (congrArg List.length (mapSet_mapSet _ sec x z)).le
    · exact Nat.le_refl _

theorem State.cacheStep_dropSlice (s : State) (c sec : Nat) : CacheStep sec s (s.dropSlice c sec) where
  only := CacheOnly.of_modCol c rfl
  slices d y hy := by rw [State.slice?_dropSlice, if_neg (fun h => hy h.2)]
  homes _ _ := rfl
  poison _ _ := rfl
  room d z := by
    unfold State.dropSlice
    rw [State.col_modCol]
    split
    · next h => subst h; exact length_mapSet_mapErase_le _ sec z
    · exact Nat.le_refl _

theorem State.cacheStep_setL1 (s : State) (c u sec : Nat) (m : List (Nat × L1Sector)) : CacheStep sec s (s.setL1 c u m) where
  only := s.cacheOnly_setL1 c u m
  slices d y _ := by simp
  homes a _ := State.homeByte_of_mem (s.setL1_mem c u m) a
  poison x _ := by simp
  room d z := by simp

theorem State.sheds_dropSlice (s : State) (c sec : Nat) : Sheds s (s.dropSlice c sec) where
  slice d y h := by rw [State.slice?_dropSlice, h]; split <;> rfl
  l1 d v x h := by
    have hl : (s.dropSlice c sec).l1 d v = s.l1 d v := by
      unfold State.l1
      split
      · rfl
      · unfold State.dropSlice State.cc
        rw [State.col_modCol]
        split
        · next h => subst h; rfl
        · rfl
    rw [hl, h]

/-- Changing a sector that a slice holds adds no copy. -/
theorem State.sheds_setSlice (s : State) (c sec : Nat) (x : SliceSector) (h : s.slice? c sec ≠ none) : Sheds s (s.setSlice c sec x) where
  slice d y hy := by
    rw [State.slice?_setSlice, if_neg, hy]
    rintro ⟨rfl, rfl⟩
    exact h hy
  l1 d v y hy := by
    have hl : (s.setSlice c sec x).l1 d v = s.l1 d v := by
      unfold State.l1
      split
      · rfl
      · unfold State.setSlice State.cc
        rw [State.col_modCol]
        split
        · next h => subst h; rfl
        · rfl
    rw [hl, hy]

/-- Changing an L1 so that it holds nothing new adds no copy. -/
theorem State.sheds_setL1 (s : State) (c u : Nat) (m : List (Nat × L1Sector)) (h : ∀ x, mapGet? (s.l1 c u) x = none → mapGet? m x = none) :
    Sheds s (s.setL1 c u m) where
  slice d y hy := by simp [hy]
  l1 d v x hx := by
    rcases s.l1_setL1_or c u m d v with hl | ⟨hl, hs⟩
    · rw [hl, hx]
    · rw [hl]; exact h x (hs ▸ hx)

theorem State.sheds_dropL1 (s : State) (c u sec : Nat) : Sheds s (s.dropL1 c u sec) :=
  s.sheds_setL1 c u _ (fun x hx => by rw [mapGet?_mapErase, hx]; split <;> rfl)

/-! ### Revocation and invalidation (R276, R277) -/

theorem State.cacheStep_revoke (s : State) (c sec : Nat) : CacheStep sec s (s.revoke c sec) := by
  unfold State.revoke
  split
  · split
    · exact (s.cacheStep_setL1 c _ sec _).trans (State.cacheStep_setSlice _ c sec _)
    · exact CacheStep.refl sec s
  · exact CacheStep.refl sec s

theorem State.sheds_revoke (s : State) (c sec : Nat) : Sheds s (s.revoke c sec) := by
  unfold State.revoke
  split
  · next x hx =>
    split
    · next u hu => exact (s.sheds_dropL1 c u sec).trans (State.sheds_setSlice _ c sec _ (by simp [State.dropL1, hx]))
    · exact Sheds.refl s
  · exact Sheds.refl s

/-- Revoking a sector from an L1 clears the owner in the slice, and changes no other copy. -/
theorem State.slice?_revoke (s : State) (c sec d : Nat) :
    (s.revoke c sec).slice? d sec = if d = c then (s.slice? c sec).map (fun x => { x with owner := none }) else s.slice? d sec := by
  cases hx : s.slice? c sec with
  | none => by_cases h : d = c <;> simp [State.revoke, h, hx]
  | some x =>
    cases hu : x.owner with
    | none =>
      have hsame : ({ x with owner := none } : SliceSector) = x := by cases x; simp_all
      by_cases h : d = c <;> simp [State.revoke, h, hx, hu, hsame]
    | some u => simp [State.revoke, hx, hu, State.slice?_setSlice]

theorem State.poison_revoke (s : State) (c sec : Nat) : (s.revoke c sec).poison = s.poison := by
  unfold State.revoke
  split
  · split
    · exact s.poison_setL1 ..
    · rfl
  · rfl

theorem State.cacheStep_homePoison (s : State) (sec : Nat) (bad : Bool) : CacheStep sec s (s.homePoison sec bad) := by
  unfold State.homePoison
  split
  · refine ⟨⟨fun _ _ _ => rfl, fun _ _ => rfl, fun x hx => ?_, fun _ _ => Nat.le_refl _⟩, ⟨rfl, fun _ => rfl, fun _ => rfl⟩⟩
    rw [Bool.eq_iff_iff]
    simp [mem_insNat, hx]
  · exact CacheStep.refl sec s

@[simp] theorem State.slice?_homePoison (s : State) (sec : Nat) (bad : Bool) (c x : Nat) : (s.homePoison sec bad).slice? c x = s.slice? c x := by
  unfold State.homePoison; split <;> rfl

@[simp] theorem State.homePoison_false (s : State) (sec : Nat) : s.homePoison sec false = s := rfl

theorem State.sheds_homePoison (s : State) (sec : Nat) (bad : Bool) : Sheds s (s.homePoison sec bad) := by
  unfold State.homePoison
  split
  · exact ⟨fun _ _ h => h, fun _ _ _ h => h⟩
  · exact Sheds.refl s

theorem State.cacheStep_invalidateCopy (s : State) (c sec : Nat) : CacheStep sec s (s.invalidateCopy c sec) := by
  unfold State.invalidateCopy
  split
  · split
    · exact ((s.cacheStep_revoke c sec).trans (State.cacheStep_dropSlice _ c sec)).trans (State.cacheStep_homePoison _ sec _)
    · exact (s.cacheStep_revoke c sec).trans (State.cacheStep_setSlice _ c sec _)
  · exact CacheStep.refl sec s

theorem State.sheds_invalidateCopy (s : State) (c sec : Nat) : Sheds s (s.invalidateCopy c sec) := by
  unfold State.invalidateCopy
  split
  · next x hx =>
    split
    · exact ((s.sheds_revoke c sec).trans (State.sheds_dropSlice _ c sec)).trans (State.sheds_homePoison _ sec _)
    · exact (s.sheds_revoke c sec).trans (State.sheds_setSlice _ c sec _ (by simp [State.slice?_revoke, hx]))
  · exact Sheds.refl s

/-- What is left of a copy that is invalidated: its dirty bytes (R275, R284). -/
def SliceSector.stale (x : SliceSector) : Option SliceSector := if x.dirty = 0 then none else some { x with valid := x.dirty, owner := none }

theorem SliceSector.stale_of_clean {x : SliceSector} (h : x.dirty = 0) : x.stale = none := if_pos h
theorem SliceSector.stale_of_dirty {x : SliceSector} (h : x.dirty ≠ 0) : x.stale = some { x with valid := x.dirty, owner := none } := if_neg h
theorem SliceSector.stale_some {x y : SliceSector} (h : x.stale = some y) : y.dirty = x.dirty ∧ y.data = x.data ∧ y.valid = x.dirty ∧ y.poison = x.poison := by
  unfold stale at h
  split at h
  · cases h
  · cases h; exact ⟨rfl, rfl, rfl, rfl⟩

theorem State.slice?_invalidateCopy (s : State) (c sec d : Nat) :
    (s.invalidateCopy c sec).slice? d sec = if d = c then (s.slice? c sec).bind SliceSector.stale else s.slice? d sec := by
  cases hx : s.slice? c sec with
  | none => by_cases h : d = c <;> simp [State.invalidateCopy, h, hx]
  | some x =>
    by_cases hd : x.dirty = 0
    · simp only [State.invalidateCopy, hx, hd, if_true, State.slice?_homePoison, State.slice?_dropSlice, State.slice?_revoke, Option.bind_some,
        SliceSector.stale_of_clean hd]
      by_cases h : d = c <;> simp [h]
    · simp only [State.invalidateCopy, hx, hd, if_false, State.slice?_setSlice, State.slice?_revoke, Option.bind_some, SliceSector.stale_of_dirty hd]
      by_cases h : d = c <;> simp [h]

/-- A slice without the sector has no copy to invalidate. -/
theorem State.invalidateCopy_of_none {s : State} {c sec : Nat} (h : s.slice? c sec = none) : s.invalidateCopy c sec = s := by
  simp [State.invalidateCopy, h]

theorem State.cacheStep_directory (s : State) (sec : Nat) (except : Option Nat) : CacheStep sec s (s.directory sec except) :=
  CacheStep.foldl (fun t c => by
    split
    · exact CacheStep.refl sec t
    · exact t.cacheStep_invalidateCopy c sec) _ s

theorem State.sheds_directory (s : State) (sec : Nat) (except : Option Nat) : Sheds s (s.directory sec except) :=
  Sheds.foldl (fun t c => by
    split
    · exact Sheds.refl t
    · exact t.sheds_invalidateCopy c sec) _ s

/-- Invalidating a sector in columns of a list that are not exempt: those columns keep its dirty bytes, the others all of it. -/
theorem State.slice?_foldl_invalidateCopy (sec : Nat) (except : Option Nat) (d : Nat) (l : List Nat) (hl : l.Nodup) (s : State) :
    (l.foldl (fun (t : State) c => if some c = except then t else t.invalidateCopy c sec) s).slice? d sec
      = if d ∈ l ∧ some d ≠ except then (s.slice? d sec).bind SliceSector.stale else s.slice? d sec := by
  induction l generalizing s with
  | nil => simp
  | cons c r ih =>
    obtain ⟨hc, hr⟩ := List.nodup_cons.1 hl
    rw [List.foldl_cons, ih hr]
    by_cases he : some c = except
    · rw [if_pos he]
      by_cases hd : d = c
      · subst hd; simp [he]
      · simp [hd]
    · rw [if_neg he]
      by_cases hd : d = c
      · subst hd; simp [hc, he, State.slice?_invalidateCopy]
      · simp [hd, State.slice?_invalidateCopy]

theorem dieCols_nodup (d : Nat) : (dieCols d).Nodup := by
  simp [dieCols, clusterCols]; omega

theorem mem_clusterCols {k c : Nat} : c ∈ clusterCols k ↔ clusterOf c = k := by
  simp only [clusterCols, clusterOf, List.mem_cons, List.not_mem_nil, or_false]; omega

theorem mem_dieCols {d c : Nat} : c ∈ dieCols d ↔ dieOf c = d := by
  simp only [dieCols, List.mem_append, mem_clusterCols, clusterOf, dieOf]; omega

/-- After a write at the home, the copies of its own die's slices are their dirty bytes alone, but for the slice exempt (R277). -/
theorem State.slice?_directory (s : State) (sec : Nat) (except : Option Nat) (d : Nat) :
    (s.directory sec except).slice? d sec
      = if dieOf d = homeDie (32 * sec) ∧ some d ≠ except then (s.slice? d sec).bind SliceSector.stale else s.slice? d sec := by
  rw [State.directory, State.slice?_foldl_invalidateCopy sec except d _ (dieCols_nodup _)]
  simp only [mem_dieCols]

/-! ### Writes at the home (R275, R409) -/

theorem State.cacheStep_homeTouch (s : State) (sec : Nat) (write : Bool) : CacheStep sec s (s.homeTouch sec write) := by
  unfold State.homeTouch
  split
  · exact ⟨⟨fun _ _ _ => rfl, fun _ _ => rfl, fun _ _ => rfl, fun _ _ => Nat.le_refl _⟩, ⟨rfl, fun _ => rfl, fun _ => rfl⟩⟩
  · exact CacheStep.refl sec s

theorem State.sheds_homeTouch (s : State) (sec : Nat) (write : Bool) : Sheds s (s.homeTouch sec write) := by
  unfold State.homeTouch
  split
  · exact ⟨fun _ _ h => h, fun _ _ _ h => h⟩
  · exact Sheds.refl s

@[simp] theorem State.slice?_homeTouch (s : State) (sec : Nat) (write : Bool) (c x : Nat) : (s.homeTouch sec write).slice? c x = s.slice? c x := by
  unfold State.homeTouch; split <;> rfl
@[simp] theorem State.poison_homeTouch (s : State) (sec : Nat) (write : Bool) : (s.homeTouch sec write).poison = s.poison := by
  unfold State.homeTouch; split <;> rfl
@[simp] theorem State.homeByte_homeTouch (s : State) (sec : Nat) (write : Bool) (a : Nat) : (s.homeTouch sec write).homeByte a = s.homeByte a :=
  State.homeByte_of_mem (s.homeTouch_mem sec write) a

/-- Writing masked bytes of a sector at the home, as far as its first bytes: only memory changes. -/
theorem foldl_setHomeByte_eq (sec : Nat) (d : BitVec 256) (mask : BitVec 32) (n : Nat) (s : State) :
    let t := (List.range n).foldl (fun (t : State) i => if mask.getLsbD i then t.setHomeByte (32 * sec + i) (sectorByte d i) else t) s
    t = { s with mem := t.mem } ∧ ∀ a, t.homeByte a = if 32 * sec ≤ a ∧ a < 32 * sec + n ∧ mask.getLsbD (a - 32 * sec) = true
      then sectorByte d (a - 32 * sec) else s.homeByte a := by
  induction n with
  | zero => exact ⟨rfl, fun a => by rw [if_neg (by omega)]; rfl⟩
  | succ n ih =>
    obtain ⟨hrest, hbyte⟩ := ih
    dsimp only
    rw [List.range_succ, List.foldl_append]
    by_cases hm : mask.getLsbD n = true
    · simp only [List.foldl_cons, List.foldl_nil, hm, if_true]
      refine ⟨by rw [hrest]; rfl, fun a => ?_⟩
      rw [State.homeByte_setHomeByte, hbyte]
      by_cases h : a = 32 * sec + n
      · subst h
        rw [if_pos rfl, if_pos ⟨by omega, by omega, by simpa using hm⟩]
        simp
      · rw [if_neg h]
        exact if_congr (by constructor <;> rintro ⟨h1, h2, h3⟩ <;> exact ⟨h1, by omega, h3⟩) rfl rfl
    · simp only [List.foldl_cons, List.foldl_nil, hm, if_false, Bool.false_eq_true]
      refine ⟨hrest, fun a => (hbyte a).trans (if_congr ?_ rfl rfl)⟩
      constructor
      · rintro ⟨h1, h2, h3⟩; exact ⟨h1, by omega, h3⟩
      · rintro ⟨h1, h2, h3⟩
        refine ⟨h1, ?_, h3⟩
        rcases Nat.lt_or_ge a (32 * sec + n) with h | h
        · exact h
        · have : a - 32 * sec = n := by omega
          rw [this] at h3
          exact absurd h3 hm

/-- The bytes of the homes after a write of one sector under a mask. -/
theorem State.homeByte_rawHomeWrite (s : State) (sec : Nat) (d : BitVec 256) (mask : BitVec 32) (a : Nat) :
    (s.rawHomeWrite sec d mask).homeByte a = if a / 32 = sec ∧ mask.getLsbD (a % 32) = true then sectorByte d (a % 32) else s.homeByte a := by
  have h := (foldl_setHomeByte_eq sec d mask 32 (s.homeTouch sec true)).2 a
  have hb : (s.rawHomeWrite sec d mask).homeByte a = ((List.range 32).foldl
      (fun (t : State) i => if mask.getLsbD i then t.setHomeByte (32 * sec + i) (sectorByte d i) else t) (s.homeTouch sec true)).homeByte a := by
    unfold State.rawHomeWrite
    dsimp only
    split <;> rfl
  rw [hb, h, State.homeByte_homeTouch]
  by_cases ha : a / 32 = sec
  · have : a - 32 * sec = a % 32 := by omega
    rw [this]
    exact if_congr ⟨fun h => ⟨ha, h.2.2⟩, fun h => ⟨by omega, by omega, h.2⟩⟩ rfl rfl
  · rw [if_neg (by omega), if_neg (fun h => ha h.1)]

theorem State.rawHomeWrite_rest (s : State) (sec : Nat) (d : BitVec 256) (mask : BitVec 32) :
    s.rawHomeWrite sec d mask = { s.homeTouch sec true with mem := (s.rawHomeWrite sec d mask).mem, poison := (s.rawHomeWrite sec d mask).poison } := by
  have h := (foldl_setHomeByte_eq sec d mask 32 (s.homeTouch sec true)).1
  unfold State.rawHomeWrite
  dsimp only
  rw [h]
  split <;> rfl

/-- A write at the home leaves poison where it was, or ends that of its own sector (R409). -/
theorem State.poison_rawHomeWrite (s : State) (sec : Nat) (d : BitVec 256) (mask : BitVec 32) :
    (s.rawHomeWrite sec d mask).poison = if mask = fullMask then s.poison.filter (· != sec) else s.poison := by
  have h := (foldl_setHomeByte_eq sec d mask 32 (s.homeTouch sec true)).1
  unfold State.rawHomeWrite
  dsimp only
  rw [h]
  split <;> simp

@[simp] theorem State.slice?_rawHomeWrite (s : State) (sec : Nat) (d : BitVec 256) (mask : BitVec 32) (c x : Nat) :
    (s.rawHomeWrite sec d mask).slice? c x = s.slice? c x := by
  rw [State.rawHomeWrite_rest]
  exact s.slice?_homeTouch sec true c x

theorem State.cacheStep_rawHomeWrite (s : State) (sec : Nat) (d : BitVec 256) (mask : BitVec 32) : CacheStep sec s (s.rawHomeWrite sec d mask) where
  only := by
    rw [State.rawHomeWrite_rest]
    have h := (s.cacheStep_homeTouch sec true).only
    exact h.trans ⟨rfl, fun _ => rfl, fun _ => rfl⟩
  slices c x _ := by simp
  homes a ha := by rw [State.homeByte_rawHomeWrite, if_neg (fun h => ha h.1)]
  poison x hx := by
    rw [State.poison_rawHomeWrite]
    split
    · rw [Bool.eq_iff_iff]; simp [hx]
    · rfl
  room c z := by
    rw [State.rawHomeWrite_rest]
    exact (s.cacheStep_homeTouch sec true).room c z

theorem State.sheds_rawHomeWrite (s : State) (sec : Nat) (d : BitVec 256) (mask : BitVec 32) : Sheds s (s.rawHomeWrite sec d mask) := by
  rw [State.rawHomeWrite_rest]
  exact (s.sheds_homeTouch sec true).trans ⟨fun _ _ h => h, fun _ _ _ h => h⟩

theorem State.cacheStep_homeWrite (s : State) (sec : Nat) (d : BitVec 256) (mask : BitVec 32) (except : Option Nat) :
    CacheStep sec s (s.homeWrite sec d mask except) := (s.cacheStep_directory sec except).trans (State.cacheStep_rawHomeWrite _ sec d mask)

theorem State.sheds_homeWrite (s : State) (sec : Nat) (d : BitVec 256) (mask : BitVec 32) (except : Option Nat) :
    Sheds s (s.homeWrite sec d mask except) := (s.sheds_directory sec except).trans (State.sheds_rawHomeWrite _ sec d mask)

/-- The bytes of the homes after a write performed at one of them. -/
theorem State.homeByte_homeWrite (s : State) (sec : Nat) (d : BitVec 256) (mask : BitVec 32) (except : Option Nat) (a : Nat) :
    (s.homeWrite sec d mask except).homeByte a = if a / 32 = sec ∧ mask.getLsbD (a % 32) = true then sectorByte d (a % 32) else s.homeByte a := by
  rw [State.homeWrite, State.homeByte_rawHomeWrite, State.homeByte_of_mem (s.directory_mem sec except)]

theorem State.slice?_homeWrite (s : State) (sec : Nat) (d : BitVec 256) (mask : BitVec 32) (except : Option Nat) (c : Nat) :
    (s.homeWrite sec d mask except).slice? c sec
      = if dieOf c = homeDie (32 * sec) ∧ some c ≠ except then (s.slice? c sec).bind SliceSector.stale else s.slice? c sec := by
  rw [State.homeWrite, State.slice?_rawHomeWrite, State.slice?_directory]

/-! ### Writing back and evicting (R276, R278) -/

theorem State.cacheStep_writeBackOf (s : State) (c sec : Nat) (mask : BitVec 32) : CacheStep sec s (s.writeBackOf c sec mask) := by
  unfold State.writeBackOf
  split
  · split
    · exact CacheStep.refl sec s
    · exact ((s.cacheStep_homeWrite sec _ _ _).trans (State.cacheStep_setSlice _ c sec _)).trans (State.cacheStep_homePoison _ sec _)
  · exact CacheStep.refl sec s

theorem State.sheds_writeBackOf (s : State) (c sec : Nat) (mask : BitVec 32) : Sheds s (s.writeBackOf c sec mask) := by
  unfold State.writeBackOf
  split
  · next x hx =>
    split
    · exact Sheds.refl s
    · refine ((s.sheds_homeWrite sec _ _ _).trans (State.sheds_setSlice _ c sec _ ?_)).trans (State.sheds_homePoison _ sec _)
      rw [State.slice?_homeWrite, if_neg (fun h => h.2 rfl), hx]
      simp
  · exact Sheds.refl s

theorem State.cacheStep_writeBack (s : State) (c sec : Nat) : CacheStep sec s (s.writeBack c sec) := s.cacheStep_writeBackOf c sec _
theorem State.sheds_writeBack (s : State) (c sec : Nat) : Sheds s (s.writeBack c sec) := s.sheds_writeBackOf c sec _

theorem State.writeBackOf_of_none {s : State} {c sec : Nat} (h : s.slice? c sec = none) (mask : BitVec 32) : s.writeBackOf c sec mask = s := by
  simp [State.writeBackOf, h]
theorem State.writeBack_of_none {s : State} {c sec : Nat} (h : s.slice? c sec = none) : s.writeBack c sec = s := State.writeBackOf_of_none h _

theorem and_fullMask (x : BitVec 32) : x &&& fullMask = x := BitVec.and_allOnes

theorem and_not_fullMask (x : BitVec 32) : x &&& ~~~fullMask = 0 := by simp [fullMask]

/-- A sector with nothing dirty is already at its home. -/
theorem State.writeBack_of_clean {s : State} {c sec : Nat} {x : SliceSector} (h : s.slice? c sec = some x) (hd : x.dirty = 0) : s.writeBack c sec = s := by
  simp [State.writeBack, State.writeBackOf, h, hd]

/-- A copy whose dirty bytes have all reached the home. -/
def SliceSector.cleaned (x : SliceSector) : SliceSector := if x.dirty = 0 then x else { x with dirty := 0, wide := 0 }

@[simp] theorem SliceSector.cleaned_dirty (x : SliceSector) : x.cleaned.dirty = 0 := by unfold cleaned; split <;> simp_all
@[simp] theorem SliceSector.cleaned_data (x : SliceSector) : x.cleaned.data = x.data := by unfold cleaned; split <;> rfl
@[simp] theorem SliceSector.cleaned_valid (x : SliceSector) : x.cleaned.valid = x.valid := by unfold cleaned; split <;> rfl
@[simp] theorem SliceSector.cleaned_poison (x : SliceSector) : x.cleaned.poison = x.poison := by unfold cleaned; split <;> rfl

/-- Writing back a sector that is dirty in a slice, step by step. -/
theorem State.writeBack_of_dirty {s : State} {c sec : Nat} {x : SliceSector} (h : s.slice? c sec = some x) (hd : x.dirty ≠ 0) :
    s.writeBack c sec = ((s.homeWrite sec x.data x.dirty (some c)).setSlice c sec x.cleaned).homePoison sec x.poison := by
  unfold State.writeBack State.writeBackOf
  simp only [h, and_fullMask, hd, if_false, and_not_fullMask, SliceSector.cleaned]
  simp

/-- The slice's own copy stays, clean; another slice keeps all of its copy or its dirty bytes. -/
theorem State.slice?_writeBack (s : State) (c sec : Nat) : (s.writeBack c sec).slice? c sec = (s.slice? c sec).map SliceSector.cleaned := by
  cases hx : s.slice? c sec with
  | none => rw [State.writeBack_of_none hx, hx]; rfl
  | some x =>
    by_cases hd : x.dirty = 0
    · rw [State.writeBack_of_clean hx hd, hx]; simp [SliceSector.cleaned, hd]
    · rw [State.writeBack_of_dirty hx hd]; simp [State.slice?_setSlice]

theorem State.slice?_writeBack_other (s : State) (c sec d : Nat) (h : d ≠ c) :
    (s.writeBack c sec).slice? d sec = s.slice? d sec ∨ (s.writeBack c sec).slice? d sec = (s.slice? d sec).bind SliceSector.stale := by
  cases hx : s.slice? c sec with
  | none => rw [State.writeBack_of_none hx]; exact .inl rfl
  | some x =>
    by_cases hd : x.dirty = 0
    · rw [State.writeBack_of_clean hx hd]; exact .inl rfl
    · rw [State.writeBack_of_dirty hx hd, State.slice?_homePoison, State.slice?_setSlice, if_neg (fun hh => h hh.1), State.slice?_homeWrite]
      split
      · exact .inr rfl
      · exact .inl rfl

/-- The dirty bytes of a copy over the bytes of the home. -/
def State.overHome (s : State) (x : Option SliceSector) (a : Nat) : Byte :=
  match x with
  | some x => if x.dirty.getLsbD (a % 32) then sectorByte x.data (a % 32) else s.homeByte a
  | none => s.homeByte a

theorem State.homeByte_homePoison (s : State) (sec : Nat) (bad : Bool) (a : Nat) : (s.homePoison sec bad).homeByte a = s.homeByte a :=
  State.homeByte_of_mem (s.homePoison_mem sec bad) a

/-- The homes after a sector is written back. -/
theorem State.homeByte_writeBack (s : State) (c sec a : Nat) :
    (s.writeBack c sec).homeByte a = if a / 32 = sec then s.overHome (s.slice? c sec) a else s.homeByte a := by
  cases hx : s.slice? c sec with
  | none => rw [State.writeBack_of_none hx]; simp [State.overHome]
  | some x =>
    by_cases hd : x.dirty = 0
    · rw [State.writeBack_of_clean hx hd]; simp [State.overHome, hd]
    · rw [State.writeBack_of_dirty hx hd, State.homeByte_homePoison]
      have : ((s.homeWrite sec x.data x.dirty (some c)).setSlice c sec x.cleaned).homeByte a = (s.homeWrite sec x.data x.dirty (some c)).homeByte a := rfl
      rw [this, State.homeByte_homeWrite]
      by_cases ha : a / 32 = sec <;> simp [ha, State.overHome]

theorem State.cacheStep_evict (s : State) (c sec : Nat) : CacheStep sec s (s.evict c sec) := by
  unfold State.evict
  split
  · exact CacheStep.refl sec s
  · dsimp only
    refine CacheStep.trans ?_ (State.cacheStep_homePoison _ sec _)
    refine CacheStep.trans ?_ (State.cacheStep_dropSlice _ c sec)
    refine CacheStep.trans ?_ (State.cacheStep_revoke _ c sec)
    split
    · exact CacheStep.refl sec s
    · exact s.cacheStep_writeBack c sec

theorem State.sheds_evict (s : State) (c sec : Nat) : Sheds s (s.evict c sec) := by
  unfold State.evict
  split
  · exact Sheds.refl s
  · dsimp only
    refine Sheds.trans ?_ (State.sheds_homePoison _ sec _)
    refine Sheds.trans ?_ (State.sheds_dropSlice _ c sec)
    refine Sheds.trans ?_ (State.sheds_revoke _ c sec)
    split
    · exact Sheds.refl s
    · exact s.sheds_writeBack c sec

theorem State.evict_of_none {s : State} {c sec : Nat} (h : s.slice? c sec = none) : s.evict c sec = s := by simp [State.evict, h]

/-- An evicted sector is gone from the slice. -/
@[simp] theorem State.slice?_evict (s : State) (c sec : Nat) : (s.evict c sec).slice? c sec = none := by
  cases hx : s.slice? c sec with
  | none => rw [State.evict_of_none hx, hx]
  | some x => simp [State.evict, hx, State.slice?_dropSlice]

/-- What an eviction brings to the home: the slice's dirty bytes of a local sector. -/
theorem State.homeByte_evict (s : State) (c sec a : Nat) :
    (s.evict c sec).homeByte a = if isRemote (32 * sec) = false ∧ a / 32 = sec then s.overHome (s.slice? c sec) a else s.homeByte a := by
  cases hx : s.slice? c sec with
  | none => rw [State.evict_of_none hx]; simp [State.overHome]
  | some x =>
    have hmem : ∀ (t : State) (bad : Bool), (((t.revoke c sec).dropSlice c sec).homePoison sec bad).homeByte a = t.homeByte a := fun t bad => by
      rw [State.homeByte_homePoison]
      exact State.homeByte_of_mem (t.revoke_mem c sec) a
    simp only [State.evict, hx, hmem]
    cases hr : isRemote (32 * sec) with
    | true => simp
    | false => simp [State.homeByte_writeBack, hx]

end Sys2Proof.Machine
end

section
/-! Stores to one sector of local memory (R182, R275 to R278): what the storing column sees, what every other sector keeps, and room in a slice. -/

namespace Sys2Proof.Machine

/-! ### Bytes of a sector -/

/-- Byte `i` of the value of a byte list. -/
theorem leNat_byte (l : List Byte) (i : Nat) : leNat l / 256 ^ i % 256 = (l[i]?.getD 0).toNat := by
  induction l generalizing i with
  | nil => simp [leNat]
  | cons b r ih =>
    have hb : b.toNat < 256 := b.isLt
    cases i with
    | zero => simp only [leNat, Nat.pow_zero, Nat.div_one, List.getElem?_cons_zero, Option.getD_some]; omega
    | succ i =>
      have : leNat (b :: r) / 256 ^ (i + 1) = leNat r / 256 ^ i := by
        rw [Nat.pow_succ', ← Nat.div_div_eq_div_mul]
        congr 1
        simp only [leNat]; omega
      rw [this, ih, List.getElem?_cons_succ]

theorem leNat_lt (l : List Byte) : leNat l < 256 ^ l.length := by
  induction l with
  | nil => simp [leNat]
  | cons b r ih =>
    have hb : b.toNat < 256 := b.isLt
    simp only [leNat, List.length_cons, Nat.pow_succ]; omega

/-- Byte `i` of a sector held as a number. -/
theorem sectorByte_ofNat {i : Nat} (hi : i < 32) (v : Nat) : sectorByte (BitVec.ofNat 256 v) i = BitVec.ofNat 8 (v / 256 ^ i) := by
  apply BitVec.eq_of_toNat_eq
  have h1 : (256 : Nat) ^ i = 2 ^ (8 * i) := by rw [Nat.pow_mul]
  simp only [sectorByte, BitVec.extractLsb'_toNat, BitVec.toNat_ofNat, Nat.shiftRight_eq_div_pow, h1]
  have h2 : (2 : Nat) ^ 256 = 2 ^ (8 * i) * 2 ^ (256 - 8 * i) := by rw [← Nat.pow_add]; congr 1; omega
  rw [h2, Nat.mod_mul_right_div_self]
  exact Nat.mod_mod_of_dvd _ (Nat.pow_dvd_pow 2 (by omega))

theorem sectorByte_leNat {l : List Byte} {i : Nat} (hi : i < 32) : sectorByte (BitVec.ofNat 256 (leNat l)) i = l[i]?.getD 0 := by
  rw [sectorByte_ofNat hi]
  apply BitVec.eq_of_toNat_eq
  rw [BitVec.toNat_ofNat]
  exact leNat_byte l i

theorem sectorByte_mergeSector (old new : BitVec 256) (mask : BitVec 32) {i : Nat} (hi : i < 32) :
    sectorByte (mergeSector old new mask) i = if mask.getLsbD i then sectorByte new i else sectorByte old i := by
  rw [mergeSector, sectorByte_leNat hi]
  simp [hi]

theorem State.sectorByte_homeSector (s : State) (sec : Nat) {i : Nat} (hi : i < 32) : sectorByte (s.homeSector sec) i = s.homeByte (32 * sec + i) := by
  rw [State.homeSector, sectorByte_leNat hi]
  simp [hi]

theorem getLsbD_fullMask {i : Nat} (hi : i < 32) : fullMask.getLsbD i = true := by
  have : fullMask = BitVec.allOnes 32 := rfl
  rw [this, BitVec.getLsbD_allOnes]; simp [hi]

/-! ### Steps that touch no byte -/

/-- Slices, homes and their poison are as before. -/
structure SameBytes (s t : State) : Prop where
  slice : ∀ c, (t.col c).slice = (s.col c).slice
  mem : t.mem = s.mem
  poison : t.poison = s.poison

namespace SameBytes
variable {s t u : State}

theorem refl (s : State) : SameBytes s s := ⟨fun _ => rfl, rfl, rfl⟩
theorem trans (h1 : SameBytes s t) (h2 : SameBytes t u) : SameBytes s u :=
  ⟨fun c => (h2.slice c).trans (h1.slice c), h2.mem.trans h1.mem, h2.poison.trans h1.poison⟩
theorem slice? (h : SameBytes s t) (c sec : Nat) : t.slice? c sec = s.slice? c sec := congrArg (fun l => mapGet? l sec) (h.slice c)
theorem homeByte (h : SameBytes s t) (a : Nat) : t.homeByte a = s.homeByte a := State.homeByte_of_mem h.mem a
theorem atSector (h : SameBytes s t) (sec : Nat) : AtSector sec s t :=
  ⟨fun c x _ => h.slice? c x, fun a _ => h.homeByte a, fun x _ => by rw [h.poison], fun c z => by rw [h.slice c]⟩
end SameBytes

theorem State.sameBytes_setL1 (s : State) (c u : Nat) (m : List (Nat × L1Sector)) : SameBytes s (s.setL1 c u m) :=
  ⟨fun d => s.slice_setL1 c u d m, s.setL1_mem c u m, s.poison_setL1 c u m⟩

theorem State.sameBytes_modGrp (s : State) (n g : Nat) (f : Group → Group) : SameBytes s (s.modGrp n g f) :=
  ⟨fun c => by rw [State.col, State.modGrp_cols]; rfl, s.modGrp_mem n g f, s.modGrp_poison n g f⟩

theorem State.sameBytes_modCol (s : State) (c : Nat) (f : Column → Column) (h : (f (s.col c)).slice = (s.col c).slice) : SameBytes s (s.modCol c f) :=
  ⟨fun d => by rw [State.col_modCol]; split <;> simp_all, rfl, rfl⟩

theorem State.sameBytes_modCc (s : State) (c : Nat) (f : ColCore → ColCore) : SameBytes s (s.modCc c f) :=
  s.sameBytes_modCol c (fun y => { y with core := f (s.cc c) }) rfl

theorem State.sameBytes_noteFlush (s : State) (who : Agent) (sec : Nat) : SameBytes s (s.noteFlush who sec) := by
  unfold State.noteFlush
  split
  · exact SameBytes.refl s
  · cases who with
    | grp n g => exact s.sameBytes_modGrp n g _
    | col c => exact s.sameBytes_modCc c _

theorem State.sameBytes_setMark (s : State) (line : Nat) (scope : Option Nat) : SameBytes s (s.setMark line scope) := by
  unfold State.setMark
  cases scope with
  | none => exact ⟨fun _ => rfl, rfl, rfl⟩
  | some x => dsimp only; split <;> exact ⟨fun _ => rfl, rfl, rfl⟩

theorem State.sameBytes_homeTouch (s : State) (sec : Nat) (write : Bool) : SameBytes s (s.homeTouch sec write) := by
  unfold State.homeTouch
  split
  · exact ⟨fun _ => rfl, rfl, rfl⟩
  · exact SameBytes.refl s

theorem State.sameBytes_l1Store (s : State) (c u sec : Nat) (d : BitVec 256) (mask : BitVec 32) : SameBytes s (s.l1Store c u sec d mask) := by
  unfold State.l1Store
  split
  · exact s.sameBytes_setL1 ..
  · exact SameBytes.refl s

/-! ### Registers -/

/-- A group whose flush set and fence alone change keeps its registers. -/
theorem State.sameRegisters_modGrp (s : State) (n g : Nat) {f : Group → Group} (hf : ∀ x, (f x).threads = x.threads ∧
    ((f x).s, (f x).q, (f x).k, (f x).scalar, (f x).scratch) = (x.s, x.q, x.k, x.scalar, x.scratch)) : SameRegisters s (s.modGrp n g f) where
  thr m h i := by
    rw [State.thr?, State.grp?_modGrp]
    split
    · next hm =>
      obtain ⟨rfl, rfl⟩ := hm
      cases hx : s.grp? m h with
      | none => simp [State.thr?, hx]
      | some x => simp [State.thr?, hx, (hf x).1]
    · rfl
  scalar m h := by
    rw [State.grp?_modGrp]
    split
    · next hm =>
      obtain ⟨rfl, rfl⟩ := hm
      cases hx : s.grp? m h with
      | none => simp
      | some x => simpa using (hf x).2
    · rfl
  deal m slot := by simp
  col c := ⟨(s.cc c).l1, (s.cc c).flush, (s.cc c).flushFull, by simp [State.cc, State.col, State.modGrp_cols]⟩

/-- A column core whose L1 and flush set alone change keeps its registers. -/
theorem State.sameRegisters_modCc (s : State) (c : Nat) {f : ColCore → ColCore}
    (hf : ∃ l1 flush full, f (s.cc c) = { s.cc c with l1 := l1, flush := flush, flushFull := full }) : SameRegisters s (s.modCc c f) where
  thr _ _ _ := rfl
  scalar _ _ := rfl
  deal _ _ := rfl
  col d := by
    rw [State.cc_modCc]
    split
    · next h => subst h; exact hf
    · exact ⟨(s.cc d).l1, (s.cc d).flush, (s.cc d).flushFull, rfl⟩

/-- So does one whose column changes outside its core. -/
theorem State.sameRegisters_modCol (s : State) (c : Nat) {f : Column → Column} (hf : (f (s.col c)).core = (s.col c).core) :
    SameRegisters s (s.modCol c f) where
  thr _ _ _ := rfl
  scalar _ _ := rfl
  deal _ _ := rfl
  col d := by
    refine ⟨(s.cc d).l1, (s.cc d).flush, (s.cc d).flushFull, ?_⟩
    rw [State.cc, State.col_modCol]
    split
    · next h => subst h; exact hf
    · rfl

theorem State.sameRegisters_noteFlush (s : State) (who : Agent) (sec : Nat) : SameRegisters s (s.noteFlush who sec) := by
  unfold State.noteFlush
  split
  · exact SameRegisters.refl s
  · cases who with
    | grp n g => exact s.sameRegisters_modGrp n g (fun _ => ⟨rfl, rfl⟩)
    | col c => exact s.sameRegisters_modCc c ⟨_, _, _, rfl⟩

theorem State.sameRegisters_setMark (s : State) (line : Nat) (scope : Option Nat) : SameRegisters s (s.setMark line scope) := by
  unfold State.setMark
  have h : ∀ m : List (Nat × Nat), SameRegisters s { s with marks := m } := fun m =>
    ⟨fun _ _ _ => rfl, fun _ _ => rfl, fun _ _ => rfl, fun c => ⟨(s.cc c).l1, (s.cc c).flush, (s.cc c).flushFull, rfl⟩⟩
  cases scope with
  | none => exact h _
  | some x => dsimp only; split <;> exact h _

/-! ### Bytes that a column sees -/

/-- What is seen of another sector than a step's own is as before. -/
theorem AtSector.snoopedByte {sec : Nat} {s t : State} (h : AtSector sec s t) (c : Nat) {a : Nat} (ha : a / 32 ≠ sec) :
    t.snoopedByte c a = s.snoopedByte c a := by
  simp only [State.snoopedByte, State.peerByte, h.slices _ _ ha, h.homes a ha]

theorem AtSector.viewByte {sec : Nat} {s t : State} (h : AtSector sec s t) (c : Nat) {a : Nat} (ha : a / 32 ≠ sec) : t.viewByte c a = s.viewByte c a := by
  simp only [State.viewByte, h.slices _ _ ha, h.snoopedByte c ha]

theorem AtSector.peekByte {sec : Nat} {s t : State} (h : AtSector sec s t) (c : Nat) {a : Nat} (ha : a / 32 ≠ sec) : t.peekByte c a = s.peekByte c a := by
  simp only [State.peekByte, h.slices _ _ ha, h.snoopedByte c ha]

theorem SameBytes.viewByte {s t : State} (h : SameBytes s t) (c a : Nat) : t.viewByte c a = s.viewByte c a :=
  (h.atSector (a / 32 + 1)).viewByte c (by omega)

theorem SameBytes.peekByte {s t : State} (h : SameBytes s t) (c a : Nat) : t.peekByte c a = s.peekByte c a :=
  (h.atSector (a / 32 + 1)).peekByte c (by omega)

/-- No slice of another column holds the sector. -/
def Alone (s : State) (c sec : Nat) : Prop := ∀ c2, c2 ≠ c → s.slice? c2 sec = none

theorem Alone.snoopedByte {s : State} {c a : Nat} (h : Alone s c (a / 32)) : s.snoopedByte c a = s.homeByte a := by
  have : s.peerByte c a = none := by
    rw [State.peerByte, List.findSome?_eq_none_iff]
    intro k _
    by_cases hk : k = c
    · simp [hk]
    · simp [hk, h k hk]
  rw [State.snoopedByte, this]; rfl

/-- The valid bytes of a copy over the bytes of the home. -/
def State.validOver (s : State) (x : Option SliceSector) (a : Nat) : Byte :=
  match x with
  | some x => if x.valid.getLsbD (a % 32) then sectorByte x.data (a % 32) else s.homeByte a
  | none => s.homeByte a

theorem Alone.viewByte {s : State} {c a : Nat} (h : Alone s c (a / 32)) : s.viewByte c a = s.validOver (s.slice? c (a / 32)) a := by
  simp only [State.viewByte, h.snoopedByte]; rfl

theorem Alone.peekByte {s : State} {c a : Nat} (h : Alone s c (a / 32)) : s.peekByte c a = s.overHome (s.slice? c (a / 32)) a := by
  simp only [State.peekByte, h.snoopedByte]; rfl

theorem Sheds.alone {s t : State} (h : Sheds s t) {c sec : Nat} (ha : Alone s c sec) : Alone t c sec := fun c2 h2 => h.slice c2 sec (ha c2 h2)

/-- A valid byte of the slice is what the column sees. -/
theorem State.viewByte_of_valid {s : State} {c a : Nat} {x : SliceSector} (h : s.slice? c (a / 32) = some x) (hv : x.valid.getLsbD (a % 32) = true) :
    s.viewByte c a = sectorByte x.data (a % 32) := by
  simp only [State.viewByte, h, hv, if_true]

/-! ### Room in a slice -/

/-- The slice has the sector, or it fits in beside what is there. -/
def Fits (s : State) (c sec : Nat) : Prop := ∀ z, (mapSet (s.col c).slice sec z).length ≤ sliceCapacity

theorem Room.fits {s : State} {c n : Nat} (h : Room s c n) (hn : 0 < n) (sec : Nat) : Fits s c sec := fun z => by
  have := length_mapSet_le (s.col c).slice sec z
  unfold Room at h; omega

theorem AtSector.fits {sec : Nat} {s t : State} (h : AtSector sec s t) {c : Nat} (hf : Fits s c sec) : Fits t c sec := fun z => (h.room c z).trans (hf z)

/-- A step at one sector takes up room for one at most. -/
theorem AtSector.room_step {sec : Nat} {s t : State} (h : AtSector sec s t) {c n : Nat} (hr : Room s c (n + 1)) : Room t c n := by
  have h1 := h.room c ⟨0, 0, 0, 0, none, false⟩
  have h2 := length_mapSet_le (s.col c).slice sec ⟨0, 0, 0, 0, none, false⟩
  have h3 := length_le_mapSet (t.col c).slice sec ⟨0, 0, 0, 0, none, false⟩
  unfold Room at *; omega

theorem Room.mono {s : State} {c n k : Nat} (h : Room s c n) (hk : k ≤ n) : Room s c k := by unfold Room at *; omega

theorem SameBytes.room {s t : State} (h : SameBytes s t) {c n : Nat} (hr : Room s c n) : Room t c n := by unfold Room; rw [h.slice]; exact hr

/-- With room, a sector enters a slice and none leaves. -/
theorem State.putSlice_of_fits {s : State} {c sec : Nat} (h : Fits s c sec) (x : SliceSector) : s.putSlice c sec x = s.setSlice c sec x := by
  unfold State.putSlice
  dsimp only
  cases hm : mapGet? (s.col c).slice sec with
  | some y => simp
  | none =>
    have h1 := h x
    rw [length_mapSet_of_none hm] at h1
    rw [if_pos]
    simp only [Option.isSome_none, Bool.false_or, decide_eq_true_eq]
    omega

theorem State.putSlice_of_present {s : State} {c sec : Nat} (h : (s.slice? c sec).isSome = true) (x : SliceSector) : s.putSlice c sec x = s.setSlice c sec x := by
  unfold State.putSlice
  dsimp only
  rw [if_pos]
  simp only [Bool.or_eq_true]
  exact .inl h

/-! ### A store to one sector -/

theorem State.cacheStep_snoop (s : State) (c sec : Nat) : CacheStep sec s (s.snoop c sec) :=
  CacheStep.foldl (fun t c2 => by
    split
    · exact CacheStep.refl sec t
    · exact t.cacheStep_evict c2 sec) _ s

theorem State.sheds_snoop (s : State) (c sec : Nat) : Sheds s (s.snoop c sec) :=
  Sheds.foldl (fun t c2 => by
    split
    · exact Sheds.refl t
    · exact t.sheds_evict c2 sec) _ s

theorem State.cacheStep_revokeOthers (s : State) (c : Nat) (u : Option Nat) (sec : Nat) : CacheStep sec s (s.revokeOthers c u sec) := by
  unfold State.revokeOthers
  split
  · split
    · exact s.cacheStep_revoke c sec
    · exact CacheStep.refl sec s
  · exact CacheStep.refl sec s

theorem State.cacheStep_l1Store (s : State) (c u sec : Nat) (d : BitVec 256) (mask : BitVec 32) : CacheStep sec s (s.l1Store c u sec d mask) := by
  unfold State.l1Store
  split
  · exact s.cacheStep_setL1 ..
  · exact CacheStep.refl sec s

/-- The state in which a store reaches the slice: other copies are gone. -/
def State.beforeStore (s : State) (c : Nat) (u : Option Nat) (sec : Nat) : State := (s.snoop c sec).revokeOthers c u sec
/-- The sector as a store leaves it in the slice. -/
def State.storedSector (s : State) (c : Nat) (u : Option Nat) (sec : Nat) (d : BitVec 256) (mask : BitVec 32) (wide : Bool) : SliceSector :=
  let s1 := s.beforeStore c u sec
  let x := s1.sliceView c sec
  { data := mergeSector x.data d mask, valid := x.valid ||| mask, dirty := x.dirty ||| mask, wide := if wide then x.wide ||| mask else x.wide,
    owner := s1.writerOf c u sec, poison := if mask = fullMask then false else x.poison }

theorem State.sliceStore_eq (s : State) (c : Nat) (u : Option Nat) (sec : Nat) (d : BitVec 256) (mask : BitVec 32) (wide : Bool) :
    s.sliceStore c u sec d mask wide = (s.beforeStore c u sec).putSlice c sec (s.storedSector c u sec d mask wide) := rfl

theorem State.cacheStep_beforeStore (s : State) (c : Nat) (u : Option Nat) (sec : Nat) : CacheStep sec s (s.beforeStore c u sec) :=
  (s.cacheStep_snoop c sec).trans (State.cacheStep_revokeOthers _ c u sec)

theorem State.sliceStore_of_fits {s : State} {c sec : Nat} (h : Fits s c sec) (u : Option Nat) (d : BitVec 256) (mask : BitVec 32) (wide : Bool) :
    s.sliceStore c u sec d mask wide = (s.beforeStore c u sec).setSlice c sec (s.storedSector c u sec d mask wide) := by
  rw [State.sliceStore_eq, State.putSlice_of_fits ((s.cacheStep_beforeStore c u sec).fits h)]

/-- Whether or not the slice has room, a store stands in it. -/
theorem State.slice?_putSlice (s : State) (c sec : Nat) (x : SliceSector) : (s.putSlice c sec x).slice? c sec = some x := by
  unfold State.putSlice
  dsimp only
  split
  · simp [State.slice?_setSlice]
  · split <;> simp [State.slice?_setSlice]

theorem State.slice?_sliceStore (s : State) (c : Nat) (u : Option Nat) (sec : Nat) (d : BitVec 256) (mask : BitVec 32) (wide : Bool) :
    (s.sliceStore c u sec d mask wide).slice? c sec = some (s.storedSector c u sec d mask wide) := State.slice?_putSlice ..

theorem State.cacheStep_sliceStore {s : State} {c sec : Nat} (h : Fits s c sec) (u : Option Nat) (d : BitVec 256) (mask : BitVec 32) (wide : Bool) :
    CacheStep sec s (s.sliceStore c u sec d mask wide) := by
  rw [State.sliceStore_of_fits h]
  exact (s.cacheStep_beforeStore c u sec).trans (State.cacheStep_setSlice _ c sec _)

/-- A store to one sector, up to what its scope adds: L1, slice, flush set, mark. -/
def State.storeBelow (s : State) (u : MemUnit) (sec : Nat) (d : BitVec 256) (mask : BitVec 32) (scope release : Option Nat) : State :=
  (((s.l1Store u.col u.unit sec d mask).sliceStore u.col (some u.unit) sec d mask (inCluster scope)).noteFlush u.who sec).setMark (sec / 4) release

/-- A scope of die or wider. -/
def wideScope (scope : Option Nat) : Bool := match scope with | some x => 4 ≤ x | none => false

theorem State.storeSector_eq (s : State) (u : MemUnit) (sec : Nat) (d : BitVec 256) (mask : BitVec 32) (scope release : Option Nat) :
    s.storeSector u sec d mask scope release = if wideScope scope then (s.storeBelow u sec d mask scope release).writeBack u.col sec
      else s.storeBelow u sec d mask scope release := by
  cases scope with
  | none => rfl
  | some x => simp only [State.storeSector, wideScope, decide_eq_true_eq]; rfl

theorem State.sameBytes_storeBelow (s : State) (u : MemUnit) (sec : Nat) (d : BitVec 256) (mask : BitVec 32) (scope release : Option Nat) :
    SameBytes ((s.l1Store u.col u.unit sec d mask).sliceStore u.col (some u.unit) sec d mask (inCluster scope)) (s.storeBelow u sec d mask scope release) :=
  (State.sameBytes_noteFlush ..).trans (State.sameBytes_setMark ..)

/-- The sector that a store leaves in the slice. -/
def State.storedBy (s : State) (u : MemUnit) (sec : Nat) (d : BitVec 256) (mask : BitVec 32) (scope : Option Nat) : SliceSector :=
  (s.l1Store u.col u.unit sec d mask).storedSector u.col (some u.unit) sec d mask (inCluster scope)

theorem State.slice?_storeBelow (s : State) (u : MemUnit) (sec : Nat) (d : BitVec 256) (mask : BitVec 32) (scope release : Option Nat) :
    (s.storeBelow u sec d mask scope release).slice? u.col sec = some (s.storedBy u sec d mask scope) := by
  rw [(s.sameBytes_storeBelow u sec d mask scope release).slice?, State.slice?_sliceStore]; rfl

theorem State.atSector_storeBelow {s : State} {u : MemUnit} {sec : Nat} (h : Fits s u.col sec) (d : BitVec 256) (mask : BitVec 32) (scope release : Option Nat) :
    AtSector sec s (s.storeBelow u sec d mask scope release) := by
  have h1 := s.cacheStep_l1Store u.col u.unit sec d mask
  exact (h1.trans (State.cacheStep_sliceStore (h1.fits h) ..)).toAtSector.trans ((s.sameBytes_storeBelow u sec d mask scope release).atSector sec)

/-- With room, a store concerns its own sector alone. -/
theorem State.atSector_storeSector {s : State} {u : MemUnit} {sec : Nat} (h : Fits s u.col sec) (d : BitVec 256) (mask : BitVec 32) (scope release : Option Nat) :
    AtSector sec s (s.storeSector u sec d mask scope release) := by
  rw [State.storeSector_eq]
  split
  · exact (State.atSector_storeBelow h d mask scope release).trans (State.cacheStep_writeBack _ u.col sec).toAtSector
  · exact State.atSector_storeBelow h d mask scope release

/-- The copy in the storing column's slice after a store. -/
theorem State.slice?_storeSector (s : State) (u : MemUnit) (sec : Nat) (d : BitVec 256) (mask : BitVec 32) (scope release : Option Nat) :
    (s.storeSector u sec d mask scope release).slice? u.col sec
      = some (if wideScope scope then (s.storedBy u sec d mask scope).cleaned else s.storedBy u sec d mask scope) := by
  rw [State.storeSector_eq]
  split
  · rw [State.slice?_writeBack, State.slice?_storeBelow]; rfl
  · rw [State.slice?_storeBelow]

theorem State.sectorByte_storedBy (s : State) (u : MemUnit) (sec : Nat) (d : BitVec 256) (mask : BitVec 32) (scope : Option Nat) {i : Nat} (hi : i < 32)
    (hm : mask.getLsbD i = true) : sectorByte (s.storedBy u sec d mask scope).data i = sectorByte d i := by
  rw [State.storedBy, State.storedSector, sectorByte_mergeSector _ _ _ hi, if_pos hm]

/-- The column that stores sees the stored bytes at once (R276). -/
theorem State.viewByte_storeSector (s : State) (u : MemUnit) (sec : Nat) (d : BitVec 256) (mask : BitVec 32) (scope release : Option Nat) {a : Nat}
    (ha : a / 32 = sec) (hm : mask.getLsbD (a % 32) = true) : (s.storeSector u sec d mask scope release).viewByte u.col a = sectorByte d (a % 32) := by
  have hi : a % 32 < 32 := Nat.mod_lt _ (by omega)
  have hs := s.slice?_storeSector u sec d mask scope release
  rw [← ha] at hs
  have hv : (s.storedBy u (a / 32) d mask scope).valid.getLsbD (a % 32) = true := by simp [State.storedBy, State.storedSector, hm]
  rw [← ha, State.viewByte_of_valid hs (by split <;> simp [hv]), ← s.sectorByte_storedBy u (a / 32) d mask scope hi hm]
  split <;> simp

/-- A store at die scope or wider stands at the home at once (R282). -/
theorem State.homeByte_storeSector (s : State) (u : MemUnit) (sec : Nat) (d : BitVec 256) (mask : BitVec 32) (scope release : Option Nat) {a : Nat}
    (ha : a / 32 = sec) (hm : mask.getLsbD (a % 32) = true) (hw : wideScope scope = true) :
    (s.storeSector u sec d mask scope release).homeByte a = sectorByte d (a % 32) := by
  have hi : a % 32 < 32 := Nat.mod_lt _ (by omega)
  have hd : (s.storedBy u sec d mask scope).dirty.getLsbD (a % 32) = true := by simp [State.storedBy, State.storedSector, hm]
  rw [State.storeSector_eq, if_pos hw, State.homeByte_writeBack, if_pos ha, State.slice?_storeBelow]
  simp only [State.overHome, hd, if_true]
  exact s.sectorByte_storedBy u sec d mask scope hi hm

end Sys2Proof.Machine
end

section
/-! A slice that holds more sectors than it has room for (R274): no state that the machine reaches has one, but `Obligations.LocalAccess` speaks of every
state. There a store to a sector that the slice has can still cost another sector its place. -/

namespace Sys2Proof.Machine

/-- A slice at its capacity or above gives up another sector when one it lacks enters. -/
theorem State.putSlice_gives_up {s : State} {c sec : Nat} (hnone : s.slice? c sec = none) (hfull : sliceCapacity ≤ (s.col c).slice.length) (x : SliceSector) :
    ∃ y, y ≠ sec ∧ s.slice? c y ≠ none ∧ (s.putSlice c sec x).slice? c y = none := by
  have hidx : Config.victim sec % sliceCapacity < (s.col c).slice.length := (Nat.mod_lt _ (by decide)).trans_le hfull
  obtain ⟨e, he⟩ : ∃ e, (s.col c).slice[Config.victim sec % sliceCapacity]? = some e := ⟨_, List.getElem?_eq_getElem hidx⟩
  have hkey : e.1 ∈ (s.col c).slice.map (·.1) := List.mem_map_of_mem (List.mem_of_getElem? he)
  have hheld : s.slice? c e.1 ≠ none := fun h => mapGet?_eq_none.1 h hkey
  have hne : e.1 ≠ sec := fun h => hheld (h ▸ hnone)
  refine ⟨e.1, hne, hheld, ?_⟩
  have hput : s.putSlice c sec x = (s.evict c e.1).setSlice c sec x := by
    unfold State.putSlice
    dsimp only
    have hnone2 : mapGet? (s.col c).slice sec = none := hnone
    rw [hnone2, if_neg (by simpa using hfull), he]
  rw [hput, State.slice?_setSlice, if_neg (fun h => hne h.2), State.slice?_evict]

/-- Distinct sectors that a slice holds take up its length. -/
theorem State.slice_length_ge {s : State} {c : Nat} {l : List Nat} (hl : l.Nodup) (h : ∀ x ∈ l, s.slice? c x ≠ none) : l.length ≤ (s.col c).slice.length := by
  have hsub : l ⊆ (s.col c).slice.map (·.1) := fun x hx => by
    by_contra hn
    exact h x hx (mapGet?_eq_none.2 hn)
  simpa using (List.subperm_of_subset hl hsub).length_le

/-- A clean sector of zeros. -/
def cleanZeros : SliceSector := ⟨0, fullMask, 0, 0, none, false⟩

/-- Column 0 holds two sectors more than its slice has room for, all clean; column 1 holds sector 0 with a dirty byte. -/
def overfull : State :=
  (State.reset.modCol 0 (fun y => { y with slice := (List.range (sliceCapacity + 2)).map (fun i => (i, cleanZeros)) })).modCol 1
    (fun y => { y with slice := [(0, ⟨0, 1, 1, 0, none, false⟩)] })

theorem mapGet?_map_range {β : Type} (b : β) (n x : Nat) : mapGet? ((List.range n).map (fun i => (i, b))) x = if x < n then some b else none := by
  induction n with
  | zero => rfl
  | succ n ih =>
    have happ : ∀ (l : List (Nat × β)), mapGet? (l ++ [(n, b)]) x = ((mapGet? l x).or (if n = x then some b else none)) := by
      intro l
      induction l with
      | nil => simp [mapGet?]
      | cons e r ih =>
        obtain ⟨k, v⟩ := e
        by_cases hk : k = x
        · simp [mapGet?, hk]
        · simp [mapGet?, hk, ih]
    rw [List.range_succ, List.map_append, List.map_singleton, happ, ih]
    by_cases h : x < n
    · simp [h, Nat.lt_succ_of_lt h]
    · by_cases h2 : n = x
      · simp [h2]
      · simp [h, h2, show ¬ x < n + 1 by omega]

theorem overfull_column0 (x : Nat) : overfull.slice? 0 x = if x < sliceCapacity + 2 then some cleanZeros else none := by
  rw [overfull, State.slice?, State.col_modCol, if_neg (by decide), State.col_modCol_same]
  dsimp only
  rw [mapGet?_map_range]

theorem overfull_column1 : overfull.slice? 1 0 = some ⟨0, 1, 1, 0, none, false⟩ := by
  rw [overfull, State.slice?, State.col_modCol_same]; rfl

theorem State.snoop_column0 (s : State) (sec : Nat) : s.snoop 0 sec = ((s.evict 1 sec).evict 2 sec).evict 3 sec := by
  simp [State.snoop, clusterCols, clusterOf]

/-- Snooping for column 0 writes the dirty byte home, and the directory takes the clean copy of column 0 itself (R277). -/
theorem overfull_snoop : (overfull.snoop 0 0).slice? 0 0 = none := by
  have h1 : (overfull.writeBack 1 0).slice? 0 0 = none := by
    rw [State.writeBack_of_dirty overfull_column1 (by decide), State.slice?_homePoison, State.slice?_setSlice, if_neg (by decide), State.slice?_homeWrite,
      if_pos (by decide), overfull_column0]
    rfl
  have h2 : (overfull.evict 1 0).slice? 0 0 = none := by
    have hlocal : isRemote (32 * 0) = false := by decide
    simp only [State.evict, overfull_column1, hlocal, Bool.false_eq_true, if_false]
    rw [State.slice?_homePoison, State.slice?_dropSlice, if_neg (by decide), State.slice?_revoke, if_neg (by decide)]
    exact h1
  rw [State.snoop_column0]
  exact ((State.sheds_evict (overfull.evict 1 0) 2 0).trans (State.sheds_evict _ 3 0)).slice 0 0 h2

/-- Refutes O24: column 0 of `overfull` has sector 0 and stores to it. Snooping takes its copy (R277), the slice still holds more than its capacity without
it, and so the store costs it another sector. -/
theorem not_localAccess : ¬ Obligations.LocalAccess := by
  unfold Obligations.LocalAccess
  rintro ⟨hstore, -⟩
  have hdirty : ∀ x, overfull.slice? 0 0 = some x → x.dirty &&& ~~~x.valid = 0 := by
    intro x hx
    rw [overfull_column0, if_pos (by decide)] at hx
    cases hx; rfl
  obtain ⟨-, -, -, hframe⟩ := hstore overfull ⟨0, 12, .col 0⟩ 0 0 0 none none hdirty
  obtain ⟨hslices, -⟩ := hframe (.inl (by rw [overfull_column0]; rfl))
  have hl1 : overfull.l1Store 0 12 0 0 0 = overfull := rfl
  have hb : CacheStep 0 overfull (overfull.beforeStore 0 (some 12) 0) := State.cacheStep_beforeStore ..
  have hnone : (overfull.beforeStore 0 (some 12) 0).slice? 0 0 = none := by
    rw [State.beforeStore, State.revokeOthers, overfull_snoop]; exact overfull_snoop
  have hfull : sliceCapacity ≤ ((overfull.beforeStore 0 (some 12) 0).col 0).slice.length := by
    have h := State.slice_length_ge (s := overfull.beforeStore 0 (some 12) 0) (c := 0) (l := List.range' 1 (sliceCapacity + 1)) List.nodup_range' (by
      intro x hx
      have hx2 := List.mem_range'_1.1 hx
      rw [hb.slices 0 x (by omega), overfull_column0, if_pos (by omega)]
      exact Option.some_ne_none _)
    rw [List.length_range'] at h
    omega
  obtain ⟨y, hy, hheld, hgone⟩ := State.putSlice_gives_up hnone hfull (overfull.storedSector 0 (some 12) 0 0 0 false)
  have hend : (overfull.storeSector ⟨0, 12, .col 0⟩ 0 0 0 none none).slice? 0 y = none := by
    rw [State.storeSector_eq]
    refine ((overfull.sameBytes_storeBelow ⟨0, 12, .col 0⟩ 0 0 0 none none).slice? 0 y).trans ?_
    rw [hl1, State.sliceStore_eq]
    exact hgone
  rw [hslices 0 y hy, ← hb.slices 0 y hy] at hend
  exact hheld hend

end Sys2Proof.Machine
end

section
/-! What a memory instruction comes to once its lanes are checked: the lanes that perform, and the results committed lane by lane. -/

namespace Sys2Proof.Machine

/-! ### Results by position -/

theorem resAt_append (l l' : List (Nat × LRes)) (pos : Nat) : resAt (l ++ l') pos = (resAt l pos).or (resAt l' pos) := by
  simp only [resAt, List.find?_append, Option.map_or]

theorem resAt_eq_none {l : List (Nat × LRes)} {pos : Nat} (h : ∀ p ∈ l, p.1 ≠ pos) : resAt l pos = none := by
  rw [resAt, List.find?_eq_none.2 (fun p hp => by simpa using h p hp), Option.map_none]

theorem mem_storing {f : Fields} {ls : List LaneView} {lv : LaneView} :
    lv ∈ storing f ls ↔ lv ∈ ls ∧ laneActive f lv = true ∧ lv.helper = false := by
  simp only [storing, List.mem_filter, Bool.not_eq_true', and_assoc]

theorem ownPositions_storing {f : Fields} {ls : List LaneView} (h : OwnPositions ls) : OwnPositions (storing f ls) :=
  h.sublist ((List.filter_sublist.trans List.filter_sublist).map _)

section
variable {ls l : List LaneView} {res : LaneView → LRes} {lv : LaneView}

/-- Among lanes at positions of their own, a lane of a list that gives one result per lane has its own. -/
theorem resAt_lanes_of_mem (h : OwnPositions ls) (hl : ∀ x ∈ l, x ∈ ls) (hlv : lv ∈ l) :
    resAt (l.map fun x => (x.pos, res x)) lv.pos = some (res lv) := by
  obtain ⟨p, hp⟩ := Option.isSome_iff_exists.1
    (List.find?_isSome (p := fun p : Nat × LRes => p.1 == lv.pos).2 ⟨(lv.pos, res lv), List.mem_map_of_mem (f := fun x => (x.pos, res x)) hlv, beq_self_eq_true lv.pos⟩)
  obtain ⟨x, hx, rfl⟩ := List.mem_map.1 (List.mem_of_find?_eq_some hp)
  have hpos : x.pos = lv.pos := by simpa using List.find?_some hp
  rw [resAt, hp, h.eq_of_pos (hl x hx) (hl lv hlv) hpos]
  rfl

theorem resAt_lanes_of_not_mem (h : OwnPositions ls) (hl : ∀ x ∈ l, x ∈ ls) (hlv : lv ∈ ls) (hnot : lv ∉ l) :
    resAt (l.map fun x => (x.pos, res x)) lv.pos = none := by
  refine resAt_eq_none fun p hp hpos => hnot ?_
  obtain ⟨x, hx, rfl⟩ := List.mem_map.1 hp
  exact h.eq_of_pos (hl x hx) hlv hpos ▸ hx
end

/-! ### The results committed -/

/-- Results by position commit as the results of the active lanes, where every active lane has the one given and no other has one. -/
theorem State.finishMem_eq (s : State) {r : Row} {f : Fields} {e : Env} {ls : List LaneView} {res : Nat → Option LRes} {out : LaneView → LRes}
    (hact : ∀ lv ∈ ls, laneActive f lv = true → (match res lv.pos with | some x => helperRes r f lv x | none => .idle) = out lv)
    (hin : ∀ lv ∈ ls, laneActive f lv = false → res lv.pos = none) :
    s.finishMem r f e ls res = s.commit e (laneRes f ls out) (wordsOf f) := by
  unfold State.finishMem laneRes
  congr 1
  refine List.map_congr_left fun lv hlv => ?_
  cases ha : laneActive f lv with
  | true => rw [if_pos rfl]; exact congrArg (lv, ·) (hact lv hlv ha)
  | false => simp [hin lv hlv ha]

/-- No lane has a result of its own: the lanes do nothing. -/
theorem State.finishMem_none (s : State) (r : Row) (f : Fields) (e : Env) (ls : List LaneView) :
    s.finishMem r f e ls (fun _ => none) = s.commit e (laneRes f ls (fun _ => .idle)) (wordsOf f) :=
  s.finishMem_eq (fun _ _ _ => rfl) (fun _ _ _ => rfl)

theorem laneRes_congr {f : Fields} {ls : List LaneView} {res res' : LaneView → LRes} (h : ∀ lv ∈ ls, laneActive f lv = true → res lv = res' lv) :
    laneRes f ls res = laneRes f ls res' := by
  refine List.map_congr_left fun lv hlv => ?_
  split
  · next ha => rw [h lv hlv ha]
  · rfl

section
variable {f : Fields} {ls : List LaneView} (hown : OwnPositions ls)
include hown

/-- Each active lane has a result. -/
theorem State.finishMem_active (s : State) (r : Row) (e : Env) (res : LaneView → LRes) :
    s.finishMem r f e ls (resAt ((ls.filter (laneActive f)).map fun lv => (lv.pos, res lv)))
      = s.commit e (laneRes f ls fun lv => helperRes r f lv (res lv)) (wordsOf f) := by
  have hsub : ∀ x ∈ ls.filter (laneActive f), x ∈ ls := fun x hx => List.mem_of_mem_filter hx
  refine s.finishMem_eq (fun lv hlv ha => ?_) (fun lv hlv ha => ?_)
  · rw [resAt_lanes_of_mem hown hsub (List.mem_filter.2 ⟨hlv, ha⟩)]
  · exact resAt_lanes_of_not_mem hown hsub hlv fun hm => by simp [(List.mem_filter.1 hm).2] at ha

/-- Lanes that store complete and change no register. -/
theorem State.finishMem_stored (s : State) (r : Row) (e : Env) :
    s.finishMem r f e ls (resAt ((storing f ls).map fun lv => (lv.pos, LRes.ok lv 0))) = s.commit e (laneStored f ls) (wordsOf f) := by
  have hsub : ∀ x ∈ storing f ls, x ∈ ls := fun x hx => (mem_storing.1 hx).1
  refine s.finishMem_eq (fun lv hlv ha => ?_) (fun lv hlv ha => ?_)
  · cases hh : lv.helper with
    | false => rw [resAt_lanes_of_mem hown hsub (mem_storing.2 ⟨hlv, ha, hh⟩)]; exact helperRes_ok ..
    | true => rw [resAt_lanes_of_not_mem hown hsub hlv fun hm => by simp [(mem_storing.1 hm).2.2] at hh]; rfl
  · exact resAt_lanes_of_not_mem hown hsub hlv fun hm => by simp [(mem_storing.1 hm).2.1] at ha

theorem resAt_helperZeros (r : Row) {lv : LaneView} (hlv : lv ∈ ls) :
    resAt (helperZeros r f (ls.filter (laneActive f))) lv.pos
      = if laneActive f lv = true ∧ lv.helper = true then some (.ok (zeroDest r lv f) 0) else none := by
  have heq : helperZeros r f (ls.filter (laneActive f))
      = ((ls.filter (laneActive f)).filter (·.helper)).map fun lv => (lv.pos, LRes.ok (zeroDest r lv f) 0) := by
    unfold helperZeros
    induction ls.filter (laneActive f) with
    | nil => rfl
    | cons x t ih => cases hx : x.helper <;> simp only [List.filterMap_cons, List.filter_cons, hx, ih, Bool.false_eq_true, if_true, if_false, List.map_cons]
  have hmem : lv ∈ (ls.filter (laneActive f)).filter (·.helper) ↔ laneActive f lv = true ∧ lv.helper = true := by
    simp only [List.mem_filter, hlv, true_and]
  have hsub : ∀ x ∈ (ls.filter (laneActive f)).filter (·.helper), x ∈ ls := fun x hx =>
    List.mem_of_mem_filter (List.mem_of_mem_filter hx)
  rw [heq]
  split
  · next h => exact resAt_lanes_of_mem hown hsub (hmem.2 h)
  · next h => exact resAt_lanes_of_not_mem hown hsub hlv (mt hmem.1 h)

/-- Lanes of threads that perform an atomic take a result each, a helper's D takes 0 (R35). -/
theorem State.finishMem_atomic (s : State) (r : Row) (e : Env) (out : LaneView → LaneView) :
    s.finishMem r f e ls (resAt (((storing f ls).map fun lv => (lv.pos, LRes.ok (out lv) 0)) ++ helperZeros r f (ls.filter (laneActive f))))
      = s.commit e (laneOut f ls fun lv => if lv.helper then zeroDest r lv f else out lv) (wordsOf f) := by
  have hsub : ∀ x ∈ storing f ls, x ∈ ls := fun x hx => (mem_storing.1 hx).1
  refine s.finishMem_eq (fun lv hlv ha => ?_) (fun lv hlv ha => ?_)
  · rw [resAt_append, resAt_helperZeros hown r hlv]
    cases hh : lv.helper with
    | false => rw [resAt_lanes_of_mem hown hsub (mem_storing.2 ⟨hlv, ha, hh⟩)]; simp only [Option.some_or, hh, Bool.false_eq_true, if_false, helperRes_ok]
    | true => rw [resAt_lanes_of_not_mem hown hsub hlv fun hm => by simp [(mem_storing.1 hm).2.2] at hh]; simp only [Option.none_or, ha, hh, and_self, if_true, helperRes_ok]
  · rw [resAt_append, resAt_helperZeros hown r hlv, resAt_lanes_of_not_mem hown hsub hlv fun hm => by simp [(mem_storing.1 hm).2.1] at ha]
    simp [ha]
end

/-! ### Lanes whose checks all pass -/

section
variable (lanes : List LaneView) (segs : LaneView → List Seg)

theorem walksOf_segs : walksOf (lanes.map fun lv => (lv, AccRes.segs (segs lv))) = [] := by
  simp [walksOf, List.flatMap_map]

theorem failList_segs : failList (lanes.map fun lv => (lv, AccRes.segs (segs lv))) = [] := by
  simp [failList, failRes]

/-- Where every lane passes its checks, all perform. -/
theorem performing_segs (e : Env) : performing e (lanes.map fun lv => (lv, AccRes.segs (segs lv))) = lanes.map fun lv => (lv, segs lv) := by
  have hunits : failUnits e (lanes.map fun lv => (lv, AccRes.segs (segs lv))) = [] := by
    have : (lanes.map fun lv => (lv, AccRes.segs (segs lv))).filter (fun p => !p.1.helper && (failRes p.2).isSome) = [] :=
      List.filter_eq_nil_iff.2 fun p hp => by
        obtain ⟨lv, -, rfl⟩ := List.mem_map.1 hp
        simp [failRes]
    rw [failUnits, this]
    rfl
  unfold performing
  simp [hunits, List.filterMap_map]

theorem map_fst_segs : (lanes.map fun lv => (lv, segs lv)).map (·.1) = lanes := by
  simp [Function.comp_def]
end

end Sys2Proof.Machine
end

section
/-! Loads, stores and atomics of scratch (R173, R186, R189). -/

namespace Sys2Proof.Machine

/-! ### Cells and places of scratch -/

theorem mapGet_putCells (m : List Host.Cell) (off : Nat) (bs : List Byte) (k : Nat) :
    mapGet (putCells m off bs) k unwritten = if off ≤ k ∧ k < off + bs.length then bs[k - off]?.getD 0 else mapGet m k unwritten := by
  induction bs generalizing m off with
  | nil => rw [putCells, if_neg (by simp)]
  | cons b r ih =>
    rw [putCells, ih, mapGet_mapPut, List.length_cons]
    rcases Nat.lt_trichotomy k off with h | rfl | h
    · rw [if_neg (by omega), if_neg (by omega), if_neg (by omega)]
    · rw [if_neg (by omega), if_pos rfl, if_pos (by omega)]
      simp
    · obtain ⟨j, rfl⟩ : ∃ j, k = off + 1 + j := ⟨k - off - 1, by omega⟩
      have hj : off + 1 + j - off = j + 1 := by omega
      have hj' : off + 1 + j - (off + 1) = j := by omega
      rw [hj, hj', List.getElem?_cons_succ]
      by_cases hlt : j < r.length
      · rw [if_pos (by omega), if_pos (by omega)]
      · rw [if_neg (by omega), if_neg (by omega), if_neg (by omega)]

/-- A group's scratch written reads as written. -/
theorem State.scratchRead_scratchWrite (s : State) {n g : Nat} {x : Group} (off k m : Nat) (bs : List Byte) (h : s.grp? n g = some x) :
    (s.scratchWrite (.grp n g) off bs).scratchRead (.grp n g) k m = (List.range m).map (fun i =>
      if off ≤ k + i ∧ k + i < off + bs.length then bs[k + i - off]?.getD 0 else mapGet x.scratch (k + i) 0) := by
  simp only [State.scratchRead, State.scratchWrite, State.scratchCells, State.grp?_modGrp_same, h, Option.map_some]
  exact List.map_congr_left fun i _ => mapGet_putCells ..

/-- The scratch of the group's own that an address reaches (R186). -/
theorem State.scratchTarget_own (s : State) {e : Env} {n g : Nat} {x : Group} (ea k : Nat) (h : s.issueGroup e = some (n, g, x)) :
    s.scratchTarget e false ea k = if ea + k ≤ 16384 * ((s.recOf x).part.toNat % 256) then some (.grp n g, ea) else none := by
  simp only [State.scratchTarget, h, scratchBytes_eq]
  rfl

/-- The scratch of the member of its gang that an address names (R173, R186). -/
theorem State.scratchTarget_member (s : State) {e : Env} {n g : Nat} {x : Group} {ea k : Nat} {p : ScratchAt} (h : s.issueGroup e = some (n, g, x))
    (hin : ea % 2 ^ 24 + k ≤ 16384 * ((s.recOf x).part.toNat % 256)) (hrank : ea / 2 ^ 24 < (s.recOf x).gang)
    (hat : s.findScratch x.inst (x.gflat / (s.recOf x).gang * (s.recOf x).gang + ea / 2 ^ 24) = some p) :
    s.scratchTarget e true ea k = some (p, ea % 2 ^ 24) := by
  simp only [State.scratchTarget, h, scratchBytes_eq, hat, if_true]
  rw [if_pos (by simpa using ⟨hrank, hin⟩)]
  rfl

/-! ### Loads -/

/-- What a lane's scratch load gives (R173, R186): the bytes, or a fault with cause 3; a helper's D takes 0. -/
def scratchLoadRes (cluster : Bool) (r : Row) (f : Fields) (s : State) (e : Env) (ls : List LaneView) (lv : LaneView) : LRes :=
  match s.scratchTarget e cluster (scratchEa ls lv f) (sizeBytes f.modx.toNat) with
  | none => if lv.helper then .ok (zeroDest r lv f) 0 else .fail ⟨3, 0, e.pc, BitVec.ofNat 64 (scratchEa ls lv f), 0, 0, 0⟩
  | some (q, off) =>
    let v := leNat (s.scratchRead q off (sizeBytes f.modx.toNat))
    .ok (if f.modx = 5 then setD64 lv f (BitVec.ofNat 64 v) else setD lv f (loadWord f.modx.toNat v)) 0

section
variable {i : Instr} {r : Row} {f : Fields} {s : State} {e : Env} {ls : List LaneView} (hi : Issues i r f s e ls) (hown : OwnPositions ls)
include hi hown

theorem runMem_scratchLoad (cluster : Bool) :
    runMem i (scratchLoadBody cluster) s = s.commit e (laneRes f ls (scratchLoadRes cluster r f s e ls)) (wordsOf f) := by
  rw [runMem_issues _ hi]
  refine (s.finishMem_active hown r e _).trans ?_
  congr 1
  refine laneRes_congr fun lv _ _ => ?_
  unfold scratchLoadRes
  cases htarget : s.scratchTarget e cluster (scratchEa ls lv f) (sizeBytes f.modx.toNat) with
  | none => unfold helperRes; split <;> rfl
  | some q => exact helperRes_ok ..

/-! ### Stores -/

/-- A scratch store whose lanes are all inside their scratch writes lane after lane. -/
theorem runMem_scratchStore {cluster : Bool} {at_ : LaneView → ScratchAt × Nat}
    (hat : ∀ lv ∈ storing f ls, s.scratchTarget e cluster (scratchEa ls lv f) (sizeBytes f.modx.toNat) = some (at_ lv)) :
    runMem i (scratchStoreBody cluster) s
      = (((storing f ls).foldl (fun t lv => t.scratchWrite (at_ lv).1 (at_ lv).2 (storeData r ls lv f)) s).endFences e f (storing f ls)).commit e
        (laneStored f ls) (wordsOf f) := by
  have hchecks : (((storing f ls).map fun lv => (lv, scratchEa ls lv f, s.scratchTarget e cluster (scratchEa ls lv f) (sizeBytes f.modx.toNat))).map
      fun p => (p.1, match p.2.2 with | none => AccRes.fail (accFault e 3 0 p.2.1 true) | some _ => .segs []))
      = (storing f ls).map fun lv => (lv, AccRes.segs []) := by
    rw [List.map_map]
    refine List.map_congr_left fun lv hlv => ?_
    simp [hat lv hlv]
  have hwrites : ((storing f ls).map fun lv => (lv, scratchEa ls lv f, s.scratchTarget e cluster (scratchEa ls lv f) (sizeBytes f.modx.toNat))).foldl
      (fun t p => match p.2.2 with
        | some q => if (storing f ls).any (fun lv => lv.pos == p.1.pos) then t.scratchWrite q.1 q.2 (storeData r ls p.1 f) else t
        | none => t) s
      = (storing f ls).foldl (fun t lv => t.scratchWrite (at_ lv).1 (at_ lv).2 (storeData r ls lv f)) s := by
    rw [List.foldl_map]
    refine List.foldl_ext _ _ _ fun t lv hlv => ?_
    have hany : (storing f ls).any (fun x => x.pos == lv.pos) = true := List.any_eq_true.2 ⟨lv, hlv, beq_self_eq_true lv.pos⟩
    simp [hat lv hlv, hany]
  rw [runMem_issues _ hi]
  simp only [scratchStoreBody]
  erw [hchecks, performing_segs, map_fst_segs, failList_segs, hwrites, List.nil_append]
  exact State.finishMem_stored hown _ r e


/-! ### Atomics -/

/-- The bits a lane of a scratch atomic brings, and what its D takes for the old value (R189). -/
def scratchOperand (r : Row) (f : Fields) (ls : List LaneView) (lv : LaneView) : Nat :=
  if atomBytes f.modx.toNat = 8 then (srcB64 r ls lv f).toNat else (srcB r ls lv f).toNat
def scratchOld (f : Fields) (old : LaneView → Nat) (lv : LaneView) : LaneView :=
  if atomBytes f.modx.toNat = 8 then setD64 lv f (BitVec.ofNat 64 (old lv)) else setD lv f (BitVec.ofNat 32 (old lv))

omit hi hown in
/-- The lanes of `atoms` taken one after another give each the old value it reads. -/
theorem foldl_atoms {n op : Nat} {at_ : LaneView → ScratchAt × Nat} {operand old : LaneView → Nat} {t t' : State} {l : List LaneView}
    (h : ScratchAtomsInTurn n op at_ operand old t l t') (out : LaneView → Nat → LRes) (acc : List (Nat × LRes)) :
    l.foldl (fun a lv => (a.1 ++ [(lv.pos, out lv (leNat (a.2.scratchRead (at_ lv).1 (at_ lv).2 n)))],
        a.2.scratchWrite (at_ lv).1 (at_ lv).2 (leBytes n (atomNew op (leNat (a.2.scratchRead (at_ lv).1 (at_ lv).2 n)) (operand lv))))) (acc, t)
      = (acc ++ l.map (fun lv => (lv.pos, out lv (old lv))), t') := by
  induction l generalizing t acc with
  | nil => cases h; simp
  | cons lv l ih =>
    obtain ⟨hold, hrest⟩ := h
    rw [List.foldl_cons, hold, ih hrest]
    simp

/-- `atoms` whose lanes are all inside their scratch and aligned performs lane after lane. -/
theorem runMem_atoms {at_ : LaneView → ScratchAt × Nat} {old : LaneView → Nat} {t : State} (hne : storing f ls ≠ [])
    (hat : ∀ lv ∈ storing f ls, s.scratchTarget e (memScope f = 3) (scratchEa ls lv f) (atomBytes f.modx.toNat) = some (at_ lv)
      ∧ (at_ lv).2 % atomBytes f.modx.toNat = 0)
    (ht : ScratchAtomsInTurn (atomBytes f.modx.toNat) f.modx.toNat at_ (scratchOperand r f ls) old
      (s.releaseOpt (s.memCtx e).unit (releaseOf f)) (storing f ls) t) :
    runMem i atomsBody s = ((t.endFences e f (storing f ls)).acquireOpt (s.memCtx e).unit (acquireOf f)).commit e
      (laneOut f ls fun lv => if lv.helper then zeroDest r lv f else scratchOld f old lv) (wordsOf f) := by
  have hchecks : (((storing f ls).map fun lv => (lv, scratchEa ls lv f,
        s.scratchTarget e (memScope f = 3) (scratchEa ls lv f) (atomBytes f.modx.toNat))).map
      fun p => (p.1, match p.2.2 with
        | none => AccRes.fail (accFault e 3 0 p.2.1 true)
        | some q => if q.2 % atomBytes f.modx.toNat = 0 then .segs [] else .fail (accFault e 4 0 p.2.1 true)))
      = (storing f ls).map fun lv => (lv, AccRes.segs []) := by
    rw [List.map_map]
    refine List.map_congr_left fun lv hlv => ?_
    simp [hat lv hlv]
  have hempty : (storing f ls).isEmpty = false := by simpa using hne
  rw [runMem_issues _ hi]
  simp only [atomsBody]
  erw [hchecks, performing_segs, map_fst_segs, failList_segs, hempty, List.nil_append]
  simp only [Bool.false_eq_true, if_false, List.foldl_map]
  have hrun := foldl_atoms ht (fun lv old => .ok (scratchOld f (fun _ => old) lv) 0) []
  rw [List.foldl_ext _ _ _ fun a lv hlv => ?_]
  · erw [hrun]
    exact State.finishMem_atomic hown _ r e (scratchOld f old)
  · have hany : (storing f ls).any (fun x => x.pos == lv.pos) = true := List.any_eq_true.2 ⟨lv, hlv, beq_self_eq_true lv.pos⟩
    rw [(hat lv hlv).1, hany]
    rfl
end

theorem scratchAtoms_congr {n op : Nat} {at_ : LaneView → ScratchAt × Nat} {operand old old' : LaneView → Nat} {s t : State} {l : List LaneView}
    (hold : ∀ lv ∈ l, old' lv = old lv) (h : ScratchAtomsInTurn n op at_ operand old s l t) : ScratchAtomsInTurn n op at_ operand old' s l t := by
  induction l generalizing s with
  | nil => exact h
  | cons lv l ih =>
    obtain ⟨hread, hrest⟩ := h
    have heq : old' lv = old lv := hold lv (List.mem_cons_self ..)
    refine ⟨hread.trans heq.symm, ?_⟩
    rw [heq]
    exact ih (fun x hx => hold x (List.mem_cons_of_mem _ hx)) hrest

/-- Scratch atomics in turn read some old values. -/
theorem exists_scratchAtoms (n op : Nat) (at_ : LaneView → ScratchAt × Nat) (operand : LaneView → Nat) (s : State) {l : List LaneView}
    (hown : OwnPositions l) : ∃ t old, ScratchAtomsInTurn n op at_ operand old s l t := by
  induction l generalizing s with
  | nil => exact ⟨s, fun _ => 0, rfl⟩
  | cons lv l ih =>
    obtain ⟨hhead, htail⟩ := List.nodup_cons.1 hown
    set v := leNat (s.scratchRead (at_ lv).1 (at_ lv).2 n)
    obtain ⟨t, old, h⟩ := ih (s.scratchWrite (at_ lv).1 (at_ lv).2 (leBytes n (atomNew op v (operand lv)))) htail
    have hold : ∀ x ∈ l, (if x.pos = lv.pos then v else old x) = old x := fun x hx =>
      if_neg fun heq : x.pos = lv.pos => hhead (List.mem_map.2 ⟨x, hx, heq⟩)
    refine ⟨t, fun x => if x.pos = lv.pos then v else old x, (if_pos rfl).symm, ?_⟩
    exact scratchAtoms_congr hold (by simpa using h)

theorem scratchLoadRes_of_target {cluster : Bool} {r : Row} {f : Fields} {s : State} {e : Env} {ls : List LaneView} {lv : LaneView}
    {p : ScratchAt × Nat} (h : s.scratchTarget e cluster (scratchEa ls lv f) (sizeBytes f.modx.toNat) = some p) :
    scratchLoadRes cluster r f s e ls lv = .ok (
      let v := leNat (s.scratchRead p.1 p.2 (sizeBytes f.modx.toNat))
      if f.modx = 5 then setD64 lv f (BitVec.ofNat 64 v) else setD lv f (loadWord f.modx.toNat v)) 0 := by
  rw [scratchLoadRes, h]

/-- Settles O29: the bodies of scratch forms run on the places their addresses reach. -/
theorem scratchAccess : Obligations.ScratchAccess := by
  refine ⟨?loads, ?stores, ?complete, ⟨?own, ?read, ?other, ?frame⟩, ?atoms, ?atomsComplete⟩
  case loads =>
    intro p hp r f s e ls hi hown
    simp only [List.mem_cons, List.not_mem_nil, or_false] at hp
    rcases hp with rfl | rfl | rfl | rfl <;> exact congrArg Host.Outcome.next (runMem_scratchLoad hi hown _)
  case stores =>
    intro p hp r f s e ls at_ hi hown n hat
    simp only [List.mem_cons, List.not_mem_nil, or_false] at hp
    rcases hp with rfl | rfl | rfl | rfl <;> exact congrArg Host.Outcome.next (runMem_scratchStore hi hown hat)
  case complete =>
    intro r f s e ls n g x at_ hg hown size scratch gang own member loaded stored
    have hload : ∀ {i cluster}, (∀ lv ∈ ls, laneActive f lv = true → s.scratchTarget e cluster (scratchEa ls lv f) size = some (at_ lv)) →
        Issues i r f s e ls → runMem i (scratchLoadBody cluster) s = loaded := fun hat hi => by
      rw [runMem_scratchLoad hi hown, laneRes_congr fun lv hlv ha => scratchLoadRes_of_target (hat lv hlv ha)]
      rfl
    have hstore : ∀ {i cluster}, (∀ lv ∈ ls, laneActive f lv = true → s.scratchTarget e cluster (scratchEa ls lv f) size = some (at_ lv)) →
        Issues i r f s e ls → runMem i (scratchStoreBody cluster) s = stored := fun hat hi =>
      runMem_scratchStore hi hown fun lv hlv => hat lv (mem_storing.1 hlv).1 (mem_storing.1 hlv).2.1
    refine ⟨fun h => ?_, fun h => ?_⟩
    · have hat : ∀ lv ∈ ls, laneActive f lv = true → s.scratchTarget e false (scratchEa ls lv f) size = some (at_ lv) := fun lv hlv ha => by
        rw [s.scratchTarget_own _ _ hg, if_pos (h lv hlv ha).1, (h lv hlv ha).2]
      exact ⟨fun hi => congrArg _ (hload hat hi), fun hi => congrArg _ (hload hat hi), fun hi => congrArg _ (hstore hat hi), fun hi => congrArg _ (hstore hat hi)⟩
    · have hat : ∀ lv ∈ ls, laneActive f lv = true → s.scratchTarget e true (scratchEa ls lv f) size = some (at_ lv) := fun lv hlv ha => by
        obtain ⟨hin, hrank, hfind, hoff⟩ := h lv hlv ha
        rw [s.scratchTarget_member hg hin hrank hfind, ← hoff]
      exact ⟨fun hi => congrArg _ (hload hat hi), fun hi => congrArg _ (hload hat hi), fun hi => congrArg _ (hstore hat hi), fun hi => congrArg _ (hstore hat hi)⟩
  case own => exact fun s e n g x ea k hg => s.scratchTarget_own ea k hg
  case read => exact fun s n g x off k m bs h => s.scratchRead_scratchWrite off k m bs h
  case other =>
    intro s n g n2 g2 off bs hne
    rw [State.scratchWrite, State.grp?_modGrp, if_neg (by simpa using hne)]
  case frame =>
    intro s n g off bs x h
    exact ⟨{ x with scratch := putCells x.scratch off bs }, by rw [State.scratchWrite, State.grp?_modGrp_same, h, Option.map_some], rfl⟩
  case atoms => exact fun r f s t e ls at_ old hi hown hne hat ht => congrArg Host.Outcome.next (runMem_atoms hi hown hne hat ht)
  case atomsComplete =>
    intro r f s e ls c g x hi hown hne hg hscope n u hin
    obtain ⟨t, old, ht⟩ := exists_scratchAtoms n f.modx.toNat (fun lv => (.grp c g, scratchEa ls lv f)) (scratchOperand r f ls)
      (s.releaseOpt u (releaseOf f)) (ownPositions_storing (f := f) hown)
    refine ⟨t, old, ht, congrArg Host.Outcome.next (runMem_atoms hi hown hne (fun lv hlv => ?_) ht)⟩
    rw [decide_eq_false hscope, s.scratchTarget_own _ _ hg, if_pos (hin lv hlv).1]
    exact ⟨rfl, (hin lv hlv).2⟩

end Sys2Proof.Machine
end

section
/-! Releases and acquires (R276, R278, R290, R291): dirty bytes written home, copies dropped, and what stays as it was. -/

namespace Sys2Proof.Machine

/-! ### Sectors written back one after another -/

theorem State.overHome_cleaned (s : State) (x : Option SliceSector) (a : Nat) : s.overHome (x.map SliceSector.cleaned) a = s.homeByte a := by
  cases x with
  | none => rfl
  | some x => simp [State.overHome]

theorem SliceSector.cleaned_of_clean {x : SliceSector} (h : x.dirty = 0) : x.cleaned = x := if_pos h

theorem State.slice?_foldl_writeBack (c sec : Nat) (l : List Nat) (s : State) :
    (l.foldl (fun t x => t.writeBack c x) s).slice? c sec = if sec ∈ l then (s.slice? c sec).map SliceSector.cleaned else s.slice? c sec := by
  induction l generalizing s with
  | nil => simp
  | cons y l ih =>
    rw [List.foldl_cons, ih]
    by_cases hy : sec = y
    · subst hy
      have htwice : ((s.slice? c sec).map SliceSector.cleaned).map SliceSector.cleaned = (s.slice? c sec).map SliceSector.cleaned := by
        rw [Option.map_map]
        exact congrArg (Option.map · _) (funext fun x => SliceSector.cleaned_of_clean x.cleaned_dirty)
      rw [State.slice?_writeBack, htwice, ite_self, if_pos (List.mem_cons_self ..)]
    · rw [(s.cacheStep_writeBack c y).slices c sec hy]
      simp [hy]

theorem State.homeByte_foldl_writeBack (c a : Nat) (l : List Nat) (s : State) :
    (l.foldl (fun t x => t.writeBack c x) s).homeByte a = if a / 32 ∈ l then s.overHome (s.slice? c (a / 32)) a else s.homeByte a := by
  induction l generalizing s with
  | nil => simp
  | cons y l ih =>
    rw [List.foldl_cons, ih]
    by_cases hy : a / 32 = y
    · subst hy
      rw [State.slice?_writeBack, State.overHome_cleaned, ite_self, State.homeByte_writeBack, if_pos rfl, if_pos (List.mem_cons_self ..)]
    · have hstep := s.cacheStep_writeBack c y
      have hover : (s.writeBack c y).overHome (s.slice? c (a / 32)) a = s.overHome (s.slice? c (a / 32)) a := by
        simp only [State.overHome, hstep.homes a hy]
      rw [hstep.slices c _ hy, hover, hstep.homes a hy]
      simp [hy]

theorem State.flushLines_eq (s : State) (c : Nat) (lines : List Nat) :
    s.flushLines c lines = (lines.flatMap fun l => (List.range 4).map (4 * l + ·)).foldl (fun t x => t.writeBack c x) s := by
  simp only [State.flushLines, List.foldl_flatMap, List.foldl_map]

theorem mem_flushLines {sec : Nat} {lines : List Nat} : (sec ∈ lines.flatMap fun l => (List.range 4).map (4 * l + ·)) ↔ sec / 4 ∈ lines := by
  simp only [List.mem_flatMap, List.mem_map, List.mem_range]
  constructor
  · rintro ⟨l, hl, i, hi, rfl⟩
    have : (4 * l + i) / 4 = l := by omega
    rwa [this]
  · exact fun h => ⟨sec / 4, h, sec % 4, by omega, by omega⟩

/-! ### A sector that one column alone holds -/

/-- Column c alone holds the sector, and its dirty bytes over those of the home are the bytes given. -/
structure Lone (c sec : Nat) (b : Nat → Byte) (t : State) : Prop where
  alone : Alone t c sec
  bytes : ∀ a, a / 32 = sec → t.overHome (t.slice? c sec) a = b a

/-- Nothing of the sector is dirty in the slice. -/
def Clean (c sec : Nat) (t : State) : Prop := ∀ x, t.slice? c sec = some x → x.dirty = 0

section
variable {c sec : Nat} {b : Nat → Byte} {s t : State}

theorem Alone.lone (h : Alone s c sec) : Lone c sec (s.overHome (s.slice? c sec)) s := ⟨h, fun _ _ => rfl⟩

/-- What is dirty nowhere stands at the home. -/
theorem Lone.homeByte (h : Lone c sec b s) (hc : Clean c sec s) {a : Nat} (ha : a / 32 = sec) : s.homeByte a = b a := by
  rw [← h.bytes a ha]
  cases hx : s.slice? c sec with
  | none => rfl
  | some x => simp [State.overHome, hc x hx]

theorem Lone.atSector {other : Nat} (h : Lone c sec b s) (hs : AtSector other s t) (hne : sec ≠ other) : Lone c sec b t where
  alone c2 h2 := (hs.slices c2 sec hne).trans (h.alone c2 h2)
  bytes a ha := by
    rw [← h.bytes a ha, hs.slices c sec hne]
    simp only [State.overHome, hs.homes a (ha ▸ hne)]

theorem Lone.sameBytes (h : Lone c sec b s) (hs : SameBytes s t) : Lone c sec b t where
  alone c2 h2 := (hs.slice? c2 sec).trans (h.alone c2 h2)
  bytes a ha := by
    rw [← h.bytes a ha, hs.slice?]
    simp only [State.overHome, hs.homeByte]

theorem Lone.writeBack (h : Lone c sec b s) (k other : Nat) : Lone c sec b (s.writeBack k other) := by
  by_cases hsec : sec = other
  · subst hsec
    by_cases hk : k = c
    · subst hk
      refine ⟨(s.sheds_writeBack k sec).alone h.alone, fun a ha => ?_⟩
      rw [State.slice?_writeBack, State.overHome_cleaned, State.homeByte_writeBack, if_pos ha, h.bytes a ha]
    · rw [State.writeBack_of_none (h.alone k hk)]; exact h
  · exact h.atSector (s.cacheStep_writeBack k other).toAtSector hsec

theorem Lone.evict (h : Lone c sec b s) (hlocal : isRemote (32 * sec) = false) (k other : Nat) : Lone c sec b (s.evict k other) := by
  by_cases hsec : sec = other
  · subst hsec
    by_cases hk : k = c
    · subst hk
      refine ⟨(s.sheds_evict k sec).alone h.alone, fun a ha => ?_⟩
      rw [State.slice?_evict]
      change (s.evict k sec).homeByte a = b a
      rw [State.homeByte_evict, if_pos ⟨hlocal, ha⟩, h.bytes a ha]
    · rw [State.evict_of_none (h.alone k hk)]; exact h
  · exact h.atSector (s.cacheStep_evict k other).toAtSector hsec

theorem Clean.atSector {other : Nat} (h : Clean c sec s) (hs : AtSector other s t) (hne : sec ≠ other) : Clean c sec t :=
  fun x hx => h x (by rwa [hs.slices c sec hne] at hx)

theorem clean_writeBack (s : State) (c sec : Nat) : Clean c sec (s.writeBack c sec) := fun x hx => by
  rw [State.slice?_writeBack] at hx
  obtain ⟨y, -, rfl⟩ := Option.map_eq_some_iff.1 hx
  exact y.cleaned_dirty

/-- A clean copy stays clean or goes while others are written back. -/
theorem Clean.writeBack (h : Clean c sec s) (k other : Nat) : Clean c sec (s.writeBack k other) := by
  by_cases hsec : sec = other
  · subst hsec
    by_cases hk : k = c
    · subst hk; exact clean_writeBack s k sec
    · intro x hx
      rcases s.slice?_writeBack_other k sec c (Ne.symm hk) with heq | heq
      · exact h x (heq ▸ hx)
      · rw [heq] at hx
        obtain ⟨y, hy, hstale⟩ := Option.bind_eq_some_iff.1 hx
        rw [SliceSector.stale_of_clean (h y hy)] at hstale
        cases hstale
  · exact h.atSector (s.cacheStep_writeBack k other).toAtSector hsec
end

/-- One column has a copy of the sector, and no other. -/
def Held (c sec : Nat) (t : State) : Prop := Alone t c sec ∧ t.slice? c sec ≠ none

theorem Held.writeBack {c sec : Nat} {s : State} (h : Held c sec s) (k other : Nat) : Held c sec (s.writeBack k other) := by
  refine ⟨(s.sheds_writeBack k other).alone h.1, ?_⟩
  by_cases hsec : sec = other
  · subst hsec
    by_cases hk : k = c
    · subst hk; rw [State.slice?_writeBack]; simpa using h.2
    · rw [State.writeBack_of_none (h.1 k hk)]; exact h.2
  · rw [(s.cacheStep_writeBack k other).slices c sec hsec]; exact h.2

/-- What every step of a fold keeps, the fold keeps. -/
theorem foldl_keeps {α : Type} {P : State → Prop} {f : State → α → State} (h : ∀ t a, P t → P (f t a)) (l : List α) {s : State} (hs : P s) :
    P (l.foldl f s) := by
  induction l generalizing s with
  | nil => exact hs
  | cons a l ih => exact ih (h s a hs)

/-- What every step of a fold keeps and the step of one element brings about, holds after the fold. -/
theorem foldl_reaches {α : Type} {P : State → Prop} {f : State → α → State} {a : α} (hkeep : ∀ t x, P t → P (f t x)) (hstep : ∀ t, P (f t a))
    (l : List α) (ha : a ∈ l) (s : State) : P (l.foldl f s) := by
  induction l generalizing s with
  | nil => cases ha
  | cons x l ih =>
    rcases List.mem_cons.1 ha with rfl | h
    · exact foldl_keeps hkeep l (hstep s)
    · exact ih h _

/-! ### The release action -/

theorem State.mem_dirtySectors {s : State} {c sec : Nat} {x : SliceSector} (h : s.slice? c sec = some x) (hd : x.dirty ≠ 0) : sec ∈ s.dirtySectors c :=
  List.mem_map.2 ⟨(sec, x), List.mem_filter.2 ⟨mem_of_mapGet? h, by simpa using hd⟩, rfl⟩

/-- The dirty sectors of one slice written back. -/
def State.flushSlice (s : State) (c : Nat) : State := (s.dirtySectors c).foldl (fun v x => v.writeBack c x) s

theorem State.flushAll_eq (s : State) (c : Nat) : s.flushAll c = (clusterCols (clusterOf c)).foldl (fun t k => t.flushSlice k) s := rfl

/-- All that is dirty in a slice is clean once its dirty sectors are written back. -/
theorem clean_flushSlice (s : State) (c sec : Nat) : Clean c sec (s.flushSlice c) := fun x hx => by
  rw [State.flushSlice, State.slice?_foldl_writeBack] at hx
  split at hx
  · obtain ⟨y, -, rfl⟩ := Option.map_eq_some_iff.1 hx
    exact y.cleaned_dirty
  · next hnot => exact not_not.1 fun hd => hnot (State.mem_dirtySectors hx hd)

theorem Clean.flushSlice {c sec : Nat} {s : State} (h : Clean c sec s) (k : Nat) : Clean c sec (s.flushSlice k) :=
  foldl_keeps (P := Clean c sec) (fun _ x h => h.writeBack k x) _ h

theorem Lone.flushSlice {c sec : Nat} {b : Nat → Byte} {s : State} (h : Lone c sec b s) (k : Nat) : Lone c sec b (s.flushSlice k) :=
  foldl_keeps (P := Lone c sec b) (fun _ x h => h.writeBack k x) _ h

theorem clean_flushAll (s : State) {k c : Nat} (hc : c ∈ clusterCols (clusterOf k)) (sec : Nat) : Clean c sec (s.flushAll k) :=
  foldl_reaches (P := Clean c sec) (fun _ k h => h.flushSlice k) (fun t => clean_flushSlice t c sec) _ hc s

theorem Lone.flushAll {c sec : Nat} {b : Nat → Byte} {s : State} (h : Lone c sec b s) (k : Nat) : Lone c sec b (s.flushAll k) :=
  foldl_keeps (P := Lone c sec b) (fun _ k h => h.flushSlice k) _ h

theorem Held.flushAll {c sec : Nat} {s : State} (h : Held c sec s) (k : Nat) : Held c sec (s.flushAll k) :=
  foldl_keeps (P := Held c sec) (fun _ k h => foldl_keeps (P := Held c sec) (fun _ x h => h.writeBack k x) _ h) _ h

theorem State.cacheOnly_flushLines (s : State) (c : Nat) (lines : List Nat) : CacheOnly s (s.flushLines c lines) := by
  rw [State.flushLines_eq]
  exact CacheOnly.foldl (fun t x => (t.cacheStep_writeBack c x).only) _ s

theorem State.cacheOnly_flushAll (s : State) (c : Nat) : CacheOnly s (s.flushAll c) :=
  CacheOnly.foldl (fun t k => CacheOnly.foldl (fun v x => (v.cacheStep_writeBack k x).only) _ t) _ s

theorem State.sameBytes_clearFlush (s : State) (who : Agent) : SameBytes s (s.clearFlush who) := by
  cases who with
  | grp n g => exact s.sameBytes_modGrp n g _
  | col c => exact s.sameBytes_modCc c (fun y => { y with flush := [], flushFull := false })

theorem State.flushSet_clearFlush (s : State) (who : Agent) : (s.clearFlush who).flushSet who = ([], false) := by
  cases who with
  | grp n g =>
    simp only [State.clearFlush, State.flushSet, State.grp?_modGrp_same]
    cases s.grp? n g <;> rfl
  | col c => simp [State.clearFlush, State.flushSet]

theorem State.releaseAct_narrow (s : State) (u : MemUnit) {scope : Nat} (h : scope < 3) : s.releaseAct u scope = s := by
  simp [State.releaseAct, h]

theorem State.releaseAct_wide (s : State) (u : MemUnit) {scope : Nat} (h : 4 ≤ scope) :
    s.releaseAct u scope = (if (s.flushSet u.who).2 then s.flushAll u.col else s.flushLines u.col (s.flushSet u.who).1).clearFlush u.who := by
  simp only [State.releaseAct]
  rw [if_neg (by omega), if_neg (by omega)]

/-! ### A release at cluster scope -/

/-- A copy all of whose dirty bytes are known to the cluster. -/
def SliceSector.told (x : SliceSector) : SliceSector := { x with wide := x.dirty }

/-- Some copies in the slices note all their dirty bytes as known to the cluster; nothing else changes. -/
structure Publishes (q : Nat → Nat → Prop) (s t : State) : Prop where
  rest : { t with cols := s.cols } = s
  col : ∀ c, { t.col c with slice := (s.col c).slice } = s.col c
  told : ∀ c sec, q c sec → t.slice? c sec = (s.slice? c sec).map SliceSector.told
  other : ∀ c sec, ¬ q c sec → t.slice? c sec = s.slice? c sec

theorem mapGet?_map_key {β : Type} (f : Nat → β → β) (m : List (Nat × β)) (k : Nat) : mapGet? (m.map fun e => (e.1, f e.1 e.2)) k = (mapGet? m k).map (f k) := by
  induction m with
  | nil => rfl
  | cons e r ih =>
    obtain ⟨j, v⟩ := e
    by_cases hj : j = k
    · subst hj; simp [mapGet?]
    · simp [mapGet?, hj, ih]

theorem State.publishes_publish (s : State) (c : Nat) (p : Nat → Bool) : Publishes (fun d sec => d = c ∧ p sec = true) s (s.publish c p) := by
  have hmap : ∀ l : List (Nat × SliceSector), (l.map fun e => if p e.1 then (e.1, { e.2 with wide := e.2.dirty }) else e)
      = l.map fun e => (e.1, if p e.1 then e.2.told else e.2) := fun l =>
    List.map_congr_left fun e _ => by split <;> rfl
  have hslice : ∀ d sec, (s.publish c p).slice? d sec
      = if d = c then (s.slice? c sec).map (fun x => if p sec then x.told else x) else s.slice? d sec := fun d sec => by
    unfold State.publish State.slice?
    rw [State.col_modCol, hmap]
    split
    · exact mapGet?_map_key (fun k (x : SliceSector) => if p k then x.told else x) (s.col c).slice sec
    · rfl
  refine ⟨rfl, fun d => ?_, fun d sec h => ?_, fun d sec h => ?_⟩
  · unfold State.publish
    rw [State.col_modCol]
    split
    · next hd => subst hd; rfl
    · rfl
  · rw [hslice, if_pos h.1, h.1]
    simp [h.2]
  · rw [hslice]
    split
    · next hd =>
      subst hd
      have hp : p sec = false := by simpa using h
      simp [hp]
    · rfl

theorem State.publishes_foldl (l : List Nat) (s : State) :
    Publishes (fun d _ => d ∈ l) s (l.foldl (fun t k => t.publish k (fun _ => true)) s) := by
  induction l generalizing s with
  | nil => exact ⟨rfl, fun _ => rfl, fun _ _ h => absurd h (List.not_mem_nil), fun _ _ _ => rfl⟩
  | cons k l ih =>
    have h1 := s.publishes_publish k (fun _ => true)
    have h2 := ih (s.publish k (fun _ => true))
    refine ⟨(congrArg (fun x : State => { x with cols := s.cols }) h2.rest).trans h1.rest,
      fun d => (congrArg (fun x : Column => { x with slice := (s.col d).slice }) (h2.col d)).trans (h1.col d), fun d sec h => ?_, fun d sec h => ?_⟩
    · rw [List.foldl_cons]
      by_cases hd : d = k
      · have hk := h1.told d sec ⟨hd, rfl⟩
        by_cases hl : d ∈ l
        · rw [h2.told d sec hl, hk, Option.map_map]; rfl
        · rw [h2.other d sec hl, hk]
      · rw [h2.told d sec ((List.mem_cons.1 h).resolve_left hd), h1.other d sec (fun h => hd h.1)]
    · obtain ⟨hk, hl⟩ := not_or.1 (mt List.mem_cons.2 h)
      rw [List.foldl_cons, h2.other d sec hl, h1.other d sec (fun h => hk h.1)]

theorem State.publishes_releaseAct (s : State) (u : MemUnit) :
    Publishes (fun c sec => ((s.flushSet u.who).2 = true ∧ clusterOf c = clusterOf u.col)
      ∨ ((s.flushSet u.who).2 = false ∧ c = u.col ∧ sec / 4 ∈ (s.flushSet u.who).1)) s (s.releaseAct u 3) := by
  have hact : s.releaseAct u 3 = if (s.flushSet u.who).2 then (clusterCols (clusterOf u.col)).foldl (fun t k => t.publish k (fun _ => true)) s
      else s.publish u.col (fun sec => (s.flushSet u.who).1.contains (sec / 4)) := rfl
  rw [hact]
  cases hfull : (s.flushSet u.who).2 with
  | true => simpa [mem_clusterCols] using s.publishes_foldl (clusterCols (clusterOf u.col))
  | false => simpa using s.publishes_publish u.col (fun sec => (s.flushSet u.who).1.contains (sec / 4))

/-! ### Line fills in flight -/

theorem mapGet_map_key {β : Type} (f : Nat → β → β) (m : List (Nat × β)) (k : Nat) (d : β) (hd : f k d = d) :
    mapGet (m.map fun e => (e.1, f e.1 e.2)) k d = f k (mapGet m k d) := by
  rw [mapGet, mapGet, mapGet?_map_key]
  cases mapGet? m k <;> simp [hd]

section
variable (s : State) (cols : List Nat) (p : Nat → Bool)

theorem State.col_spoilFills (c : Nat) : (s.spoilFills cols p).col c
    = if cols.contains c then { s.col c with core := { s.cc c with wait := (s.cc c).wait.map (·.spoilIf p) } } else s.col c := by
  have hmap : (s.spoilFills cols p).cols = s.cols.map fun e => (e.1, if cols.contains e.1 then
      { e.2 with core := { e.2.core with wait := e.2.core.wait.map (·.spoilIf p) } } else e.2) :=
    List.map_congr_left fun e _ => by split <;> rfl
  rw [State.col, hmap]
  exact mapGet_map_key (fun k (x : Column) => if cols.contains k then { x with core := { x.core with wait := x.core.wait.map (·.spoilIf p) } } else x)
    s.cols c Column.reset (by split <;> rfl)

theorem State.core_spoilFills (n : Nat) : (s.spoilFills cols p).core n
    = if cols.contains (coreColumn n) then { s.core n with deal0 := (s.core n).deal0.map (·.spoilIf p), deal1 := (s.core n).deal1.map (·.spoilIf p) }
      else s.core n := by
  have hmap : (s.spoilFills cols p).cores = s.cores.map fun e => (e.1, if cols.contains (coreColumn e.1) then
      { e.2 with deal0 := e.2.deal0.map (·.spoilIf p), deal1 := e.2.deal1.map (·.spoilIf p) } else e.2) :=
    List.map_congr_left fun e _ => by split <;> rfl
  rw [State.core, hmap]
  exact mapGet_map_key (fun k (x : ACore) => if cols.contains (coreColumn k) then
    { x with deal0 := x.deal0.map (·.spoilIf p), deal1 := x.deal1.map (·.spoilIf p) } else x) s.cores n ACore.reset (by split <;> rfl)

theorem State.sameBytes_spoilFills : SameBytes s (s.spoilFills cols p) :=
  ⟨fun c => by rw [State.col_spoilFills]; split <;> rfl, rfl, rfl⟩

@[simp] theorem State.slice?_spoilFills (c sec : Nat) : (s.spoilFills cols p).slice? c sec = s.slice? c sec := (s.sameBytes_spoilFills cols p).slice? c sec

@[simp] theorem State.l1_spoilFills (c u : Nat) : (s.spoilFills cols p).l1 c u = s.l1 c u := by
  unfold State.l1
  split
  · rw [State.core_spoilFills]; split <;> rfl
  · rw [State.cc, State.col_spoilFills]; split <;> rfl

@[simp] theorem State.grp?_spoilFills (n g : Nat) : (s.spoilFills cols p).grp? n g = s.grp? n g := by
  rw [State.grp?, State.core_spoilFills]; split <;> rfl

@[simp] theorem State.flushFull_spoilFills (c : Nat) : ((s.spoilFills cols p).cc c).flushFull = (s.cc c).flushFull := by
  rw [State.cc, State.col_spoilFills]; split <;> rfl
end

/-! ### The acquire action -/

theorem State.l1_modCc (s : State) (c : Nat) (f : ColCore → ColCore) (hf : ∀ x, (f x).l1 = x.l1) (d v : Nat) : (s.modCc c f).l1 d v = s.l1 d v := by
  unfold State.l1
  split
  · rfl
  · rw [State.cc_modCc]
    split
    · next h => subst h; exact hf _
    · rfl

theorem State.l1_modGrp (s : State) (n g : Nat) (f : Group → Group) (d v : Nat) : (s.modGrp n g f).l1 d v = s.l1 d v := by
  unfold State.modGrp
  split
  · unfold State.l1
    split
    · unfold State.setGrp
      rw [State.core_modCore]
      split
      · next h => rw [h]
      · rfl
    · rfl
  · rfl

theorem State.l1_markFull (s : State) (who : Agent) (d v : Nat) : (s.markFull who).l1 d v = s.l1 d v := by
  cases who with
  | grp n g => exact s.l1_modGrp n g _ d v
  | col c => exact s.l1_modCc c (fun x => { x with flushFull := true }) (fun _ => rfl) d v

/-- What an acquire does once the flush set is taken as full. -/
def State.acquireCaches (s : State) (u : MemUnit) (scope : Nat) : State :=
  if scope < 2 then s
  else
    let s1 := s.acquireL1 u.col u.unit
    let s2 := if scope < 4 then s1
      else ((s1.col u.col).slice.filter (fun e => isForeign (dieOf u.col) (32 * e.1))).foldl (fun t e => t.evict u.col e.1) s1
    if scope < 6 then s2
    else
      let s3 := ((s2.col u.col).slice.filter (fun e => isRemote (32 * e.1))).foldl (fun t e => t.evict u.col e.1) s2
      (s3.setL1 u.col u.unit ((s3.l1 u.col u.unit).filter (fun e => !(isRemote (32 * e.1))))).spoilFills [u.col] (fun _ => true)

theorem State.acquireAct_eq (s : State) (u : MemUnit) (scope : Nat) :
    s.acquireAct u scope = (if scope = 0 then s else s.markFull u.who).acquireCaches u scope := rfl

/-- A slice whose sectors of some kind are evicted one after another holds none of them. -/
theorem State.slice?_evictAll (s : State) (c : Nat) (p : Nat → Bool) {sec : Nat} (hp : p sec = true) :
    (((s.col c).slice.filter (fun e => p e.1)).foldl (fun t e => t.evict c e.1) s).slice? c sec = none := by
  have hsheds : ∀ (l : List (Nat × SliceSector)) (t : State), t.slice? c sec = none → (l.foldl (fun t e => t.evict c e.1) t).slice? c sec = none :=
    fun l t h => (Sheds.foldl (fun v (e : Nat × SliceSector) => v.sheds_evict c e.1) l t).slice c sec h
  cases hx : s.slice? c sec with
  | none => exact hsheds _ s hx
  | some x =>
    refine foldl_reaches (P := fun t => t.slice? c sec = none) (a := (sec, x)) (fun t e h => (t.sheds_evict c e.1).slice c sec h)
      (fun t => t.slice?_evict c sec) _ (List.mem_filter.2 ⟨mem_of_mapGet? hx, hp⟩) s

theorem State.cacheOnly_evictAll (s : State) (c : Nat) (l : List (Nat × SliceSector)) : CacheOnly s (l.foldl (fun t e => t.evict c e.1) s) :=
  CacheOnly.foldl (fun t e => (t.cacheStep_evict c e.1).only) l s

theorem State.sheds_evictAll (s : State) (c : Nat) (l : List (Nat × SliceSector)) : Sheds s (l.foldl (fun t e => t.evict c e.1) s) :=
  Sheds.foldl (fun t e => t.sheds_evict c e.1) l s

section
variable (s : State) (u : MemUnit) {scope : Nat}

/-- The slice after an acquire at die scope or wider holds no line foreign to its die. -/
theorem State.acquireCaches_foreign (h : 4 ≤ scope) {sec : Nat} (hf : isForeign (dieOf u.col) (32 * sec) = true) :
    (s.acquireCaches u scope).slice? u.col sec = none := by
  have h2 : ¬ scope < 2 := by omega
  have h4 : ¬ scope < 4 := by omega
  have hgone := (s.acquireL1 u.col u.unit).slice?_evictAll u.col (fun x => isForeign (dieOf u.col) (32 * x)) hf
  simp only [State.acquireCaches, h2, h4, if_false]
  split
  · exact hgone
  · rw [State.slice?_spoilFills, State.slice?_setL1]
    exact (State.sheds_evictAll _ u.col _).slice _ _ hgone

theorem State.acquireCaches_remote (h : 6 ≤ scope) {sec : Nat} (hr : isRemote (32 * sec) = true) :
    (s.acquireCaches u scope).slice? u.col sec = none ∧ mapGet? ((s.acquireCaches u scope).l1 u.col u.unit) sec = none := by
  have h2 : ¬ scope < 2 := by omega
  have h4 : ¬ scope < 4 := by omega
  have h6 : ¬ scope < 6 := by omega
  simp only [State.acquireCaches, h2, h4, h6, if_false, State.slice?_spoilFills, State.slice?_setL1, State.l1_spoilFills, State.l1_setL1_same]
  refine ⟨State.slice?_evictAll _ u.col (fun x => isRemote (32 * x)) hr, ?_⟩
  rw [mapGet?_filter_key _ (fun x => !(isRemote (32 * x))), if_neg (by simp [hr])]

/-- An acquire changes no flush set but through the mark. -/
theorem State.acquireCaches_agents :
    (∀ c, ((s.acquireCaches u scope).cc c).flushFull = (s.cc c).flushFull) ∧ ∀ n g, (s.acquireCaches u scope).grp? n g = s.grp? n g := by
  have hflush : ∀ {t : State}, CacheOnly s t → (∀ c, (t.cc c).flushFull = (s.cc c).flushFull) ∧ ∀ n g, t.grp? n g = s.grp? n g :=
    fun h => ⟨fun c => congrArg Prod.snd (h.flushSet (.col c)), h.grp?⟩
  have hl1 : CacheOnly s (s.acquireL1 u.col u.unit) := s.cacheOnly_setL1 ..
  simp only [State.acquireCaches]
  split
  · exact ⟨fun _ => rfl, fun _ _ => rfl⟩
  · generalize hs2 : (if scope < 4 then s.acquireL1 u.col u.unit else
      (((s.acquireL1 u.col u.unit).col u.col).slice.filter (fun e => isForeign (dieOf u.col) (32 * e.1))).foldl (fun t e => t.evict u.col e.1)
        (s.acquireL1 u.col u.unit)) = s2
    have h2 : CacheOnly s s2 := by
      rw [← hs2]
      split
      · exact hl1
      · exact hl1.trans (State.cacheOnly_evictAll _ u.col _)
    split
    · exact hflush h2
    · have h3 : ∀ (l : List (Nat × SliceSector)) (m : List (Nat × L1Sector)), CacheOnly s ((l.foldl (fun (t : State) (e : Nat × SliceSector) => t.evict u.col e.1) s2).setL1 u.col u.unit m) := fun l m =>
        (h2.trans (s2.cacheOnly_evictAll u.col l)).trans (State.cacheOnly_setL1 _ u.col u.unit m)
      exact ⟨fun c => (State.flushFull_spoilFills ..).trans ((hflush (h3 _ _)).1 c), fun n g => (State.grp?_spoilFills ..).trans ((h3 _ _).grp? n g)⟩
end

end Sys2Proof.Machine
end

section
/-! Fences, and what waits for writes to other packages (R193, R291, R292). -/

namespace Sys2Proof.Machine

/-! ### Instructions that wait -/

/-- Lanes that all pass their checks, with their segments. -/
theorem exists_checked {lanes : List LaneView} {check : LaneView → AccRes} (h : ∀ lv ∈ lanes, ∃ l, check lv = .segs l) :
    ∃ segs : LaneView → List Seg, (lanes.map fun lv => (lv, check lv)) = lanes.map fun lv => (lv, AccRes.segs (segs lv)) := by
  choose! segs hsegs using h
  exact ⟨segs, List.map_congr_left fun lv hlv => by rw [hsegs lv hlv]⟩

section
variable {r : Row} {f : Fields} {e : Env} {ls : List LaneView} {s : State} (hwait : s.mustWait (s.memCtx e) f = true)
include hwait

theorem loadBody_waits (h : ∀ lv ∈ ls.filter (laneActive f), ∃ l, s.checkForm (s.memCtx e) e (globalEa ls lv f) (sizeBytes f.modx.toNat) .load
    (strongScope f) (r.mem = .lda) = .segs l) : loadBody r f e ls (ls.filter (laneActive f)) s = s.passOver e.who := by
  obtain ⟨segs, hsegs⟩ := exists_checked h
  simp only [loadBody, hsegs, walksOf_segs, hwait, Bool.or_true, Bool.true_or, if_true]

variable (hne : storing f ls ≠ [])
include hne

theorem storeBody_waits (h : ∀ lv ∈ storing f ls, ∃ l, s.checkForm (s.memCtx e) e (globalEa ls lv f) (sizeBytes f.modx.toNat) .store
    (strongScope f) (r.mem = .strl) = .segs l) : storeBody r f e ls (ls.filter (laneActive f)) s = s.passOver e.who := by
  obtain ⟨segs, hsegs⟩ := exists_checked h
  have hgo : ((storing f ls).map fun lv => (lv, segs lv)).isEmpty = false := by simpa using hne
  simp only [storeBody]
  erw [hsegs, walksOf_segs, performing_segs, hgo, hwait]
  rfl

/-- Atomics whose lanes all pass their checks wait too. -/
theorem doAtoms_waits {checks : Checked} {segs : LaneView → List Seg} (h : checks = (storing f ls).map fun lv => (lv, AccRes.segs (segs lv)))
    (act : List LaneView) (mk : State → List (LaneView × List Seg) → List AtomJob) (meld : Bool) (share : RAccess → List RAccess) :
    s.doAtoms r f e ls act (s.memCtx e) checks mk meld share = s.passOver e.who := by
  have hgo : ((storing f ls).map fun lv => (lv, segs lv)).isEmpty = false := by simpa using hne
  simp only [State.doAtoms, h, performing_segs, hgo, hwait, Bool.not_false, Bool.and_self, if_true]

theorem atomBody_waits {mk : Row → Fields → List LaneView → LaneView → AtomDo}
    (h : ∀ lv ∈ storing f ls, ∃ l, s.checkForm (s.memCtx e) e (globalEa ls lv f) (mk r f ls lv).n .atomic (some (memScope f)) true = .segs l) :
    atomBody mk r f e ls (ls.filter (laneActive f)) s = s.passOver e.who := by
  obtain ⟨segs, hsegs⟩ := exists_checked h
  have hwalks : walksOf ((storing f ls).map fun lv => (lv, s.checkForm (s.memCtx e) e (globalEa ls lv f) (mk r f ls lv).n .atomic
    (some (memScope f)) true)) = [] := by rw [hsegs, walksOf_segs]
  simp only [atomBody]
  erw [hwalks]
  exact doAtoms_waits hwait hne hsegs ..

theorem meldBody_waits (h : ∀ lv ∈ storing f ls, ∃ l, s.checkForm (s.memCtx e) e (globalEa ls lv f) (atomBytes f.modx.toNat) .atomic
    (some (memScope f)) true = .segs l) : meldBody r f e ls (ls.filter (laneActive f)) s = s.passOver e.who := by
  obtain ⟨segs, hsegs⟩ := exists_checked h
  have hwalks : walksOf ((storing f ls).map fun lv => (lv, s.checkForm (s.memCtx e) e (globalEa ls lv f) (atomBytes f.modx.toNat) .atomic
    (some (memScope f)) true)) = [] := by rw [hsegs, walksOf_segs]
  simp only [meldBody]
  erw [hwalks]
  exact doAtoms_waits hwait hne hsegs ..
end

/-- Where an access of another package's writes is not acknowledged, a global form that would come after it waits and performs nothing. -/
theorem global_waits : ∀ mk ∈ [Instr.ld, Instr.ldMem, Instr.lda, Instr.st, Instr.stMem, Instr.strl, Instr.atom, Instr.atomc, Instr.meld],
    ∀ (r : Row) (f : Fields) (s : State) (e : Env) (ls : List LaneView), Issues (mk f) r f s e ls → s.mustWait (s.memCtx e) f = true →
    accLanes r f ls ≠ [] → (∀ lv ∈ accLanes r f ls, ∃ segs, accCheck s r f e ls lv = .segs segs) → exec (mk f) s = .next (s.passOver e.who) := by
  intro mk hmk r f s e ls hi hwait hne hchecks
  simp only [List.mem_cons, List.not_mem_nil, or_false] at hmk
  rcases hmk with rfl | rfl | rfl | rfl | rfl | rfl | rfl | rfl | rfl <;> obtain rfl := Option.some.inj hi.row
  · exact congrArg _ ((runMem_issues loadBody hi).trans (loadBody_waits hwait hchecks))
  · exact congrArg _ ((runMem_issues loadBody hi).trans (loadBody_waits hwait hchecks))
  · exact congrArg _ ((runMem_issues loadBody hi).trans (loadBody_waits hwait hchecks))
  · exact congrArg _ ((runMem_issues storeBody hi).trans (storeBody_waits hwait hne hchecks))
  · exact congrArg _ ((runMem_issues storeBody hi).trans (storeBody_waits hwait hne hchecks))
  · exact congrArg _ ((runMem_issues storeBody hi).trans (storeBody_waits hwait hne hchecks))
  · exact congrArg _ ((runMem_issues (atomBody atomDo) hi).trans (atomBody_waits hwait hne hchecks))
  · exact congrArg _ ((runMem_issues (atomBody atomcDo) hi).trans (atomBody_waits hwait hne hchecks))
  · exact congrArg _ ((runMem_issues meldBody hi).trans (meldBody_waits hwait hne hchecks))

/-! ### Fences -/

section
variable {r : Row} {f : Fields} {e : Env} {ls : List LaneView} {s : State} (hi : Issues (.fence f) r f s e ls)
include hi

theorem fence_idle (hnone : storing f ls = []) : runMem (.fence f) fenceBody s = s.advance e.who (wordsOf f) := by
  have hempty : (storing f ls).isEmpty = true := by simp [hnone]
  rw [runMem_issues fenceBody hi]
  simp only [fenceBody]
  erw [hempty]
  rfl

theorem fence_waits (hne : storing f ls ≠ []) (hwait : s.mustWait (s.memCtx e) f = true) : runMem (.fence f) fenceBody s = s.passOver e.who := by
  have hempty : (storing f ls).isEmpty = false := by simpa using hne
  rw [runMem_issues fenceBody hi]
  simp only [fenceBody]
  erw [hempty, hwait]
  rfl

theorem fence_performs (hne : storing f ls ≠ []) (hwait : s.mustWait (s.memCtx e) f = false) : runMem (.fence f) fenceBody s
    = (State.acquireOpt (match releaseOf f with
        | some x => (storing f ls).foldl (fun (t : State) lv => t.setFence e [lv] (some (max x ((t.pendingFence e lv).getD 0))))
          (s.releaseOpt (s.memCtx e).unit (releaseOf f))
        | none => s.releaseOpt (s.memCtx e).unit (releaseOf f)) (s.memCtx e).unit (acquireOf f)).commit e
      (laneRes f ls (fun _ => .idle)) (wordsOf f) := by
  have hempty : (storing f ls).isEmpty = false := by simpa using hne
  rw [runMem_issues fenceBody hi]
  simp only [fenceBody]
  erw [hempty, hwait]
  exact State.finishMem_none _ r f e ls
end

theorem State.pendingFence_setFence {e : Env} {c : Nat} (hwho : e.who = .col c) (s : State) (lv : LaneView) (ls : List LaneView) (v : Option Nat) :
    (s.setFence e ls v).pendingFence e lv = v := by
  simp only [State.setFence, State.pendingFence, hwho, State.cc_modCc, if_true]

theorem State.mustWait_iff (s : State) (m : MemCtx) (f : Fields) : s.mustWait m f = true ↔
    ((isRelease (memOrder f) = true ∧ memScope f = 6) ∨ memOrder f = 5) ∧ ∃ l ∈ s.fabric.live, l.posted = true ∧ l.agent = m.unit.who := by
  have hrel : releaseOf f = some 6 ↔ isRelease (memOrder f) = true ∧ memScope f = 6 := by
    unfold releaseOf
    cases isRelease (memOrder f) <;> simp
  simp [State.mustWait, State.postedPending, hrel]

/-! ### The clauses about release and acquire -/

/-- A release at die scope or wider writes home what its agent's flush set stands for. -/
theorem State.releaseAct_flushes (s : State) (u : MemUnit) {scope : Nat} (h : 4 ≤ scope) :
    let set := s.flushSet u.who
    let t := s.releaseAct u scope
    (set.2 = false → (∀ line ∈ set.1, ∀ i, i < 4 → ∀ x, s.slice? u.col (4 * line + i) = some x →
        (∀ j, j < 32 → x.dirty.getLsbD j = true → t.homeByte (32 * (4 * line + i) + j) = x.data.extractLsb' (8 * j) 8)
        ∧ ∃ y, t.slice? u.col (4 * line + i) = some y ∧ y.dirty = 0 ∧ y.data = x.data ∧ y.valid = x.valid)
      ∧ (∀ a, a / 128 ∉ set.1 → t.homeByte a = s.homeByte a))
    ∧ (set.2 = true → ∀ c ∈ clusterCols (clusterOf u.col), ∀ sec x, s.slice? c sec = some x → (∀ c2, c2 ≠ c → s.slice? c2 sec = none) →
        (∀ j, j < 32 → x.dirty.getLsbD j = true → t.homeByte (32 * sec + j) = x.data.extractLsb' (8 * j) 8)
        ∧ ∃ y, t.slice? c sec = some y ∧ y.dirty = 0) := by
  intro set t
  have ht : t = (if set.2 then s.flushAll u.col else s.flushLines u.col set.1).clearFlush u.who := s.releaseAct_wide u h
  have hclear : SameBytes (if set.2 then s.flushAll u.col else s.flushLines u.col set.1) t := ht ▸ State.sameBytes_clearFlush _ u.who
  refine ⟨fun hfull => ?_, fun hfull c hc sec x hx halone => ?_⟩
  · rw [hfull, if_neg Bool.false_ne_true, State.flushLines_eq] at hclear
    refine ⟨fun line hline i hi x hx => ⟨fun j hj hd => ?_, x.cleaned, ?_, x.cleaned_dirty, x.cleaned_data, x.cleaned_valid⟩, fun a ha => ?_⟩
    · have hsec : (32 * (4 * line + i) + j) / 32 = 4 * line + i := by omega
      have hoff : (32 * (4 * line + i) + j) % 32 = j := by omega
      have hmem : 4 * line + i ∈ set.1.flatMap fun l => (List.range 4).map (4 * l + ·) :=
        mem_flushLines.2 (by rwa [show (4 * line + i) / 4 = line by omega])
      rw [hclear.homeByte, State.homeByte_foldl_writeBack, hsec, if_pos hmem, hx]
      simp only [State.overHome, hoff, hd, if_true]
      rfl
    · have hmem : 4 * line + i ∈ set.1.flatMap fun l => (List.range 4).map (4 * l + ·) :=
        mem_flushLines.2 (by rwa [show (4 * line + i) / 4 = line by omega])
      rw [hclear.slice?, State.slice?_foldl_writeBack, if_pos hmem, hx]
      rfl
    · rw [hclear.homeByte, State.homeByte_foldl_writeBack, if_neg]
      rwa [mem_flushLines, show a / 32 / 4 = a / 128 by omega]
  · rw [hfull, if_pos rfl] at hclear
    have hlone := (Alone.lone (s := s) halone).flushAll u.col
    have hclean := clean_flushAll s hc sec
    refine ⟨fun j hj hd => ?_, ?_⟩
    · have hsec : (32 * sec + j) / 32 = sec := by omega
      have hoff : (32 * sec + j) % 32 = j := by omega
      rw [hclear.homeByte, hlone.homeByte hclean hsec, hx]
      simp only [State.overHome, hoff, hd, if_true]
      rfl
    · obtain ⟨y, hy⟩ := Option.ne_none_iff_exists'.1 (Held.flushAll (s := s) ⟨halone, by simp [hx]⟩ u.col).2
      exact ⟨y, (hclear.slice? c sec).trans hy, hclean y hy⟩

/-- The agent's flush set is empty after a release at die scope or wider. -/
theorem State.releaseAct_empties (s : State) (u : MemUnit) {scope : Nat} (h : 4 ≤ scope) :
    match u.who with
    | .col c => ((s.releaseAct u scope).cc c).flush = [] ∧ ((s.releaseAct u scope).cc c).flushFull = false
    | .grp n g => s.grp? n g ≠ none → ∃ x, (s.releaseAct u scope).grp? n g = some x ∧ x.flush = [] ∧ x.flushFull = false := by
  rw [s.releaseAct_wide u h]
  have honly : CacheOnly s (if (s.flushSet u.who).2 then s.flushAll u.col else s.flushLines u.col (s.flushSet u.who).1) := by
    split
    · exact s.cacheOnly_flushAll u.col
    · exact s.cacheOnly_flushLines u.col _
  generalize (if (s.flushSet u.who).2 then s.flushAll u.col else s.flushLines u.col (s.flushSet u.who).1) = v at honly
  cases u.who with
  | col c => simp [State.clearFlush]
  | grp n g =>
    intro hx
    obtain ⟨x, hx⟩ := Option.ne_none_iff_exists'.1 hx
    exact ⟨{ x with flush := [], flushFull := false }, by simp [State.clearFlush, honly.grp?, hx], rfl, rfl⟩

theorem State.flushSet_of {s : State} {who : Agent} {lines : List Nat} {full : Bool}
    (h : match who with
      | .col c => (s.cc c).flush = lines ∧ (s.cc c).flushFull = full
      | .grp n g => ∃ x, s.grp? n g = some x ∧ x.flush = lines ∧ x.flushFull = full) : s.flushSet who = (lines, full) := by
  cases who with
  | col c => obtain ⟨rfl, rfl⟩ := h; rfl
  | grp n g => obtain ⟨x, hx, rfl, rfl⟩ := h; simp [State.flushSet, hx]

/-- A release at cluster scope tells the cluster of the dirty bytes its agent's flush set stands for, and moves none (R284). -/
theorem State.releaseAct_cluster (s : State) (u : MemUnit) : let t := s.releaseAct u 3
    { t with cols := s.cols } = s ∧ t.flushSet u.who = s.flushSet u.who
    ∧ (∀ c, { t.col c with slice := (s.col c).slice } = s.col c)
    ∧ (∀ c sec, (t.slice? c sec).map (fun x => { x with wide := 0 }) = (s.slice? c sec).map (fun x => { x with wide := 0 }))
    ∧ (∀ c sec x, t.slice? c sec = some x → x.wide = if ((s.flushSet u.who).2 = true ∧ clusterOf c = clusterOf u.col)
        ∨ ((s.flushSet u.who).2 = false ∧ c = u.col ∧ sec / 4 ∈ (s.flushSet u.who).1) then x.dirty else (s.sliceView c sec).wide) := by
  intro t
  have h := s.publishes_releaseAct u
  refine ⟨h.rest, ?_, h.col, fun c sec => ?_, fun c sec x hx => ?_⟩
  · cases hwho : u.who with
    | grp n g => exact (congrArg (fun x : State => x.flushSet (.grp n g)) h.rest :)
    | col c => exact (congrArg (fun x : Column => (x.core.flush, x.core.flushFull)) (h.col c) :)
  · by_cases hq : ((s.flushSet u.who).2 = true ∧ clusterOf c = clusterOf u.col)
        ∨ ((s.flushSet u.who).2 = false ∧ c = u.col ∧ sec / 4 ∈ (s.flushSet u.who).1)
    · rw [h.told c sec hq, Option.map_map]; rfl
    · rw [h.other c sec hq]
  · split
    · next hq =>
      rw [h.told c sec hq] at hx
      obtain ⟨y, -, rfl⟩ := Option.map_eq_some_iff.1 hx
      rfl
    · next hq =>
      rw [h.other c sec hq] at hx
      simp [State.sliceView, hx]

/-- The core's L1 after an acquire at column or cluster scope. -/
theorem State.l1_acquireAct (s : State) (u : MemUnit) {scope : Nat} (h2 : 2 ≤ scope) (h4 : scope < 4) :
    (s.acquireAct u scope).l1 u.col u.unit = ((s.l1 u.col u.unit).filter (fun x => x.2.mask == 0xFFFFFFFF)).map (fun x => (x.1, ⟨x.2.data, 0⟩)) := by
  have h0 : scope ≠ 0 := by omega
  have h2' : ¬ scope < 2 := by omega
  have h6 : scope < 6 := by omega
  rw [State.acquireAct_eq]
  simp only [State.acquireCaches, State.acquireL1, h0, h2', h4, h6, if_true, if_false, State.l1_setL1_same, State.l1_markFull]
  rfl

/-- Settles O31: the release and acquire actions, by what their write-backs and evictions do to one sector. -/
theorem ordering : Obligations.Ordering := by
  refine ⟨⟨?performs, ?fence, ?idle, State.mustWait_iff, global_waits, ?waits⟩, ⟨fun s u scope h => s.releaseAct_narrow u h,
    State.releaseAct_cluster, ?wide⟩, fun s u => rfl, fun s u scope h2 h4 => s.l1_acquireAct u h2 h4, ?foreign, ?remote, ?fullCol, ?fullGrp⟩
  case performs =>
    intro r f s e ls hi hne m hwait
    exact congrArg Host.Outcome.next (fence_performs hi hne hwait)
  case idle => exact fun r f s e ls hi hnone => congrArg _ (fence_idle hi hnone)
  case waits => exact fun r f s e ls hi hwait hne => congrArg _ (fence_waits hi hne hwait)
  case fence =>
    intro f0 s e c lv ls v hwho
    refine ⟨State.pendingFence_setFence hwho s lv ls v, fun horder => ?_⟩
    rw [State.endFences, if_neg horder]
    exact State.pendingFence_setFence hwho s lv ls none
  case wide =>
    intro s u scope lines full h hset t
    have hflush := State.flushSet_of hset
    have hbytes := s.releaseAct_flushes u h
    simp only [hflush] at hbytes
    refine ⟨?_, hbytes.1, hbytes.2, s.releaseAct_wf u scope⟩
    have hempty := s.releaseAct_empties u h
    cases hwho : u.who with
    | col c => simpa only [hwho] using hempty
    | grp n g =>
      simp only [hwho] at hset hempty
      obtain ⟨x, hx, -⟩ := hset
      exact hempty (by simp [hx])
  case foreign => exact fun s u scope sec h hf => State.acquireCaches_foreign _ u h hf
  case remote => exact fun s u scope sec h hr => State.acquireCaches_remote _ u h hr
  case fullCol =>
    intro s u c scope hwho hscope
    rw [State.acquireAct_eq, (State.acquireCaches_agents _ u).1, if_neg (by omega), hwho]
    simp [State.markFull]
  case fullGrp =>
    intro s u n g scope x hwho hscope hx
    refine ⟨{ x with flushFull := true }, ?_, rfl, rfl, rfl, rfl, rfl⟩
    rw [State.acquireAct_eq, (State.acquireCaches_agents _ u).2, if_neg (by omega), hwho]
    simp [State.markFull, hx]

end Sys2Proof.Machine
end

section
/-! `cwb`, `cinv` and `pref` (R195 to R197, R273). -/

namespace Sys2Proof.Machine

/-! ### Their effect when they issue -/

section
variable {i : Instr} {r : Row} {f : Fields} {s : State} {e : Env} {ls : List LaneView} (hi : Issues i r f s e ls)
include hi

theorem range_waits (inval : Bool) (h : ∃ lv ∈ storing f ls, s.rangePosted (s.memCtx e) (globalEa ls lv f) (srcB r ls lv f).toNat = true) :
    runMem i (rangeBody inval) s = s.passOver e.who := by
  have hany : ((storing f ls).map fun lv => (globalEa ls lv f, (srcB r ls lv f).toNat)).any (fun a => s.rangePosted (s.memCtx e) a.1 a.2) = true := by
    simpa using h
  rw [runMem_issues _ hi]
  simp only [rangeBody]
  erw [hany]
  rfl

theorem range_performs (inval : Bool) (h : ∀ lv ∈ storing f ls, s.rangePosted (s.memCtx e) (globalEa ls lv f) (srcB r ls lv f).toNat = false) :
    runMem i (rangeBody inval) s = ((storing f ls).foldl (fun (t : State) lv =>
        if inval then t.rangeInval (s.memCtx e) (memScope f) (globalEa ls lv f) (srcB r ls lv f).toNat
        else t.rangeClean (s.memCtx e) (memScope f) (globalEa ls lv f) (srcB r ls lv f).toNat) s).commit e
      (laneRes f ls (fun _ => .idle)) (wordsOf f) := by
  have hany : ((storing f ls).map fun lv => (globalEa ls lv f, (srcB r ls lv f).toNat)).any (fun a => s.rangePosted (s.memCtx e) a.1 a.2) = false := by
    simpa using h
  rw [runMem_issues _ hi]
  simp only [rangeBody]
  erw [hany]
  rw [if_neg Bool.false_ne_true, List.foldl_map]
  exact State.finishMem_none _ r f e ls

theorem pref_performs : runMem i prefBody s = ((storing f ls).foldl (fun t lv => t.prefetch e (s.memCtx e) (globalEa ls lv f) (f.modx = 0)) s).commit e
    (laneRes f ls (fun _ => .idle)) (wordsOf f) := by
  rw [runMem_issues _ hi]
  exact State.finishMem_none _ r f e ls
end

/-! ### Sectors of a range -/

/-- What every step of a fold keeps while a second property stands, and the step of one element brings about, holds after the fold. -/
theorem foldl_brings {α : Type} {I P : State → Prop} {f : State → α → State} {a : α} (hinv : ∀ t x, I t → I (f t x))
    (hkeep : ∀ t x, P t → P (f t x)) (hstep : ∀ t, I t → P (f t a)) {l : List α} (ha : a ∈ l) {s : State} (hs : I s) : P (l.foldl f s) := by
  induction l generalizing s with
  | nil => cases ha
  | cons x l ih =>
    rcases List.mem_cons.1 ha with rfl | h
    · exact foldl_keeps hkeep l (hstep s hs)
    · exact ih h (hinv s x hs)

/-- A sector of a range that no system lock covers. -/
def InRange (s : State) (m : MemCtx) (ranges : List (Nat × Nat × Nat)) (sec : Nat) : Prop := sec ∈ s.rangeSectors m [sec] ranges

/-- The lock tables that an issuer meets are the same. -/
def SameLocks (m : MemCtx) (s t : State) : Prop := (t.col m.unit.col).locks = (s.col m.unit.col).locks

theorem CacheOnly.sameLocks {s t : State} (h : CacheOnly s t) (m : MemCtx) : SameLocks m s t := h.locks m.unit.col

section
variable {s t : State} {m : MemCtx} {ranges : List (Nat × Nat × Nat)} {sec : Nat}

theorem State.rangeSectors_congr (h : SameLocks m s t) (held : List Nat) : t.rangeSectors m held ranges = s.rangeSectors m held ranges := by
  unfold State.rangeSectors State.sectorHeld State.frameLocked
  rw [h]

theorem InRange.mem (h : InRange s m ranges sec) (hl : SameLocks m s t) {held : List Nat} (hmem : sec ∈ held) : sec ∈ t.rangeSectors m held ranges := by
  rw [State.rangeSectors_congr hl]
  exact List.mem_filter.2 ⟨hmem, (List.mem_filter.1 h).2⟩

/-! ### `cwb` -/

/-- One slice's part of `cwb` for a range. -/
def State.cleanSlice (t : State) (m : MemCtx) (ranges : List (Nat × Nat × Nat)) (c : Nat) : State :=
  (t.rangeSectors m ((t.col c).slice.map (·.1)) ranges).foldl (fun u sec => if isRemote (32 * sec) then u else u.writeBack c sec) t

theorem State.rangeClean_eq (s : State) (m : MemCtx) (scope ea : Nat) {len : Nat} (hlen : len ≠ 0) :
    s.rangeClean m scope ea len = (narrowSlices scope m.unit.col).foldl (fun t c => t.cleanSlice m (s.rangePlaces m ea len) c) s := by
  rw [State.rangeClean, if_neg hlen]; rfl

theorem State.cacheOnly_cleanSlice (t : State) (m : MemCtx) (ranges : List (Nat × Nat × Nat)) (c : Nat) : CacheOnly t (t.cleanSlice m ranges c) :=
  CacheOnly.foldl (fun u x => by split; exacts [CacheOnly.refl u, (u.cacheStep_writeBack c x).only]) _ t

theorem Clean.cleanSlice {c : Nat} (h : Clean c sec t) (m : MemCtx) (ranges : List (Nat × Nat × Nat)) (k : Nat) :
    Clean c sec (t.cleanSlice m ranges k) :=
  foldl_keeps (P := Clean c sec) (fun _ x h => by split; exacts [h, h.writeBack k x]) _ h

theorem Lone.cleanSlice {c : Nat} {b : Nat → Byte} (h : Lone c sec b t) (m : MemCtx) (ranges : List (Nat × Nat × Nat)) (k : Nat) :
    Lone c sec b (t.cleanSlice m ranges k) :=
  foldl_keeps (P := Lone c sec b) (fun _ x h => by split; exacts [h, h.writeBack k x]) _ h

/-- A slice's sector of the range is clean after the slice's part. -/
theorem clean_cleanSlice (hin : InRange s m ranges sec) (hlocal : isRemote (32 * sec) = false) (hl : SameLocks m s t) (c : Nat) :
    Clean c sec (t.cleanSlice m ranges c) := by
  cases hx : t.slice? c sec with
  | none => exact Clean.cleanSlice (fun x h => by rw [hx] at h; cases h) m ranges c
  | some x =>
    refine foldl_reaches (P := Clean c sec) (fun _ y h => by split; exacts [h, h.writeBack c y]) (fun v => ?_) _
      (hin.mem hl (mem_keys_of_mapGet? hx)) t
    simp only [hlocal, Bool.false_eq_true, if_false]
    exact clean_writeBack v c sec

theorem narrowSlices_wide {scope : Nat} (h : 4 ≤ scope) (c : Nat) : narrowSlices scope c = scopeCols scope c := if_neg (by omega)

theorem clean_rangeClean {scope ea len c : Nat} (hscope : 4 ≤ scope) (hlen : len ≠ 0) (hlocal : isRemote (32 * sec) = false)
    (hc : c ∈ scopeCols scope m.unit.col) (hin : InRange s m (s.rangePlaces m ea len) sec) : Clean c sec (s.rangeClean m scope ea len) := by
  rw [s.rangeClean_eq m scope ea hlen]
  exact foldl_brings (I := SameLocks m s) (P := Clean c sec) (fun t k h => ((t.cacheOnly_cleanSlice m _ k).sameLocks m).trans h)
    (fun _ k h => h.cleanSlice m _ k) (fun _ h => clean_cleanSlice hin hlocal h c) (narrowSlices_wide hscope _ ▸ hc) rfl

theorem Lone.rangeClean {scope ea len c : Nat} {b : Nat → Byte} (h : Lone c sec b s) (hlen : len ≠ 0) : Lone c sec b (s.rangeClean m scope ea len) := by
  rw [s.rangeClean_eq m scope ea hlen]
  exact foldl_keeps (P := Lone c sec b) (fun _ k h => h.cleanSlice m _ k) _ h

/-! ### `cinv` -/

/-- One L1's part of `cinv` for a range. -/
def State.dropFromL1 (t : State) (m : MemCtx) (ranges : List (Nat × Nat × Nat)) (c u : Nat) : State :=
  (t.rangeSectors m ((t.l1 c u).map (·.1)) ranges).foldl (fun w sec => w.dropL1 c u sec) t
/-- The part of the L1s of a column. -/
def State.dropFromL1s (t : State) (m : MemCtx) (ranges : List (Nat × Nat × Nat)) (c : Nat) : State :=
  (List.range 13).foldl (fun v u => v.dropFromL1 m ranges c u) t
/-- One slice's part. -/
def State.dropFromSlice (t : State) (m : MemCtx) (ranges : List (Nat × Nat × Nat)) (c : Nat) : State :=
  (t.rangeSectors m ((t.col c).slice.map (·.1)) ranges).foldl (fun u sec => u.evict c sec) t

/-- The lines of a range whose fills in flight are not kept. -/
def fillsOf (ranges : List (Nat × Nat × Nat)) (line : Nat) : Bool :=
  ranges.any (fun r => decide (r.2.1 / 128 ≤ line) && decide (line ≤ (r.2.1 + r.2.2 - 1) / 128))

theorem State.rangeInval_eq (s : State) (m : MemCtx) (scope ea : Nat) {len : Nat} (hlen : len ≠ 0) :
    s.rangeInval m scope ea len = (narrowSlices scope m.unit.col).foldl (fun t c => t.dropFromSlice m (s.rangePlaces m ea len) c)
      (((scopeCols scope m.unit.col).foldl (fun t c => t.dropFromL1s m (s.rangePlaces m ea len) c)
        (s.dropBlocks m (scopeCols scope m.unit.col) (s.rangePlaces m ea len))).spoilFills (scopeCols scope m.unit.col)
          (fillsOf (s.rangePlaces m ea len))) := by
  rw [State.rangeInval, if_neg hlen]; rfl

section
variable (t) (m) (ranges)

theorem State.cacheOnly_dropFromL1s (c : Nat) : CacheOnly t (t.dropFromL1s m ranges c) :=
  CacheOnly.foldl (fun v u => CacheOnly.foldl (fun w _ => w.cacheOnly_setL1 c u _) _ v) _ t
theorem State.sheds_dropFromL1 (c u : Nat) : Sheds t (t.dropFromL1 m ranges c u) := Sheds.foldl (fun w x => w.sheds_dropL1 c u x) _ t
theorem State.sheds_dropFromL1s (c : Nat) : Sheds t (t.dropFromL1s m ranges c) := Sheds.foldl (fun v u => v.sheds_dropFromL1 m ranges c u) _ t
theorem State.cacheOnly_dropFromSlice (c : Nat) : CacheOnly t (t.dropFromSlice m ranges c) :=
  CacheOnly.foldl (fun u x => (u.cacheStep_evict c x).only) _ t
theorem State.sheds_dropFromSlice (c : Nat) : Sheds t (t.dropFromSlice m ranges c) := Sheds.foldl (fun u x => u.sheds_evict c x) _ t

theorem State.sameBytes_dropFromL1s (c : Nat) : SameBytes t (t.dropFromL1s m ranges c) :=
  foldl_keeps (P := SameBytes t) (fun _ u h => foldl_keeps (P := SameBytes t) (fun w _ h => h.trans (w.sameBytes_setL1 c u _)) _ h) _ (SameBytes.refl t)
end

theorem Lone.dropFromSlice {c : Nat} {b : Nat → Byte} (h : Lone c sec b t) (hlocal : isRemote (32 * sec) = false) (m : MemCtx)
    (ranges : List (Nat × Nat × Nat)) (k : Nat) : Lone c sec b (t.dropFromSlice m ranges k) :=
  foldl_keeps (P := Lone c sec b) (fun _ x h => h.evict hlocal k x) _ h

/-- An L1's part leaves no sector of the range in it. -/
theorem l1_dropFromL1 (hin : InRange s m ranges sec) (hl : SameLocks m s t) (c u : Nat) : mapGet? ((t.dropFromL1 m ranges c u).l1 c u) sec = none := by
  cases hx : mapGet? (t.l1 c u) sec with
  | none => exact (t.sheds_dropFromL1 m ranges c u).l1 c u sec hx
  | some x =>
    refine foldl_reaches (P := fun v => mapGet? (v.l1 c u) sec = none) (fun v y h => (v.sheds_dropL1 c u y).l1 c u sec h) (fun v => ?_) _
      (hin.mem hl (mem_keys_of_mapGet? hx)) t
    rw [State.dropL1, State.l1_setL1_same, mapGet?_mapErase, if_pos rfl]

theorem l1_dropFromL1s (hin : InRange s m ranges sec) (hl : SameLocks m s t) (c : Nat) {u : Nat} (hu : u < 13) :
    mapGet? ((t.dropFromL1s m ranges c).l1 c u) sec = none :=
  foldl_brings (I := SameLocks m s) (P := fun v => mapGet? (v.l1 c u) sec = none)
    (fun v w h => ((CacheOnly.foldl (fun (x : State) (_ : Nat) => x.cacheOnly_setL1 c w _) _ v).sameLocks m).trans h)
    (fun v w h => (v.sheds_dropFromL1 m ranges c w).l1 c u sec h) (fun _ h => l1_dropFromL1 hin h c u) (List.mem_range.2 hu) hl

/-- A slice's part leaves no sector of the range in it. -/
theorem slice?_dropFromSlice (hin : InRange s m ranges sec) (hl : SameLocks m s t) (c : Nat) : (t.dropFromSlice m ranges c).slice? c sec = none := by
  cases hx : t.slice? c sec with
  | none => exact (t.sheds_dropFromSlice m ranges c).slice c sec hx
  | some x =>
    refine foldl_reaches (P := fun v => v.slice? c sec = none) (fun v y h => (v.sheds_evict c y).slice c sec h) (fun v => v.slice?_evict c sec) _
      (hin.mem hl (mem_keys_of_mapGet? hx)) t

/-- A core whose column is in the scope holds no block of the range. -/
theorem blocks_dropBlocks (hin : InRange s m ranges sec) {cols : List Nat} {n : Nat} (hn : coreColumn n ∈ cols) :
    mapGet? ((s.dropBlocks m cols ranges).core n).blocks sec = none := by
  have hmap : (s.dropBlocks m cols ranges).cores = s.cores.map fun e => (e.1, if cols.contains (coreColumn e.1) then
      { e.2 with blocks := e.2.blocks.filter (fun b => !((s.rangeSectors m (e.2.blocks.map (·.1)) ranges).contains b.1)) } else e.2) :=
    List.map_congr_left fun e _ => by split <;> rfl
  have hcore : (s.dropBlocks m cols ranges).core n
      = { s.core n with blocks := (s.core n).blocks.filter (fun b => !((s.rangeSectors m ((s.core n).blocks.map (·.1)) ranges).contains b.1)) } := by
    rw [State.core, hmap]
    refine (mapGet_map_key (fun k (x : ACore) => if cols.contains (coreColumn k) then
      { x with blocks := x.blocks.filter (fun b => !((s.rangeSectors m (x.blocks.map (·.1)) ranges).contains b.1)) } else x) s.cores n ACore.reset
      (by split <;> rfl)).trans (if_pos (by simpa using hn))
  rw [hcore, mapGet?_filter_key _ (fun k => !((s.rangeSectors m ((s.core n).blocks.map (·.1)) ranges).contains k))]
  split
  · next hnot =>
    refine mapGet?_eq_none.2 fun hkey => ?_
    simp [hin.mem (t := s) rfl hkey] at hnot
  · rfl
end

/-! ### A whole `cinv` of a range -/

theorem State.sameLocks_spoilFills (s : State) (m : MemCtx) (cols : List Nat) (p : Nat → Bool) : SameLocks m s (s.spoilFills cols p) := by
  unfold SameLocks
  rw [State.col_spoilFills]
  split <;> rfl

@[simp] theorem State.blocks_spoilFills (s : State) (cols : List Nat) (p : Nat → Bool) (n : Nat) :
    ((s.spoilFills cols p).core n).blocks = (s.core n).blocks := by rw [State.core_spoilFills]; split <;> rfl

section
variable {s : State} {m : MemCtx} {scope ea len c sec : Nat} (hlen : len ≠ 0) (hc : c ∈ scopeCols scope m.unit.col)
  (hin : InRange s m (s.rangePlaces m ea len) sec)
include hlen hc hin

/-- `cinv` leaves no block of the range in the cores of a column of its scope. -/
theorem blocks_rangeInval {n : Nat} (hn : coreColumn n = c) : mapGet? ((s.rangeInval m scope ea len).core n).blocks sec = none := by
  rw [s.rangeInval_eq m scope ea hlen]
  have hslices : ∀ (l : List Nat) (v : State), ((l.foldl (fun t c => t.dropFromSlice m (s.rangePlaces m ea len) c) v).core n).blocks = (v.core n).blocks :=
    fun l v => (CacheOnly.foldl (fun t c => t.cacheOnly_dropFromSlice m _ c) l v).blocks n
  have hl1s : ∀ (l : List Nat) (v : State), ((l.foldl (fun t c => t.dropFromL1s m (s.rangePlaces m ea len) c) v).core n).blocks = (v.core n).blocks :=
    fun l v => (CacheOnly.foldl (fun t c => t.cacheOnly_dropFromL1s m _ c) l v).blocks n
  rw [hslices, State.blocks_spoilFills, hl1s]
  exact blocks_dropBlocks hin (hn ▸ hc)

/-- It leaves the range in no L1 of the column. -/
theorem l1_rangeInval {u : Nat} (hu : u < 13) : mapGet? ((s.rangeInval m scope ea len).l1 c u) sec = none := by
  rw [s.rangeInval_eq m scope ea hlen]
  refine (Sheds.foldl (fun t k => t.sheds_dropFromSlice m _ k) _ _).l1 c u sec ?_
  rw [State.l1_spoilFills]
  exact foldl_brings (I := SameLocks m s) (P := fun v => mapGet? (v.l1 c u) sec = none)
    (fun t k h => ((t.cacheOnly_dropFromL1s m _ k).sameLocks m).trans h) (fun t k h => (t.sheds_dropFromL1s m _ k).l1 c u sec h)
    (fun _ h => l1_dropFromL1s hin h c hu) hc rfl

/-- At die scope or wider it leaves it in no slice of the scope. -/
theorem slice?_rangeInval (hscope : 4 ≤ scope) : (s.rangeInval m scope ea len).slice? c sec = none := by
  rw [s.rangeInval_eq m scope ea hlen]
  refine foldl_brings (I := SameLocks m s) (P := fun v => v.slice? c sec = none)
    (fun t k h => ((t.cacheOnly_dropFromSlice m _ k).sameLocks m).trans h) (fun t k h => (t.sheds_dropFromSlice m _ k).slice c sec h)
    (fun _ h => slice?_dropFromSlice hin h c) (narrowSlices_wide hscope _ ▸ hc) ?_
  exact (State.sameLocks_spoilFills _ m _ _).trans (((CacheOnly.foldl (fun t k => t.cacheOnly_dropFromL1s m _ k) _ _).sameLocks m).trans rfl)
end

theorem Lone.rangeInval {s : State} {m : MemCtx} {scope ea len c sec : Nat} {b : Nat → Byte} (h : Lone c sec b s) (hlocal : isRemote (32 * sec) = false)
    (hlen : len ≠ 0) : Lone c sec b (s.rangeInval m scope ea len) := by
  rw [s.rangeInval_eq m scope ea hlen]
  refine foldl_keeps (P := Lone c sec b) (fun _ k h => h.dropFromSlice hlocal m _ k) _ (Lone.sameBytes ?_ (State.sameBytes_spoilFills _ _ _))
  exact foldl_keeps (P := Lone c sec b) (fun t k h => h.sameBytes (t.sameBytes_dropFromL1s m _ k)) _ (h.sameBytes ⟨fun _ => rfl, rfl, rfl⟩)

/-- A dirty byte of a copy that stands alone is what the home comes to hold. -/
theorem overHome_dirty (s : State) {sec j : Nat} (x : SliceSector) (hj : j < 32) (hd : x.dirty.getLsbD j = true) :
    s.overHome (some x) (32 * sec + j) = x.data.extractLsb' (8 * j) 8 := by
  have hoff : (32 * sec + j) % 32 = j := by omega
  simp only [State.overHome, hoff, hd, if_true]
  rfl

/-- Settles O32: each part of a range operation, by what it leaves in one slice or L1. -/
theorem cacheInstructions : Obligations.CacheInstructions := by
  refine ⟨?ranges, ?clean, ?inval, ?pref⟩
  case ranges =>
    intro p hp r f s e ls hi m
    simp only [List.mem_cons, List.not_mem_nil, or_false] at hp
    rcases hp with rfl | rfl <;> exact ⟨fun h => congrArg _ (range_waits hi _ h), fun h => congrArg _ (range_performs hi _ h)⟩
  case clean =>
    intro s m scope ea len c sec hscope hlen hlocal hc hin
    have hclean := clean_rangeClean (s := s) hscope hlen hlocal hc hin
    refine ⟨hclean, fun x hx halone j hj hd => ?_⟩
    have hlone := Alone.lone (s := s) halone
    have hsec : (32 * sec + j) / 32 = sec := by omega
    have hgone : Clean c sec (s.rangeInval m scope ea len) := fun y hy => by
      rw [slice?_rangeInval hlen hc hin hscope] at hy
      cases hy
    rw [(hlone.rangeClean hlen).homeByte hclean hsec, (hlone.rangeInval hlocal hlen).homeByte hgone hsec, hx]
    exact ⟨overHome_dirty s x hj hd, overHome_dirty s x hj hd⟩
  case inval =>
    intro s m scope ea len c sec _ hlen hc hin t
    exact ⟨fun n hn => blocks_rangeInval hlen hc hin hn, fun u hu => l1_rangeInval hlen hc hin hu, fun h => slice?_rangeInval hlen hc hin h⟩
  case pref =>
    intro mk hmk r f s e ls hi
    simp only [List.mem_cons, List.not_mem_nil, or_false] at hmk
    rcases hmk with rfl | rfl <;> exact congrArg _ (pref_performs hi)

end Sys2Proof.Machine
end

section
/-! Writes cut into sectors (R182, R183): the bytes and masks, and steps that each concern one sector. -/

namespace Sys2Proof.Machine

/-! ### Bytes and masks of a sector -/

theorem nodup_eraseDups {α : Type} [DecidableEq α] (l : List α) : l.eraseDups.Nodup := by
  induction hn : l.length using Nat.strong_induction_on generalizing l with
  | _ n ih =>
    cases l with
    | nil => simp
    | cons a l =>
      rw [List.eraseDups_cons, List.nodup_cons]
      refine ⟨by simp, ih _ ?_ _ rfl⟩
      subst hn
      exact Nat.lt_succ_of_le (List.length_filter_le _ l)

/-- A mask made of the places of some writes. -/
theorem getLsbD_foldl_mask (m : Writes) (k : BitVec 32) {i : Nat} (hi : i < 32) :
    (m.foldl (fun k e => k ||| (1#32 <<< (e.1 % 32))) k).getLsbD i = (k.getLsbD i || m.any (fun e => e.1 % 32 == i)) := by
  induction m generalizing k with
  | nil => simp
  | cons e m ih =>
    rw [List.foldl_cons, ih, List.any_cons]
    have hbit : (1#32 <<< (e.1 % 32)).getLsbD i = (e.1 % 32 == i) := by
      by_cases h : e.1 % 32 = i
      · subst h; simp [hi]
      · simp only [BitVec.getLsbD_shiftLeft, BitVec.getLsbD_one, hi, beq_eq_false_iff_ne.2 h]
        rcases Nat.lt_or_ge i (e.1 % 32) with hlt | hge
        · simp [hlt]
        · simp; omega
    rw [BitVec.getLsbD_or, hbit, Bool.or_assoc]

/-- The bytes of some writes placed in a sector. -/
theorem getLsbD_foldl_data (m : Writes) (d : BitVec 256) {k : Nat} (hk : k < 256) :
    (m.foldl (fun d e => d ||| ((e.2.zeroExtend 256 : BitVec 256) <<< (8 * (e.1 % 32)))) d).getLsbD k
      = (d.getLsbD k || m.any (fun e => e.1 % 32 == k / 8 && e.2.getLsbD (k % 8))) := by
  induction m generalizing d with
  | nil => simp
  | cons e m ih =>
    rw [List.foldl_cons, ih, List.any_cons]
    have hbit : ((e.2.zeroExtend 256 : BitVec 256) <<< (8 * (e.1 % 32))).getLsbD k = (e.1 % 32 == k / 8 && e.2.getLsbD (k % 8)) := by
      simp only [BitVec.getLsbD_shiftLeft, hk, BitVec.getLsbD_setWidth]
      by_cases h : e.1 % 32 = k / 8
      · have h1 : ¬ k < 8 * (k / 8) := by omega
        have h2 : k - 8 * (k / 8) = k % 8 := by omega
        have h3 : k % 8 < 256 := by omega
        simp [h, h1, h2, h3]
      · rcases Nat.lt_or_ge k (8 * (e.1 % 32)) with hlt | hge
        · simp [hlt, h]
        · have h8 : 8 ≤ k - 8 * (e.1 % 32) := by omega
          simp [h, BitVec.getLsbD_of_ge _ _ h8]
    rw [BitVec.getLsbD_or, hbit, Bool.or_assoc]

theorem mem_iff_mapGet? {β : Type} {m : List (Nat × β)} (hm : (m.map (·.1)).Nodup) {k : Nat} {b : β} : (k, b) ∈ m ↔ mapGet? m k = some b := by
  refine ⟨fun h => ?_, mem_of_mapGet?⟩
  induction m with
  | nil => cases h
  | cons e r ih =>
    obtain ⟨j, v⟩ := e
    obtain ⟨hhead, htail⟩ := List.nodup_cons.1 hm
    rcases List.mem_cons.1 h with heq | hr
    · cases heq; simp [mapGet?]
    · have hne : j ≠ k := fun hjk => hhead (hjk ▸ List.mem_map_of_mem (f := (·.1)) hr)
      rw [mapGet?, if_neg hne]
      exact ih htail hr

theorem sectorsOf_keys (w : Writes) : (sectorsOf w).map (·.1) = (w.map (fun e => e.1 / 32)).eraseDups := by
  simp [sectorsOf, Function.comp_def]

theorem sectorsOf_nodup (w : Writes) : ((sectorsOf w).map (·.1)).Nodup := by
  rw [sectorsOf_keys]
  exact nodup_eraseDups _

/-- The sectors written are those in which some byte is. -/
theorem mem_sectorsOf_keys {w : Writes} {sec : Nat} : sec ∈ (sectorsOf w).map (·.1) ↔ ∃ e ∈ w, e.1 / 32 = sec := by
  simp [sectorsOf_keys, List.mem_eraseDups]

section
variable {w : Writes} (hw : (w.map (·.1)).Nodup) {p : Nat × BitVec 256 × BitVec 32} (hp : p ∈ sectorsOf w)
include hw hp

theorem mask_sectorsOf {i : Nat} (hi : i < 32) : p.2.2.getLsbD i = (mapGet? w (32 * p.1 + i)).isSome := by
  obtain ⟨sec, -, rfl⟩ := List.mem_map.1 hp
  dsimp only
  rw [getLsbD_foldl_mask _ _ hi, Bool.eq_iff_iff]
  simp only [BitVec.getLsbD_zero, Bool.false_or, List.any_eq_true, List.mem_filter, beq_iff_eq, Option.isSome_iff_exists]
  constructor
  · rintro ⟨⟨k, b⟩, ⟨hmem, hsec⟩, hoff⟩
    have : k = 32 * sec + i := by simp only at hsec hoff; omega
    exact ⟨b, (mem_iff_mapGet? hw).1 (this ▸ hmem)⟩
  · rintro ⟨b, hb⟩
    exact ⟨(32 * sec + i, b), ⟨mem_of_mapGet? hb, by simp only; omega⟩, by simp only; omega⟩

theorem data_sectorsOf {i : Nat} (hi : i < 32) {b : Byte} (hb : mapGet? w (32 * p.1 + i) = some b) : sectorByte p.2.1 i = b := by
  obtain ⟨sec, -, rfl⟩ := List.mem_map.1 hp
  dsimp only at hb ⊢
  refine BitVec.eq_of_getLsbD_eq fun j hj => ?_
  simp only [sectorByte, BitVec.getLsbD_extractLsb', hj, decide_true, Bool.true_and]
  rw [getLsbD_foldl_data _ _ (by omega), Bool.eq_iff_iff]
  have hdiv : (8 * i + j) / 8 = i := by omega
  have hmod : (8 * i + j) % 8 = j := by omega
  simp only [BitVec.getLsbD_zero, Bool.false_or, List.any_eq_true, List.mem_filter, beq_iff_eq, Bool.and_eq_true, hdiv, hmod]
  constructor
  · rintro ⟨⟨k, c⟩, ⟨hmem, hsec⟩, hoff, hbit⟩
    have hk : k = 32 * sec + i := by simp only at hsec hoff; omega
    have hc := (mem_iff_mapGet? hw).1 (hk ▸ hmem)
    rw [hb] at hc
    cases hc
    exact hbit
  · intro hbit
    exact ⟨(32 * sec + i, b), ⟨mem_of_mapGet? hb, by simp only; omega⟩, by simp only; omega, hbit⟩
end

/-- A byte that is written stands in the piece of its sector. -/
theorem exists_sectorsOf {w : Writes} (hw : (w.map (·.1)).Nodup) {a : Nat} {b : Byte} (hb : mapGet? w a = some b) :
    ∃ p ∈ sectorsOf w, p.1 = a / 32 ∧ p.2.2.getLsbD (a % 32) = true ∧ sectorByte p.2.1 (a % 32) = b := by
  obtain ⟨p, hp, hsec⟩ := List.mem_map.1 (mem_sectorsOf_keys.2 ⟨(a, b), mem_of_mapGet? hb, rfl⟩)
  have ha : 32 * p.1 + a % 32 = a := by simp only at hsec; omega
  have hi : a % 32 < 32 := Nat.mod_lt _ (by omega)
  exact ⟨p, hp, hsec, by rw [mask_sectorsOf hw hp hi, ha, hb]; rfl, data_sectorsOf hw hp hi (by rw [ha, hb])⟩

/-! ### Bytes placed in one sector -/

theorem getLsbD_placeBytes_mask (off : Nat) (bs : List Byte) {i : Nat} (hi : i < 32) :
    (placeBytes off bs).2.getLsbD i = decide (off ≤ i ∧ i < off + bs.length) := by
  rw [placeBytes, BitVec.getLsbD_ofNat]
  simp only [hi, decide_true, Bool.true_and]
  rw [← Nat.shiftLeft_eq, Nat.testBit_shiftLeft]
  by_cases h : off ≤ i
  · simp only [ge_iff_le, h, decide_true, Bool.true_and, true_and, Nat.testBit_two_pow_sub_one]
    exact decide_eq_decide.2 (by omega)
  · simp [h]

theorem sectorByte_placeBytes (off : Nat) (bs : List Byte) {i : Nat} (hi : i < 32) (hoff : off ≤ i) :
    sectorByte (placeBytes off bs).1 i = bs[i - off]?.getD 0 := by
  obtain ⟨j, rfl⟩ := Nat.exists_eq_add_of_le hoff
  rw [placeBytes, sectorByte_ofNat hi, Nat.pow_add, Nat.mul_comm, Nat.mul_div_mul_left _ _ (Nat.pow_pos (by omega)), Nat.add_sub_cancel_left]
  apply BitVec.eq_of_toNat_eq
  rw [BitVec.toNat_ofNat]
  exact leNat_byte bs j

/-! ### One sector across steps at others -/

/-- A sector reads the same in every slice and at the home. -/
structure SectorSame (sec : Nat) (s t : State) : Prop where
  slice : ∀ c, t.slice? c sec = s.slice? c sec
  home : ∀ a, a / 32 = sec → t.homeByte a = s.homeByte a
  poison : t.poison.contains sec = s.poison.contains sec

namespace SectorSame
variable {sec : Nat} {s t u : State}

theorem refl (sec : Nat) (s : State) : SectorSame sec s s := ⟨fun _ => rfl, fun _ _ => rfl, rfl⟩
theorem trans (h1 : SectorSame sec s t) (h2 : SectorSame sec t u) : SectorSame sec s u :=
  ⟨fun c => (h2.slice c).trans (h1.slice c), fun a ha => (h2.home a ha).trans (h1.home a ha), h2.poison.trans h1.poison⟩

theorem viewByte (h : SectorSame sec s t) (c : Nat) {a : Nat} (ha : a / 32 = sec) : t.viewByte c a = s.viewByte c a := by
  subst ha
  simp only [State.viewByte, State.snoopedByte, State.peerByte, h.slice, h.home a rfl]
end SectorSame

theorem AtSector.sectorSame {other sec : Nat} {s t : State} (h : AtSector other s t) (hne : sec ≠ other) : SectorSame sec s t :=
  ⟨fun c => h.slices c sec hne, fun a ha => h.homes a (ha ▸ hne), h.poison sec hne⟩

theorem SameBytes.sectorSame {s t : State} (h : SameBytes s t) (sec : Nat) : SectorSame sec s t :=
  ⟨fun c => h.slice? c sec, fun a _ => h.homeByte a, by rw [h.poison]⟩

section
variable {α : Type} {f : State → Nat × α → State} {I : List (Nat × α) → State → Prop}
  (hstep : ∀ p l t, I (p :: l) t → AtSector p.1 t (f t p) ∧ I l (f t p))
include hstep

/-- Steps at one sector each leave every other sector as it was. -/
theorem foldl_sector_other {l : List (Nat × α)} {s : State} (hI : I l s) {sec : Nat} (hsec : sec ∉ l.map (·.1)) : SectorSame sec s (l.foldl f s) := by
  induction l generalizing s with
  | nil => exact SectorSame.refl sec s
  | cons p l ih =>
    obtain ⟨hne, hrest⟩ := not_or.1 (mt List.mem_cons.2 hsec)
    obtain ⟨hat, hI'⟩ := hstep p l s hI
    exact (hat.sectorSame hne).trans (ih hI' hrest)

/-- Where each sector has one step, that step meets its sector as it was at first, and leaves it as it is at the end. -/
theorem foldl_sector_own {l : List (Nat × α)} {s : State} (hI : I l s) (hnodup : (l.map (·.1)).Nodup) {p : Nat × α} (hp : p ∈ l) :
    ∃ t r, I (p :: r) t ∧ SectorSame p.1 s t ∧ SectorSame p.1 (f t p) (l.foldl f s) := by
  induction l generalizing s with
  | nil => cases hp
  | cons q l ih =>
    obtain ⟨hhead, htail⟩ := List.nodup_cons.1 hnodup
    obtain ⟨hat, hI'⟩ := hstep q l s hI
    rcases List.mem_cons.1 hp with rfl | hmem
    · exact ⟨s, l, hI, SectorSame.refl _ s, foldl_sector_other hstep hI' hhead⟩
    · have hne : p.1 ≠ q.1 := fun heq => hhead (List.mem_map.2 ⟨p, hmem, heq⟩)
      obtain ⟨t, r, hIt, hbefore, hafter⟩ := ih hI' htail hmem
      exact ⟨t, r, hIt, (hat.sectorSame hne).trans hbefore, hafter⟩
end

end Sys2Proof.Machine
end

section
/-! Requests of other packages performed at their homes (R308, R366, R374). -/

namespace Sys2Proof.Machine

/-! ### What leaves the fabric as it is -/

/-- The fabric's queues, the time and the package's identifier are as before. -/
structure SameFabric (s t : State) : Prop where
  fabric : t.fabric = s.fabric
  tick : t.tick = s.tick
  pkgId : t.pkgId = s.pkgId

namespace SameFabric
variable {s t u : State}
theorem refl (s : State) : SameFabric s s := ⟨rfl, rfl, rfl⟩
theorem trans (h1 : SameFabric s t) (h2 : SameFabric t u) : SameFabric s u :=
  ⟨h2.fabric.trans h1.fabric, h2.tick.trans h1.tick, h2.pkgId.trans h1.pkgId⟩
end SameFabric

theorem CacheOnly.sameFabric {s t : State} (h : CacheOnly s t) : SameFabric s t := ⟨h.fabric, h.tick, h.pkgId⟩

theorem State.sameFabric_setMark (s : State) (line : Nat) (scope : Option Nat) : SameFabric s (s.setMark line scope) := by
  unfold State.setMark
  cases scope with
  | none => exact ⟨rfl, rfl, rfl⟩
  | some x => dsimp only; split <;> exact ⟨rfl, rfl, rfl⟩

theorem State.sameFabric_homePoison (s : State) (sec : Nat) (bad : Bool) : SameFabric s (s.homePoison sec bad) :=
  (s.cacheStep_homePoison sec bad).only.sameFabric

theorem State.sameFabric_windowPiece (s : State) (sec : Nat) (d : BitVec 256) (mask : BitVec 32) : SameFabric s (s.windowPiece sec d mask) := ⟨rfl, rfl, rfl⟩

theorem State.sameFabric_homePiece (s : State) (sec : Nat) (d : BitVec 256) (mask : BitVec 32) (release : Option Nat) :
    SameFabric s (s.homePiece sec d mask release) := by
  unfold State.homePiece
  split
  · exact s.sameFabric_windowPiece sec d mask
  · exact (s.cacheStep_homeWrite sec d mask none).only.sameFabric.trans (State.sameFabric_setMark ..)

theorem State.sameFabric_homePut (s : State) (pa : Nat) (bs : List (Option Byte)) (release : Option Nat) (bad : List Nat) :
    SameFabric s (s.homePut pa bs release bad) :=
  foldl_keeps (P := SameFabric s) (fun t p h => h.trans ((t.sameFabric_homePiece p.1 p.2.1 p.2.2 release).trans (State.sameFabric_homePoison ..))) _
    (SameFabric.refl s)

theorem State.sameFabric_homeAtomic (s : State) (kind : AtomKind) (pa : Nat) (ops : List (D64 × D64)) (release : Option Nat) :
    SameFabric s (s.homeAtomic kind pa ops release).2 := by
  unfold State.homeAtomic
  dsimp only
  split
  · dsimp only
    split
    · exact SameFabric.refl s
    · split
      · exact s.sameFabric_windowPiece ..
      · have hw := fun d mask => (s.cacheStep_homeWrite (pa / 32) d mask none).only.sameFabric
        split
        · split
          · exact (hw _ _).trans (State.sameFabric_setMark ..)
          · exact hw _ _
        · exact hw _ _
  · exact SameFabric.refl s

theorem State.sameFabric_performRequest (s : State) (m : Msg) : SameFabric s (s.performRequest m).2 := by
  unfold State.performRequest
  split
  · split <;> exact SameFabric.refl s
  · split
    · exact ⟨rfl, rfl, rfl⟩
    · exact s.sameFabric_homePut ..
  · split
    · exact SameFabric.refl s
    · exact s.sameFabric_homeAtomic ..
  · exact SameFabric.refl s

/-! ### A write at its home -/

theorem homeDie_sector (a : Nat) : homeDie (32 * (a / 32)) = homeDie a := by unfold homeDie; omega

/-- A column of the home die sees the bytes of a write at the home, but for what its cluster holds dirty (R277). -/
theorem State.viewByte_homeWrite (s : State) (sec : Nat) (d : BitVec 256) (mask : BitVec 32) {a c : Nat} (ha : a / 32 = sec)
    (hc : dieOf c = homeDie a)
    (hdirty : ∀ k ∈ clusterCols (clusterOf c), ∀ x, s.slice? k sec = some x → x.dirty.getLsbD (a % 32) = false) :
    (s.homeWrite sec d mask none).viewByte c a = (s.homeWrite sec d mask none).homeByte a := by
  subst ha
  have hslice : ∀ k ∈ clusterCols (clusterOf c), ∀ y, (s.homeWrite (a / 32) d mask none).slice? k (a / 32) = some y →
      y.dirty.getLsbD (a % 32) = false ∧ y.valid.getLsbD (a % 32) = false := fun k hk y hy => by
    have hdie : dieOf k = homeDie (32 * (a / 32)) := by
      rw [homeDie_sector, ← hc]
      have := mem_clusterCols.1 hk
      unfold clusterOf at this
      unfold dieOf
      omega
    rw [State.slice?_homeWrite, if_pos ⟨hdie, by simp⟩] at hy
    obtain ⟨x, hx, hstale⟩ := Option.bind_eq_some_iff.1 hy
    obtain ⟨hd, -, hv, -⟩ := SliceSector.stale_some hstale
    rw [hd, hv]
    exact ⟨hdirty k hk x hx, hdirty k hk x hx⟩
  have hsnoop : (s.homeWrite (a / 32) d mask none).snoopedByte c a = (s.homeWrite (a / 32) d mask none).homeByte a := by
    have hpeer : (s.homeWrite (a / 32) d mask none).peerByte c a = none := by
      rw [State.peerByte, List.findSome?_eq_none_iff]
      intro k hk
      split
      · rfl
      · cases hy : (s.homeWrite (a / 32) d mask none).slice? k (a / 32) with
        | none => rfl
        | some y => simp [(hslice k hk y hy).1]
    rw [State.snoopedByte, hpeer]
    rfl
  unfold State.viewByte
  cases hy : (s.homeWrite (a / 32) d mask none).slice? c (a / 32) with
  | none => exact hsnoop
  | some y => simp only [(hslice c (mem_clusterCols.2 rfl) y hy).2, Bool.false_eq_true, if_false, hsnoop]

/-- The step of one sector in a write of another package. -/
def putStep (pa : Nat) (release : Option Nat) (bad : List Nat) (t : State) (p : Nat × BitVec 256 × BitVec 32) : State :=
  (t.homePiece p.1 p.2.1 p.2.2 release).homePoison p.1 (bad.any (fun i => (pa + i) / 32 == p.1 && !(isWindow (pa + i))))

theorem State.homePut_eq (s : State) (pa : Nat) (bs : List (Option Byte)) (release : Option Nat) (bad : List Nat) :
    s.homePut pa bs release bad = (sectorsOf (carried pa bs)).foldl (putStep pa release bad) s := rfl

/-- Of a sector in memory, the step is the write at the home, but for marks and poison. -/
theorem sectorSame_putStep {pa : Nat} {release : Option Nat} {bad : List Nat} {t : State} {p : Nat × BitVec 256 × BitVec 32}
    (hw : isWindow (32 * p.1) = false) : AtSector p.1 t (putStep pa release bad t p)
      ∧ (∀ c x, (putStep pa release bad t p).slice? c x = (t.homeWrite p.1 p.2.1 p.2.2 none).slice? c x)
      ∧ ∀ a, (putStep pa release bad t p).homeByte a = (t.homeWrite p.1 p.2.1 p.2.2 none).homeByte a := by
  have hpiece : t.homePiece p.1 p.2.1 p.2.2 release = (t.homeWrite p.1 p.2.1 p.2.2 none).setMark (p.1 / 4) release := by
    rw [State.homePiece, hw]; rfl
  have hmark := (t.homeWrite p.1 p.2.1 p.2.2 none).sameBytes_setMark (p.1 / 4) release
  unfold putStep
  rw [hpiece]
  refine ⟨((t.cacheStep_homeWrite p.1 p.2.1 p.2.2 none).toAtSector.trans (hmark.atSector p.1)).trans (State.cacheStep_homePoison _ p.1 _).toAtSector,
    fun c x => ?_, fun a => ?_⟩
  · rw [State.slice?_homePoison, hmark.slice?]
  · rw [State.homeByte_homePoison, hmark.homeByte]

theorem mem_carried {pa : Nat} {bs : List (Option Byte)} {a : Nat} {b : Byte} : (a, b) ∈ carried pa bs ↔ ∃ i, bs[i]? = some (some b) ∧ a = pa + i := by
  simp only [carried, List.mem_filterMap, Option.map_eq_some_iff, Prod.mk.injEq]
  constructor
  · rintro ⟨⟨o, i⟩, hmem, x, ho, ha, hb⟩
    rw [List.mem_zipIdx_iff_getElem?] at hmem
    simp only at hmem ho ha
    exact ⟨i, by rw [hmem, ho, hb], ha.symm⟩
  · rintro ⟨i, hi, rfl⟩
    exact ⟨(some b, i), List.mem_zipIdx_iff_getElem?.2 hi, b, rfl, rfl, rfl⟩

theorem carried_nodup (pa : Nat) (bs : List (Option Byte)) : ((carried pa bs).map (·.1)).Nodup := by
  have hsub : ∀ l : List (Option Byte × Nat), List.Sublist ((l.filterMap (fun b => b.1.map (fun x => (pa + b.2, x)))).map (·.1)) (l.map fun b => pa + b.2) := by
    intro l
    induction l with
    | nil => exact List.Sublist.refl _
    | cons e l ih =>
      obtain ⟨o, i⟩ := e
      cases o with
      | none => exact ih.cons _
      | some b => exact ih.cons_cons _
  refine (hsub bs.zipIdx).nodup ?_
  have hkeys : (bs.zipIdx.map fun b => pa + b.2) = (List.range bs.length).map (pa + ·) := by
    rw [List.range_eq_range', ← List.zipIdx_map_snd 0 bs, List.map_map]
    rfl
  rw [hkeys]
  exact List.nodup_range.map (fun _ _ h => Nat.add_left_cancel h)

section
variable {s : State} {pa : Nat} {bs : List (Option Byte)} (release : Option Nat) (bad : List Nat) (hnear : pa + bs.length ≤ 0x8000000000)
include hnear

theorem near_of_carried {p : Nat × BitVec 256 × BitVec 32} (hp : p ∈ sectorsOf (carried pa bs)) : isWindow (32 * p.1) = false := by
  obtain ⟨⟨a, b⟩, hab, hsec⟩ := mem_sectorsOf_keys.1 (List.mem_map_of_mem (f := (·.1)) hp)
  obtain ⟨i, hi, ha⟩ := mem_carried.1 hab
  have hlt := (List.getElem?_eq_some_iff.1 hi).1
  exact isWindow_of_near (by simp only at hsec; omega)

theorem putStep_at (p : Nat × BitVec 256 × BitVec 32) (l : List (Nat × BitVec 256 × BitVec 32)) (t : State)
    (h : ∀ q ∈ p :: l, q ∈ sectorsOf (carried pa bs)) : AtSector p.1 t (putStep pa release bad t p) ∧ ∀ q ∈ l, q ∈ sectorsOf (carried pa bs) :=
  ⟨(sectorSame_putStep (near_of_carried hnear (h p (List.mem_cons_self ..)))).1, fun q hq => h q (List.mem_cons_of_mem _ hq)⟩

/-- A byte of the write stands at its home, and a column of the home die sees it unless its cluster holds the byte dirty. -/
theorem homePut_byte {i : Nat} {b : Byte} (hi : bs[i]? = some (some b)) : (s.homePut pa bs release bad).homeByte (pa + i) = b
    ∧ ∀ c, dieOf c = homeDie (pa + i) →
      (∀ k ∈ clusterCols (clusterOf c), ∀ x, s.slice? k ((pa + i) / 32) = some x → x.dirty.getLsbD ((pa + i) % 32) = false) →
      (s.homePut pa bs release bad).viewByte c (pa + i) = b := by
  have hget := (mem_iff_mapGet? (carried_nodup pa bs)).1 (mem_carried.2 ⟨i, hi, rfl⟩)
  obtain ⟨p, hp, hsec, hmask, hdata⟩ := exists_sectorsOf (carried_nodup pa bs) hget
  obtain ⟨t, r, hI, hbefore, hafter⟩ := foldl_sector_own (I := fun l _ => ∀ q ∈ l, q ∈ sectorsOf (carried pa bs)) (putStep_at release bad hnear) (s := s) (fun _ h => h) (sectorsOf_nodup _) hp
  obtain ⟨-, hslice, hhome⟩ := sectorSame_putStep (pa := pa) (release := release) (bad := bad) (t := t) (near_of_carried hnear hp)
  have hwritten : (t.homeWrite p.1 p.2.1 p.2.2 none).homeByte (pa + i) = b := by
    rw [State.homeByte_homeWrite, if_pos ⟨hsec.symm, hmask⟩, hdata]
  rw [State.homePut_eq]
  refine ⟨by rw [hafter.home _ hsec.symm, hhome, hwritten], fun c hc hdirty => ?_⟩
  rw [hafter.viewByte c hsec.symm]
  have hview : (putStep pa release bad t p).viewByte c (pa + i) = (t.homeWrite p.1 p.2.1 p.2.2 none).viewByte c (pa + i) := by
    simp only [State.viewByte, State.snoopedByte, State.peerByte, hslice, hhome]
  rw [hview, State.viewByte_homeWrite t p.1 p.2.1 p.2.2 hsec.symm hc, hwritten]
  intro k hk x hx
  exact hdirty k hk x (by rw [← hsec, ← hbefore.slice k]; exact hx)

/-- No other byte of a home changes. -/
theorem homePut_other {a : Nat} (ha : ∀ i b, bs[i]? = some (some b) → a ≠ pa + i) : (s.homePut pa bs release bad).homeByte a = s.homeByte a := by
  have hnone : mapGet? (carried pa bs) a = none := by
    cases hg : mapGet? (carried pa bs) a with
    | none => rfl
    | some b =>
      obtain ⟨i, hi, hai⟩ := mem_carried.1 (mem_of_mapGet? hg)
      exact absurd hai (ha i b hi)
  rw [State.homePut_eq]
  by_cases hsec : a / 32 ∈ (sectorsOf (carried pa bs)).map (·.1)
  · obtain ⟨p, hp, hpsec⟩ := List.mem_map.1 hsec
    obtain ⟨t, r, hI, hbefore, hafter⟩ := foldl_sector_own (I := fun l _ => ∀ q ∈ l, q ∈ sectorsOf (carried pa bs)) (putStep_at release bad hnear) (s := s) (fun _ h => h) (sectorsOf_nodup _) hp
    obtain ⟨-, -, hhome⟩ := sectorSame_putStep (pa := pa) (release := release) (bad := bad) (t := t) (near_of_carried hnear hp)
    have hmask : p.2.2.getLsbD (a % 32) = false := by
      have ha32 : 32 * p.1 + a % 32 = a := by omega
      rw [mask_sectorsOf (carried_nodup pa bs) hp (Nat.mod_lt _ (by omega)), ha32, hnone]
      rfl
    rw [hafter.home _ hpsec.symm, hhome, State.homeByte_homeWrite, if_neg (by simp [hmask]), hbefore.home _ hpsec.symm]
  · exact (foldl_sector_other (I := fun l _ => ∀ q ∈ l, q ∈ sectorsOf (carried pa bs)) (putStep_at release bad hnear) (fun _ h => h) hsec).home a rfl
end

/-! ### Taking a request -/

theorem State.sendAll_idle {s : State} (h : s.carrying = false) : s.sendAll = s := by rw [State.sendAll, h]; rfl

/-- Whether the data phase goes on depends on the time and the slot alone. -/
theorem carrying_congr {s t : State} (ht : t.tick = s.tick) (hl : t.fabric.loaded = s.fabric.loaded) (hs : t.fabric.slotStart = s.fabric.slotStart) :
    t.carrying = s.carrying := by
  unfold State.carrying State.slotTime
  rw [ht, hl, hs]

section
variable {s : State} {m : Msg} {rest : List Msg} (hq : s.fabric.inq = m :: rest) (hheld : s.requestHeld m = false) (hcarry : s.carrying = false)
include hq hheld

/-- The request at the head of the queue is answered by its record, where there is one, or performed. -/
theorem takeRequest_eq : s.takeRequest =
    (let s1 := s.modFab (fun f => { f with inq := rest })
    let answer := match s.fabric.done.find? (fun d => d.dst == m.src && d.tag == m.tag) with
      | some d => (d, s1)
      | none => ((⟨s.pkgId, m.src, m.tag, (s1.performRequest m).1⟩ : Msg),
        (s1.performRequest m).2.modFab (fun f => { f with done := f.done ++ [(⟨s.pkgId, m.src, m.tag, (s1.performRequest m).1⟩ : Msg)] }))
    ((answer.2.modFab (fun f => { f with outq := f.outq ++ [answer.1] })).updateHold).sendAll) := by
  have herase : s.modFab (fun f => { f with inq := f.inq.erase m }) = s.modFab (fun f => { f with inq := rest }) := by
    simp only [State.modFab, hq, List.erase_cons_head]
  have hfind : s.fabric.inq.find? (fun m => !(s.requestHeld m)) = some m := by rw [hq, List.find?_cons_of_pos (by simp [hheld])]
  simp only [State.takeRequest, hfind, herase]
  rfl

include hcarry

/-- A request that has no record is performed and answered once. -/
theorem takeRequest_new (hnew : ∀ d ∈ s.fabric.done, ¬ (d.dst = m.src ∧ d.tag = m.tag)) {r : Payload × State}
    (hr : (s.modFab (fun f => { f with inq := rest })).performRequest m = r) : ∃ t, (exec .remoteRequest s = .next t ∧ t.fabric.inq = rest
      ∧ t.fabric.outq = s.fabric.outq ++ [⟨s.pkgId, m.src, m.tag, r.1⟩] ∧ t.fabric.done = s.fabric.done ++ [⟨s.pkgId, m.src, m.tag, r.1⟩])
      ∧ SameBytes r.2 t ∧ t.reports = r.2.reports := by
  have hnone : s.fabric.done.find? (fun d => d.dst == m.src && d.tag == m.tag) = none :=
    List.find?_eq_none.2 fun d hd => by simpa using hnew d hd
  have hfab := (s.modFab (fun f => { f with inq := rest })).sameFabric_performRequest m
  have hexec := takeRequest_eq hq hheld
  rw [hnone] at hexec
  simp only [hr] at hfab hexec
  have hidle : ((r.2.modFab (fun f => { f with done := f.done ++ [⟨s.pkgId, m.src, m.tag, r.1⟩] })).modFab
      (fun f => { f with outq := f.outq ++ [⟨s.pkgId, m.src, m.tag, r.1⟩] })).updateHold.carrying = false :=
    (carrying_congr (s := s) hfab.tick (congrArg Fabric.loaded hfab.fabric :) (congrArg Fabric.slotStart hfab.fabric :)).trans hcarry
  rw [State.sendAll_idle hidle] at hexec
  refine ⟨_, ⟨congrArg Host.Outcome.next hexec, ?_, ?_, ?_⟩, ⟨fun _ => rfl, rfl, rfl⟩, rfl⟩
  · exact (congrArg Fabric.inq hfab.fabric :)
  · exact congrArg (· ++ [(⟨s.pkgId, m.src, m.tag, r.1⟩ : Msg)]) (congrArg Fabric.outq hfab.fabric :)
  · exact congrArg (· ++ [(⟨s.pkgId, m.src, m.tag, r.1⟩ : Msg)]) (congrArg Fabric.done hfab.fabric :)

/-- A request that comes again is answered from its record. -/
theorem takeRequest_again {d : Msg} (hd : s.fabric.done.find? (fun x => x.dst == m.src && x.tag == m.tag) = some d) :
    ∃ t, exec .remoteRequest s = .next t ∧ t.mem = s.mem ∧ t.fabric.outq = s.fabric.outq ++ [d] ∧ t.fabric.done = s.fabric.done := by
  have hexec := takeRequest_eq hq hheld
  rw [hd] at hexec
  have hidle : (((s.modFab (fun f => { f with inq := rest })).modFab (fun f => { f with outq := f.outq ++ [d] })).updateHold).carrying = false := hcarry
  simp only [State.sendAll_idle hidle] at hexec
  exact ⟨_, congrArg Host.Outcome.next hexec, rfl, rfl, rfl⟩
end

theorem takeRequest_held {s : State} (h : ∀ m ∈ s.fabric.inq, s.requestHeld m = true) : s.takeRequest = s := by
  rw [State.takeRequest, List.find?_eq_none.2 (fun m hm => by simp [h m hm])]

/-! ### Reads and atomics at their home -/

theorem homeRead_near (s : State) {pa : Nat} (n : Nat) (bulk : Bool) (h : isWindow pa = false) : s.homeRead pa n bulk
    = .data ((List.range n).map (fun i => s.homeByte (pa + i))) bulk ((List.range n).filter (fun i => s.poison.contains ((pa + i) / 32))) := by
  rw [State.homeRead, h]; rfl

section
variable {s : State} {kind : AtomKind} {pa : Nat} (ops : List (D64 × D64)) (release : Option Nat) (hnear : pa + atomWidth kind ≤ 0x8000000000)
  (hin : pa % 32 + atomWidth kind ≤ 32) (hpos : 0 < atomWidth kind)
include hnear hin hpos

omit hnear hpos in
/-- The bytes of an atomic all lie in one sector, so that one sector's poison decides. -/
theorem poisonedAt_atomic : (List.range (atomWidth kind)).filter (fun i => s.poison.contains ((pa + i) / 32)) =
    if s.poison.contains (pa / 32) then List.range (atomWidth kind) else [] := by
  have hsec : ∀ i ∈ List.range (atomWidth kind), s.poison.contains ((pa + i) / 32) = s.poison.contains (pa / 32) := fun i hi => by
    have := List.mem_range.1 hi
    have heq : (pa + i) / 32 = pa / 32 := by omega
    rw [heq]
  rw [List.filter_congr hsec]
  cases s.poison.contains (pa / 32) <;> simp

theorem homeAtomic_poisoned (hp : s.poison.contains (pa / 32) = true) : s.homeAtomic kind pa ops release = (.poisoned, s) := by
  obtain ⟨n, hn : atomWidth kind = n + 1⟩ := Nat.exists_eq_succ_of_ne_zero (Nat.pos_iff_ne_zero.1 hpos)
  have hread : s.homeRead pa (atomWidth kind) false
      = .data ((List.range (atomWidth kind)).map (fun i => s.homeByte (pa + i))) false (0 :: (List.range n).map Nat.succ) := by
    rw [homeRead_near s _ _ (isWindow_of_near (by omega)), poisonedAt_atomic hin, if_pos hp, ← List.range_succ_eq_map, ← hn]
  rw [State.homeAtomic, hread]

theorem homeAtomic_performs (hp : s.poison.contains (pa / 32) = false) :
    let run := atomRun kind (leNat ((List.range (atomWidth kind)).map (fun i => s.homeByte (pa + i)))) ops
    (s.homeAtomic kind pa ops release).1 = .data (run.1.flatMap (leBytes (atomWidth kind))) false []
    ∧ (run.2.2 = false → (s.homeAtomic kind pa ops release).2 = s)
    ∧ (run.2.2 = true → ∀ a, (s.homeAtomic kind pa ops release).2.homeByte a
        = if pa ≤ a ∧ a < pa + atomWidth kind then BitVec.ofNat 8 (run.2.1 / 256 ^ (a - pa)) else s.homeByte a) := by
  intro run
  have hwindow : isWindow pa = false := isWindow_of_near (by omega)
  have hread : s.homeRead pa (atomWidth kind) false = .data ((List.range (atomWidth kind)).map (fun i => s.homeByte (pa + i))) false [] := by
    rw [homeRead_near s _ _ hwindow, poisonedAt_atomic hin, hp]; rfl
  simp only [State.homeAtomic, hread, hwindow]
  refine ⟨rfl, fun h => ?_, fun h a => ?_⟩
  · simp only [run] at h
    simp [h]
  · simp only [run] at h
    simp only [h, Bool.not_true, Bool.false_eq_true, if_false]
    have hlen : (leBytes (atomWidth kind) run.2.1).length = atomWidth kind := leBytes_length ..
    have hwrite : (s.homeWrite (pa / 32) (placeBytes (pa % 32) (leBytes (atomWidth kind) run.2.1)).1
        (placeBytes (pa % 32) (leBytes (atomWidth kind) run.2.1)).2 none).homeByte a
        = if pa ≤ a ∧ a < pa + atomWidth kind then BitVec.ofNat 8 (run.2.1 / 256 ^ (a - pa)) else s.homeByte a := by
      rw [State.homeByte_homeWrite, getLsbD_placeBytes_mask _ _ (Nat.mod_lt _ (by omega)), hlen]
      by_cases ha : pa ≤ a ∧ a < pa + atomWidth kind
      · rw [if_pos ⟨by omega, by simp; omega⟩, if_pos ha, sectorByte_placeBytes _ _ (Nat.mod_lt _ (by omega)) (by omega),
          show a % 32 - pa % 32 = a - pa by omega, leBytes_getElem? _ _ _ (by omega)]
        rfl
      · rw [if_neg (by simp; omega), if_neg ha]
    split
    · split
      · rw [(State.sameBytes_setMark ..).homeByte]; exact hwrite
      · exact hwrite
    · exact hwrite
end

end Sys2Proof.Machine
end

section
/-! What the parts of accesses wait for, and what leaves it as it is (R366, R373). -/

namespace Sys2Proof.Machine

/-! ### Steps that keep registers and the fabric -/

/-- Registers, deals and the fabric are as before: caches, homes, marks, windows and flush sets alone change. -/
structure Calm (s t : State) : Prop extends SameRegisters s t, SameFabric s t

namespace Calm
variable {s t u : State}
theorem refl (s : State) : Calm s s := ⟨SameRegisters.refl s, SameFabric.refl s⟩
theorem trans (h1 : Calm s t) (h2 : Calm t u) : Calm s u := ⟨h1.toSameRegisters.trans h2.toSameRegisters, h1.toSameFabric.trans h2.toSameFabric⟩
theorem foldl {α : Type} {f : State → α → State} (h : ∀ s a, Calm s (f s a)) (l : List α) (s : State) : Calm s (l.foldl f s) :=
  foldl_keeps (P := Calm s) (fun t a hs => hs.trans (h t a)) l (refl s)
end Calm

theorem CacheOnly.calm {s t : State} (h : CacheOnly s t) : Calm s t := ⟨h.sameRegisters, h.sameFabric⟩

section
variable (s : State)

theorem State.sameFabric_modGrp (n g : Nat) (f : Group → Group) : SameFabric s (s.modGrp n g f) := by
  unfold State.modGrp
  split <;> exact ⟨rfl, rfl, rfl⟩

theorem State.cacheOnly_putSlice (c sec : Nat) (x : SliceSector) : CacheOnly s (s.putSlice c sec x) := by
  unfold State.putSlice
  dsimp only
  split
  · exact (s.cacheStep_setSlice c sec x).only
  · split
    · exact (s.cacheStep_evict c _).only.trans (State.cacheStep_setSlice _ c sec x).only
    · exact (s.cacheStep_setSlice c sec x).only

theorem State.cacheOnly_sliceStore (c : Nat) (u : Option Nat) (sec : Nat) (d : BitVec 256) (mask : BitVec 32) (wide : Bool) :
    CacheOnly s (s.sliceStore c u sec d mask wide) := by
  rw [State.sliceStore_eq]
  exact (s.cacheStep_beforeStore c u sec).only.trans (State.cacheOnly_putSlice ..)

theorem State.calm_noteFlush (who : Agent) (sec : Nat) : Calm s (s.noteFlush who sec) := by
  refine ⟨s.sameRegisters_noteFlush who sec, ?_⟩
  unfold State.noteFlush
  split
  · exact SameFabric.refl s
  · cases who with
    | grp n g => exact s.sameFabric_modGrp n g _
    | col c => exact ⟨rfl, rfl, rfl⟩

theorem State.calm_setMark (line : Nat) (scope : Option Nat) : Calm s (s.setMark line scope) :=
  ⟨s.sameRegisters_setMark line scope, s.sameFabric_setMark line scope⟩

theorem State.calm_windowPiece (sec : Nat) (d : BitVec 256) (mask : BitVec 32) : Calm s (s.windowPiece sec d mask) := by
  refine ⟨?_, s.sameFabric_windowPiece sec d mask⟩
  unfold State.windowPiece State.modWindow
  exact s.sameRegisters_modCol _ rfl

theorem State.calm_storeSector (u : MemUnit) (sec : Nat) (d : BitVec 256) (mask : BitVec 32) (scope release : Option Nat) :
    Calm s (s.storeSector u sec d mask scope release) := by
  have hbelow : Calm s (s.storeBelow u sec d mask scope release) :=
    ((s.cacheStep_l1Store u.col u.unit sec d mask).only.trans (State.cacheOnly_sliceStore ..)).calm.trans
      ((State.calm_noteFlush _ u.who sec).trans (State.calm_setMark ..))
  rw [State.storeSector_eq]
  split
  · exact hbelow.trans (State.cacheStep_writeBack _ u.col sec).only.calm
  · exact hbelow

theorem State.calm_storePlace (u : MemUnit) (sec : Nat) (d : BitVec 256) (mask : BitVec 32) (scope release : Option Nat) :
    Calm s (s.storePlace u sec d mask scope release) := by
  unfold State.storePlace
  split
  · exact s.calm_windowPiece sec d mask
  · exact s.calm_storeSector ..

theorem State.calm_storeBytes (u : MemUnit) (k : Nat) (bs : List Byte) (scope release : Option Nat) : Calm s (s.storeBytes u k bs scope release) :=
  Calm.foldl (fun t _ => t.calm_storePlace ..) _ s

theorem State.calm_homeStore (a : Nat) (bs : List Byte) : Calm s (s.homeStore a bs) := by
  refine Calm.foldl (fun t p => ?_) _ s
  have hevict : CacheOnly t (allCols.foldl (fun u c => u.evict c p.1) t) := CacheOnly.foldl (fun u c => (u.cacheStep_evict c p.1).only) allCols t
  exact (hevict.trans (State.cacheStep_rawHomeWrite _ p.1 _ _).only).calm.trans (State.calm_setMark ..)

theorem State.calm_areaPut (places : List (Nat × Nat)) (off v : Nat) : Calm s (s.areaPut places off v) := by
  unfold State.areaPut
  split
  · split
    · exact s.calm_storeBytes ..
    · exact s.calm_homeStore ..
  · exact Calm.refl s

theorem State.calm_engPut (n g k : Nat) (bs : List Byte) : Calm s (s.engPut n g k bs) :=
  Calm.foldl (fun t p => by
    dsimp only
    split
    · exact t.calm_windowPiece ..
    · exact (t.cacheOnly_sliceStore ..).calm.trans ((State.calm_noteFlush ..).trans (State.calm_setMark ..))) _ s

theorem State.cacheOnly_dropCopy (c sec : Nat) : CacheOnly s (s.dropCopy c sec) :=
  (s.cacheStep_revoke c sec).only.trans (State.cacheStep_dropSlice _ c sec).only
end

/-! ### What is seen of waiting accesses -/

/-- What an access's registers are, and the bytes its parts wait for or hold. -/
abbrev Seen := List (Nat × Bool × Nat × List (Nat × Nat × Nat × Option RData))

def RWait.seen (w : RWait) : Seen := w.accs.map (fun a => (a.lane, a.dX, a.dIdx, a.parts.map (fun p => (p.tag, p.off, p.len, p.got))))

/-- The data of a response fills the parts that wait for its tag. -/
def fillSeen (tag : Nat) (data : RData) (v : Seen) : Seen := v.map (fun a => (a.1, a.2.1, a.2.2.1, a.2.2.2.map (fun p =>
  (p.1, p.2.1, p.2.2.1, if p.1 = tag ∧ p.2.2.2 = none ∧ p.2.2.1 ≠ 0 then some data else p.2.2.2))))

theorem RWait.seen_take (w : RWait) (tag : Nat) (data : RData) : (w.take tag data).seen = fillSeen tag data w.seen := by
  simp only [RWait.seen, RWait.take, RAccess.take, fillSeen, List.map_map]
  refine List.map_congr_left fun a _ => ?_
  simp only [Function.comp, List.map_map]
  congr 3
  refine List.map_congr_left fun p _ => ?_
  simp only [Function.comp]
  by_cases h : p.tag = tag ∧ p.got = none ∧ p.len ≠ 0
  · simp [h]
  · rw [if_neg h]
    split
    · next hc => exact absurd (by simpa [and_assoc] using hc) h
    · rfl

/-- A response fills nothing of an access that does not wait for it. -/
theorem RWait.fillSeen_of_not_awaits {w : RWait} {tag : Nat} (h : w.awaits tag = false) (data : RData) : fillSeen tag data w.seen = w.seen := by
  simp only [fillSeen, RWait.seen, List.map_map]
  refine List.map_congr_left fun a ha => ?_
  simp only [Function.comp, List.map_map]
  congr 3
  refine List.map_congr_left fun p hp => ?_
  simp only [Function.comp]
  rw [if_neg]
  rintro ⟨htag, hgot, -⟩
  have hw : w.awaits tag = true := List.any_eq_true.2 ⟨a, ha, List.any_eq_true.2 ⟨p, hp, by simp [htag, hgot]⟩⟩
  simp [h] at hw

/-- What is filled once is filled. -/
theorem fillSeen_twice (tag : Nat) (data : RData) (v : Seen) : fillSeen tag data (fillSeen tag data v) = fillSeen tag data v := by
  simp only [fillSeen, List.map_map]
  refine List.map_congr_left fun a _ => ?_
  simp only [Function.comp, List.map_map]
  congr 3
  refine List.map_congr_left fun p _ => ?_
  simp only [Function.comp]
  by_cases h : p.1 = tag ∧ p.2.2.2 = none ∧ p.2.2.1 ≠ 0
  · simp [h]
  · simp [h]

theorem RWait.seen_spoilIf (w : RWait) (p : Nat → Bool) : (w.spoilIf p).seen = w.seen := by
  simp only [RWait.seen, RWait.spoilIf, List.map_map]
  refine List.map_congr_left fun a _ => ?_
  simp only [Function.comp, List.map_map]
  congr 3
  refine List.map_congr_left fun q _ => ?_
  simp only [Function.comp]
  split <;> rfl

/-- What is seen of the accesses an issuer waits for: a column core's, or those of the instructions of a deal. -/
def State.seenAt (s : State) : Issuer → Option (List (Nat × Nat × Seen))
  | .col c => (s.cc c).wait.map (fun w => [(0, 0, w.seen)])
  | .deal n slot => (s.deal? n slot).map (fun d => d.pend.map (fun p => (p.trick, p.pos, p.wait.seen)))

/-! ### Steps that feed no access -/

/-- No response arrives, no slot begins, and no tag comes alive. -/
structure Quiet (s t : State) : Prop where
  tick : t.tick = s.tick
  respq : t.fabric.respq = s.fabric.respq
  loaded : t.fabric.loaded = s.fabric.loaded
  slotStart : t.fabric.slotStart = s.fabric.slotStart
  live : ∀ l ∈ t.fabric.live, l ∈ s.fabric.live

/-- Nor does any access that waits get data. -/
structure Unfed (s t : State) : Prop extends Quiet s t where
  seen : ∀ who, t.seenAt who = s.seenAt who

namespace Quiet
variable {s t u : State}
theorem refl (s : State) : Quiet s s := ⟨rfl, rfl, rfl, rfl, fun _ h => h⟩
theorem trans (h1 : Quiet s t) (h2 : Quiet t u) : Quiet s u :=
  ⟨h2.tick.trans h1.tick, h2.respq.trans h1.respq, h2.loaded.trans h1.loaded, h2.slotStart.trans h1.slotStart, fun l hl => h1.live l (h2.live l hl)⟩
theorem carrying (h : Quiet s t) : t.carrying = s.carrying := carrying_congr h.tick h.loaded h.slotStart
end Quiet

theorem SameFabric.quiet {s t : State} (h : SameFabric s t) : Quiet s t :=
  ⟨h.tick, by rw [h.fabric], by rw [h.fabric], by rw [h.fabric], fun l hl => by rwa [h.fabric] at hl⟩

namespace Unfed
variable {s t u : State}
theorem refl (s : State) : Unfed s s := ⟨Quiet.refl s, fun _ => rfl⟩
theorem trans (h1 : Unfed s t) (h2 : Unfed t u) : Unfed s u := ⟨h1.toQuiet.trans h2.toQuiet, fun who => (h2.seen who).trans (h1.seen who)⟩
theorem foldl {α : Type} {f : State → α → State} (h : ∀ s a, Unfed s (f s a)) (l : List α) (s : State) : Unfed s (l.foldl f s) :=
  foldl_keeps (P := Unfed s) (fun t a hs => hs.trans (h t a)) l (refl s)

theorem of_parts (hq : Quiet s t) (hcol : ∀ c, (t.cc c).wait = (s.cc c).wait) (hdeal : ∀ n slot, t.deal? n slot = s.deal? n slot) : Unfed s t :=
  ⟨hq, fun who => by cases who with
    | col c => rw [State.seenAt, hcol]; rfl
    | deal n slot => rw [State.seenAt, hdeal]; rfl⟩

theorem of_calm (h : Calm s t) : Unfed s t :=
  of_parts h.toSameFabric.quiet (fun c => by obtain ⟨l1, flush, full, heq⟩ := h.col c; rw [heq]) h.deal
end Unfed

section
variable (s : State)

theorem State.unfed_modGrp (n g : Nat) (f : Group → Group) : Unfed s (s.modGrp n g f) :=
  Unfed.of_parts (s.sameFabric_modGrp n g f).quiet
    (fun c => by rw [State.cc, State.col, State.modGrp_cols]; rfl) (fun m slot => s.deal?_modGrp n g m slot f)

theorem State.unfed_setGrp (n g : Nat) (x : Group) : Unfed s (s.setGrp n g x) :=
  Unfed.of_parts (SameFabric.quiet ⟨rfl, rfl, rfl⟩) (fun _ => rfl) (fun m slot => s.deal?_setGrp n g m slot x)

theorem State.unfed_modCore (n : Nat) (f : ACore → ACore) (hf : ∀ x slot, (f x).deal slot = x.deal slot) : Unfed s (s.modCore n f) :=
  Unfed.of_parts (SameFabric.quiet ⟨rfl, rfl, rfl⟩) (fun _ => rfl) (fun m slot => by
    unfold State.deal?
    rw [State.core_modCore]
    split
    · next h => subst h; exact hf _ slot
    · rfl)

theorem State.unfed_modFab (f : Fabric → Fabric) (hr : (f s.fabric).respq = s.fabric.respq) (hl : (f s.fabric).loaded = s.fabric.loaded)
    (hs : (f s.fabric).slotStart = s.fabric.slotStart) (hlive : ∀ l ∈ (f s.fabric).live, l ∈ s.fabric.live) : Unfed s (s.modFab f) :=
  Unfed.of_parts ⟨rfl, hr, hl, hs, hlive⟩ (fun _ => rfl) (fun _ _ => rfl)

theorem State.unfed_retireTag (dst tag : Nat) : Unfed s (s.retireTag dst tag) :=
  s.unfed_modFab _ rfl rfl rfl (fun _ h => List.mem_of_mem_filter h)

theorem State.unfed_unsend (tags : List Nat) : Unfed s (s.unsend tags) := Unfed.foldl (fun (t : State) (m : Msg) => t.unfed_retireTag m.dst m.tag) _ s

theorem State.unfed_modCmd (n id : Nat) (f : Cmd → Cmd) : Unfed s (s.modCmd n id f) := by
  unfold State.modCmd
  exact s.unfed_modCore n _ (fun _ _ => rfl)

theorem State.unfed_markErr (n : Nat) (c : Cmd) (code : Nat) : Unfed s (s.markErr n c code) := (s.unfed_unsend _).trans (State.unfed_modCmd ..)

theorem State.unfed_potCount (n : Nat) (c : Cmd) (bytes : Nat) : Unfed s (s.potCount n c bytes).2 := by
  unfold State.potCount State.potPut
  split
  · split
    · exact Unfed.refl s
    · exact s.unfed_modGrp ..
  · exact Unfed.refl s

theorem State.unfed_scratchWrite (p : ScratchAt) (off : Nat) (bs : List Byte) : Unfed s (s.scratchWrite p off bs) := by
  unfold State.scratchWrite
  cases p with
  | grp n g => exact s.unfed_modGrp ..
  | orphan n i f => exact s.unfed_modCore n _ (fun _ _ => rfl)

theorem State.unfed_spoilFills (cols : List Nat) (p : Nat → Bool) : Unfed s (s.spoilFills cols p) where
  tick := rfl
  respq := rfl
  loaded := rfl
  slotStart := rfl
  live _ h := h
  seen who := by
    cases who with
    | col c =>
      rw [State.seenAt, State.cc, State.col_spoilFills]
      split
      · simp only [State.seenAt, Option.map_map]
        cases (s.cc c).wait with
        | none => rfl
        | some w => simp [RWait.seen_spoilIf]
      · rfl
    | deal n slot =>
      have hd : ∀ o : Option Deal, (o.map (·.spoilIf p)).map (fun d => d.pend.map (fun q => (q.trick, q.pos, q.wait.seen)))
          = o.map (fun d => d.pend.map (fun q => (q.trick, q.pos, q.wait.seen))) := fun o => by
        cases o with
        | none => rfl
        | some d => simp [Deal.spoilIf, RWait.seen_spoilIf]
      rw [State.seenAt, State.seenAt]
      unfold State.deal?
      rw [State.core_spoilFills]
      split
      · unfold ACore.deal
        split
        · exact hd _
        · exact hd _
      · rfl

theorem State.unfed_keepLine (c line : Nat) (bs : List Byte) (bad : List Nat) : Unfed s (s.keepLine c line bs bad) :=
  (s.unfed_spoilFills [c] (· == line)).trans (Unfed.foldl (fun t i => by
    dsimp only
    split
    · exact Unfed.of_calm (t.cacheOnly_dropCopy c _).calm
    · exact Unfed.of_calm ((t.cacheOnly_dropCopy c _).trans (State.cacheOnly_putSlice ..)).calm) _ _)

/-- Feeding a command feeds no access of an agent. -/
theorem State.unfed_feedCmd (n : Nat) (c : Cmd) (k : CmdTag) (m : Msg) : Unfed s (s.feedCmd n c k m) := by
  have hcount : ∀ u : State, Unfed s u → Unfed s (if (u.potCount n c k.len).1 then (u.potCount n c k.len).2.markErr n c 7 else (u.potCount n c k.len).2) :=
    fun u hu => by
      split
      · exact (hu.trans (u.unfed_potCount n c k.len)).trans (State.unfed_markErr ..)
      · exact hu.trans (u.unfed_potCount n c k.len)
  have h0 := s.unfed_modCmd n c.id (fun q => { q with tags := q.tags.filter (fun j => j.tag != k.tag) })
  unfold State.feedCmd
  dsimp only
  split
  · exact h0
  · split
    · exact h0
    · refine hcount _ (h0.trans ?_)
      split
      · exact Unfed.foldl (fun t p => Unfed.of_calm (t.calm_engPut ..)) _ _
      · split
        · exact State.unfed_scratchWrite ..
        · exact Unfed.refl _
      · exact Unfed.refl _
  · exact hcount _ h0
  · exact h0.trans (State.unfed_markErr ..)
  · exact h0.trans (State.unfed_markErr ..)
  · exact h0.trans (State.unfed_markErr ..)

/-! ### Words owed to withdrawn threads -/

theorem State.unfed_writeOwed (m : SavedGroup) (r : LaunchRec) (o : Owed) : Unfed s (s.writeOwed m r o) := by
  unfold State.writeOwed
  dsimp only
  refine Unfed.trans ?_ (Unfed.of_calm (State.calm_areaPut ..))
  split
  · exact Unfed.foldl (fun t i => Unfed.of_calm (t.calm_areaPut ..)) _ s
  · exact Unfed.refl s

theorem State.unfed_deliverSaving (v : Saving) : Unfed s (s.deliverSaving v) := by
  unfold State.deliverSaving
  refine Unfed.trans (t := (v.groups.foldl (fun (acc : List Owed × State) g =>
    match acc.2.grp? g.1 g.2 with
    | none => acc
    | some x =>
      let r := x.settleOwed (v.owed.filter (fun o => o.core == g.1 && o.grp == g.2))
      (acc.1 ++ r.left, acc.2.setGrp g.1 g.2 r.grp)) ([], s)).2) ?_ (Unfed.of_parts (SameFabric.quiet ⟨rfl, rfl, rfl⟩) (fun _ => rfl) (fun _ _ => rfl))
  refine List.foldlRecOn v.groups _ (motive := fun acc : List Owed × State => Unfed s acc.2) (Unfed.refl s) fun acc hacc g _ => ?_
  split
  · exact hacc
  · exact hacc.trans (State.unfed_setGrp ..)

theorem State.unfed_deliverSaved (v : Save) : Unfed s (s.deliverSaved v) := by
  unfold State.deliverSaved
  dsimp only
  exact (Unfed.foldl (fun t q => Unfed.foldl (fun u o => u.unfed_writeOwed ..) _ t) _ s).trans
    (Unfed.of_parts (SameFabric.quiet ⟨rfl, rfl, rfl⟩) (fun _ => rfl) (fun _ _ => rfl))

theorem State.unfed_owedArrive (tag : Nat) (data : RData) : Unfed s (s.owedArrive tag data) := by
  unfold State.owedArrive
  dsimp only
  refine Unfed.trans ?_ (Unfed.foldl (fun t v => t.unfed_deliverSaved v) _ _)
  refine Unfed.trans ?_ (Unfed.foldl (fun t v => t.unfed_deliverSaving v) _ _)
  exact Unfed.of_parts (SameFabric.quiet ⟨rfl, rfl, rfl⟩) (fun _ => rfl) (fun _ _ => rfl)

/-! ### Sending -/

theorem State.unfed_modPort (p : Nat) (f : Port → Port) : Unfed s (s.modPort p f) := by
  unfold State.modPort
  exact s.unfed_modFab _ rfl rfl rfl (fun _ h => h)

theorem State.unfed_takeRetire (dst : Nat) : Unfed s (s.takeRetire dst).2 := by
  unfold State.takeRetire
  split
  · dsimp only
    exact s.unfed_modFab _ rfl rfl rfl (fun _ h => h)
  · exact Unfed.refl s

theorem State.unfed_sendOn (p : Nat) (m : Msg) (relay : Bool) (die : Option Nat) : Unfed s (s.sendOn p m relay die) := by
  have htake : Unfed s (if relay then ([], s) else s.takeRetire m.dst).2 := by
    split
    · exact Unfed.refl s
    · exact s.unfed_takeRetire m.dst
  unfold State.sendOn
  exact (htake.trans (State.unfed_modFab _ _ rfl rfl rfl (by exact fun _ h => h))).trans (State.unfed_modPort ..)

theorem State.unfed_sendAll : Unfed s s.sendAll := by
  unfold State.sendAll State.sendRelayed State.sendOwn
  split
  · refine Unfed.trans (Unfed.foldl (fun t e => ?_) _ s) (Unfed.foldl (fun t m => ?_) _ _)
    · split
      · dsimp only
        split
        · exact Unfed.refl t
        · exact (t.unfed_modFab _ rfl rfl rfl (fun _ h => h)).trans (State.unfed_sendOn ..)
      · exact Unfed.refl t
    · split
      · exact Unfed.refl t
      · split
        · split
          · exact (t.unfed_modFab _ rfl rfl rfl (fun _ h => h)).trans (State.unfed_sendOn ..)
          · exact Unfed.refl t
        · exact Unfed.refl t
  · exact Unfed.refl s
end

end Sys2Proof.Machine
end

section
/-! Responses of other packages, and the retirement of tags (R366, R373, R374). -/

namespace Sys2Proof.Machine

/-! ### Data for one issuer -/

/-- A column core, or one of the two deals of an array core. -/
def PlainIssuer : Issuer → Prop
  | .col _ => True
  | .deal _ slot => slot < 2

theorem State.deal?_setDeal_core (s : State) {n m : Nat} (k j : Nat) (d : Option Deal) (h : m ≠ n) : (s.setDeal n k d).deal? m j = s.deal? m j := by
  unfold State.setDeal State.deal?
  rw [State.core_modCore, if_neg h]

/-- What is seen of accesses once data for a tag has come. -/
def fillAll (tag : Nat) (data : RData) (l : List (Nat × Nat × Seen)) : List (Nat × Nat × Seen) := l.map (fun p => (p.1, p.2.1, fillSeen tag data p.2.2))

theorem fillAll_twice (tag : Nat) (data : RData) (l : List (Nat × Nat × Seen)) : fillAll tag data (fillAll tag data l) = fillAll tag data l := by
  simp only [fillAll, List.map_map]
  exact List.map_congr_left fun p _ => by simp [fillSeen_twice]

section
variable (s : State) (tag : Nat) (data : RData)

/-- Data taken into an issuer's accesses fills those, and no other issuer's. -/
theorem State.seenAt_modWaits {who who2 : Issuer} (h : PlainIssuer who) (h2 : PlainIssuer who2) :
    (s.modWaits who (fun x => x.take tag data)).seenAt who2 = if who2 = who then (s.seenAt who2).map (fillAll tag data) else s.seenAt who2 := by
  cases who with
  | col c =>
    cases who2 with
    | col d =>
      simp only [State.modWaits, State.seenAt, State.cc_modCc, Issuer.col.injEq]
      by_cases hd : d = c
      · subst hd
        simp only [if_true]
        cases (s.cc d).wait with
        | none => rfl
        | some w => simp [fillAll, RWait.seen_take]
      · simp [hd]
    | deal n slot => rw [if_neg (by simp)]; rfl
  | deal n slot =>
    cases who2 with
    | col d =>
      rw [if_neg (by simp)]
      simp only [State.modWaits]
      split <;> rfl
    | deal m j =>
      simp only [State.modWaits]
      cases hd : s.deal? n slot with
      | none =>
        dsimp only
        split
        · next heq => cases heq; simp [State.seenAt, hd]
        · rfl
      | some d =>
        simp only [State.seenAt, Issuer.deal.injEq]
        by_cases hm : m = n
        · subst hm
          have hslot : ((j = 0) = (slot = 0)) = (j = slot) := by
            simp only [PlainIssuer] at h h2
            simp only [eq_iff_iff]
            omega
          simp only [State.deal?_setDeal, hslot, true_and]
          by_cases hj : j = slot
          · subst hj
            simp [hd, fillAll, RWait.seen_take]
          · simp [hj]
        · rw [State.deal?_setDeal_core s slot j _ hm, if_neg (fun h => hm h.1)]

/-- An issuer none of whose accesses waits for a tag has nothing that its data fills. -/
theorem State.seenAt_idle {who : Issuer} (h : (s.waitsOf who).filter (fun w => w.awaits tag) = []) :
    (s.seenAt who).map (fillAll tag data) = s.seenAt who := by
  have hfill : ∀ w ∈ s.waitsOf who, fillSeen tag data w.seen = w.seen := fun w hw =>
    RWait.fillSeen_of_not_awaits (by simpa using List.filter_eq_nil_iff.1 h w hw) data
  cases who with
  | col c =>
    simp only [State.seenAt]
    cases hw : (s.cc c).wait with
    | none => rfl
    | some w => simp [fillAll, hfill w (by simp [State.waitsOf, hw])]
  | deal n slot =>
    simp only [State.seenAt]
    cases hd : s.deal? n slot with
    | none => rfl
    | some d =>
      simp only [Option.map_some, fillAll, List.map_map]
      refine congrArg some (List.map_congr_left fun p hp => ?_)
      simp only [Function.comp]
      rw [hfill p.wait (by simp only [State.waitsOf, hd]; exact List.mem_map_of_mem hp)]

/-- What data does to the caches on its way to an issuer. -/
def State.feedCopies (s : State) (who : Issuer) (l : LiveTag) (data : RData) : State :=
  let w := (s.waitsOf who).filter (fun w => w.awaits l.tag)
  let c := match who with | .col c => c | .deal n _ => coreColumn n
  let fills := (w.flatMap (fun x => x.lines l.tag)).eraseDups
  match data with
  | .bytes bs bad =>
    if fills.isEmpty then
      (List.range (l.last + 1 - l.first)).foldl (fun t i => t.dropCopy c (remotePlace l.pkg (32 * (l.first + i)) / 32)) s
    else fills.foldl (fun t k => t.keepLine c k bs bad) s
  | _ => s

theorem State.feedWait_eq (who : Issuer) (l : LiveTag) : s.feedWait who l data
    = if ((s.waitsOf who).filter (fun w => w.awaits l.tag)).isEmpty then s
      else (s.feedCopies who l data).modWaits who (fun x => x.take l.tag data) := rfl

theorem State.unfed_feedCopies (who : Issuer) (l : LiveTag) : Unfed s (s.feedCopies who l data) := by
  unfold State.feedCopies
  dsimp only
  split
  · split
    · exact Unfed.foldl (fun t i => Unfed.of_calm (t.cacheOnly_dropCopy ..).calm) _ s
    · exact Unfed.foldl (fun t k => t.unfed_keepLine ..) _ s
  · exact Unfed.refl s

theorem State.quiet_modWaits (who : Issuer) (f : RWait → RWait) : Quiet s (s.modWaits who f) := by
  cases who with
  | col c => exact SameFabric.quiet ⟨rfl, rfl, rfl⟩
  | deal n slot =>
    unfold State.modWaits
    dsimp only
    split
    · exact SameFabric.quiet ⟨rfl, rfl, rfl⟩
    · exact Quiet.refl s

theorem State.quiet_feedWait (who : Issuer) (l : LiveTag) : Quiet s (s.feedWait who l data) := by
  rw [State.feedWait_eq]
  split
  · exact Quiet.refl s
  · exact (s.unfed_feedCopies data who l).toQuiet.trans (State.quiet_modWaits ..)

theorem State.seenAt_feedWait {who who2 : Issuer} (h : PlainIssuer who) (h2 : PlainIssuer who2) (l : LiveTag) :
    (s.feedWait who l data).seenAt who2 = if who2 = who then (s.seenAt who2).map (fillAll l.tag data) else s.seenAt who2 := by
  rw [State.feedWait_eq]
  split
  · next hidle =>
    split
    · next heq => subst heq; exact (s.seenAt_idle l.tag data (List.isEmpty_iff.1 hidle)).symm
    · rfl
  · rw [State.seenAt_modWaits _ _ _ h h2, (s.unfed_feedCopies data who l).seen]

/-- Data offered to several issuers reaches each of them once. -/
theorem State.seenAt_foldl_feedWait (l : LiveTag) {who : Issuer} (h : PlainIssuer who) (issuers : List Issuer) (hall : ∀ w ∈ issuers, PlainIssuer w) :
    (issuers.foldl (fun t w => t.feedWait w l data) s).seenAt who
      = if who ∈ issuers then (s.seenAt who).map (fillAll l.tag data) else s.seenAt who := by
  induction issuers generalizing s with
  | nil => simp
  | cons w rest ih =>
    rw [List.foldl_cons, ih _ (fun v hv => hall v (List.mem_cons_of_mem _ hv)), State.seenAt_feedWait s data (hall w (List.mem_cons_self ..)) h]
    by_cases hw : who = w
    · subst hw
      have htwice : ((s.seenAt who).map (fillAll l.tag data)).map (fillAll l.tag data) = (s.seenAt who).map (fillAll l.tag data) := by
        rw [Option.map_map]
        exact congrArg (Option.map · _) (funext fun x => fillAll_twice l.tag data x)
      rw [if_pos rfl, htwice, ite_self, if_pos (List.mem_cons_self ..)]
    · simp [hw]

theorem State.feedWait_idle {who : Issuer} {l : LiveTag} (h : ∀ w ∈ s.waitsOf who, w.awaits l.tag = false) : s.feedWait who l data = s := by
  rw [State.feedWait_eq, if_pos]
  simpa using h
end

/-! ### A whole response -/

/-- The issuers of a state: the column cores and the deals. -/
def State.issuers (s : State) : List Issuer := s.cols.map (fun e => Issuer.col e.1) ++ s.cores.flatMap (fun e => [Issuer.deal e.1 0, Issuer.deal e.1 1])
/-- The commands of every core. -/
def State.allCmds (s : State) : List (Nat × Cmd) := s.cores.flatMap (fun e => (e.2.copyq ++ e.2.matrix.cmds).map (fun q => (e.1, q)))
/-- Data offered to the commands. -/
def State.feedCmds (s : State) (m : Msg) : State :=
  s.allCmds.foldl (fun t e => match e.2.tags.find? (fun k => k.tag == m.tag) with
    | some k => t.feedCmd e.1 e.2 k m
    | none => t) s
/-- Data offered to the agents. -/
def State.feedAgents (s : State) (l : LiveTag) (data : RData) : State := s.issuers.foldl (fun t w => t.feedWait w l data) s
/-- A tag retired, and the data it brought to withdrawn threads. -/
def State.afterRetire (s : State) (m : Msg) : State :=
  let s2 := s.retireTag m.src m.tag
  if s2.owedTag m.tag then s2.owedArrive m.tag (responseData m.body) else s2

section
variable {s : State} {m : Msg} {rest : List Msg} (hq : s.fabric.respq = m :: rest)
include hq

theorem takeResponse_eq : s.takeResponse = (let s1 := s.modFab (fun f => { f with respq := rest })
    match s1.fabric.live.find? (fun l => l.tag == m.tag) with
    | none => s1
    | some l => (((s1.afterRetire m).feedAgents l (responseData m.body)).feedCmds m).sendAll) := by
  unfold State.takeResponse
  rw [hq]
  rfl

theorem takeResponse_stray (h : ∀ l ∈ s.fabric.live, l.tag ≠ m.tag) : s.takeResponse = s.modFab (fun f => { f with respq := rest }) := by
  have hnone : (s.modFab (fun f => { f with respq := rest })).fabric.live.find? (fun l => l.tag == m.tag) = none :=
    List.find?_eq_none.2 fun l hl => by simpa using h l hl
  rw [takeResponse_eq hq]
  dsimp only
  rw [hnone]

/-- A response whose tag is alive retires it and is offered to all that may wait. -/
theorem takeResponse_live (h : ∃ l ∈ s.fabric.live, l.tag = m.tag) : ∃ l, l.tag = m.tag ∧ s.takeResponse
    = ((((s.modFab (fun f => { f with respq := rest })).afterRetire m).feedAgents l (responseData m.body)).feedCmds m).sendAll := by
  obtain ⟨l0, hl0, htag⟩ := h
  obtain ⟨l, hl⟩ := Option.isSome_iff_exists.1 (List.find?_isSome (p := fun l : LiveTag => l.tag == m.tag).2 ⟨l0, hl0, by simpa using htag⟩)
  refine ⟨l, by simpa using List.find?_some hl, ?_⟩
  rw [takeResponse_eq hq]
  dsimp only
  rw [show (s.modFab (fun f => { f with respq := rest })).fabric.live.find? (fun l => l.tag == m.tag) = some l from hl]
end

theorem State.unfed_feedCmds (s : State) (m : Msg) : Unfed s (s.feedCmds m) :=
  Unfed.foldl (fun t e => by
    split
    · exact t.unfed_feedCmd ..
    · exact Unfed.refl t) _ s

theorem State.quiet_feedAgents (s : State) (l : LiveTag) (data : RData) : Quiet s (s.feedAgents l data) :=
  foldl_keeps (P := Quiet s) (fun t w h => h.trans (t.quiet_feedWait data w l)) _ (Quiet.refl s)

theorem State.unfed_afterRetire (s : State) (m : Msg) : Unfed (s.retireTag m.src m.tag) (s.afterRetire m) := by
  unfold State.afterRetire
  dsimp only
  split
  · exact State.unfed_owedArrive ..
  · exact Unfed.refl _

theorem mem_keys_of_ne {β : Type} {m : List (Nat × β)} {k : Nat} {d : β} (h : mapGet m k d ≠ d) : k ∈ m.map (·.1) := by
  by_contra hk
  exact h (by rw [mapGet, mapGet?_eq_none.2 hk]; rfl)

/-- An issuer of whose accesses something is seen is among the issuers. -/
theorem State.mem_issuers {s : State} {who : Issuer} (h : PlainIssuer who) (hs : s.seenAt who ≠ none) : who ∈ s.issuers := by
  cases who with
  | col c =>
    have hkey : c ∈ s.cols.map (·.1) := mem_keys_of_ne (d := Column.reset) fun heq => hs (by
      have hcc : (s.cc c) = Column.reset.core := congrArg Column.core heq
      rw [State.seenAt, hcc]; rfl)
    obtain ⟨e, he, rfl⟩ := List.mem_map.1 hkey
    exact List.mem_append_left _ (List.mem_map.2 ⟨e, he, rfl⟩)
  | deal n slot =>
    have hkey : n ∈ s.cores.map (·.1) := mem_keys_of_ne (d := ACore.reset) fun heq => hs (by
      have hd : s.deal? n slot = ACore.reset.deal slot := congrArg (fun x : ACore => x.deal slot) heq
      rw [State.seenAt, hd]
      unfold ACore.deal
      split <;> rfl)
    obtain ⟨e, he, rfl⟩ := List.mem_map.1 hkey
    refine List.mem_append_right _ (List.mem_flatMap.2 ⟨e, he, ?_⟩)
    have : slot = 0 ∨ slot = 1 := by simp only [PlainIssuer] at h; omega
    rcases this with rfl | rfl <;> simp

theorem State.issuers_plain (s : State) : ∀ w ∈ s.issuers, PlainIssuer w := by
  intro w hw
  rcases List.mem_append.1 hw with h | h
  · obtain ⟨e, -, rfl⟩ := List.mem_map.1 h
    trivial
  · obtain ⟨e, -, hm⟩ := List.mem_flatMap.1 h
    simp only [List.mem_cons, List.not_mem_nil, or_false] at hm
    rcases hm with rfl | rfl <;> simp [PlainIssuer]

theorem State.seenAt_feedAgents (s : State) (l : LiveTag) (data : RData) {who : Issuer} (h : PlainIssuer who) :
    (s.feedAgents l data).seenAt who = (s.seenAt who).map (fillAll l.tag data) := by
  rw [State.feedAgents, State.seenAt_foldl_feedWait s data l h _ s.issuers_plain]
  split
  · rfl
  · next hnot =>
    have hnone : s.seenAt who = none := not_not.1 fun hs => hnot (State.mem_issuers h hs)
    rw [hnone]; rfl

section
variable {s : State} {m : Msg} {rest : List Msg} (hq : s.fabric.respq = m :: rest) (hlive : ∃ l ∈ s.fabric.live, l.tag = m.tag)
include hq hlive

/-- A response leaves the queue, and its tag is alive no more. -/
theorem takeResponse_retires : s.takeResponse.fabric.respq = rest ∧ ∀ l ∈ s.takeResponse.fabric.live, l.tag ≠ m.tag := by
  obtain ⟨l, -, heq⟩ := takeResponse_live hq hlive
  have hquiet : Quiet ((s.modFab (fun f => { f with respq := rest })).retireTag m.src m.tag) s.takeResponse := by
    rw [heq]
    exact ((State.unfed_afterRetire _ m).toQuiet.trans (State.quiet_feedAgents ..)).trans ((State.unfed_feedCmds ..).toQuiet.trans (State.unfed_sendAll _).toQuiet)
  refine ⟨hquiet.respq, fun k hk => ?_⟩
  have hmem := (List.mem_filter.1 (hquiet.live k hk)).2
  simpa using hmem

/-- A response fills every part that waits for its tag, of every issuer. -/
theorem takeResponse_fills {who : Issuer} (h : PlainIssuer who) : s.takeResponse.seenAt who = (s.seenAt who).map (fillAll m.tag (responseData m.body)) := by
  obtain ⟨l, htag, heq⟩ := takeResponse_live hq hlive
  rw [heq, (State.unfed_sendAll _).seen, (State.unfed_feedCmds ..).seen, State.seenAt_feedAgents _ l _ h, htag, (State.unfed_afterRetire _ m).seen]
  cases who <;> rfl

/-- A response for one command alone is that command's. -/
theorem takeResponse_command {n : Nat} {q : Cmd} {k : CmdTag} (hcarry : s.carrying = false) (howed : s.owedTag m.tag = false)
    (hcol : ∀ c w, (s.cc c).wait = some w → w.awaits m.tag = false)
    (hdeal : ∀ i slot d, s.deal? i slot = some d → ∀ p ∈ d.pend, p.wait.awaits m.tag = false)
    (hcmds : s.allCmds.filter (fun e => e.2.tags.any (fun y => y.tag == m.tag)) = [(n, q)]) (hk : q.tags.find? (fun y => y.tag == m.tag) = some k) :
    s.takeResponse = ((s.modFab (fun f => { f with respq := rest })).retireTag m.src m.tag).feedCmd n q k m := by
  obtain ⟨l, htag, heq⟩ := takeResponse_live hq hlive
  set s2 := (s.modFab (fun f => { f with respq := rest })).retireTag m.src m.tag with hs2
  have hafter : (s.modFab (fun f => { f with respq := rest })).afterRetire m = s2 := by
    have : s2.owedTag m.tag = false := howed
    change (if s2.owedTag m.tag then s2.owedArrive m.tag (responseData m.body) else s2) = s2
    rw [this]
    rfl
  have hidle : ∀ who, s2.feedWait who l (responseData m.body) = s2 := fun who => by
    refine State.feedWait_idle s2 _ fun w hw => ?_
    rw [htag]
    cases who with
    | col c => exact hcol c w (Option.mem_toList.1 hw)
    | deal i slot =>
      cases hd : s.deal? i slot with
      | none =>
        have : s2.waitsOf (.deal i slot) = [] := by
          rw [State.waitsOf, show s2.deal? i slot = none from hd]
        rw [this] at hw
        cases hw
      | some d =>
        have : s2.waitsOf (.deal i slot) = d.pend.map (·.wait) := by
          rw [State.waitsOf, show s2.deal? i slot = some d from hd]
        rw [this] at hw
        obtain ⟨p, hp, rfl⟩ := List.mem_map.1 hw
        exact hdeal i slot d hd p hp
  have hagents : s2.feedAgents l (responseData m.body) = s2 := by
    rw [State.feedAgents]
    induction s2.issuers with
    | nil => rfl
    | cons w r ih => rw [List.foldl_cons, hidle w, ih]
  have hfeed : s2.feedCmds m = s2.feedCmd n q k m := by
    have hall : s2.allCmds = s.allCmds := rfl
    have hskip : ∀ (cs : List (Nat × Cmd)) (t : State), cs.foldl (fun t e => match e.2.tags.find? (fun k => k.tag == m.tag) with
        | some k => t.feedCmd e.1 e.2 k m
        | none => t) t = (cs.filter (fun e => e.2.tags.any (fun y => y.tag == m.tag))).foldl (fun t e =>
          match e.2.tags.find? (fun k => k.tag == m.tag) with
          | some k => t.feedCmd e.1 e.2 k m
          | none => t) t := by
      intro cs
      induction cs with
      | nil => exact fun _ => rfl
      | cons e cs ih =>
        intro t
        rw [List.foldl_cons, ih]
        cases hany : e.2.tags.any (fun y => y.tag == m.tag) with
        | true => rw [List.filter_cons_of_pos (by simpa using hany), List.foldl_cons]
        | false =>
          have hnone : e.2.tags.find? (fun k => k.tag == m.tag) = none := by simpa using hany
          rw [List.filter_cons_of_neg (by simpa using hany), hnone]
    rw [State.feedCmds, hall, hskip, hcmds, List.foldl_cons, List.foldl_nil]
    simp only [hk]
  rw [heq, hafter, hagents, hfeed]
  refine State.sendAll_idle ((State.unfed_feedCmd s2 n q k m).toQuiet.carrying.trans ?_)
  exact (carrying_congr rfl rfl rfl).trans hcarry
end


/-! ### A request performed -/

theorem State.homePut_wf (s : State) (pa : Nat) (bs : List (Option Byte)) (release : Option Nat) (bad : List Nat) (h : Memory.wf s.mem) :
    Memory.wf (s.homePut pa bs release bad).mem :=
  foldl_wf _ (fun t p ht => by
    rw [State.homePoison_mem, State.homePiece]
    split
    · exact ht
    · rw [State.setMark_mem]
      exact t.homeWrite_wf p.1 _ _ none ht) _ _ h

/-- A request performed is answered, and its answer recorded, as state `t` shows. -/
def Answers (s : State) (m : Msg) (rest : List Msg) (t : State) (body : Payload) : Prop :=
  exec .remoteRequest s = .next t ∧ t.fabric.inq = rest
    ∧ t.fabric.outq = s.fabric.outq ++ [⟨s.pkgId, m.src, m.tag, body⟩] ∧ t.fabric.done = s.fabric.done ++ [⟨s.pkgId, m.src, m.tag, body⟩]

section
variable {s : State} {m : Msg} {rest : List Msg} (hq : s.fabric.inq = m :: rest) (hheld : s.requestHeld m = false) (hcarry : s.carrying = false)
  (hnew : ∀ d ∈ s.fabric.done, ¬ (d.dst = m.src ∧ d.tag = m.tag))
include hq hheld hcarry hnew

theorem takeRequest_read {pa n order scope bulk} (hb : m.body = .read pa n order scope bulk) :
    ∃ t, Answers s m rest t (if s.noRemote pa n false then .error else s.homeRead pa n bulk) ∧ t.mem = s.mem := by
  have hr : (s.modFab (fun f => { f with inq := rest })).performRequest m
      = (if s.noRemote pa n false then .error else s.homeRead pa n bulk, s.modFab (fun f => { f with inq := rest })) := by
    rw [State.performRequest, hb]
    exact (apply_ite (fun x => (x, s.modFab (fun f => { f with inq := rest }))) ..).symm
  obtain ⟨t, hans, hbytes, -⟩ := takeRequest_new hq hheld hcarry hnew hr
  exact ⟨t, hans, hbytes.mem⟩

theorem takeRequest_write {pa bs order scope bulk bad} (hb : m.body = .write pa bs order scope bulk bad) : ∃ t, Answers s m rest t .ack
    ∧ (s.noRemote pa bs.length true = true → t.mem = s.mem ∧ t.reports = s.reports ++ [.postedError m.tag])
    ∧ (s.noRemote pa bs.length true = false → pa + bs.length ≤ 0x8000000000 →
      (∀ i b, bs[i]? = some (some b) → t.homeByte (pa + i) = b ∧ ∀ c, dieOf c = homeDie (pa + i) →
        (∀ k ∈ clusterCols (clusterOf c), ∀ x, s.slice? k ((pa + i) / 32) = some x → x.dirty.getLsbD ((pa + i) % 32) = false) →
        t.viewByte c (pa + i) = b)
      ∧ (∀ a, (∀ i b, bs[i]? = some (some b) → a ≠ pa + i) → t.homeByte a = s.homeByte a)
      ∧ (Memory.wf s.mem → Memory.wf t.mem)) := by
  cases hno : s.noRemote pa bs.length true with
  | true =>
    have hr : (s.modFab (fun f => { f with inq := rest })).performRequest m
        = (.ack, (s.modFab (fun f => { f with inq := rest })).report (.postedError m.tag)) := by
      rw [State.performRequest, hb]
      exact if_pos hno
    obtain ⟨t, hans, hbytes, hreports⟩ := takeRequest_new hq hheld hcarry hnew hr
    exact ⟨t, hans, fun _ => ⟨hbytes.mem, hreports⟩, nofun⟩
  | false =>
    have hr : (s.modFab (fun f => { f with inq := rest })).performRequest m
        = (.ack, (s.modFab (fun f => { f with inq := rest })).homePut pa bs (if isRelease order then some scope else none) bad) := by
      rw [State.performRequest, hb]
      exact if_neg (by rw [show (s.modFab (fun f => { f with inq := rest })).noRemote pa bs.length true = false from hno]; nofun)
    obtain ⟨t, hans, hbytes, -⟩ := takeRequest_new hq hheld hcarry hnew hr
    refine ⟨t, hans, nofun, fun _ hnear => ⟨fun i b hi => ?_, fun a ha => ?_, fun hwf => ?_⟩⟩
    · obtain ⟨hhome, hview⟩ := homePut_byte (s := s.modFab (fun f => { f with inq := rest })) (if isRelease order then some scope else none) bad hnear hi
      exact ⟨(hbytes.homeByte _).trans hhome, fun c hc hdirty => (hbytes.viewByte c _).trans (hview c hc hdirty)⟩
    · exact (hbytes.homeByte a).trans (homePut_other _ bad hnear ha)
    · rw [hbytes.mem]
      exact State.homePut_wf _ pa bs _ bad hwf

theorem takeRequest_atomic {kind pa ops order scope} (hb : m.body = .atomic kind pa ops order scope) :
    (s.noRemote pa (atomWidth kind) true = true → ∃ t, Answers s m rest t .error ∧ t.mem = s.mem)
    ∧ (s.noRemote pa (atomWidth kind) true = false → pa + atomWidth kind ≤ 0x8000000000 → pa % 32 + atomWidth kind ≤ 32 → 0 < atomWidth kind →
      (s.poison.contains (pa / 32) = true → ∃ t, Answers s m rest t .poisoned ∧ t.mem = s.mem)
      ∧ (s.poison.contains (pa / 32) = false →
        let run := atomRun kind (leNat ((List.range (atomWidth kind)).map (fun i => s.homeByte (pa + i)))) ops
        ∃ t, Answers s m rest t (.data (run.1.flatMap (leBytes (atomWidth kind))) false [])
          ∧ (run.2.2 = false → t.mem = s.mem)
          ∧ (run.2.2 = true → ∀ a, t.homeByte a
              = if pa ≤ a ∧ a < pa + atomWidth kind then BitVec.ofNat 8 (run.2.1 / 256 ^ (a - pa)) else s.homeByte a))) := by
  have hr : (s.modFab (fun f => { f with inq := rest })).performRequest m = (if s.noRemote pa (atomWidth kind) true
      then (.error, s.modFab (fun f => { f with inq := rest }))
      else (s.modFab (fun f => { f with inq := rest })).homeAtomic kind pa ops (if isRelease order then some scope else none)) := by
    rw [State.performRequest, hb]
    rfl
  refine ⟨fun hno => ?_, fun hno hnear hin hpos => ⟨fun hp => ?_, fun hp => ?_⟩⟩
  · rw [if_pos hno] at hr
    obtain ⟨t, hans, hbytes, -⟩ := takeRequest_new hq hheld hcarry hnew hr
    exact ⟨t, hans, hbytes.mem⟩
  · rw [hno, if_neg (by nofun), homeAtomic_poisoned (s := s.modFab (fun f => { f with inq := rest })) ops _ hnear hin hpos hp] at hr
    obtain ⟨t, hans, hbytes, -⟩ := takeRequest_new hq hheld hcarry hnew hr
    exact ⟨t, hans, hbytes.mem⟩
  · rw [hno, if_neg (by nofun)] at hr
    intro run
    obtain ⟨hanswer, hkept, hstored⟩ := homeAtomic_performs (s := s.modFab (fun f => { f with inq := rest })) ops
      (if isRelease order then some scope else none) hnear hin hpos hp
    obtain ⟨t, hans, hbytes, -⟩ := takeRequest_new hq hheld hcarry hnew hr
    refine ⟨t, ?_, fun hrun => ?_, fun hrun a => ?_⟩
    · rw [hanswer] at hans
      exact hans
    · rw [hbytes.mem, hkept hrun]
      rfl
    · exact (hbytes.homeByte a).trans (hstored hrun a)
end

/-- One more operation of an atomic request finds the value the ones before left. -/
theorem atomRun_append (kind : AtomKind) (old : Nat) (l : List (D64 × D64)) (o : D64 × D64) : let q := atomRun kind old l
    atomRun kind old (l ++ [o]) = (q.1 ++ [q.2.1], (atomResult kind o.1 o.2 q.2.1).getD q.2.1, q.2.2 || (atomResult kind o.1 o.2 q.2.1).isSome) := by
  intro q
  rw [atomRun, List.foldl_append, List.foldl_cons, List.foldl_nil]
  change (match atomResult kind o.1 o.2 q.2.1 with
    | some v => (q.1 ++ [q.2.1], v, true)
    | none => (q.1 ++ [q.2.1], q.2.1, q.2.2)) = _
  cases atomResult kind o.1 o.2 q.2.1 <;> simp

/-! ### Retirement -/

theorem dropRecord_retiring {s : State} {src tag : Nat} (h : (src, tag) ∈ s.fabric.retiring) :
    let left := s.fabric.inq.filter (fun d => !(d.src == src && d.tag == tag))
    let staged := (left.map (fun m => m.bytes + 16)).sum
    s.dropRecord src tag = s.modFab (fun f => { f with
      retiring := f.retiring.filter (fun r => r != (src, tag)), inq := left,
      done := f.done.filter (fun d => !(d.dst == src && d.tag == tag)),
      hold := if 6 * 2 ^ 20 < staged then true else if staged < 4 * 2 ^ 20 then false else f.hold }) := by
  intro left staged
  rw [State.dropRecord, if_pos (by simpa using h)]
  rfl

theorem sendRetire_sends {s : State} {dst since : Nat} {tags : List Nat}
    (h : s.fabric.retire.find? (fun r => r.1 == dst) = some (dst, since, tags)) (hdue : since + 200000 ≤ s.tick) (hcarry : s.carrying = false) :
    ∃ t, exec (.tagRetireTimeout dst) s = .next t
      ∧ t.fabric.outq = s.fabric.outq ++ [⟨s.pkgId, dst, 0, .retire tags⟩] ∧ ∀ r ∈ t.fabric.retire, r.1 ≠ dst := by
  have hsend : s.sendRetire dst = (s.modFab (fun f => { f with retire := f.retire.filter (fun q => q.1 != dst) })).modFab
      (fun f => { f with outq := f.outq ++ [⟨s.pkgId, dst, 0, .retire tags⟩] }) := by
    rw [State.sendRetire, State.takeRetire, h]
    dsimp only
    rw [if_neg (by omega)]
    exact State.sendAll_idle hcarry
  refine ⟨_, congrArg Host.Outcome.next hsend, rfl, fun r hr => ?_⟩
  simpa using (List.mem_filter.1 hr).2

theorem sendRetire_keeps {s : State} {dst : Nat} (h : ∀ r, s.fabric.retire.find? (fun r => r.1 == dst) = some r → s.tick < r.2.1 + 200000) :
    s.sendRetire dst = s := by
  rw [State.sendRetire]
  cases hr : s.fabric.retire.find? (fun r => r.1 == dst) with
  | none => rfl
  | some r => exact if_pos (h r hr)

/-! ### What the pending accesses hold after a response -/

section
variable {s : State} {m : Msg} {rest : List Msg} (hq : s.fabric.respq = m :: rest) (hlive : ∃ l ∈ s.fabric.live, l.tag = m.tag)
include hq hlive

theorem takeResponse_wait {c : Nat} {w : RWait} (hw : (s.cc c).wait = some w) :
    ∃ v, (s.takeResponse.cc c).wait = some v ∧ v.seen = fillSeen m.tag (responseData m.body) w.seen := by
  have h := takeResponse_fills hq hlive (who := .col c) trivial
  simp only [State.seenAt, hw] at h
  obtain ⟨v, hv, hseen⟩ := Option.map_eq_some_iff.1 h
  exact ⟨v, hv, by simpa [fillAll] using hseen⟩

theorem takeResponse_pend {n slot : Nat} {d : Deal} (hslot : slot < 2) (hd : s.deal? n slot = some d) : ∃ d2, s.takeResponse.deal? n slot = some d2
    ∧ d2.pend.map (fun p => (p.trick, p.pos, p.wait.seen)) = d.pend.map (fun p => (p.trick, p.pos, fillSeen m.tag (responseData m.body) p.wait.seen)) := by
  have h := takeResponse_fills hq hlive (who := .deal n slot) hslot
  simp only [State.seenAt, hd] at h
  obtain ⟨d2, hd2, hseen⟩ := Option.map_eq_some_iff.1 h
  exact ⟨d2, hd2, by simpa only [fillAll, List.map_map, Function.comp_def] using hseen⟩
end

theorem fillSeen_seen (tag : Nat) (data : RData) (w : RWait) : fillSeen tag data w.seen = w.accs.map (fun a => (a.lane, a.dX, a.dIdx, a.parts.map (fun p =>
    (p.tag, p.off, p.len, if p.tag = tag ∧ p.got = none ∧ p.len ≠ 0 then some data else p.got)))) := by
  simp only [fillSeen, RWait.seen, List.map_map, Function.comp_def]

/-- Settles O48: requests through what performing one does, responses through what each issuer sees of its accesses. -/
theorem fabricTransactions : Obligations.FabricTransactions := by
  unfold Obligations.FabricTransactions
  refine ⟨fun s h => congrArg Host.Outcome.next (takeRequest_held h), fun s m rest hq hheld hcarry hnew => ?_,
    fun kind old => ⟨rfl, fun l o => atomRun_append kind old l o⟩, fun s m d rest hq hheld hcarry hd => takeRequest_again hq hheld hcarry hd,
    fun s hq => ?_, fun s m rest hq h => congrArg Host.Outcome.next (takeResponse_stray hq h),
    fun s m rest hq hlive _ => ⟨_, rfl, takeResponse_retires hq hlive⟩, fun s m rest hq hlive => ?_,
    fun s m rest n q k hq hlive hcarry howed hcol hdeal hcmds hk =>
      congrArg Host.Outcome.next (takeResponse_command hq hlive hcarry howed hcol hdeal hcmds hk), fun s src tag => ?_, fun s dst => ?_,
    fun s n id c since hc hsince => ?_⟩
  case refine_1 =>
    exact ⟨fun pa n order scope bulk hb => takeRequest_read hq hheld hcarry hnew hb, fun pa n bulk h => homeRead_near s n bulk h,
      fun pa bs order scope bulk bad hb => takeRequest_write hq hheld hcarry hnew hb,
      fun kind pa ops order scope hb => takeRequest_atomic hq hheld hcarry hnew hb⟩
  case refine_2 =>
    have hidle : s.takeResponse = s := by rw [State.takeResponse, hq]
    exact congrArg Host.Outcome.next hidle
  case refine_3 =>
    intro brought seen filled
    have hfilled : ∀ w, filled w = fillSeen m.tag (responseData m.body) w.seen := fun w => (fillSeen_seen ..).symm
    refine ⟨_, rfl, fun c w hw => ?_, fun n slot d hslot hd => ?_⟩
    · rw [hfilled]
      exact takeResponse_wait hq hlive hw
    · simp only [hfilled]
      exact takeResponse_pend hq hlive hslot hd
  case refine_4 =>
    refine ⟨fun h => ?_, fun h => congrArg Host.Outcome.next (dropRecord_retiring h)⟩
    have hkeep : s.dropRecord src tag = s := if_neg (by simpa using h)
    exact congrArg Host.Outcome.next hkeep
  case refine_5 =>
    refine ⟨fun h => congrArg Host.Outcome.next (sendRetire_keeps fun r hr => ?_), fun since tags h =>
      ⟨fun hearly => congrArg Host.Outcome.next (sendRetire_keeps fun r hr => ?_), sendRetire_sends h⟩⟩
    · rw [h] at hr
      cases hr
    · rw [h] at hr
      cases hr
      exact hearly
  case refine_6 =>
    have hroute : s.routeTimeout n id = if since + 10000000 ≤ s.tick then s.noteRoutes.failCmd n c 5 else s.noteRoutes := by
      rw [State.routeTimeout]
      simp only [hc, hsince]
      rfl
    exact congrArg Host.Outcome.next hroute

end Sys2Proof.Machine
end

section
/-! A sector of near memory that one column alone holds (R275 to R278): what that column sees of it stays across writes home, fills and releases. -/

namespace Sys2Proof.Machine

/-! ### Operations on a sector that no other slice holds -/

section
variable {s : State} {c sec : Nat} (h : Alone s c sec)
include h

theorem State.snoop_of_alone : s.snoop c sec = s := by
  refine foldl_keeps (P := fun t => t = s) (fun t k ht => ?_) _ rfl
  split
  · exact ht
  · next hk => rw [ht, State.evict_of_none (h k hk)]

theorem State.snoopRead_of_alone : s.snoopRead c sec = s := by
  refine foldl_keeps (P := fun t => t = s) (fun t k ht => ?_) _ rfl
  split
  · exact ht
  · next hk => rw [ht, State.writeBack_of_none (h k hk)]

theorem State.snoopAtom_of_alone : s.snoopAtom c sec = s := by
  refine foldl_keeps (P := fun t => t = s) (fun t k ht => ?_) _ rfl
  split
  · exact ht
  · next hk => rw [ht, State.writeBackOf_of_none (h k hk), State.invalidateCopy_of_none (h k hk)]

/-- The directory of a home finds no copy to invalidate. -/
theorem State.directory_of_alone : s.directory sec (some c) = s := by
  refine foldl_keeps (P := fun t => t = s) (fun t k ht => ?_) _ rfl
  split
  · exact ht
  · next hk => rw [ht, State.invalidateCopy_of_none (h k fun heq => hk (congrArg some heq))]
end

theorem State.directory_of_none {s : State} {sec : Nat} (h : ∀ c, s.slice? c sec = none) (except : Option Nat) : s.directory sec except = s := by
  refine foldl_keeps (P := fun t => t = s) (fun t k ht => ?_) _ rfl
  split
  · exact ht
  · rw [ht, State.invalidateCopy_of_none (h k)]

theorem contains_filter_ne (l : List Nat) (sec : Nat) : (l.filter (· != sec)).contains sec = false := by
  simp

theorem State.poison_homeWrite_of_directory {s : State} {sec : Nat} {except : Option Nat} (hd : s.directory sec except = s) (hp : s.poison.contains sec = false)
    (d : BitVec 256) (mask : BitVec 32) : (s.homeWrite sec d mask except).poison.contains sec = false := by
  rw [State.homeWrite, hd, State.poison_rawHomeWrite]
  split
  · exact contains_filter_ne _ sec
  · exact hp

/-! ### What a step leaves of a sector that one column alone holds -/

namespace OwnSector
variable {s : State} {c sec : Nat} (h : OwnSector s c sec)
include h

theorem viewByte {a : Nat} (ha : a / 32 = sec) : s.viewByte c a = s.validOver (s.slice? c sec) a := by
  subst ha
  exact Alone.viewByte h.alone

theorem peekByte {a : Nat} (ha : a / 32 = sec) : s.peekByte c a = s.overHome (s.slice? c sec) a := by
  subst ha
  exact Alone.peekByte h.alone
end OwnSector

/-- Where the column alone holds the sector, it still does, and sees the same of it, at any scope. -/
def Keeps (c sec : Nat) (s t : State) : Prop :=
  OwnSector s c sec → OwnSector t c sec ∧ ∀ a, a / 32 = sec → t.viewByte c a = s.viewByte c a ∧ t.peekByte c a = s.peekByte c a

namespace Keeps
variable {c sec : Nat} {s t u : State}

theorem refl (c sec : Nat) (s : State) : Keeps c sec s s := fun h => ⟨h, fun _ _ => ⟨rfl, rfl⟩⟩

theorem trans (h1 : Keeps c sec s t) (h2 : Keeps c sec t u) : Keeps c sec s u := fun h => by
  obtain ⟨hown, hst⟩ := h1 h
  obtain ⟨hown2, htu⟩ := h2 hown
  exact ⟨hown2, fun a ha => ⟨(htu a ha).1.trans (hst a ha).1, (htu a ha).2.trans (hst a ha).2⟩⟩

theorem foldl {α : Type} {f : State → α → State} (h : ∀ s a, Keeps c sec s (f s a)) (l : List α) (s : State) : Keeps c sec s (l.foldl f s) :=
  foldl_keeps (P := Keeps c sec s) (fun t a hs => hs.trans (h t a)) l (refl c sec s)

/-- It is enough that the copy and the homes are as before, as far as validity, dirtiness and bytes go. -/
theorem of_copy (halone : Alone s c sec → Alone t c sec) (hpoison : OwnSector s c sec → t.poison.contains sec = false)
    (hhome : OwnSector s c sec → ∀ a, a / 32 = sec → t.validOver (t.slice? c sec) a = s.validOver (s.slice? c sec) a
      ∧ t.overHome (t.slice? c sec) a = s.overHome (s.slice? c sec) a)
    (hslice : OwnSector s c sec → ∀ y, t.slice? c sec = some y → y.poison = false ∧ y.dirty &&& ~~~y.valid = 0) : Keeps c sec s t := fun h => by
  have hown : OwnSector t c sec := ⟨halone h.alone, hpoison h, hslice h⟩
  refine ⟨hown, fun a ha => ?_⟩
  rw [hown.viewByte ha, hown.peekByte ha, h.viewByte ha, h.peekByte ha]
  exact hhome h a ha
end Keeps

theorem SectorSame.keeps {c sec : Nat} {s t : State} (h : SectorSame sec s t) : Keeps c sec s t :=
  Keeps.of_copy (fun ha d hd => (h.slice d).trans (ha d hd)) (fun ho => h.poison.trans ho.home)
    (fun _ a ha => by
      have hb := h.home a ha
      simp only [State.validOver, State.overHome, h.slice, hb]
      exact ⟨trivial, trivial⟩)
    (fun ho y hy => ho.slice y (by rwa [h.slice] at hy))

theorem SameBytes.keeps {s t : State} (h : SameBytes s t) (c sec : Nat) : Keeps c sec s t := (h.sectorSame sec).keeps
theorem AtSector.keeps_other {other c sec : Nat} {s t : State} (h : AtSector other s t) (hne : sec ≠ other) : Keeps c sec s t := (h.sectorSame hne).keeps

/-- A step at one sector that keeps it keeps every sector. -/
theorem AtSector.keeps {other c : Nat} {s t : State} (h : AtSector other s t) (hown : Keeps c other s t) (sec : Nat) : Keeps c sec s t := by
  by_cases hsec : sec = other
  · exact hsec ▸ hown
  · exact h.keeps_other hsec

/-- A byte dirty in a slice is valid there. -/
theorem valid_of_dirty {x : SliceSector} (h : x.dirty &&& ~~~x.valid = 0) {i : Nat} (hi : i < 32) (hd : x.dirty.getLsbD i = true) : x.valid.getLsbD i = true := by
  have hbit : (x.dirty &&& ~~~x.valid).getLsbD i = false := by rw [h]; simp
  simpa [hd, hi] using hbit

/-- Writing dirty bytes home changes nothing that the column sees. -/
theorem State.keeps_writeBack (s : State) (c sec : Nat) : Keeps c sec s (s.writeBack c sec) := by
  refine Keeps.of_copy (s.sheds_writeBack c sec).alone (fun ho => ?_) (fun ho a ha => ?_) (fun ho y hy => ?_)
  · cases hx : s.slice? c sec with
    | none => rw [State.writeBack_of_none hx]; exact ho.home
    | some x =>
      by_cases hd : x.dirty = 0
      · rw [State.writeBack_of_clean hx hd]; exact ho.home
      · rw [State.writeBack_of_dirty hx hd, (ho.slice x hx).1, State.homePoison_false]
        exact State.poison_homeWrite_of_directory (State.directory_of_alone ho.alone) ho.home ..
  · rw [State.slice?_writeBack, State.overHome_cleaned, State.homeByte_writeBack, if_pos ha]
    refine ⟨?_, rfl⟩
    cases hx : s.slice? c sec with
    | none => simp only [Option.map_none, State.validOver, State.homeByte_writeBack, if_pos ha, hx, State.overHome]
    | some x =>
      simp only [Option.map_some, State.validOver, SliceSector.cleaned_valid, SliceSector.cleaned_data, State.homeByte_writeBack, if_pos ha, hx, State.overHome]
      by_cases hv : x.valid.getLsbD (a % 32) = true
      · simp [hv]
      · have hd : x.dirty.getLsbD (a % 32) = false := by
          by_contra hd
          exact hv (valid_of_dirty (ho.slice x hx).2 (Nat.mod_lt _ (by omega)) (by simpa using hd))
        simp [hv, hd]
  · rw [State.slice?_writeBack] at hy
    obtain ⟨x, hx, rfl⟩ := Option.map_eq_some_iff.1 hy
    refine ⟨x.cleaned_poison.trans (ho.slice x hx).1, ?_⟩
    simp

theorem State.keeps_writeBack_any (s : State) (c sec k other : Nat) : Keeps c sec s (s.writeBack k other) := by
  by_cases hsec : sec = other
  · subst hsec
    by_cases hk : k = c
    · subst hk; exact s.keeps_writeBack k sec
    · intro ho
      rw [State.writeBack_of_none (ho.alone k hk)]
      exact Keeps.refl c sec s ho
  · exact (s.cacheStep_writeBack k other).toAtSector.keeps_other hsec

/-- So does a release, whatever its scope. -/
theorem State.keeps_releaseAct (s : State) (u : MemUnit) (scope c sec : Nat) : Keeps c sec s (s.releaseAct u scope) := by
  rcases Nat.lt_trichotomy scope 3 with h | rfl | h
  · rw [State.releaseAct_narrow s u h]
    exact Keeps.refl c sec s
  · have hp := s.publishes_releaseAct u
    set q := fun c sec => ((s.flushSet u.who).2 = true ∧ clusterOf c = clusterOf u.col)
      ∨ ((s.flushSet u.who).2 = false ∧ c = u.col ∧ sec / 4 ∈ (s.flushSet u.who).1)
    have hmem : (s.releaseAct u 3).mem = s.mem := (congrArg State.mem hp.rest :)
    have hpoison : (s.releaseAct u 3).poison = s.poison := (congrArg State.poison hp.rest :)
    have hslice : ∀ d, (s.releaseAct u 3).slice? d sec = (s.slice? d sec).map SliceSector.told ∨ (s.releaseAct u 3).slice? d sec = s.slice? d sec := fun d => by
      by_cases hq : q d sec
      · exact .inl (hp.told d sec hq)
      · exact .inr (hp.other d sec hq)
    refine Keeps.of_copy (fun ha d hd => ?_) (fun ho => hpoison ▸ ho.home) (fun _ a _ => ?_) (fun ho y hy => ?_)
    · rcases hslice d with heq | heq <;> rw [heq, ha d hd]
      rfl
    · have hb := State.homeByte_of_mem hmem a
      rcases hslice c with heq | heq <;> rw [heq] <;> cases s.slice? c sec <;>
        simp [State.validOver, State.overHome, hb, SliceSector.told]
    · rcases hslice c with heq | heq <;> rw [heq] at hy
      · obtain ⟨x, hx, rfl⟩ := Option.map_eq_some_iff.1 hy
        exact ho.slice x hx
      · exact ho.slice y hy
  · rw [State.releaseAct_wide s u h]
    refine Keeps.trans ?_ ((State.sameBytes_clearFlush _ u.who).keeps c sec)
    split
    · rw [State.flushAll_eq]
      exact Keeps.foldl (fun t k => Keeps.foldl (fun v x => v.keeps_writeBack_any c sec k x) _ t) _ s
    · rw [State.flushLines_eq]
      exact Keeps.foldl (fun t x => t.keeps_writeBack_any c sec u.col x) _ s

theorem State.keeps_releaseOpt (s : State) (u : MemUnit) (a : Option Nat) (c sec : Nat) : Keeps c sec s (s.releaseOpt u a) := by
  cases a with
  | none => exact Keeps.refl c sec s
  | some x => exact s.keeps_releaseAct u x c sec

/-! ### Leaving walks, and releases below die scope -/

theorem State.sameBytes_leaveWalks (s : State) (who : Issuer) (c : Nat) : SameBytes s (s.leaveWalks who c) := by
  unfold State.leaveWalks State.leaveWalksIf
  exact s.sameBytes_modCol c _ rfl
theorem State.sameRegisters_leaveWalks (s : State) (who : Issuer) (c : Nat) : SameRegisters s (s.leaveWalks who c) := by
  unfold State.leaveWalks State.leaveWalksIf
  exact s.sameRegisters_modCol c rfl

theorem State.sameRegisters_clearFlush (s : State) (who : Agent) : SameRegisters s (s.clearFlush who) := by
  cases who with
  | grp n g => exact s.sameRegisters_modGrp n g (fun _ => ⟨rfl, rfl⟩)
  | col c => exact s.sameRegisters_modCc c (f := fun y => { y with flush := [], flushFull := false }) ⟨_, _, _, rfl⟩

theorem State.marks_clearFlush (s : State) (who : Agent) : (s.clearFlush who).marks = s.marks := by
  cases who with
  | grp n g =>
    rw [State.clearFlush]
    unfold State.modGrp
    split <;> rfl
  | col c => rfl

/-- Registers and marks are as before. -/
structure Quietly (s t : State) : Prop where
  regs : SameRegisters s t
  marks : t.marks = s.marks

namespace Quietly
variable {s t u : State}
theorem refl (s : State) : Quietly s s := ⟨SameRegisters.refl s, rfl⟩
theorem trans (h1 : Quietly s t) (h2 : Quietly t u) : Quietly s u := ⟨h1.regs.trans h2.regs, h2.marks.trans h1.marks⟩
end Quietly

theorem CacheOnly.quietly {s t : State} (h : CacheOnly s t) : Quietly s t := ⟨h.sameRegisters, h.marks⟩

theorem State.quietly_leaveWalks (s : State) (who : Issuer) (c : Nat) : Quietly s (s.leaveWalks who c) := ⟨s.sameRegisters_leaveWalks who c, rfl⟩

theorem State.quietly_releaseAct (s : State) (u : MemUnit) (scope : Nat) : Quietly s (s.releaseAct u scope) := by
  rcases Nat.lt_trichotomy scope 3 with h | rfl | h
  · rw [State.releaseAct_narrow s u h]
    exact Quietly.refl s
  · have hp := s.publishes_releaseAct u
    have hcore : ∀ n, (s.releaseAct u 3).core n = s.core n := fun n => (congrArg (fun x : State => x.core n) hp.rest :)
    refine ⟨⟨fun n g i => ?_, fun n g => ?_, fun n slot => ?_, fun c => ?_⟩, (congrArg State.marks hp.rest :)⟩
    · simp only [State.thr?, State.grp?, hcore]
    · simp only [State.grp?, hcore]
    · simp only [State.deal?, hcore]
    · exact ⟨(s.cc c).l1, (s.cc c).flush, (s.cc c).flushFull, (congrArg Column.core (hp.col c) :)⟩
  · rw [State.releaseAct_wide s u h]
    refine Quietly.trans ?_ ⟨State.sameRegisters_clearFlush _ u.who, State.marks_clearFlush _ u.who⟩
    split
    · exact (s.cacheOnly_flushAll u.col).quietly
    · exact (s.cacheOnly_flushLines u.col _).quietly

theorem State.quietly_releaseOpt (s : State) (u : MemUnit) (a : Option Nat) : Quietly s (s.releaseOpt u a) := by
  cases a with
  | none => exact Quietly.refl s
  | some x => exact s.quietly_releaseAct u x

end Sys2Proof.Machine
end

section
/-! The bytes one instruction stores (R181 to R183): lists of writes by place, and what stands in memory once they are written. -/

namespace Sys2Proof.Machine

/-! ### Lists of writes -/

/-- Bytes entered from a place on. -/
def placeRun (w : Writes) (k : Nat) (bs : List Byte) : Writes := bs.zipIdx.foldl (fun m b => mapSet m (k + b.2) b.1) w

theorem addWrite_cons (w : Writes) (x : Seg) (segs : List Seg) (bs : List Byte) :
    addWrite w (x :: segs) bs = addWrite (placeRun w x.place (bs.take x.len)) segs (bs.drop x.len) := rfl

theorem mapGet?_placeRun (w : Writes) (k : Nat) (bs : List Byte) (a : Nat) :
    mapGet? (placeRun w k bs) a = if k ≤ a ∧ a < k + bs.length then bs[a - k]? else mapGet? w a := by
  have hrun : ∀ (bs : List Byte) (j : Nat) (w : Writes), mapGet? ((bs.zipIdx j).foldl (fun m b => mapSet m (k + b.2) b.1) w) a
      = if k + j ≤ a ∧ a < k + j + bs.length then bs[a - (k + j)]? else mapGet? w a := by
    intro bs
    induction bs with
    | nil => intro j w; rw [if_neg (by simp)]; rfl
    | cons b bs ih =>
      intro j w
      rw [List.zipIdx_cons, List.foldl_cons, ih, mapGet?_mapSet, List.length_cons]
      rcases Nat.lt_trichotomy a (k + j) with h | rfl | h
      · rw [if_neg (by omega), if_neg (by omega), if_neg (by omega)]
      · rw [if_neg (by omega), if_pos rfl, if_pos (by omega), Nat.sub_self, List.getElem?_cons_zero]
      · obtain ⟨i, rfl⟩ := Nat.exists_eq_add_of_lt h
        have h1 : k + j + i + 1 - (k + j) = i + 1 := by omega
        have h2 : k + j + i + 1 - (k + (j + 1)) = i := by omega
        rw [h1, h2, List.getElem?_cons_succ]
        by_cases hi : i < bs.length
        · rw [if_pos (by omega), if_pos (by omega)]
        · rw [if_neg (by omega), if_neg (by omega), if_neg (by omega)]
  exact hrun bs 0 w

theorem mapSorted_iff {β : Type} {m : List (Nat × β)} : mapSorted m = true ↔ (m.map (·.1)).Pairwise (· < ·) := by
  induction m with
  | nil => simp [mapSorted]
  | cons e m ih =>
    obtain ⟨k, v⟩ := e
    rw [mapSorted_cons, List.map_cons, List.pairwise_cons, ih]
    simp [keysAbove]

theorem mapSorted_placeRun {w : Writes} (h : mapSorted w = true) (k : Nat) (bs : List Byte) : mapSorted (placeRun w k bs) = true := by
  unfold placeRun
  induction bs.zipIdx generalizing w with
  | nil => exact h
  | cons b r ih => exact ih (mapSorted_mapSet _ _ _ h)

theorem mapSorted_addWrite {w : Writes} (h : mapSorted w = true) (segs : List Seg) (bs : List Byte) : mapSorted (addWrite w segs bs) = true := by
  induction segs generalizing w bs with
  | nil => exact h
  | cons x segs ih =>
    rw [addWrite_cons]
    exact ih (mapSorted_placeRun h _ _) _

/-- A place of no segment is as it was. -/
theorem mapGet?_addWrite_other (w : Writes) (segs : List Seg) (bs : List Byte) {k : Nat} (h : ∀ x ∈ segs, ¬ (x.place ≤ k ∧ k < x.place + x.len)) :
    mapGet? (addWrite w segs bs) k = mapGet? w k := by
  induction segs generalizing w bs with
  | nil => rfl
  | cons x segs ih =>
    have hx := h x (List.mem_cons_self ..)
    have hlen := List.length_take_le x.len bs
    rw [addWrite_cons, ih _ _ (fun y hy => h y (List.mem_cons_of_mem _ hy)), mapGet?_placeRun, if_neg (by omega)]

theorem mapGet?_addWrite_place (w : Writes) (x : Seg) (bs : List Byte) {i : Nat} (hi : i < bs.length) (hlen : i < x.len) :
    mapGet? (addWrite w [x] bs) (x.place + i) = bs[i]? := by
  rw [addWrite_cons]
  change mapGet? (placeRun _ _ _) _ = _
  rw [mapGet?_placeRun, List.length_take, if_pos (by omega), Nat.add_sub_cancel_left, List.getElem?_take_of_lt hlen]

/-- The segments of a lane are entered one after another. -/
theorem addWrite_split (w : Writes) (x : Seg) (segs : List Seg) (bs : List Byte) :
    addWrite w (x :: segs) bs = addWrite (addWrite w [x] (bs.take x.len)) segs (bs.drop x.len) := by
  rw [addWrite_cons, addWrite_cons, List.take_take, Nat.min_self]
  rfl

/-! ### Stores to a list of sectors -/

theorem State.storeWrites_near (s : State) (u : MemUnit) {w : Writes} (order : Nat) (scope : Option Nat) (release : Nat → Option Nat)
    (hnear : ∀ x ∈ w, x.1 < 0x8000000000) :
    s.storeWrites u w order scope release = (sectorsOf w).foldl (fun t p => t.storeSector u p.1 p.2.1 p.2.2 scope (release p.1)) s := by
  have hall : w.filter (fun e => !(isRemote e.1)) = w := List.filter_eq_self.2 fun e he => by simp [isRemote_of_near (hnear e he)]
  have hnone : w.filter (fun e => isRemote e.1) = [] := List.filter_eq_nil_iff.2 fun e he => by simp [isRemote_of_near (hnear e he)]
  have hplace : ∀ (t : State), ∀ p ∈ sectorsOf w, t.storePlace u p.1 p.2.1 p.2.2 scope (release p.1) = t.storeSector u p.1 p.2.1 p.2.2 scope (release p.1) :=
    fun t p hp => by
      obtain ⟨⟨a, b⟩, hab, hsec⟩ := mem_sectorsOf_keys.1 (List.mem_map_of_mem (f := (·.1)) hp)
      have ha := hnear _ hab
      rw [State.storePlace, isWindow_of_near (by simp only at hsec ha; omega)]
      rfl
  unfold State.storeWrites
  rw [hall, hnone]
  exact List.foldl_ext _ _ _ hplace

/-- The column's copy alone changes in a store: other slices get none. -/
theorem Alone.storeSector {s : State} {u : MemUnit} {sec : Nat} (h : Alone s u.col sec) (x : Nat) (d : BitVec 256) (mask : BitVec 32)
    (scope release : Option Nat) : Alone (s.storeSector u x d mask scope release) u.col sec := by
  have hput : ∀ (t : State) (y : SliceSector), Alone t u.col sec → Alone (t.putSlice u.col x y) u.col sec := fun t y ht => by
    have hset : ∀ v : State, Alone v u.col sec → Alone (v.setSlice u.col x y) u.col sec := fun v hv k hk => by
      rw [State.slice?_setSlice, if_neg (fun h => hk h.1)]
      exact hv k hk
    unfold State.putSlice
    dsimp only
    split
    · exact hset t ht
    · split
      · exact hset _ ((t.sheds_evict u.col _).alone ht)
      · exact hset t ht
  have hbefore : ∀ t : State, Alone t u.col sec → Alone (t.beforeStore u.col (some u.unit) x) u.col sec := fun t ht => by
    refine Sheds.alone ?_ ((t.sheds_snoop u.col x).alone ht)
    rw [State.beforeStore, State.revokeOthers]
    split
    · split
      · exact State.sheds_revoke ..
      · exact Sheds.refl _
    · exact Sheds.refl _
  have hbelow : Alone (s.storeBelow u x d mask scope release) u.col sec := fun k hk => by
    rw [(s.sameBytes_storeBelow u x d mask scope release).slice?, State.sliceStore_eq]
    exact hput _ _ (hbefore _ (fun k hk => ((s.sameBytes_l1Store u.col u.unit x d mask).slice? k sec).trans (h k hk))) k hk
  rw [State.storeSector_eq]
  split
  · exact (State.sheds_writeBack _ u.col x).alone hbelow
  · exact hbelow

section
variable {s : State} {u : MemUnit} {sec : Nat} (halone : Alone s u.col sec) (d : BitVec 256) (mask : BitVec 32) (scope release : Option Nat)
include halone

/-- Where no other slice holds the sector, a store finds the copy that was there, but for its owner. -/
theorem State.slice?_beforeStore_of_alone : ∃ owner : Option Nat → Option Nat,
    ((s.l1Store u.col u.unit sec d mask).beforeStore u.col (some u.unit) sec).slice? u.col sec
      = (s.slice? u.col sec).map (fun x => { x with owner := owner x.owner }) := by
  have hl1 := s.sameBytes_l1Store u.col u.unit sec d mask
  have halone1 : Alone (s.l1Store u.col u.unit sec d mask) u.col sec := fun k hk => (hl1.slice? k _).trans (halone k hk)
  have hsame : s.slice? u.col sec = (s.slice? u.col sec).map (fun x => { x with owner := id x.owner }) := by cases s.slice? u.col sec <;> rfl
  rw [State.beforeStore, State.snoop_of_alone halone1, State.revokeOthers]
  split
  · split
    · exact ⟨fun _ => none, by rw [State.slice?_revoke, if_pos rfl, hl1.slice?]⟩
    · exact ⟨id, (hl1.slice? ..).trans hsame⟩
  · exact ⟨id, (hl1.slice? ..).trans hsame⟩

/-- The copy a store leaves, by the one it finds. -/
theorem State.storedBy_of_alone : (s.storedBy u sec d mask scope).data = mergeSector (s.sliceView u.col sec).data d mask
    ∧ (s.storedBy u sec d mask scope).valid = (s.sliceView u.col sec).valid ||| mask
    ∧ (s.storedBy u sec d mask scope).dirty = (s.sliceView u.col sec).dirty ||| mask
    ∧ (s.storedBy u sec d mask scope).poison = if mask = fullMask then false else (s.sliceView u.col sec).poison := by
  obtain ⟨owner, hfound⟩ := State.slice?_beforeStore_of_alone (u := u) halone d mask
  simp only [State.storedBy, State.storedSector, State.sliceView, hfound]
  cases s.slice? u.col sec <;> exact ⟨rfl, rfl, rfl, rfl⟩

variable (hfits : Fits s u.col sec)
include hfits

theorem State.homeByte_storeBelow_of_alone (a : Nat) : (s.storeBelow u sec d mask scope release).homeByte a = s.homeByte a := by
  have hl1 := s.sameBytes_l1Store u.col u.unit sec d mask
  have halone1 : Alone (s.l1Store u.col u.unit sec d mask) u.col sec := fun k hk => (hl1.slice? k _).trans (halone k hk)
  refine ((s.sameBytes_storeBelow u sec d mask scope release).homeByte a).trans ?_
  rw [State.sliceStore_of_fits ((s.cacheStep_l1Store u.col u.unit sec d mask).fits hfits)]
  refine (State.homeByte_of_mem rfl a).trans ?_
  rw [State.beforeStore, State.snoop_of_alone halone1]
  exact (State.homeByte_of_mem (State.revokeOthers_mem ..) a).trans (hl1.homeByte a)

theorem State.poison_storeBelow_of_alone : (s.storeBelow u sec d mask scope release).poison = s.poison := by
  have hl1 := s.sameBytes_l1Store u.col u.unit sec d mask
  have halone1 : Alone (s.l1Store u.col u.unit sec d mask) u.col sec := fun k hk => (hl1.slice? k _).trans (halone k hk)
  refine (s.sameBytes_storeBelow u sec d mask scope release).poison.trans ?_
  rw [State.sliceStore_of_fits ((s.cacheStep_l1Store u.col u.unit sec d mask).fits hfits)]
  change ((s.l1Store u.col u.unit sec d mask).beforeStore u.col (some u.unit) sec).poison = _
  rw [State.beforeStore, State.snoop_of_alone halone1, State.revokeOthers]
  split
  · split
    · exact (State.poison_revoke ..).trans hl1.poison
    · exact hl1.poison
  · exact hl1.poison

/-- A byte outside the mask of a store is seen as before by the column that stores. -/
theorem State.viewByte_storeSector_unmasked (hvalid : ∀ x, s.slice? u.col sec = some x → x.dirty &&& ~~~x.valid = 0) {a : Nat} (ha : a / 32 = sec)
    (hm : mask.getLsbD (a % 32) = false) : (s.storeSector u sec d mask scope release).viewByte u.col a = s.viewByte u.col a := by
  have hi : a % 32 < 32 := Nat.mod_lt _ (by omega)
  subst ha
  obtain ⟨hdata, hv, hd, -⟩ := State.storedBy_of_alone halone d mask scope
  have hhome := State.homeByte_storeBelow_of_alone halone d mask scope release hfits a
  have hbyte : sectorByte (s.storedBy u (a / 32) d mask scope).data (a % 32) = sectorByte (s.sliceView u.col (a / 32)).data (a % 32) := by
    rw [hdata, sectorByte_mergeSector _ _ _ hi, hm]
    rfl
  have hvbit : (s.storedBy u (a / 32) d mask scope).valid.getLsbD (a % 32) = (s.sliceView u.col (a / 32)).valid.getLsbD (a % 32) := by
    rw [hv, BitVec.getLsbD_or, hm, Bool.or_false]
  have hdbit : (s.storedBy u (a / 32) d mask scope).dirty.getLsbD (a % 32) = (s.sliceView u.col (a / 32)).dirty.getLsbD (a % 32) := by
    rw [hd, BitVec.getLsbD_or, hm, Bool.or_false]
  -- the bytes as the slice's valid ones over the home's, before and after
  have hbefore : s.viewByte u.col a = if (s.sliceView u.col (a / 32)).valid.getLsbD (a % 32) then sectorByte (s.sliceView u.col (a / 32)).data (a % 32)
      else s.homeByte a := by
    rw [Alone.viewByte halone, State.sliceView]
    cases s.slice? u.col (a / 32) with
    | none => simp [State.validOver]
    | some x => rfl
  have hdirty : (s.sliceView u.col (a / 32)).valid.getLsbD (a % 32) = false → (s.sliceView u.col (a / 32)).dirty.getLsbD (a % 32) = false := fun hnv => by
    cases hx : s.slice? u.col (a / 32) with
    | none => simp [State.sliceView, hx]
    | some x =>
      rw [State.sliceView, hx] at hnv ⊢
      by_contra hnd
      have := valid_of_dirty (hvalid x hx) hi (by simpa using hnd)
      simp [this] at hnv
  rw [hbefore, Alone.viewByte (halone.storeSector (a / 32) d mask scope release), State.slice?_storeSector, State.storeSector_eq]
  cases hw : wideScope scope with
  | false => simp only [Bool.false_eq_true, if_false, State.validOver, hvbit, hbyte, hhome]
  | true =>
    simp only [if_true, State.validOver, SliceSector.cleaned_valid, SliceSector.cleaned_data, hvbit, hbyte, State.homeByte_writeBack, State.slice?_storeBelow,
      State.overHome, hdbit, hhome]
    cases hnv : (s.sliceView u.col (a / 32)).valid.getLsbD (a % 32) with
    | true => rfl
    | false => simp [hdirty hnv]
end

section
variable (u : MemUnit) {w : Writes} (scope : Option Nat) (release : Nat → Option Nat) (hw : (w.map (·.1)).Nodup) {s : State}

/-- A store of one piece of a list of writes. -/
def storePiece (u : MemUnit) (scope : Option Nat) (release : Nat → Option Nat) (t : State) (p : Nat × BitVec 256 × BitVec 32) : State :=
  t.storeSector u p.1 p.2.1 p.2.2 scope (release p.1)

/-- With room for every piece, each concerns its sector alone. -/
theorem storePiece_at (p : Nat × BitVec 256 × BitVec 32) (l : List (Nat × BitVec 256 × BitVec 32)) (t : State) (h : Room t u.col (p :: l).length) :
    AtSector p.1 t (storePiece u scope release t p) ∧ Room (storePiece u scope release t p) u.col l.length := by
  have hat : AtSector p.1 t (storePiece u scope release t p) := State.atSector_storeSector (h.fits (by simp) p.1) ..
  exact ⟨hat, hat.room_step h⟩

variable (hroom : Room s u.col (sectorsOf w).length)

include hroom in
theorem storePieces_other {sec : Nat} (h : ∀ x ∈ w, x.1 / 32 ≠ sec) : SectorSame sec s ((sectorsOf w).foldl (storePiece u scope release) s) :=
  foldl_sector_other (I := fun l t => Room t u.col l.length) (storePiece_at u scope release) hroom fun hmem => by
    obtain ⟨e, he, hsec⟩ := mem_sectorsOf_keys.1 hmem
    exact h e he hsec

include hw hroom

/-- Each written byte is what the column sees; at die scope or wider it stands at the home. -/
theorem storePieces_byte {a : Nat} {b : Byte} (hb : mapGet? w a = some b) :
    ((sectorsOf w).foldl (storePiece u scope release) s).viewByte u.col a = b
    ∧ (wideScope scope = true → ((sectorsOf w).foldl (storePiece u scope release) s).homeByte a = b) := by
  obtain ⟨p, hp, hsec, hmask, hdata⟩ := exists_sectorsOf hw hb
  obtain ⟨t, r, -, -, hafter⟩ := foldl_sector_own (I := fun l t => Room t u.col l.length) (storePiece_at u scope release) hroom (sectorsOf_nodup w) hp
  refine ⟨?_, fun hwide => ?_⟩
  · rw [hafter.viewByte u.col hsec.symm, storePiece, State.viewByte_storeSector _ _ _ _ _ _ _ hsec.symm hmask, hdata]
  · rw [hafter.home a hsec.symm, storePiece, State.homeByte_storeSector _ _ _ _ _ _ _ hsec.symm hmask hwide, hdata]

/-- Every other byte is seen as before. -/
theorem storePieces_unwritten (halone : ∀ x ∈ w, Alone s u.col (x.1 / 32))
    (hvalid : ∀ x ∈ w, ∀ y, s.slice? u.col (x.1 / 32) = some y → y.dirty &&& ~~~y.valid = 0) {a : Nat} (ha : mapGet? w a = none) :
    ((sectorsOf w).foldl (storePiece u scope release) s).viewByte u.col a = s.viewByte u.col a := by
  by_cases hsec : ∃ x ∈ w, x.1 / 32 = a / 32
  · obtain ⟨p, hp, hpsec⟩ := List.mem_map.1 (mem_sectorsOf_keys.2 hsec)
    obtain ⟨x, hx, hxsec⟩ := hsec
    obtain ⟨t, r, hI, hbefore, hafter⟩ := foldl_sector_own (I := fun l t => Room t u.col l.length) (storePiece_at u scope release) hroom (sectorsOf_nodup w) hp
    have hmask : p.2.2.getLsbD (a % 32) = false := by
      have h32 : 32 * p.1 + a % 32 = a := by omega
      rw [mask_sectorsOf hw hp (Nat.mod_lt _ (by omega)), h32, ha]
      rfl
    have hxp : x.1 / 32 = p.1 := hxsec.trans hpsec.symm
    have halonet : Alone t u.col p.1 := fun c hc => (hbefore.slice c).trans (hxp ▸ halone x hx c hc)
    have hvalidt : ∀ y, t.slice? u.col p.1 = some y → y.dirty &&& ~~~y.valid = 0 := fun y hy => by
      rw [hbefore.slice, ← hxp] at hy
      exact hvalid x hx y hy
    rw [hafter.viewByte u.col hpsec.symm, storePiece,
      State.viewByte_storeSector_unmasked halonet _ _ _ _ (hI.fits (by simp) p.1) hvalidt hpsec.symm hmask, hbefore.viewByte u.col hpsec.symm]
  · exact (storePieces_other u scope release hroom (sec := a / 32) fun x hx heq => hsec ⟨x, hx, heq⟩).viewByte u.col rfl
end

end Sys2Proof.Machine
end

section
/-! Global stores (R173, R174, R181 to R183, R286, R291). -/

namespace Sys2Proof.Machine

/-! ### The instruction -/

/-- Where helpers alone are active, no fence is completed: a scalar context or a column core has none. -/
theorem endFences_nil {i : Instr} {r : Row} {f : Fields} {s t : State} {e : Env} {ls : List LaneView} (hi : Issues i r f s e ls)
    (hnone : storing f ls = []) : t.endFences e f [] = t := by
  obtain ⟨lv, hlv, hact⟩ := List.any_eq_true.1 hi.active
  have hhelper : lv.helper = true := by
    by_contra h
    have : lv ∈ storing f ls := mem_storing.2 ⟨hlv, hact, by simpa using h⟩
    rw [hnone] at this
    cases this
  have hctx := hi.ctx
  unfold issueCtx at hctx
  unfold State.endFences State.setFence
  split
  · rfl
  · cases hcur : s.cur with
    | col c =>
      rw [hcur] at hctx
      simp only at hctx
      split at hctx
      · cases hctx
        rw [List.mem_singleton.1 hlv] at hhelper
        cases hhelper
      · cases hctx
    | deal n slot =>
      rw [hcur] at hctx
      simp only at hctx
      cases hd : s.deal? n slot with
      | none => simp only [hd] at hctx; cases hctx
      | some d =>
        simp only [hd] at hctx
        cases hg : s.grp? n d.grp with
        | none => simp only [hg] at hctx; cases hctx
        | some x =>
          simp only [hg] at hctx
          split at hctx
          · cases hctx
          · cases hctx
            have hkind : hdrKind d.hdr ≠ 2 := fun hk => by
              obtain ⟨l, -, rfl⟩ := List.mem_map.1 hlv
              simp [laneView, hk] at hhelper
            simp only [Deal.envAt]
            split
            · rfl
            · exact if_neg hkind

section
variable {i : Instr} {r : Row} {f : Fields} {s : State} {e : Env} {ls : List LaneView} {segs : LaneView → List Seg} (hi : Issues i r f s e ls)
  (hown : OwnPositions ls) (hchecks : ∀ lv ∈ storing f ls, s.checkForm (s.memCtx e) e (globalEa ls lv f) (sizeBytes f.modx.toNat) .store (strongScope f)
    (r.mem = .strl) = .segs (segs lv))
include hi hown hchecks

/-- A store whose lanes all pass their checks: the bytes of every lane are written, a release first. -/
theorem runMem_store (hne : storing f ls ≠ []) (hwait : s.mustWait (s.memCtx e) f = false) : runMem i storeBody s =
    ((((s.leaveWalks e.who (s.memCtx e).unit.col).releaseOpt (s.memCtx e).unit (releaseOf f)).storeWrites (s.memCtx e).unit
      ((storing f ls).foldl (fun acc lv => addWrite acc (segs lv) (storeData r ls lv f)) []) (memOrder f) (strongScope f)
      (fun sec => ((storing f ls).filter (fun lv => inSector (segs lv) sec)).foldl (fun a lv => widest a (s.releaseScope e f lv)) none)).endFences e f
      (storing f ls)).commit e (laneStored f ls) (wordsOf f) := by
  have hmap : ((storing f ls).map fun lv => (lv, s.checkForm (s.memCtx e) e (globalEa ls lv f) (sizeBytes f.modx.toNat) .store (strongScope f)
      (r.mem = .strl))) = (storing f ls).map fun lv => (lv, AccRes.segs (segs lv)) := List.map_congr_left fun lv hlv => by rw [hchecks lv hlv]
  have hgo : ((storing f ls).map fun lv => (lv, segs lv)).isEmpty = false := by simpa using hne
  rw [runMem_issues _ hi]
  simp only [storeBody]
  erw [hmap, walksOf_segs, performing_segs, hgo, hwait, failList_segs, map_fst_segs]
  simp only [List.foldl_map, List.filter_map, Bool.and_false, Bool.false_eq_true, if_false, List.nil_append, List.map_map]
  exact State.finishMem_stored hown _ r e

omit hchecks in
/-- Where helpers alone are active nothing is stored. -/
theorem runMem_store_none (hnone : storing f ls = []) :
    runMem i storeBody s = (s.leaveWalks e.who (s.memCtx e).unit.col).commit e (laneStored f ls) (wordsOf f) := by
  have hfences : ∀ t : State, t.endFences e f [] = t := fun t => endFences_nil hi hnone
  rw [runMem_issues _ hi]
  have hact : (ls.filter (laneActive f)).filter (fun lv => !lv.helper) = [] := hnone
  have hdone := State.finishMem_stored hown (f := f) (s.leaveWalks e.who (s.memCtx e).unit.col) r e
  rw [hnone] at hdone
  simp only [storeBody, hact, List.map_nil]
  erw [hfences]
  exact hdone
end

/-! ### Bytes written at die scope or wider -/

/-- A byte that stands at its home, with no other byte for it in the one slice that may hold its sector. -/
structure Firm (c a : Nat) (b : Byte) (t : State) : Prop where
  alone : Alone t c (a / 32)
  home : t.homeByte a = b
  copy : ∀ x, t.slice? c (a / 32) = some x → x.dirty = 0 ∧ (x.valid.getLsbD (a % 32) = true → sectorByte x.data (a % 32) = b)

namespace Firm
variable {c a : Nat} {b : Byte} {s t : State}

theorem viewByte (h : Firm c a b s) : s.viewByte c a = b := by
  rw [Alone.viewByte h.alone]
  cases hx : s.slice? c (a / 32) with
  | none => exact h.home
  | some x =>
    by_cases hv : x.valid.getLsbD (a % 32) = true
    · simp only [State.validOver, hv, if_true]
      exact (h.copy x hx).2 hv
    · simp only [State.validOver, hv]
      exact h.home

theorem sectorSame (h : Firm c a b s) (hs : SectorSame (a / 32) s t) : Firm c a b t :=
  ⟨fun k hk => (hs.slice k).trans (h.alone k hk), (hs.home a rfl).trans h.home, fun x hx => h.copy x ((hs.slice c).symm.trans hx)⟩

theorem evict (h : Firm c a b s) (k sec : Nat) : Firm c a b (s.evict k sec) := by
  by_cases hsec : a / 32 = sec
  · subst hsec
    by_cases hk : k = c
    · subst hk
      refine ⟨(s.sheds_evict k _).alone h.alone, ?_, fun x hx => ?_⟩
      · rw [State.homeByte_evict]
        split
        · cases hx : s.slice? k (a / 32) with
          | none => exact h.home
          | some x => simp [State.overHome, (h.copy x hx).1, h.home]
        · exact h.home
      · rw [State.slice?_evict] at hx
        cases hx
    · rw [State.evict_of_none (h.alone k hk)]; exact h
  · exact h.sectorSame ((s.cacheStep_evict k sec).toAtSector.sectorSame hsec)

/-- A store to another sector, with room for it or without. -/
theorem storeSector (h : Firm c a b s) (u : MemUnit) {sec : Nat} (hsec : a / 32 ≠ sec) (d : BitVec 256) (mask : BitVec 32) (scope release : Option Nat) :
    Firm c a b (s.storeSector u sec d mask scope release) := by
  have hput : ∀ (t : State) (k : Nat) (x : SliceSector), Firm c a b t → Firm c a b (t.putSlice k sec x) := fun t k x ht => by
    have hset : ∀ v : State, Firm c a b v → Firm c a b (v.setSlice k sec x) := fun v hv =>
      hv.sectorSame ((v.cacheStep_setSlice k sec x).toAtSector.sectorSame hsec)
    unfold State.putSlice
    dsimp only
    split
    · exact hset t ht
    · split
      · exact hset _ (ht.evict k _)
      · exact hset t ht
  have hbelow : Firm c a b (s.storeBelow u sec d mask scope release) := by
    refine Firm.sectorSame ?_ ((s.sameBytes_storeBelow u sec d mask scope release).sectorSame _)
    rw [State.sliceStore_eq]
    refine hput _ _ _ (Firm.sectorSame ?_ ((State.cacheStep_beforeStore _ u.col (some u.unit) sec).toAtSector.sectorSame hsec))
    exact h.sectorSame ((s.sameBytes_l1Store u.col u.unit sec d mask).sectorSame _)
  rw [State.storeSector_eq]
  split
  · exact hbelow.sectorSame ((State.cacheStep_writeBack _ u.col sec).toAtSector.sectorSame hsec)
  · exact hbelow
end Firm

/-- A byte stored at die scope or wider in a sector of its column alone stands firm. -/
theorem firm_storeSector {s : State} {u : MemUnit} {a : Nat} (h : Alone s u.col (a / 32)) (d : BitVec 256) {mask : BitVec 32} {scope : Option Nat}
    (release : Option Nat) (hm : mask.getLsbD (a % 32) = true) (hw : wideScope scope = true) :
    Firm u.col a (sectorByte d (a % 32)) (s.storeSector u (a / 32) d mask scope release) := by
  refine ⟨h.storeSector (a / 32) d mask scope release, State.homeByte_storeSector _ _ _ _ _ _ _ rfl hm hw, fun x hx => ?_⟩
  rw [State.slice?_storeSector, if_pos hw] at hx
  cases hx
  refine ⟨SliceSector.cleaned_dirty _, fun _ => ?_⟩
  rw [SliceSector.cleaned_data]
  exact s.sectorByte_storedBy u _ d mask scope (Nat.mod_lt _ (by omega)) hm

/-- Bytes stored at die scope or wider stand at their homes and are what the column sees, whether its slice has room for all of them or not. -/
theorem storePieces_firm (u : MemUnit) {w : Writes} {scope : Option Nat} (release : Nat → Option Nat) (hw : (w.map (·.1)).Nodup) (hwide : wideScope scope = true)
    {s : State} {a : Nat} {b : Byte} (halone : Alone s u.col (a / 32)) (hb : mapGet? w a = some b) :
    Firm u.col a b ((sectorsOf w).foldl (storePiece u scope release) s) := by
  obtain ⟨p, hp, hsec, hmask, hdata⟩ := exists_sectorsOf hw hb
  have hafter : ∀ (l : List (Nat × BitVec 256 × BitVec 32)) (t : State), a / 32 ∉ l.map (·.1) → Firm u.col a b t →
      Firm u.col a b (l.foldl (storePiece u scope release) t) := by
    intro l
    induction l with
    | nil => exact fun _ _ h => h
    | cons q l ih =>
      intro t hnot ht
      obtain ⟨hne, hrest⟩ := not_or.1 (mt List.mem_cons.2 hnot)
      exact ih _ hrest (ht.storeSector u hne ..)
  obtain ⟨sec, d, mask⟩ := p
  dsimp only at hsec hmask hdata
  subst hsec
  have hnodup := sectorsOf_nodup w
  generalize sectorsOf w = l at hp hnodup
  induction l generalizing s with
  | nil => cases hp
  | cons q l ih =>
    obtain ⟨hhead, htail⟩ := List.nodup_cons.1 hnodup
    rcases List.mem_cons.1 hp with rfl | hmem
    · refine hafter l _ hhead ?_
      rw [← hdata]
      exact firm_storeSector halone d (release (a / 32)) hmask hwide
    · exact ih (halone.storeSector q.1 q.2.1 q.2.2 scope (release q.1)) hmem htail

/-! ### The lanes' places -/

section
variable {L : List LaneView} (ea place : LaneView → Nat) (n : Nat) (data : LaneView → List Byte)

/-- The bytes of lanes that each name one place. -/
def laneWrites (L : List LaneView) (ea place : LaneView → Nat) (n : Nat) (data : LaneView → List Byte) : Writes :=
  L.foldl (fun acc lv => addWrite acc [⟨ea lv, n, place lv, false⟩] (data lv)) []

theorem sorted_laneWrites : ((laneWrites L ea place n data).map (·.1)).Pairwise (· < ·) := by
  refine mapSorted_iff.1 ?_
  unfold laneWrites
  suffices h : ∀ w : Writes, mapSorted w = true → mapSorted (L.foldl (fun acc lv => addWrite acc [⟨ea lv, n, place lv, false⟩] (data lv)) w) = true from h [] rfl
  induction L with
  | nil => exact fun _ h => h
  | cons lv L ih => exact fun w h => ih _ (mapSorted_addWrite h _ _)

theorem nodup_laneWrites : ((laneWrites L ea place n data).map (·.1)).Nodup := (sorted_laneWrites ea place n data).imp Nat.ne_of_lt

/-- Every write is at a place of some lane. -/
theorem mem_laneWrites {x : Nat × Byte} (hx : x ∈ laneWrites L ea place n data) : ∃ lv ∈ L, place lv ≤ x.1 ∧ x.1 < place lv + n := by
  have hget := (mem_iff_mapGet? (nodup_laneWrites ea place n data)).1 hx
  suffices h : ∀ w : Writes, mapGet? (L.foldl (fun acc lv => addWrite acc [⟨ea lv, n, place lv, false⟩] (data lv)) w) x.1 = some x.2 →
      mapGet? w x.1 = some x.2 ∨ ∃ lv ∈ L, place lv ≤ x.1 ∧ x.1 < place lv + n from (h [] hget).resolve_left nofun
  clear hx hget
  induction L with
  | nil => exact fun _ h => .inl h
  | cons lv L ih =>
    intro w h
    rcases ih _ h with hw | ⟨l, hl, hin⟩
    · by_cases hin : place lv ≤ x.1 ∧ x.1 < place lv + n
      · exact .inr ⟨lv, List.mem_cons_self .., hin⟩
      · rw [mapGet?_addWrite_other _ _ _ (by simpa using hin)] at hw
        exact .inl hw
    · exact .inr ⟨l, List.mem_cons_of_mem _ hl, hin⟩

/-- Lanes of at most 8 bytes write at most two sectors each. -/
theorem length_sectorsOf_laneWrites (hn : n ≤ 8) : (sectorsOf (laneWrites L ea place n data)).length ≤ 2 * L.length := by
  have hsub : (sectorsOf (laneWrites L ea place n data)).map (·.1) ⊆ L.flatMap (fun lv => [place lv / 32, (place lv + n - 1) / 32]) := fun sec hsec => by
    obtain ⟨x, hx, rfl⟩ := mem_sectorsOf_keys.1 hsec
    obtain ⟨lv, hlv, hge, hlt⟩ := mem_laneWrites ea place n data hx
    refine List.mem_flatMap.2 ⟨lv, hlv, ?_⟩
    simp only [List.mem_cons, List.not_mem_nil, or_false]
    omega
  have hlen := (List.subperm_of_subset (sectorsOf_nodup _) hsub).length_le
  have htwo : (L.flatMap (fun lv => [place lv / 32, (place lv + n - 1) / 32])).length = 2 * L.length := by
    simp [List.length_flatMap, Nat.mul_comm]
  rwa [List.length_map, htwo] at hlen
end

theorem sizeBytes_le (m : Nat) : sizeBytes m ≤ 8 := by
  unfold sizeBytes
  split_ifs <;> omega

/-! ### Releases below die scope -/

theorem State.slice_length_publish (s : State) (k : Nat) (p : Nat → Bool) (c : Nat) : ((s.publish k p).col c).slice.length = (s.col c).slice.length := by
  unfold State.publish
  rw [State.col_modCol]
  split
  · next h => subst h; simp
  · rfl

theorem State.room_releaseAct {s : State} (u : MemUnit) {scope c n : Nat} (h : scope < 4) (hr : Room s c n) : Room (s.releaseAct u scope) c n := by
  rcases Nat.lt_or_ge scope 3 with hlt | hge
  · rw [State.releaseAct_narrow s u hlt]
    exact hr
  · obtain rfl : scope = 3 := by omega
    have hact : s.releaseAct u 3 = if (s.flushSet u.who).2 then (clusterCols (clusterOf u.col)).foldl (fun t k => t.publish k (fun _ => true)) s
        else s.publish u.col (fun sec => (s.flushSet u.who).1.contains (sec / 4)) := rfl
    have hlen : ((s.releaseAct u 3).col c).slice.length = (s.col c).slice.length := by
      rw [hact]
      split
      · exact foldl_keeps (P := fun t => (t.col c).slice.length = (s.col c).slice.length)
          (fun t k ht => (t.slice_length_publish k _ c).trans ht) _ rfl
      · exact s.slice_length_publish ..
    unfold Room at *
    rw [hlen]
    exact hr

theorem Publishes.viewByte {q : Nat → Nat → Prop} {s t : State} (h : Publishes q s t) (c a : Nat) : t.viewByte c a = s.viewByte c a := by
  have hmem : t.mem = s.mem := (congrArg State.mem h.rest :)
  have hslice : ∀ d sec, t.slice? d sec = (s.slice? d sec).map SliceSector.told ∨ t.slice? d sec = s.slice? d sec := fun d sec => by
    by_cases hq : q d sec
    · exact .inl (h.told d sec hq)
    · exact .inr (h.other d sec hq)
  have hsnoop : t.snoopedByte c a = s.snoopedByte c a := by
    unfold State.snoopedByte State.peerByte
    rw [State.homeByte_of_mem hmem]
    congr 2
    funext k
    split
    · rfl
    · rcases hslice k (a / 32) with heq | heq <;> rw [heq]
      cases s.slice? k (a / 32) <;> rfl
  unfold State.viewByte
  rw [hsnoop]
  rcases hslice c (a / 32) with heq | heq <;> rw [heq]
  cases s.slice? c (a / 32) <;> rfl

theorem State.viewByte_releaseAct (s : State) (u : MemUnit) {scope : Nat} (h : scope < 4) (c a : Nat) : (s.releaseAct u scope).viewByte c a = s.viewByte c a := by
  rcases Nat.lt_or_ge scope 3 with hlt | hge
  · rw [State.releaseAct_narrow s u hlt]
  · obtain rfl : scope = 3 := by omega
    exact (s.publishes_releaseAct u).viewByte c a

/-- The scope of a release is that of the access. -/
theorem strongScope_of_releaseOf {f : Fields} {x : Nat} (h : releaseOf f = some x) : strongScope f = some x := by
  unfold releaseOf at h
  unfold strongScope
  split at h
  · next hr =>
    rw [if_neg]
    · exact h
    · intro h0
      rw [h0] at hr
      cases hr
  · cases h

/-! ### Stores by conditions on the state -/

section
variable {i : Instr} {r : Row} {f : Fields} {s : State} {e : Env} {ls : List LaneView} {place : LaneView → Nat} (hi : Issues i r f s e ls)
  (hown : OwnPositions ls)
  (hreach : ∀ lv ∈ storing f ls, Reaches s (s.memCtx e) .store (globalEa ls lv f) (sizeBytes f.modx.toNat) (place lv)
    ∧ (r.mem = .strl → globalEa ls lv f % sizeBytes f.modx.toNat = 0)
    ∧ ∀ j, j < sizeBytes f.modx.toNat → OwnSector s (s.memCtx e).unit.col ((place lv + j) / 32))
  (hroom : Room s (s.memCtx e).unit.col (2 * ls.length))
include hi hown hreach

theorem runMem_store_near (hne : storing f ls ≠ []) (hwait : s.mustWait (s.memCtx e) f = false) : ∃ release, runMem i storeBody s =
    ((((s.leaveWalks e.who (s.memCtx e).unit.col).releaseOpt (s.memCtx e).unit (releaseOf f)).storeWrites (s.memCtx e).unit
      (laneWrites (storing f ls) (globalEa ls · f) place (sizeBytes f.modx.toNat) (storeData r ls · f)) (memOrder f) (strongScope f) release).endFences e f
      (storing f ls)).commit e (laneStored f ls) (wordsOf f) := by
  have hchecks : ∀ lv ∈ storing f ls, ∃ cr, s.checkForm (s.memCtx e) e (globalEa ls lv f) (sizeBytes f.modx.toNat) .store (strongScope f)
      (r.mem = .strl) = .segs [⟨globalEa ls lv f, sizeBytes f.modx.toNat, place lv, cr⟩] := fun lv hlv => by
    obtain ⟨hr, hal, -⟩ := hreach lv hlv
    refine hr.checkForm nofun e (by simpa using hal) ?_
    unfold State.accPoison
    split <;> rfl
  choose! cr hcr using hchecks
  exact ⟨_, runMem_store (segs := fun lv => [⟨globalEa ls lv f, sizeBytes f.modx.toNat, place lv, cr lv⟩]) hi hown hcr hne hwait⟩

omit hi hown in
theorem laneWrites_own {x : Nat × Byte}
    (hx : x ∈ laneWrites (storing f ls) (globalEa ls · f) place (sizeBytes f.modx.toNat) (storeData r ls · f)) :
    x.1 < 0x8000000000 ∧ OwnSector s (s.memCtx e).unit.col (x.1 / 32) := by
  obtain ⟨lv, hlv, hge, hlt⟩ := mem_laneWrites _ _ _ _ hx
  obtain ⟨hr, -, hsec⟩ := hreach lv hlv
  have hnear := hr.near
  obtain ⟨j, hj⟩ := Nat.exists_eq_add_of_le hge
  exact ⟨by omega, hj ▸ hsec j (by omega)⟩

include hroom in
theorem runMem_store_completes (hne : storing f ls ≠ []) (hwait : s.mustWait (s.memCtx e) f = false) :
    let w := laneWrites (storing f ls) (globalEa ls · f) place (sizeBytes f.modx.toNat) (storeData r ls · f)
    ∃ t : State, runMem i storeBody s = (t.endFences e f (storing f ls)).commit e (laneStored f ls) (wordsOf f) ∧ SameRegisters s t
      ∧ (∀ k b, mapGet? w k = some b → t.viewByte (s.memCtx e).unit.col k = b ∧ (∀ x, strongScope f = some x → 4 ≤ x → t.homeByte k = b))
      ∧ ((∀ x, releaseOf f = some x → x < 4) → ∀ k, mapGet? w k = none →
        t.viewByte (s.memCtx e).unit.col k = s.viewByte (s.memCtx e).unit.col k) := by
  intro w
  obtain ⟨release, hrun⟩ := runMem_store_near hi hown hreach hne hwait
  set u := (s.memCtx e).unit
  set s1 := s.leaveWalks e.who u.col
  have hnodup : (w.map (·.1)).Nodup := nodup_laneWrites ..
  have hkeeps : ∀ sec, Keeps u.col sec s (s1.releaseOpt u (releaseOf f)) := fun sec =>
    ((s.sameBytes_leaveWalks e.who u.col).keeps u.col sec).trans (s1.keeps_releaseOpt u (releaseOf f) u.col sec)
  have hsec : ∀ x ∈ w, OwnSector (s1.releaseOpt u (releaseOf f)) u.col (x.1 / 32) := fun x hx => (hkeeps _ (laneWrites_own hreach hx).2).1
  have hwrites := (s1.releaseOpt u (releaseOf f)).storeWrites_near u (memOrder f) (strongScope f) release fun x hx => (laneWrites_own hreach hx).1
  have hcount : (sectorsOf w).length ≤ 2 * ls.length := by
    have h1 := length_sectorsOf_laneWrites (L := storing f ls) (globalEa ls · f) place _ (storeData r ls · f) (sizeBytes_le f.modx.toNat)
    have h2 : (storing f ls).length ≤ ls.length := (List.filter_sublist.trans List.filter_sublist).length_le
    exact h1.trans (by omega)
  -- below die scope a release takes up no room
  have hnarrow : (∀ x, releaseOf f = some x → x < 4) → Room (s1.releaseOpt u (releaseOf f)) u.col (sectorsOf w).length
      ∧ ∀ k, (s1.releaseOpt u (releaseOf f)).viewByte u.col k = s.viewByte u.col k := fun h => by
    have hroom1 := (s.sameBytes_leaveWalks e.who u.col).room (hroom.mono hcount)
    have hview1 := (s.sameBytes_leaveWalks e.who u.col).viewByte u.col
    cases hrel : releaseOf f with
    | none => exact ⟨hroom1, hview1⟩
    | some x => exact ⟨State.room_releaseAct u (h x hrel) hroom1, fun k => (s1.viewByte_releaseAct u (h x hrel) u.col k).trans (hview1 k)⟩
  refine ⟨_, hrun, ?_, fun k b hb => ?_, fun h k hk => ?_⟩
  · rw [hwrites]
    exact ((s.sameRegisters_leaveWalks e.who u.col).trans (s1.quietly_releaseOpt u (releaseOf f)).regs).trans
      (Calm.foldl (fun t p => t.calm_storeSector ..) _ _).toSameRegisters
  · rw [hwrites]
    cases hwide : wideScope (strongScope f) with
    | true =>
      have hfirm := storePieces_firm u release hnodup hwide (hsec _ (mem_of_mapGet? hb)).alone hb
      exact ⟨hfirm.viewByte, fun _ _ _ => hfirm.home⟩
    | false =>
      have hscope : ∀ x, strongScope f = some x → x < 4 := fun x hx => by
        rw [hx] at hwide
        simpa [wideScope] using hwide
      have hbyte := storePieces_byte u (strongScope f) release hnodup (hnarrow fun x hx => hscope x (strongScope_of_releaseOf hx)).1 hb
      exact ⟨hbyte.1, fun x hx hge => absurd (hscope x hx) (by omega)⟩
  · obtain ⟨hroom2, hview⟩ := hnarrow h
    rw [hwrites, ← hview k]
    exact storePieces_unwritten u (strongScope f) release hnodup hroom2 (fun x hx => (hsec x hx).alone)
      (fun x hx y hy => ((hsec x hx).slice y hy).2) hk
end

/-! ### The list of writes -/

/-- A list of writes stored. -/
theorem storeWrites_stores (s : State) (u : MemUnit) (w : Writes) (order : Nat) (scope : Option Nat) (release : Nat → Option Nat)
    (hw : (w.map (·.1)).Pairwise (· < ·))
    (hnear : ∀ x ∈ w, x.1 < 0x8000000000 ∧ ∀ y, s.slice? u.col (x.1 / 32) = some y → y.dirty &&& ~~~y.valid = 0) (hroom : Room s u.col w.length) :
    let t := s.storeWrites u w order scope release
    (∀ x ∈ w, t.viewByte u.col x.1 = x.2 ∧ (∀ z, scope = some z → 4 ≤ z → t.homeByte x.1 = x.2))
    ∧ ((∀ x ∈ w, ∀ c, c ≠ u.col → s.slice? c (x.1 / 32) = none) → ∀ k, mapGet? w k = none → t.viewByte u.col k = s.viewByte u.col k)
    ∧ (∀ c k, (∀ x ∈ w, x.1 / 32 ≠ k / 32) → t.viewByte c k = s.viewByte c k ∧ t.homeByte k = s.homeByte k)
    ∧ (Memory.wf s.mem → Memory.wf t.mem) := by
  intro t
  have hnodup : (w.map (·.1)).Nodup := hw.imp Nat.ne_of_lt
  have ht : t = (sectorsOf w).foldl (storePiece u scope release) s := s.storeWrites_near u order scope release fun x hx => (hnear x hx).1
  have hcount : (sectorsOf w).length ≤ w.length := by
    have hsub : (sectorsOf w).map (·.1) ⊆ w.map (fun x => x.1 / 32) := fun sec hsec => by
      obtain ⟨x, hx, rfl⟩ := mem_sectorsOf_keys.1 hsec
      exact List.mem_map_of_mem (f := fun x : Nat × Byte => x.1 / 32) hx
    simpa using (List.subperm_of_subset (sectorsOf_nodup w) hsub).length_le
  have hroom2 := hroom.mono hcount
  rw [ht]
  refine ⟨fun x hx => ?_, fun halone k hk => ?_, fun c k hk => ?_, fun hwf => ?_⟩
  · obtain ⟨hview, hhome⟩ := storePieces_byte u scope release hnodup hroom2 ((mem_iff_mapGet? hnodup).1 hx)
    refine ⟨hview, fun z hz hge => hhome ?_⟩
    rw [hz]
    simpa [wideScope] using hge
  · exact storePieces_unwritten u scope release hnodup hroom2 (fun x hx c hc => halone x hx c hc) (fun x hx => (hnear x hx).2) hk
  · have hsame := storePieces_other u scope release hroom2 hk
    exact ⟨hsame.viewByte c rfl, hsame.home k rfl⟩
  · exact foldl_wf _ (fun v p hv => v.storeSector_wf u p.1 _ _ scope _ hv) _ _ hwf

/-- Settles O28: the bytes of the lanes as a list of writes, one step for each sector that it meets. -/
theorem globalStores : Obligations.GlobalStores := by
  unfold Obligations.GlobalStores
  refine ⟨?checked, ?near, fun w segs bs k h => mapGet?_addWrite_other w segs bs h, fun w x bs i hi hlen => mapGet?_addWrite_place w x bs hi hlen,
    fun w x segs bs => addWrite_split w x segs bs, fun w segs bs h => mapSorted_iff.1 (mapSorted_addWrite (mapSorted_iff.2 h) segs bs),
    storeWrites_stores⟩
  case checked =>
    intro mk hmk r f s e ls segs hi hown m n hchecks
    simp only [List.mem_cons, List.not_mem_nil, or_false] at hmk
    rcases hmk with rfl | rfl | rfl <;>
      exact ⟨fun hne hwait => congrArg Host.Outcome.next (runMem_store hi hown hchecks hne hwait),
        fun hnone => congrArg Host.Outcome.next (runMem_store_none hi hown hnone)⟩
  case near =>
    intro mk hmk r f s e ls place hi hown m n data w hreach hroom hwait
    have hcompletes := fun (i : Instr) (hi : Issues i r f s e ls) (hne : storing f ls ≠ []) => runMem_store_completes hi hown hreach hroom hne hwait
    simp only [List.mem_cons, List.not_mem_nil, or_false] at hmk
    rcases hmk with rfl | rfl | rfl <;> refine ⟨fun hne => ?_, fun hnone => congrArg Host.Outcome.next (runMem_store_none hi hown hnone)⟩ <;>
      obtain ⟨t, hrun, hrest⟩ := hcompletes _ hi hne <;> exact ⟨t, congrArg Host.Outcome.next hrun, hrest⟩

end Sys2Proof.Machine
end

section
/-! Loads of sectors that one column alone holds (R181, R276, R282): the bytes, and what a load leaves as it was. -/

namespace Sys2Proof.Machine

theorem isForeign_sector (d a : Nat) : isForeign d (32 * (a / 32)) = isForeign d a := by
  have hremote : isRemote (32 * (a / 32)) = isRemote a := by
    simp only [isRemote]
    exact decide_eq_decide.2 (by omega)
  rw [isForeign, isForeign, homeDie_sector, hremote]

/-! ### Filling a slice -/

theorem State.l1_setSlice (s : State) (c sec : Nat) (x : SliceSector) (d v : Nat) : (s.setSlice c sec x).l1 d v = s.l1 d v := by
  unfold State.l1
  split
  · rfl
  · simp only [State.cc, State.setSlice, State.col_modCol]
    split
    · next h => subst h; rfl
    · rfl

/-- The sector a slice has once every byte of it is fetched. -/
def State.filled (s : State) (c sec : Nat) : SliceSector :=
  match s.slice? c sec with
  | some x => if x.valid = fullMask then x else { x with data := mergeSector (s.homeSector sec) x.data x.valid, valid := fullMask }
  | none => ⟨s.homeSector sec, fullMask, 0, 0, none, false⟩

section
variable {s : State} {c sec : Nat} (ho : OwnSector s c sec)
include ho

/-- Filling finds the sector complete, or enters it complete. -/
theorem OwnSector.fillSlice (hfits : Fits s c sec) : (s.fillSlice c sec = s ∧ s.slice? c sec = some (s.filled c sec))
    ∨ s.fillSlice c sec = (s.homeTouch sec false).setSlice c sec (s.filled c sec) := by
  have hhome : (s.homeTouch sec false).homeSector sec = s.homeSector sec := by
    simp only [State.homeSector, State.homeByte_homeTouch]
  have hpoison : (s.homeTouch sec false).poison.contains sec = false := by rw [State.poison_homeTouch]; exact ho.home
  unfold State.fillSlice State.filled
  cases hx : s.slice? c sec with
  | none =>
    dsimp only
    rw [State.snoopRead_of_alone ho.alone, hpoison, if_neg nofun, hhome, State.putSlice_of_fits (((s.sameBytes_homeTouch sec false).atSector sec).fits hfits)]
    exact .inr rfl
  | some x =>
    dsimp only
    by_cases hv : x.valid = fullMask
    · simp only [hv, if_true]
      exact .inl ⟨trivial, trivial⟩
    · rw [if_neg hv, if_neg hv, State.snoopRead_of_alone ho.alone, hpoison, if_neg nofun, hhome]
      exact .inr rfl

theorem OwnSector.slice?_fillSlice (hfits : Fits s c sec) : (s.fillSlice c sec).slice? c sec = some (s.filled c sec) := by
  rcases ho.fillSlice hfits with ⟨heq, hx⟩ | heq
  · rw [heq]; exact hx
  · rw [heq, State.slice?_setSlice, if_pos ⟨rfl, rfl⟩]

theorem OwnSector.cacheStep_fillSlice (hfits : Fits s c sec) : CacheStep sec s (s.fillSlice c sec) := by
  rcases ho.fillSlice hfits with ⟨heq, -⟩ | heq
  · rw [heq]; exact CacheStep.refl sec s
  · rw [heq]; exact (s.cacheStep_homeTouch sec false).trans (State.cacheStep_setSlice ..)

theorem OwnSector.mem_fillSlice (hfits : Fits s c sec) : (s.fillSlice c sec).mem = s.mem := by
  rcases ho.fillSlice hfits with ⟨heq, -⟩ | heq
  · rw [heq]
  · rw [heq]; exact s.homeTouch_mem sec false

theorem OwnSector.poison_fillSlice (hfits : Fits s c sec) : (s.fillSlice c sec).poison = s.poison := by
  rcases ho.fillSlice hfits with ⟨heq, -⟩ | heq
  · rw [heq]
  · rw [heq]; exact s.poison_homeTouch sec false

theorem OwnSector.l1_fillSlice (hfits : Fits s c sec) (d v : Nat) : (s.fillSlice c sec).l1 d v = s.l1 d v := by
  rcases ho.fillSlice hfits with ⟨heq, -⟩ | heq
  · rw [heq]
  · have htouch : (s.homeTouch sec false).l1 d v = s.l1 d v := by
      unfold State.homeTouch
      split <;> rfl
    rw [heq, State.l1_setSlice, htouch]

omit ho in
theorem State.filled_valid (s : State) (c sec : Nat) : (s.filled c sec).valid = fullMask := by
  unfold State.filled
  split
  · split
    · next h => exact h
    · rfl
  · rfl

theorem OwnSector.filled_poison : (s.filled c sec).poison = false := by
  unfold State.filled
  split
  · next x hx => split <;> exact (ho.slice x hx).1
  · rfl

/-- What fills a sector are the bytes that the column sees. -/
theorem OwnSector.filled_byte {a : Nat} (ha : a / 32 = sec) : sectorByte (s.filled c sec).data (a % 32) = s.viewByte c a := by
  have hi : a % 32 < 32 := Nat.mod_lt _ (by omega)
  have h32 : 32 * sec + a % 32 = a := by omega
  rw [ho.viewByte ha]
  unfold State.filled State.validOver
  cases hx : s.slice? c sec with
  | none =>
    dsimp only
    rw [State.sectorByte_homeSector _ _ hi, h32]
  | some x =>
    dsimp only
    split
    · next hv => rw [hv, getLsbD_fullMask hi, if_pos rfl]
    · rw [sectorByte_mergeSector _ _ _ hi, State.sectorByte_homeSector _ _ hi, h32]

theorem OwnSector.filled_over {a : Nat} (ha : a / 32 = sec) : s.overHome (some (s.filled c sec)) a = s.overHome (s.slice? c sec) a := by
  have hi : a % 32 < 32 := Nat.mod_lt _ (by omega)
  have hbyte := ho.filled_byte ha
  rw [ho.viewByte ha] at hbyte
  unfold State.overHome
  dsimp only
  rw [hbyte]
  unfold State.filled State.validOver
  cases hx : s.slice? c sec with
  | none => simp
  | some x =>
    have hdirty : x.dirty.getLsbD (a % 32) = true → x.valid.getLsbD (a % 32) = true := valid_of_dirty (ho.slice x hx).2 hi
    dsimp only
    by_cases hd : x.dirty.getLsbD (a % 32) = true
    · simp only [hdirty hd, if_true]
      split <;> rfl
    · simp only [hd]
      split <;> simp

/-- A fill changes nothing that the column sees. -/
theorem OwnSector.keeps_fillSlice (hfits : Fits s c sec) : Keeps c sec s (s.fillSlice c sec) := by
  have hslice := ho.slice?_fillSlice hfits
  have hhome := State.homeByte_of_mem (ho.mem_fillSlice hfits)
  refine Keeps.of_copy (fun ha d hd => ?_) (fun _ => by rw [ho.poison_fillSlice hfits]; exact ho.home) (fun _ a ha => ?_) (fun _ y hy => ?_)
  · rcases ho.fillSlice hfits with ⟨heq, -⟩ | heq
    · rw [heq]; exact ha d hd
    · rw [heq, State.slice?_setSlice, if_neg (fun h => hd h.1), State.slice?_homeTouch, ha d hd]
  · rw [hslice]
    refine ⟨?_, ?_⟩
    · have hv : (s.filled c sec).valid.getLsbD (a % 32) = true := by rw [State.filled_valid]; exact getLsbD_fullMask (Nat.mod_lt _ (by omega))
      rw [← ho.viewByte ha, ← ho.filled_byte ha]
      exact if_pos hv
    · rw [← ho.filled_over ha]
      simp only [State.overHome, hhome]
  · rw [hslice] at hy
    cases hy
    rw [State.filled_valid]
    exact ⟨ho.filled_poison, and_not_fullMask _⟩
end

/-! ### Flush sets and L1s -/

theorem State.l1_noteFlush (s : State) (who : Agent) (sec d v : Nat) : (s.noteFlush who sec).l1 d v = s.l1 d v := by
  unfold State.noteFlush
  split
  · rfl
  · cases who with
    | grp n g => exact s.l1_modGrp n g _ d v
    | col c => exact s.l1_modCc c (fun x => let f := enterFlush (sec / 4) x.flush x.flushFull; { x with flush := f.1, flushFull := f.2 }) (fun _ => rfl) d v

/-- Slices, homes, registers and L1s are as before: a flush set alone may change. -/
structure Notes (s t : State) : Prop where
  bytes : SameBytes s t
  regs : SameRegisters s t
  l1 : ∀ d v, t.l1 d v = s.l1 d v

theorem Notes.refl (s : State) : Notes s s := ⟨SameBytes.refl s, SameRegisters.refl s, fun _ _ => rfl⟩

theorem State.notes_noteFlush (s : State) (who : Agent) (sec : Nat) : Notes s (s.noteFlush who sec) :=
  ⟨s.sameBytes_noteFlush who sec, s.sameRegisters_noteFlush who sec, s.l1_noteFlush who sec⟩

theorem State.notes_noteRead (s : State) (who : Agent) (c sec : Nat) (mask : BitVec 32) : Notes s (s.noteRead who c sec mask) := by
  unfold State.noteRead
  split
  · split
    · exact Notes.refl s
    · exact s.notes_noteFlush who sec
  · exact Notes.refl s

theorem State.notes_noteHit (s : State) (who : Agent) (c sec : Nat) (data : BitVec 256) (mask : BitVec 32) : Notes s (s.noteHit who c sec data mask) := by
  unfold State.noteHit
  split
  · split
    · exact s.notes_noteFlush who sec
    · exact Notes.refl s
  · exact Notes.refl s

theorem mem_listDrop {α : Type} {l : List α} {n : Nat} {x : α} (h : x ∈ listDrop l n) : x ∈ l := by
  rcases List.mem_append.1 h with h | h
  · exact List.mem_of_mem_take h
  · exact List.mem_of_mem_drop h

theorem mem_cachePut {β : Type} {m : List (Nat × β)} {sec : Nat} {x : β} {e : Nat × β} (h : e ∈ cachePut m sec x) : e = (sec, x) ∨ e ∈ m := by
  unfold cachePut at h
  split at h
  · exact mem_mapSet _ _ _ e h
  · exact (mem_mapSet _ _ _ e h).imp id mem_listDrop

/-! ### A load step -/

/-- Whether an L1 may serve a load. -/
def usesL1 (scope : Option Nat) : Bool := match scope with | none => true | some x => x ≤ 1

/-- Where an L1 may serve the load, whatever it has of the sector is what the column sees. -/
def L1Fresh (s : State) (u : MemUnit) (scope : Option Nat) (sec : Nat) : Prop :=
  usesL1 scope = true → ∀ l, (sec, l) ∈ s.l1 u.col u.unit → ∀ a, a / 32 = sec → sectorByte l.data (a % 32) = s.viewByte u.col a

theorem PastL1.fresh {s : State} {u : MemUnit} {scope : Option Nat} {sec : Nat} (h : PastL1 s u scope sec) : L1Fresh s u scope sec := fun huse l hl => by
  rcases h with hnone | ⟨x, rfl, hx⟩
  · exact absurd (List.mem_map_of_mem (f := (·.1)) hl) (mapGet?_eq_none.1 hnone)
  · simp only [usesL1, decide_eq_true_eq] at huse
    omega

/-- What loads leave as it was. -/
structure LoadStep (u : MemUnit) (scope : Option Nat) (s t : State) : Prop where
  regs : SameRegisters s t
  view : ∀ a, t.viewByte u.col a = s.viewByte u.col a
  keeps : ∀ sec, Keeps u.col sec s t
  mem : wideScope scope = false → t.mem = s.mem
  fresh : ∀ sec, L1Fresh s u scope sec → L1Fresh t u scope sec

namespace LoadStep
variable {u : MemUnit} {scope : Option Nat} {s t v : State}

theorem refl (u : MemUnit) (scope : Option Nat) (s : State) : LoadStep u scope s s :=
  ⟨SameRegisters.refl s, fun _ => rfl, fun sec => Keeps.refl u.col sec s, fun _ => rfl, fun _ h => h⟩

theorem trans (h1 : LoadStep u scope s t) (h2 : LoadStep u scope t v) : LoadStep u scope s v :=
  ⟨h1.regs.trans h2.regs, fun a => (h2.view a).trans (h1.view a), fun sec => (h1.keeps sec).trans (h2.keeps sec),
    fun h => (h2.mem h).trans (h1.mem h), fun sec h => h2.fresh sec (h1.fresh sec h)⟩

theorem seen (h : LoadStep u scope s t) {a : Nat} (ho : OwnSector s u.col (a / 32)) : t.seen u scope a = s.seen u scope a := by
  have hpeek := ((h.keeps (a / 32) ho).2 a rfl).2
  unfold State.seen
  split
  · rw [hpeek, h.view]
  · exact h.view a

/-- A step that leaves the bytes seen and adds nothing to the L1. -/
theorem of_same (hregs : SameRegisters s t) (hview : ∀ a, t.viewByte u.col a = s.viewByte u.col a) (hkeeps : ∀ sec, Keeps u.col sec s t)
    (hmem : wideScope scope = false → t.mem = s.mem) (hl1 : usesL1 scope = true → t.l1 u.col u.unit = s.l1 u.col u.unit) : LoadStep u scope s t :=
  ⟨hregs, hview, hkeeps, hmem, fun sec h huse l hl a ha => by
    rw [hl1 huse] at hl
    rw [hview]
    exact h huse l hl a ha⟩
end LoadStep

theorem Notes.loadStep {s t : State} (h : Notes s t) (u : MemUnit) (scope : Option Nat) : LoadStep u scope s t :=
  LoadStep.of_same h.regs (h.bytes.viewByte u.col) (fun sec => h.bytes.keeps u.col sec) (fun _ => h.bytes.mem) (fun _ => h.l1 ..)

/-- A step at a sector of the column's own that keeps it. -/
theorem CacheStep.loadStep {sec : Nat} {s t : State} (h : CacheStep sec s t) {u : MemUnit} {scope : Option Nat} (ho : OwnSector s u.col sec)
    (hkeeps : Keeps u.col sec s t) (hmem : wideScope scope = false → t.mem = s.mem)
    (hl1 : usesL1 scope = true → t.l1 u.col u.unit = s.l1 u.col u.unit) : LoadStep u scope s t :=
  LoadStep.of_same h.only.sameRegisters (fun a => by
    by_cases ha : a / 32 = sec
    · exact ((hkeeps ho).2 a ha).1
    · exact h.toAtSector.viewByte u.col ha) (h.toAtSector.keeps hkeeps) hmem hl1

theorem usesL1_of_wide {scope : Option Nat} (h : wideScope scope = true) : usesL1 scope = false := by
  cases scope with
  | none => cases h
  | some x => simp only [wideScope, usesL1, decide_eq_true_eq, decide_eq_false_iff_not] at *; omega

theorem State.loadStep_fillL1 (s : State) {u : MemUnit} {scope : Option Nat} {sec : Nat} {data : BitVec 256}
    (hdata : ∀ a, a / 32 = sec → sectorByte data (a % 32) = s.viewByte u.col a) : LoadStep u scope s (s.fillL1 u.col u.unit sec data) := by
  have hbytes := s.sameBytes_setL1 u.col u.unit (cachePut (s.l1 u.col u.unit) sec ⟨data, 0⟩)
  refine ⟨(s.cacheOnly_setL1 ..).sameRegisters, hbytes.viewByte u.col, fun sec => hbytes.keeps u.col sec, fun _ => hbytes.mem, fun x h huse l hl a ha => ?_⟩
  rw [State.fillL1, State.l1_setL1_same] at hl
  rw [State.fillL1, hbytes.viewByte]
  rcases mem_cachePut hl with heq | hold
  · cases heq
    exact hdata a ha
  · exact h huse l hold a ha

/-! ### Loads -/

/-- Whether a load reads a line foreign to its die past the slice (R282). -/
def bypasses (u : MemUnit) (sec : Nat) (scope : Option Nat) : Bool := match scope with
  | none => false
  | some x => 4 ≤ x && isForeign (dieOf u.col) (32 * sec)

theorem bypasses_iff {u : MemUnit} {sec : Nat} {scope : Option Nat} :
    bypasses u sec scope = true ↔ ∃ x, scope = some x ∧ 4 ≤ x ∧ isForeign (dieOf u.col) (32 * sec) = true := by
  cases scope <;> simp [bypasses]

theorem State.loadPiece_eq (s : State) (u : MemUnit) (sec off n : Nat) (scope : Option Nat) (alloc : Bool) : s.loadPiece u sec off n scope alloc =
    match (if usesL1 scope then mapGet? (s.l1 u.col u.unit) sec else none) with
    | some l => (.bytes (sectorBytes l.data off n), s.noteHit u.who u.col sec l.data (placeBytes off (List.replicate n (0 : Byte))).2)
    | none =>
      if bypasses u sec scope then
        let s1 := ((s.snoopRead u.col sec).writeBack u.col sec).homeTouch sec false
        if s1.poison.contains sec then (.poisoned, s1) else (.bytes (sectorBytes (s1.homeSector sec) off n), s1)
      else
        let s1 := s.fillSlice u.col sec
        if s1.slicePoison u.col sec then (.poisoned, s1)
        else
          let s2 := s1.noteRead u.who u.col sec (placeBytes off (List.replicate n (0 : Byte))).2
          (.bytes (sectorBytes (s1.sliceView u.col sec).data off n),
            if usesL1 scope && alloc then s2.fillL1 u.col u.unit sec (s1.sliceView u.col sec).data else s2) := by
  cases scope <;> rfl

section
variable {s : State} {u : MemUnit} {sec off n : Nat} {scope : Option Nat} (alloc : Bool) (ho : OwnSector s u.col sec) (hfresh : L1Fresh s u scope sec)
  (hfits : Fits s u.col sec) (hoff : off + n ≤ 32)
include ho hfresh hfits hoff

/-- A load of bytes of one sector. -/
theorem State.loadPiece_own : (s.loadPiece u sec off n scope alloc).1 = .bytes ((List.range n).map (fun i => s.seen u scope (32 * sec + off + i)))
    ∧ LoadStep u scope s (s.loadPiece u sec off n scope alloc).2 ∧ AtSector sec s (s.loadPiece u sec off n scope alloc).2 := by
  -- the bytes brought are those of the sector read
  have hbytes : ∀ d : BitVec 256, (∀ a, a / 32 = sec → sectorByte d (a % 32) = s.seen u scope a) →
      ReadRes.bytes (sectorBytes d off n) = .bytes ((List.range n).map (fun i => s.seen u scope (32 * sec + off + i))) := fun d hd => by
    refine congrArg ReadRes.bytes (List.map_congr_left fun i hi => ?_)
    have hlt := List.mem_range.1 hi
    rw [← hd (32 * sec + off + i) (by omega)]
    congr 1
    omega
  have hview : (∀ x, scope = some x → ¬ (4 ≤ x ∧ isForeign (dieOf u.col) (32 * sec) = true)) → ∀ a, a / 32 = sec → s.seen u scope a = s.viewByte u.col a :=
    fun h a ha => by
      unfold State.seen
      cases scope with
      | none => rfl
      | some x =>
        dsimp only
        have hx := h x rfl
        rw [← isForeign_sector, ha, if_neg (by simpa using hx)]
  rw [State.loadPiece_eq]
  cases hhit : (if usesL1 scope then mapGet? (s.l1 u.col u.unit) sec else none) with
  | some l =>
    dsimp only
    obtain ⟨huse, hl⟩ : usesL1 scope = true ∧ mapGet? (s.l1 u.col u.unit) sec = some l := by
      split at hhit
      · next huse => exact ⟨huse, hhit⟩
      · cases hhit
    have hnotes := s.notes_noteHit u.who u.col sec l.data (placeBytes off (List.replicate n (0 : Byte))).2
    refine ⟨hbytes _ fun a ha => ?_, hnotes.loadStep u scope, hnotes.bytes.atSector sec⟩
    rw [hview (fun x hx hwide => ?_) a ha, hfresh huse l (mem_of_mapGet? hl) a ha]
    rw [hx, usesL1, decide_eq_true_eq] at huse
    omega
  | none =>
    dsimp only
    cases hbypass : bypasses u sec scope with
    | true =>
      obtain ⟨x, rfl, hx, hforeign⟩ := bypasses_iff.1 hbypass
      rw [if_pos rfl]
      have hwide : wideScope (some x) = true := by simpa [wideScope] using hx
      rw [State.snoopRead_of_alone ho.alone]
      have hstep := (s.cacheStep_writeBack u.col sec).trans (State.cacheStep_homeTouch _ sec false)
      have hkeeps : Keeps u.col sec s ((s.writeBack u.col sec).homeTouch sec false) :=
        (s.keeps_writeBack u.col sec).trans ((State.sameBytes_homeTouch _ sec false).keeps u.col sec)
      have hload : LoadStep u (some x) s ((s.writeBack u.col sec).homeTouch sec false) :=
        hstep.loadStep ho hkeeps (fun h => by rw [hwide] at h; cases h) (fun h => by rw [usesL1_of_wide hwide] at h; cases h)
      rw [(hkeeps ho).1.home, if_neg nofun]
      refine ⟨hbytes _ fun a ha => ?_, hload, hstep.toAtSector⟩
      have h32 : 32 * sec + a % 32 = a := by omega
      rw [State.sectorByte_homeSector _ _ (Nat.mod_lt _ (by omega)), h32, State.homeByte_homeTouch, State.homeByte_writeBack, if_pos ha]
      unfold State.seen
      dsimp only
      rw [← isForeign_sector, ha, hforeign, if_pos (by simpa using hx), ho.peekByte ha]
    | false =>
      rw [if_neg nofun]
      have hseen := hview fun x hx h => by rw [bypasses_iff.2 ⟨x, hx, h⟩] at hbypass; cases hbypass
      have hslice := ho.slice?_fillSlice hfits
      have hkeeps := ho.keeps_fillSlice hfits
      have hstep := ho.cacheStep_fillSlice hfits
      have hfill : LoadStep u scope s (s.fillSlice u.col sec) :=
        hstep.loadStep ho hkeeps (fun _ => ho.mem_fillSlice hfits) (fun _ => ho.l1_fillSlice hfits ..)
      have hpoison : (s.fillSlice u.col sec).slicePoison u.col sec = false := by
        simp [State.slicePoison, hslice, ho.filled_poison, State.filled_valid]
      have hx : (s.fillSlice u.col sec).sliceView u.col sec = s.filled u.col sec := by rw [State.sliceView, hslice]; rfl
      have hnotes := (s.fillSlice u.col sec).notes_noteRead u.who u.col sec (placeBytes off (List.replicate n (0 : Byte))).2
      rw [hpoison, if_neg nofun, hx]
      refine ⟨hbytes _ fun a ha => by rw [ho.filled_byte ha, hseen a ha], ?_, ?_⟩
      · refine (hfill.trans (hnotes.loadStep u scope)).trans ?_
        split
        · exact State.loadStep_fillL1 _ fun a ha => by rw [hnotes.bytes.viewByte, hfill.view, ho.filled_byte ha]
        · exact LoadStep.refl ..
      · refine (hstep.toAtSector.trans (hnotes.bytes.atSector sec)).trans ?_
        split
        · exact (State.sameBytes_setL1 ..).atSector sec
        · exact AtSector.refl ..
end

end Sys2Proof.Machine
end

section
/-! Global loads (R173, R174, R181, R185, R282, R291, R292). -/

namespace Sys2Proof.Machine

/-! ### Bytes of one lane -/

theorem pieces_one {k : Nat} {bs : List Byte} (h : bs.length ≤ 32 - k % 32) : pieces k bs = [(k / 32, k % 32, bs)] := if_pos h

theorem pieces_two {k : Nat} {bs : List Byte} (h : 32 - k % 32 < bs.length) (hlen : bs.length ≤ 32) :
    pieces k bs = [(k / 32, k % 32, bs.take (32 - k % 32)), (k / 32 + 1, 0, bs.drop (32 - k % 32))] := by
  have hmod : k % 32 < 32 := Nat.mod_lt _ (by omega)
  have hone : (bs.length - (32 - k % 32) + 31) / 32 = 1 := by omega
  rw [pieces, if_neg (by omega), hone]
  simp only [List.range_one, List.map_singleton, Nat.add_zero, Nat.mul_zero]
  rw [List.take_of_length_le (l := bs.drop (32 - k % 32)) (by rw [List.length_drop]; omega)]

section
variable {s : State} {u : MemUnit} {scope : Option Nat} {k n room : Nat} (alloc : Bool) (hnear : k + n ≤ 0x8000000000) (hn : n ≤ 32)
  (hsec : ∀ i, i < n → OwnSector s u.col ((k + i) / 32) ∧ L1Fresh s u scope ((k + i) / 32)) (hroom : Room s u.col (room + 2)) (hpos : 0 < n)
include hnear hn hsec hroom hpos

/-- A load of up to 32 bytes, in one piece or two. -/
theorem State.loadBytes_own : (s.loadBytes u k n scope alloc).1 = .bytes ((List.range n).map (fun i => s.seen u scope (k + i)))
    ∧ LoadStep u scope s (s.loadBytes u k n scope alloc).2 ∧ Room (s.loadBytes u k n scope alloc).2 u.col room := by
  have hmod : k % 32 < 32 := Nat.mod_lt _ (by omega)
  have hwindow : isWindow k = false := isWindow_of_near (by omega)
  have hk : 32 * (k / 32) + k % 32 = k := by omega
  obtain ⟨hown0, hfresh0⟩ := hsec 0 hpos
  rw [Nat.add_zero] at hown0 hfresh0
  unfold State.loadBytes
  rw [hwindow, if_neg nofun]
  by_cases hone : n ≤ 32 - k % 32
  · rw [pieces_one (by simpa using hone)]
    obtain ⟨hbytes, hstep, hat⟩ := State.loadPiece_own (off := k % 32) (n := n) alloc hown0 hfresh0 (hroom.fits (by omega) _) (by omega)
    rw [hk] at hbytes
    cases hload : s.loadPiece u (k / 32) (k % 32) n scope alloc with
    | mk res t =>
      rw [hload] at hbytes hstep hat
      dsimp only at hbytes hstep hat
      subst hbytes
      simp only [List.foldl_cons, List.foldl_nil, List.length_replicate, hload, List.nil_append]
      exact ⟨trivial, hstep, (hat.room_step (n := room + 1) hroom).mono (by omega)⟩
  · rw [pieces_two (by simpa using hone) (by simpa using hn)]
    obtain ⟨hbytes, hstep, hat⟩ := State.loadPiece_own (off := k % 32) (n := 32 - k % 32) alloc hown0 hfresh0 (hroom.fits (by omega) _) (by omega)
    rw [hk] at hbytes
    have hroom1 := hat.room_step (n := room + 1) hroom
    cases hload : s.loadPiece u (k / 32) (k % 32) (32 - k % 32) scope alloc with
    | mk res t =>
      rw [hload] at hbytes hstep hat hroom1
      dsimp only at hbytes hstep hat hroom1
      subst hbytes
      have hnext : (k + (32 - k % 32)) / 32 = k / 32 + 1 := by omega
      obtain ⟨hown1, hfresh1⟩ := hsec (32 - k % 32) (by omega)
      rw [hnext] at hown1 hfresh1
      obtain ⟨hbytes2, hstep2, hat2⟩ := State.loadPiece_own (off := 0) (n := n - (32 - k % 32)) alloc (hstep.keeps _ hown1).1 (hstep.fresh _ hfresh1)
        (hroom1.fits (by omega) _) (by omega)
      cases hload2 : t.loadPiece u (k / 32 + 1) 0 (n - (32 - k % 32)) scope alloc with
      | mk res2 t2 =>
        rw [hload2] at hbytes2 hstep2 hat2
        dsimp only at hbytes2 hstep2 hat2
        subst hbytes2
        have htake : min (32 - k % 32) n = 32 - k % 32 := by omega
        simp only [List.foldl_cons, List.foldl_nil, List.length_take, List.length_drop, List.length_replicate, htake, hload, hload2, List.nil_append]
        refine ⟨?_, hstep.trans hstep2, hat2.room_step hroom1⟩
        congr 1
        have hsplit : n = (32 - k % 32) + (n - (32 - k % 32)) := by omega
        conv_rhs => rw [hsplit, List.range_add, List.map_append, List.map_map]
        congr 1
        refine List.map_congr_left fun i hi => ?_
        have hlt := List.mem_range.1 hi
        have hplace : 32 * (k / 32 + 1) + 0 + i = k + (32 - k % 32 + i) := by omega
        have hsame : (k + (32 - k % 32 + i)) / 32 = k / 32 + 1 := by omega
        rw [hplace]
        exact hstep.seen (hsame ▸ hown1)
end

/-! ### Parts that have arrived -/

/-- Parts that come together as bytes have all arrived. -/
theorem arrived_of_gather {off : Nat} {parts : List RPart} {bs : List Byte} (h : gather off parts = .bytes bs) : parts.all (fun p => p.got.isSome) = true := by
  induction parts generalizing off bs with
  | nil => rfl
  | cons p parts ih =>
    rw [gather] at h
    cases hp : p.got with
    | none => rw [hp] at h; cases h
    | some d =>
      rw [hp] at h
      dsimp only at h
      cases hrest : gather (off + p.len) parts with
      | bytes bs2 => simp [hp, ih hrest]
      | waiting => rw [hrest] at h; cases h
      | poisoned a =>
        rw [hrest] at h
        cases d with
        | bytes x bad => dsimp only at h; split at h <;> cases h
        | poisoned => cases h
        | failed => cases h
      | failed a =>
        rw [hrest] at h
        cases d with
        | bytes x bad => dsimp only at h; split at h <;> cases h
        | poisoned => cases h
        | failed => cases h

/-- All parts of a list have arrived. -/
def Arrived (l : List RPart) : Prop := l.all (fun p => p.got.isSome) = true

theorem arrived_append {l l' : List RPart} : Arrived (l ++ l') ↔ Arrived l ∧ Arrived l' := by
  simp [Arrived]

theorem arrived_nil : Arrived [] := rfl

theorem foldl_arrived {α : Type} {f : List RPart × ReadAcc → α → List RPart × ReadAcc}
    (hf : ∀ acc a, ∃ q, (f acc a).1 = acc.1 ++ q ∧ (Arrived q → acc.2.1 = [] → (f acc a).2.1 = [])) (l : List α) (acc : List RPart × ReadAcc) :
    ∃ q, (l.foldl f acc).1 = acc.1 ++ q ∧ (Arrived q → acc.2.1 = [] → (l.foldl f acc).2.1 = []) := by
  induction l generalizing acc with
  | nil => exact ⟨[], (List.append_nil _).symm, fun _ h => h⟩
  | cons a l ih =>
    obtain ⟨q1, h1, hreq1⟩ := hf acc a
    obtain ⟨q2, h2, hreq2⟩ := ih (f acc a)
    refine ⟨q1 ++ q2, by rw [List.foldl_cons, h2, h1, List.append_assoc], fun h hacc => ?_⟩
    obtain ⟨ha1, ha2⟩ := arrived_append.1 h
    exact hreq2 ha2 (hreq1 ha1 hacc)

/-- Steps that add parts bring none that was missing. -/
theorem foldl_waits {α : Type} {f : List RPart × ReadAcc → α → List RPart × ReadAcc} (hf : ∀ acc a, ∃ q, (f acc a).1 = acc.1 ++ q) (l : List α)
    (acc : List RPart × ReadAcc) (h : ¬ Arrived acc.1) : ¬ Arrived (l.foldl f acc).1 := by
  induction l generalizing acc with
  | nil => exact h
  | cons a l ih =>
    obtain ⟨q, hq⟩ := hf acc a
    exact ih _ fun hall => h (arrived_append.1 (hq ▸ hall)).1

theorem blockCuts_ne_nil (b k n : Nat) : blockCuts b k n ≠ [] := by
  unfold blockCuts
  dsimp only
  split <;> simp

section
variable (u : MemUnit) (order : Nat) (scope : Option Nat)

/-- The next block of a cacheable line of another package: from a copy, or asked for. -/
def copyStep (acc : List RPart × ReadAcc) (p : Nat × Nat) : List RPart × ReadAcc :=
  match acc.2.2.remoteCopy u p.1 p.2 scope with
  | some (.bytes bs, t) => (acc.1 ++ [⟨0, 0, p.2, none, some (.bytes bs [])⟩], (acc.2.1, t))
  | some (.poisoned, t) => (acc.1 ++ [⟨0, 0, p.2, none, some .poisoned⟩], (acc.2.1, t))
  | none =>
    let line := p.1 / 128
    let busy := acc.2.2.lineBusy (clusterOf u.col) (placePkg p.1) (placeAddr p.1 / 128)
    let q := acc.2.ask u.who true (128 * line) 128 order scope
    (acc.1 ++ [⟨q.1, p.1 % 128, p.2, if busy then none else some line, none⟩], q.2)

/-- The next block of another package that is asked for. -/
def askStep (spans : List (Nat × Nat)) (acc : List RPart × ReadAcc) (p : Nat × Nat) : List RPart × ReadAcc :=
  let sp := (spans.find? (fun x => x.1 / 256 == p.1 / 256)).getD p
  let q := acc.2.ask u.who false sp.1 sp.2 order scope
  (acc.1 ++ [⟨q.1, p.1 - sp.1, p.2, none, none⟩], q.2)

/-- A block taken from a copy asks nothing; a block that is asked for has not arrived. -/
theorem copyStep_arrived (acc : List RPart × ReadAcc) (p : Nat × Nat) : ∃ q, (copyStep u order scope acc p).1 = acc.1 ++ q
    ∧ (Arrived q → acc.2.1 = [] → (copyStep u order scope acc p).2.1 = []) := by
  unfold copyStep
  cases acc.2.2.remoteCopy u p.1 p.2 scope with
  | none => exact ⟨_, rfl, fun h => by simp [Arrived] at h⟩
  | some x =>
    obtain ⟨res, t⟩ := x
    cases res with
    | bytes bs => exact ⟨_, rfl, fun _ hacc => hacc⟩
    | poisoned => exact ⟨_, rfl, fun _ hacc => hacc⟩

variable (g : Seg) (alloc : Bool) (s : State)

theorem loadSeg_copies (a : ReadAcc) (spans : List (Nat × Nat)) (hremote : isRemote g.place = true) (hcr : g.cr = true) :
    a.loadSeg u spans g order scope alloc = (blockCuts 128 g.place g.len).foldl (copyStep u order scope) ([], a) := by
  unfold ReadAcc.loadSeg
  rw [hremote, hcr]
  rfl

theorem loadSeg_asks (a : ReadAcc) (spans : List (Nat × Nat)) (hremote : isRemote g.place = true) (hcr : g.cr = false) :
    a.loadSeg u spans g order scope alloc = (blockCuts 256 g.place g.len).foldl (askStep u order scope spans) ([], a) := by
  unfold ReadAcc.loadSeg
  rw [hremote, hcr]
  rfl

theorem loadSeg_local (a : ReadAcc) (spans : List (Nat × Nat)) (hlocal : isRemote g.place = false) : a.loadSeg u spans g order scope alloc =
    ([⟨0, 0, g.len, none, some (match (a.2.loadBytes u g.place g.len scope alloc).1 with | .bytes bs => .bytes bs [] | .poisoned => .poisoned)⟩],
      (a.1, (a.2.loadBytes u g.place g.len scope alloc).2)) := by
  unfold ReadAcc.loadSeg
  rw [hlocal]
  cases a.2.loadBytes u g.place g.len scope alloc with
  | mk res t => cases res <;> rfl

/-- A segment whose parts arrive at once asks nothing of other packages, whatever else the instruction reads there. -/
theorem loadSeg_arrived {spans : List (Nat × Nat)} (h : Arrived (ReadAcc.loadSeg ([], s) u spans g order scope alloc).1) (spans2 : List (Nat × Nat)) :
    (ReadAcc.loadSeg ([], s) u spans g order scope alloc).2.1 = []
    ∧ ReadAcc.loadSeg ([], s) u spans2 g order scope alloc = ReadAcc.loadSeg ([], s) u spans g order scope alloc := by
  cases hremote : isRemote g.place with
  | false =>
    rw [loadSeg_local u order scope g alloc _ spans hremote, loadSeg_local u order scope g alloc _ spans2 hremote]
    exact ⟨rfl, rfl⟩
  | true =>
    cases hcr : g.cr with
    | true =>
      rw [loadSeg_copies u order scope g alloc _ spans hremote hcr] at h ⊢
      rw [loadSeg_copies u order scope g alloc _ spans2 hremote hcr]
      obtain ⟨q, hq, hreq⟩ := foldl_arrived (copyStep_arrived u order scope) (blockCuts 128 g.place g.len) ([], ([], s))
      rw [hq, List.nil_append] at h
      exact ⟨hreq h rfl, rfl⟩
    | false =>
      rw [loadSeg_asks u order scope g alloc _ spans hremote hcr] at h
      obtain ⟨p, l, hcuts⟩ := List.exists_cons_of_ne_nil (blockCuts_ne_nil 256 g.place g.len)
      rw [hcuts, List.foldl_cons] at h
      exact absurd h (foldl_waits (fun _ _ => ⟨_, rfl⟩) l _ (by simp [askStep, Arrived]))

/-- The next segment of a lane. -/
def partStep (spans : List (Nat × Nat)) (acc : List RPart × ReadAcc) (g : Seg) : List RPart × ReadAcc :=
  let r := acc.2.loadSeg u spans g order scope alloc
  (acc.1 ++ r.1, r.2)

theorem foldl_partStep_arrived {spans : List (Nat × Nat)} (spans2 : List (Nat × Nat)) (l : List Seg) (parts : List RPart)
    (h : Arrived (l.foldl (partStep u order scope alloc spans) (parts, ([], s))).1) :
    (l.foldl (partStep u order scope alloc spans) (parts, ([], s))).2.1 = []
    ∧ l.foldl (partStep u order scope alloc spans2) (parts, ([], s)) = l.foldl (partStep u order scope alloc spans) (parts, ([], s)) := by
  induction l generalizing parts s with
  | nil => exact ⟨rfl, rfl⟩
  | cons g l ih =>
    have hhead : Arrived (ReadAcc.loadSeg ([], s) u spans g order scope alloc).1 := by
      by_contra hnot
      exact foldl_waits (fun _ _ => ⟨_, rfl⟩) l _ (fun hall => hnot (arrived_append.1 hall).2) h
    obtain ⟨hreq, heq⟩ := loadSeg_arrived u order scope g alloc s hhead spans2
    rw [List.foldl_cons, List.foldl_cons]
    rw [List.foldl_cons] at h
    simp only [partStep, heq] at h ⊢
    generalize ReadAcc.loadSeg ([], s) u spans g order scope alloc = r at h hreq ⊢
    obtain ⟨ps, reqs, t⟩ := r
    dsimp only at hreq
    subst hreq
    exact ih t _ h

/-- So do all segments of a lane. -/
theorem loadSegs_arrived {segs : List Seg} (h : Arrived (s.loadSegs u segs order scope alloc).1) (spans : List (Nat × Nat)) :
    ReadAcc.loadSegs ([], s) u spans segs order scope alloc = ((s.loadSegs u segs order scope alloc).1, ([], (s.loadSegs u segs order scope alloc).2)) := by
  obtain ⟨hreq, heq⟩ := foldl_partStep_arrived u order scope alloc s spans segs [] h
  exact heq.trans (Prod.ext rfl (Prod.ext hreq rfl))
end

/-! ### Accesses that are complete -/

section
variable {f : Fields} {ls : List LaneView} (hown : OwnPositions ls)
include hown

/-- Accesses whose bytes are all here end at once: each lane takes its result, an acquire first. -/
theorem State.endAccess_arrived (s : State) (r : Row) (e : Env) (m : MemCtx) (fails : List (Nat × LRes)) {l : List LaneView} {accs : List RAccess}
    {out : LaneView → LRes} (hl : ∀ lv ∈ l, lv ∈ ls)
    (haccs : List.Forall₂ (fun lv a => a.lane = lv.pos ∧ a.arrived = true ∧ a.result e lv = some (out lv)) l accs) :
    s.endAccess r f e ls m fails accs = (s.acquireOpt m.unit (if l.isEmpty then none else acquireOf f)).finishMem r f e ls
      (resAt (fails ++ l.map (fun lv => (lv.pos, out lv)))) := by
  have hall : accs.all (·.arrived) = true := by
    induction haccs with
    | nil => rfl
    | cons h _ ih => simp [h.2.1, ih fun lv hlv => hl lv (List.mem_cons_of_mem _ hlv)]
  have hempty : accs.isEmpty = l.isEmpty := by cases haccs <;> rfl
  have hres : accs.filterMap (fun a => (ls.find? (fun lv => lv.pos == a.lane)).bind (fun lv => (a.result e lv).map (fun x => (a.lane, x))))
      = l.map (fun lv => (lv.pos, out lv)) := by
    clear hall hempty
    induction haccs with
    | nil => rfl
    | cons h _ ih =>
      obtain ⟨hlane, -, hresult⟩ := h
      have hfind := laneAt_of_mem hown (hl _ (List.mem_cons_self ..))
      rw [laneAt, ← hlane] at hfind
      rw [List.filterMap_cons, hfind, List.map_cons, ← ih fun lv hlv => hl lv (List.mem_cons_of_mem _ hlv)]
      simp only [Option.bind_some, hresult, Option.map_some, hlane]
  unfold State.endAccess
  rw [hall, if_pos rfl, hempty, hres]
end

/-! ### The instruction -/

/-- The value a lane takes for the bytes of its load (R174). -/
def loaded (f : Fields) (bs : List Byte) (lv : LaneView) : LaneView :=
  if f.modx.toNat = 5 then setD64 lv f (BitVec.ofNat 64 (leNat bs)) else setD lv f (loadWord f.modx.toNat (leNat bs))

theorem loaded_eq (f : Fields) (bs : List Byte) (lv : LaneView) : loaded f bs lv =
    let v := leNat bs
    match f.modx.toNat with
    | 0 => setD lv f (BitVec.ofNat 32 v) | 1 => setD lv f ((BitVec.ofNat 8 v).signExtend 32)
    | 2 => setD lv f (BitVec.ofNat 32 v) | 3 => setD lv f ((BitVec.ofNat 16 v).signExtend 32)
    | 5 => setD64 lv f (BitVec.ofNat 64 v) | _ => setD lv f (BitVec.ofNat 32 v) := by
  unfold loaded loadWord
  generalize f.modx.toNat = m
  match m with
  | 0 | 1 | 2 | 3 | 4 | 5 => rfl
  | m + 6 =>
    rw [if_neg (by omega), if_neg (by omega), if_neg (by omega)]
    rfl

/-- The access of a lane's load, with the parts it has. -/
def loadAccess (f : Fields) (ls : List LaneView) (lv : LaneView) (parts : List RPart) : RAccess :=
  ⟨lv.pos, f.dS, f.d.toNat, .load f.modx.toNat, BitVec.ofNat 64 (globalEa ls lv f), parts, none⟩

theorem loadAccess_result {f : Fields} {ls : List LaneView} {lv : LaneView} {parts : List RPart} {bs : List Byte} (h : gather 0 parts = .bytes bs) (e : Env) :
    (loadAccess f ls lv parts).arrived = true ∧ (loadAccess f ls lv parts).result e lv = some (.ok (loaded f bs lv) 0) := by
  refine ⟨arrived_of_gather h, ?_⟩
  have hgather : gather 0 (loadAccess f ls lv parts).parts = .bytes bs := h
  rw [RAccess.result, hgather]
  rfl

/-- Loads in turn, as one instruction makes them. -/
theorem foldl_loads {u : MemUnit} {f : Fields} {ls : List LaneView} {scope : Option Nat} {alloc : Bool} {segs : LaneView → List Seg}
    {bytes : LaneView → List Byte} (spans : List (Nat × Nat)) (e : Env) {l : List LaneView} {s t : State}
    (h : LoadsInTurn u (memOrder f) scope alloc segs bytes s l t) (accs : List RAccess) :
    ∃ new, l.foldl (fun (acc : List RAccess × ReadAcc) lv =>
        let q := acc.2.loadSegs u spans (segs lv) (memOrder f) scope alloc
        (acc.1 ++ [loadAccess f ls lv q.1], q.2)) (accs, ([], s)) = (accs ++ new, ([], t))
      ∧ List.Forall₂ (fun lv a => a.lane = lv.pos ∧ a.arrived = true ∧ a.result e lv = some (.ok (loaded f (bytes lv) lv) 0)) l new := by
  induction l generalizing s accs with
  | nil => cases h; exact ⟨[], by simp, .nil⟩
  | cons lv l ih =>
    obtain ⟨hbytes, hrest⟩ := h
    obtain ⟨new, hfold, hnew⟩ := ih hrest (accs ++ [loadAccess f ls lv (s.loadSegs u (segs lv) (memOrder f) scope alloc).1])
    refine ⟨loadAccess f ls lv (s.loadSegs u (segs lv) (memOrder f) scope alloc).1 :: new, ?_, ?_⟩
    · rw [List.foldl_cons]
      simp only [loadSegs_arrived u (memOrder f) scope alloc s (arrived_of_gather hbytes) spans]
      rw [hfold, List.append_assoc]
      rfl
    · exact .cons ⟨rfl, loadAccess_result hbytes e⟩ hnew

section
variable {i : Instr} {r : Row} {f : Fields} {s : State} {e : Env} {ls : List LaneView} {segs : LaneView → List Seg} (hi : Issues i r f s e ls)
  (hown : OwnPositions ls)
  (hchecks : ∀ lv ∈ ls, laneActive f lv = true → s.checkForm (s.memCtx e) e (globalEa ls lv f) (sizeBytes f.modx.toNat) .load (strongScope f)
    (r.mem = .lda) = .segs (segs lv))
include hi hown hchecks

theorem runMem_load {bytes : LaneView → List Byte} {t : State} (hwait : s.mustWait (s.memCtx e) f = false)
    (hawait : memOrder f = 0 ∨ (∀ lv ∈ ls, laneActive f lv = true → ∀ g ∈ segs lv, isRemote g.place = false)
      ∨ ∀ n slot d, e.who = .deal n slot → s.deal? n slot = some d → d.pending = [])
    (ht : LoadsInTurn (s.memCtx e).unit (memOrder f) (strongScope f) (memHint f != 1) segs bytes (s.leaveWalks e.who (s.memCtx e).unit.col)
      (ls.filter (laneActive f)) t) :
    runMem i loadBody s = (t.acquireOpt (s.memCtx e).unit (acquireOf f)).commit e (laneOut f ls (fun lv => loaded f (bytes lv) lv)) (wordsOf f) := by
  have hmap : ((ls.filter (laneActive f)).map fun lv => (lv, s.checkForm (s.memCtx e) e (globalEa ls lv f) (sizeBytes f.modx.toNat) .load (strongScope f)
      (r.mem = .lda))) = (ls.filter (laneActive f)).map fun lv => (lv, AccRes.segs (segs lv)) :=
    List.map_congr_left fun lv hlv => by
      obtain ⟨hmem, hact⟩ := List.mem_filter.1 hlv
      rw [hchecks lv hmem hact]
  have hpass : s.mustPass e ((ls.filter (laneActive f)).map fun lv => (lv, AccRes.segs (segs lv))) = false := by
    simp [State.mustPass, failRes]
  have hawaited : s.awaited e f ((ls.filter (laneActive f)).map fun lv => (lv, AccRes.segs (segs lv))) = false := by
    unfold State.awaited
    split
    · rfl
    · next n slot hwho =>
      split
      · next d hd =>
        rcases hawait with h0 | hlocal | hpend
        · simp [h0]
        · simp only [List.any_map, Bool.and_eq_false_iff, List.any_eq_false, Function.comp]
          refine .inr fun lv hlv => ?_
          obtain ⟨hmem, hact⟩ := List.mem_filter.1 hlv
          simp only [List.any_eq_true, not_exists, not_and]
          intro g hg
          simp [hlocal lv hmem hact g hg]
        · simp [hpend n slot d hwho hd, State.segAwaited]
      · rfl
  have hnone : ∀ l : List LaneView, (l.map fun lv => (lv, AccRes.segs (segs lv))).filterMap
      (fun p => if p.1.helper then (failRes p.2).map (fun x => (p.1.pos, x)) else none) = [] := fun l => by
    simp [List.filterMap_map, failRes]
  have hfails : ∀ l : List LaneView, failList ((l.map fun lv => (lv, AccRes.segs (segs lv))).filter (fun p => !p.1.helper)) = [] := fun l => by
    rw [List.filter_map]
    exact failList_segs _ segs
  have hactive : (ls.filter (laneActive f)).isEmpty = false := by simpa using hi.act_ne
  obtain ⟨new, hfold, hnew⟩ := foldl_loads (remoteSpans ((ls.filter (laneActive f)).flatMap segs)) e ht []
  have hend := State.endAccess_arrived (f := f) hown t r e (s.memCtx e) [] (fun lv hlv => List.mem_of_mem_filter hlv) hnew
  rw [runMem_issues _ hi]
  simp only [loadBody]
  erw [hmap, walksOf_segs, hpass, hwait, hawaited, performing_segs, hnone, hfails]
  simp only [Bool.or_false, Bool.false_eq_true, if_false, List.foldl_map, List.flatMap_map, List.append_nil]
  erw [hfold]
  refine hend.trans ?_
  rw [hactive, if_neg nofun, List.nil_append, State.finishMem_active hown]
  exact congrArg (fun x => State.commit _ e x _) (laneRes_congr fun lv _ _ => helperRes_ok ..)
end

end Sys2Proof.Machine
end

section
/-! Global loads by conditions on the state alone (R174, R181, R282). -/

namespace Sys2Proof.Machine

/-- A load of near bytes passes step 3 of its checks where its column alone holds them (R177). -/
theorem accPoison_load {s : State} {u : MemUnit} {scope : Option Nat} {k n room : Nat} (hnear : k + n ≤ 0x8000000000) (hn : n ≤ 32) (hpos : 0 < n)
    (hsec : ∀ i, i < n → OwnSector s u.col ((k + i) / 32) ∧ L1Fresh s u scope ((k + i) / 32)) (hroom : Room s u.col (room + 2)) :
    s.accPoison u scope .load n k = false := by
  have hload := (State.loadBytes_own true hnear hn hsec hroom hpos).1
  unfold State.accPoison
  rw [isRemote_of_near (by omega), if_neg nofun]
  dsimp only
  rw [hload]

theorem gather_one {n : Nat} {bs : List Byte} (h : bs.length = n) : gather 0 [⟨0, 0, n, none, some (.bytes bs [])⟩] = .bytes bs := by
  subst h
  simp [gather]

theorem State.l1_leaveWalks (s : State) (who : Issuer) (c d v : Nat) : (s.leaveWalks who c).l1 d v = s.l1 d v := by
  unfold State.l1
  split
  · rfl
  · simp only [State.cc, State.leaveWalks, State.leaveWalksIf, State.col_modCol]
    split
    · next h => subst h; rfl
    · rfl

section
variable {u : MemUnit} {scope : Option Nat} {n : Nat} {ea place : LaneView → Nat} {cr : LaneView → Bool} (order : Nat) (alloc : Bool)

/-- Lanes whose bytes lie in sectors of their column load them one after another: each the bytes that were seen at first. -/
theorem exists_loads {s0 : State} (hpos : 0 < n) (hn : n ≤ 32) {l : List LaneView} {s : State} (hs : LoadStep u scope s0 s)
    (hl : ∀ lv ∈ l, place lv + n ≤ 0x8000000000
      ∧ ∀ i, i < n → OwnSector s0 u.col ((place lv + i) / 32) ∧ L1Fresh s0 u scope ((place lv + i) / 32))
    (hroom : Room s u.col (2 * l.length)) :
    ∃ t, LoadsInTurn u order scope alloc (fun lv => [⟨ea lv, n, place lv, cr lv⟩])
        (fun lv => (List.range n).map (fun i => s0.seen u scope (place lv + i))) s l t ∧ LoadStep u scope s0 t := by
  induction l generalizing s with
  | nil => exact ⟨s, rfl, hs⟩
  | cons lv l ih =>
    obtain ⟨hnear, hsec⟩ := hl lv (List.mem_cons_self ..)
    have hsec2 : ∀ i, i < n → OwnSector s u.col ((place lv + i) / 32) ∧ L1Fresh s u scope ((place lv + i) / 32) := fun i hi =>
      ⟨(hs.keeps _ (hsec i hi).1).1, hs.fresh _ (hsec i hi).2⟩
    obtain ⟨hbytes, hstep, hroom2⟩ := State.loadBytes_own (room := 2 * l.length) alloc hnear hn hsec2 hroom hpos
    obtain ⟨t, hturn, ht⟩ := ih (hs.trans hstep) (fun x hx => hl x (List.mem_cons_of_mem _ hx)) hroom2
    have hsegs : s.loadSegs u [⟨ea lv, n, place lv, cr lv⟩] order scope alloc
        = ([⟨0, 0, n, none, some (.bytes ((List.range n).map (fun i => s.seen u scope (place lv + i))) [])⟩], (s.loadBytes u (place lv) n scope alloc).2) := by
      have hseg := loadSeg_local u order scope ⟨ea lv, n, place lv, cr lv⟩ alloc ([], s) (remoteSpans [⟨ea lv, n, place lv, cr lv⟩])
        (isRemote_of_near (by dsimp only; omega))
      dsimp only at hseg
      rw [hbytes] at hseg
      unfold State.loadSegs ReadAcc.loadSegs
      rw [List.foldl_cons, List.foldl_nil]
      dsimp only
      rw [hseg]
      rfl
    refine ⟨t, ⟨?_, ?_⟩, ht⟩
    · rw [hsegs, gather_one (by simp)]
      refine congrArg Gathered.bytes (List.map_congr_left fun i hi => ?_)
      exact hs.seen (hsec i (List.mem_range.1 hi)).1
    · rw [hsegs]
      exact hturn
end

section
variable {i : Instr} {r : Row} {f : Fields} {s : State} {e : Env} {ls : List LaneView} {place : LaneView → Nat} (hi : Issues i r f s e ls)
  (hown : OwnPositions ls)
include hi hown

theorem runMem_load_completes
    (hreach : ∀ lv ∈ ls, laneActive f lv = true → Reaches s (s.memCtx e) .load (globalEa ls lv f) (sizeBytes f.modx.toNat) (place lv)
      ∧ (r.mem = .lda → globalEa ls lv f % sizeBytes f.modx.toNat = 0)
      ∧ ∀ j, j < sizeBytes f.modx.toNat → OwnSector s (s.memCtx e).unit.col ((place lv + j) / 32)
        ∧ PastL1 s (s.memCtx e).unit (strongScope f) ((place lv + j) / 32))
    (hroom : Room s (s.memCtx e).unit.col (2 * ls.length)) (hwait : s.mustWait (s.memCtx e) f = false) :
    ∃ t : State, runMem i loadBody s = (t.acquireOpt (s.memCtx e).unit (acquireOf f)).commit e (laneOut f ls (fun lv =>
        loaded f ((List.range (sizeBytes f.modx.toNat)).map (fun j => s.seen (s.memCtx e).unit (strongScope f) (place lv + j))) lv)) (wordsOf f)
      ∧ SameRegisters s t ∧ (∀ a, t.viewByte (s.memCtx e).unit.col a = s.viewByte (s.memCtx e).unit.col a)
      ∧ ((∀ x, strongScope f = some x → x < 4) → t.mem = s.mem) := by
  set u := (s.memCtx e).unit
  set n := sizeBytes f.modx.toNat
  have hn : n ≤ 32 := (sizeBytes_le _).trans (by omega)
  obtain ⟨first, hfirst, hact⟩ := List.any_eq_true.1 hi.active
  have hpos : 0 < n := (hreach first hfirst hact).1.some_
  have hlen : ls.length = (ls.length - 1) + 1 := by
    have := List.length_pos_of_mem hfirst
    omega
  have hsec : ∀ lv ∈ ls, laneActive f lv = true → place lv + n ≤ 0x8000000000
      ∧ ∀ j, j < n → OwnSector s u.col ((place lv + j) / 32) ∧ L1Fresh s u (strongScope f) ((place lv + j) / 32) := fun lv hlv ha => by
    obtain ⟨hr, -, hs⟩ := hreach lv hlv ha
    exact ⟨hr.near, fun j hj => ⟨(hs j hj).1, (hs j hj).2.fresh⟩⟩
  have hchecks : ∀ lv, lv ∈ ls ∧ laneActive f lv = true → ∃ cr, s.checkForm (s.memCtx e) e (globalEa ls lv f) n .load (strongScope f)
      (r.mem = .lda) = .segs [⟨globalEa ls lv f, n, place lv, cr⟩] := fun lv hlv => by
    obtain ⟨hr, hal, -⟩ := hreach lv hlv.1 hlv.2
    obtain ⟨hnear, hs⟩ := hsec lv hlv.1 hlv.2
    exact hr.checkForm nofun e (by simpa using hal) (accPoison_load (room := 2 * (ls.length - 1)) hnear hn hpos hs (hroom.mono (by omega)))
  choose! cr hcr using hchecks
  have hleave := s.sameBytes_leaveWalks e.who u.col
  have hstart : LoadStep u (strongScope f) s (s.leaveWalks e.who u.col) :=
    LoadStep.of_same (s.sameRegisters_leaveWalks e.who u.col) (hleave.viewByte u.col) (fun sec => hleave.keeps u.col sec) (fun _ => hleave.mem)
      (fun _ => s.l1_leaveWalks ..)
  have hcount : 2 * (ls.filter (laneActive f)).length ≤ 2 * ls.length := Nat.mul_le_mul_left 2 (List.length_filter_le ..)
  obtain ⟨t, hturn, ht⟩ := exists_loads (ea := (globalEa ls · f)) (cr := cr) (memOrder f) (memHint f != 1) hpos hn hstart
    (fun lv hlv => hsec lv (List.mem_of_mem_filter hlv) (List.mem_filter.1 hlv).2) ((hleave.room hroom).mono hcount)
  refine ⟨t, runMem_load hi hown (fun lv hlv ha => hcr lv ⟨hlv, ha⟩) hwait (.inr (.inl fun lv hlv ha g hg => ?_)) hturn, ht.regs, ht.view, fun h => ht.mem ?_⟩
  · rw [List.mem_singleton.1 hg]
    exact isRemote_of_near (hreach lv hlv ha).1.lt
  · cases hscope : strongScope f with
    | none => rfl
    | some x =>
      have := h x hscope
      simp only [wideScope, decide_eq_false_iff_not]
      omega
end

theorem commit_loaded (s : State) (e : Env) (f : Fields) (ls : List LaneView) (bytes : LaneView → List Byte) (words : Nat) :
    s.commit e (laneOut f ls (fun lv => loaded f (bytes lv) lv)) words = s.commit e (laneOut f ls (fun lv =>
      let v := leNat (bytes lv)
      match f.modx.toNat with
      | 0 => setD lv f (BitVec.ofNat 32 v) | 1 => setD lv f ((BitVec.ofNat 8 v).signExtend 32)
      | 2 => setD lv f (BitVec.ofNat 32 v) | 3 => setD lv f ((BitVec.ofNat 16 v).signExtend 32)
      | 5 => setD64 lv f (BitVec.ofNat 64 v) | _ => setD lv f (BitVec.ofNat 32 v))) words :=
  congrArg (fun out => s.commit e (laneOut f ls out) words) (funext fun lv => loaded_eq f (bytes lv) lv)

/-- Settles O27: loads in turn whose parts are all here deliver at once; those of sectors that the column alone holds have their parts here. -/
theorem globalLoads : Obligations.GlobalLoads := by
  unfold Obligations.GlobalLoads
  refine ⟨?checked, ?near⟩
  case checked =>
    intro mk hmk r f s e ls segs bytes t hi hown m hchecks hwait hawait ht
    simp only [List.mem_cons, List.not_mem_nil, or_false] at hmk
    rcases hmk with rfl | rfl | rfl <;> 
      exact congrArg Host.Outcome.next ((runMem_load hi hown hchecks hwait hawait ht).trans (commit_loaded ..))
  case near =>
    intro mk hmk r f s e ls place hi hown m n hreach hroom hwait
    simp only [List.mem_cons, List.not_mem_nil, or_false] at hmk
    rcases hmk with rfl | rfl | rfl <;> obtain ⟨t, hrun, hrest⟩ := runMem_load_completes hi hown hreach hroom hwait <;>
      exact ⟨t, congrArg Host.Outcome.next (hrun.trans (commit_loaded ..)), hrest⟩

end Sys2Proof.Machine
end

section
/-! One atomic at a place of near memory whose sector one column alone holds (R184, R187 to R190, R281, R284, R289). -/

namespace Sys2Proof.Machine

theorem SectorSame.peekByte {sec : Nat} {s t : State} (h : SectorSame sec s t) (c : Nat) {a : Nat} (ha : a / 32 = sec) : t.peekByte c a = s.peekByte c a := by
  subst ha
  simp only [State.peekByte, State.snoopedByte, State.peerByte, h.slice, h.home a rfl]

theorem SectorSame.own {c sec : Nat} {s t : State} (h : SectorSame sec s t) (ho : OwnSector s c sec) : OwnSector t c sec := (h.keeps ho).1

/-! ### Stores below die scope keep the sector the column's own -/

theorem OwnSector.storeSector {s : State} {u : MemUnit} {sec : Nat} (ho : OwnSector s u.col sec) (hfits : Fits s u.col sec) (d : BitVec 256) (mask : BitVec 32)
    {scope : Option Nat} (release : Option Nat) (hw : wideScope scope = false) : OwnSector (s.storeSector u sec d mask scope release) u.col sec := by
  refine ⟨Alone.storeSector ho.alone sec d mask scope release, ?_, fun x hx => ?_⟩
  · rw [State.storeSector_eq, hw, if_neg nofun, State.poison_storeBelow_of_alone ho.alone d mask scope release hfits]
    exact ho.home
  · rw [State.slice?_storeSector, hw, if_neg nofun] at hx
    obtain rfl := Option.some.inj hx
    obtain ⟨-, hv, hd, hp⟩ := State.storedBy_of_alone ho.alone d mask scope
    have hfound : (s.sliceView u.col sec).poison = false ∧ (s.sliceView u.col sec).dirty &&& ~~~(s.sliceView u.col sec).valid = 0 := by
      rw [State.sliceView]
      cases hx : s.slice? u.col sec with
      | none => exact ⟨rfl, rfl⟩
      | some x => exact ho.slice x hx
    refine ⟨by rw [hp, hfound.1, ite_self], ?_⟩
    rw [hv, hd]
    refine BitVec.eq_of_getLsbD_eq fun i hi => ?_
    have hbit := congrArg (·.getLsbD i) hfound.2
    simp only [BitVec.getLsbD_and, BitVec.getLsbD_or, BitVec.getLsbD_not, hi, decide_true, Bool.true_and] at hbit ⊢
    cases hm : mask.getLsbD i <;> simp_all

/-! ### The point an atomic is performed at -/

theorem OwnSector.evict {s : State} {c sec : Nat} (ho : OwnSector s c sec) (hlocal : isRemote (32 * sec) = false) : OwnSector (s.evict c sec) c sec := by
  refine ⟨(s.sheds_evict c sec).alone ho.alone, ?_, fun x hx => ?_⟩
  · cases hx : s.slice? c sec with
    | none => rw [State.evict_of_none hx]; exact ho.home
    | some x =>
      simp only [State.evict, hx, hlocal, Bool.false_eq_true, if_false, (ho.slice x hx).1, Bool.false_and, State.homePoison_false]
      change ((s.writeBack c sec).revoke c sec).poison.contains sec = false
      rw [State.poison_revoke]
      exact ((s.keeps_writeBack c sec) ho).1.home
  · rw [State.slice?_evict] at hx
    cases hx

/-- Bytes written at the home of a sector that no slice holds. -/
theorem OwnSector.homeWrite {s : State} {c sec : Nat} (ho : OwnSector s c sec) (hnone : s.slice? c sec = none) (d : BitVec 256) (mask : BitVec 32) :
    OwnSector (s.homeWrite sec d mask none) c sec ∧ (s.homeWrite sec d mask none).slice? c sec = none := by
  have hall : ∀ k, s.slice? k sec = none := fun k => by
    by_cases hk : k = c
    · exact hk ▸ hnone
    · exact ho.alone k hk
  have hslice : ∀ k, (s.homeWrite sec d mask none).slice? k sec = none := fun k => by
    rw [State.homeWrite, State.directory_of_none hall, State.slice?_rawHomeWrite, hall k]
  refine ⟨⟨fun k _ => hslice k, State.poison_homeWrite_of_directory (State.directory_of_none hall none) ho.home d mask, fun x hx => ?_⟩, hslice c⟩
  rw [hslice c] at hx
  cases hx

theorem State.marks_noteFlush (s : State) (who : Agent) (sec : Nat) : (s.noteFlush who sec).marks = s.marks := by
  unfold State.noteFlush
  split
  · rfl
  · cases who with
    | grp n g =>
      dsimp only
      unfold State.modGrp
      split <;> rfl
    | col c => rfl

theorem State.marks_noteRead (s : State) (who : Agent) (c sec : Nat) (mask : BitVec 32) : (s.noteRead who c sec mask).marks = s.marks := by
  unfold State.noteRead
  split
  · split
    · rfl
    · exact s.marks_noteFlush who sec
  · rfl

/-- The value an atomic of a scope finds at a place (R184, R284). -/
def atomSeen (s : State) (u : MemUnit) (sc k n : Nat) : Nat :=
  leNat ((List.range n).map (fun i => if sc < 4 then s.viewByte u.col (k + i) else s.peekByte u.col (k + i)))

/-- What an atomic at one sector leaves of the rest. -/
structure AtomStep (u : MemUnit) (sec : Nat) (s t : State) : Prop where
  regs : SameRegisters s t
  at_ : AtSector sec s t
  own : OwnSector t u.col sec
  marks : ∀ line, line ≠ sec / 4 → mapGet t.marks line 0 = mapGet s.marks line 0
  wf : Memory.wf s.mem → Memory.wf t.mem

/-- The sector brought to the point where the atomic is performed. -/
def State.atomStart (s : State) (u : MemUnit) (sec sc k n : Nat) : State :=
  let s1 := s.atomOpen u sec sc
  if sc < 4 then s1.noteRead u.who u.col sec (placeBytes (k % 32) (List.replicate n (0 : Byte))).2 else s1

section
variable {s : State} {u : MemUnit} {sec sc : Nat} (k n : Nat) (ho : OwnSector s u.col sec) (hfits : sc < 4 → Fits s u.col sec)
include ho

theorem State.atomOpen_below (h : sc < 4) : s.atomOpen u sec sc = s.fillSlice u.col sec := by
  unfold State.atomOpen
  split
  · rfl
  · rw [State.snoop_of_alone ho.alone]

theorem State.atomOpen_wide (h : ¬ sc < 4) : s.atomOpen u sec sc = (s.writeBack u.col sec).homeTouch sec false := by
  rw [State.atomOpen, if_neg (by omega), if_neg h, State.snoopAtom_of_alone ho.alone]

include hfits

/-- Bringing the sector there changes nothing that the column sees. -/
theorem State.atomStart_keeps : Keeps u.col sec s (s.atomStart u sec sc k n) ∧ AtomStep u sec s (s.atomStart u sec sc k n) := by
  unfold State.atomStart
  by_cases h : sc < 4
  · have hnotes := (s.fillSlice u.col sec).notes_noteRead u.who u.col sec (placeBytes (k % 32) (List.replicate n (0 : Byte))).2
    have hstep := ho.cacheStep_fillSlice (hfits h)
    have hkeeps := (ho.keeps_fillSlice (hfits h)).trans (hnotes.bytes.keeps u.col sec)
    dsimp only
    rw [if_pos h, State.atomOpen_below ho h]
    refine ⟨hkeeps, hstep.only.sameRegisters.trans hnotes.regs, hstep.toAtSector.trans (hnotes.bytes.atSector sec), (hkeeps ho).1, fun line _ => ?_, fun hwf => ?_⟩
    · rw [State.marks_noteRead, hstep.only.marks]
    · rw [hnotes.bytes.mem, ho.mem_fillSlice (hfits h)]
      exact hwf
  · have hstep := (s.cacheStep_writeBack u.col sec).trans (State.cacheStep_homeTouch _ sec false)
    have hkeeps : Keeps u.col sec s ((s.writeBack u.col sec).homeTouch sec false) :=
      (s.keeps_writeBack u.col sec).trans ((State.sameBytes_homeTouch _ sec false).keeps u.col sec)
    dsimp only
    rw [if_neg h, State.atomOpen_wide ho h]
    refine ⟨hkeeps, hstep.only.sameRegisters, hstep.toAtSector, (hkeeps ho).1, fun line _ => by rw [hstep.only.marks], fun hwf => ?_⟩
    rw [State.homeTouch_mem]
    exact s.writeBack_wf u.col sec hwf

/-- The sector's bytes there, and that no poison is met. -/
theorem State.atomView_open {a : Nat} (ha : a / 32 = sec) : ((s.atomOpen u sec sc).atomView u sec sc).2 = false
    ∧ sectorByte ((s.atomOpen u sec sc).atomView u sec sc).1 (a % 32) = if sc < 4 then s.viewByte u.col a else s.peekByte u.col a := by
  unfold State.atomView
  by_cases h : sc < 4
  · rw [if_pos h, if_pos h, State.atomOpen_below ho h]
    have hslice := ho.slice?_fillSlice (hfits h)
    refine ⟨by simp [State.slicePoison, hslice, ho.filled_poison, State.filled_valid], ?_⟩
    rw [State.sliceView, hslice]
    exact ho.filled_byte ha
  · have hkeeps : Keeps u.col sec s ((s.writeBack u.col sec).homeTouch sec false) :=
      (s.keeps_writeBack u.col sec).trans ((State.sameBytes_homeTouch _ sec false).keeps u.col sec)
    rw [if_neg h, if_neg h, State.atomOpen_wide ho h]
    refine ⟨(hkeeps ho).1.home, ?_⟩
    have h32 : 32 * sec + a % 32 = a := by omega
    dsimp only
    rw [State.sectorByte_homeSector _ _ (Nat.mod_lt _ (by omega)), h32, State.homeByte_homeTouch, State.homeByte_writeBack, if_pos ha, ho.peekByte ha]
end

/-! ### The result written -/

theorem SameBytes.symm {s t : State} (h : SameBytes s t) : SameBytes t s := ⟨fun c => (h.slice c).symm, h.mem.symm, h.poison.symm⟩

section
variable {s : State} {u : MemUnit} {sec sc off : Nat} {bs : List Byte} (ho : OwnSector s u.col sec) (hfits : sc < 4 → Fits s u.col sec)

/-- Below die scope the result is written as a store of the column would be. -/
theorem State.storeSector_atomWrite (s : State) (u : MemUnit) (sec off : Nat) (bs : List Byte) (h : sc < 4) :
    s.storeSector u sec (placeBytes off bs).1 (placeBytes off bs).2 (some sc) none = (s.atomWrite u sec off bs sc).setMark (sec / 4) none := by
  have hw : wideScope (some sc) = false := by
    simp only [wideScope, decide_eq_false_iff_not]
    omega
  rw [State.storeSector_eq, hw, if_neg nofun, State.atomWrite, if_pos h]
  rfl

theorem State.atomWrite_wide (s : State) (u : MemUnit) (sec off : Nat) (bs : List Byte) (h : ¬ sc < 4) : s.atomWrite u sec off bs sc
    = ((s.dropL1 u.col u.unit sec).evict u.col sec).homeWrite sec (placeBytes off bs).1 (placeBytes off bs).2 none := if_neg h

theorem State.sameBytes_atomWrite (s : State) (u : MemUnit) (sec off : Nat) (bs : List Byte) (h : sc < 4) :
    SameBytes (s.storeSector u sec (placeBytes off bs).1 (placeBytes off bs).2 (some sc) none) (s.atomWrite u sec off bs sc) := by
  rw [State.storeSector_atomWrite s u sec off bs h]
  exact (State.sameBytes_setMark ..).symm

include ho

theorem OwnSector.evicted (hlocal : isRemote (32 * sec) = false) : OwnSector ((s.dropL1 u.col u.unit sec).evict u.col sec) u.col sec :=
  (((s.sameBytes_setL1 u.col u.unit _).sectorSame sec).own ho).evict hlocal

include hfits

theorem State.atomStep_atomWrite (hlocal : isRemote (32 * sec) = false) : AtomStep u sec s (s.atomWrite u sec off bs sc) := by
  by_cases h : sc < 4
  · have hsame := s.sameBytes_atomWrite u sec off bs h
    have hw : wideScope (some sc) = false := by
      simp only [wideScope, decide_eq_false_iff_not]
      omega
    have hcaches : CacheOnly s ((s.l1Store u.col u.unit sec (placeBytes off bs).1 (placeBytes off bs).2).sliceStore u.col (some u.unit) sec
        (placeBytes off bs).1 (placeBytes off bs).2 (decide (3 ≤ sc))) :=
      (s.cacheStep_l1Store ..).only.trans (State.cacheOnly_sliceStore ..)
    have hwrite : s.atomWrite u sec off bs sc = ((s.l1Store u.col u.unit sec (placeBytes off bs).1 (placeBytes off bs).2).sliceStore u.col (some u.unit) sec
        (placeBytes off bs).1 (placeBytes off bs).2 (decide (3 ≤ sc))).noteFlush u.who sec := if_pos h
    refine ⟨?_, (State.atSector_storeSector (hfits h) ..).trans (hsame.atSector sec), (hsame.sectorSame sec).own (ho.storeSector (hfits h) _ _ _ hw), fun line _ => ?_,
      fun hwf => ?_⟩
    · rw [hwrite]
      exact hcaches.sameRegisters.trans (State.sameRegisters_noteFlush ..)
    · rw [hwrite, State.marks_noteFlush, hcaches.marks]
    · rw [hsame.mem]
      exact s.storeSector_wf u sec _ _ _ _ hwf
  · have hl1 := s.cacheStep_setL1 u.col u.unit sec (mapErase (s.l1 u.col u.unit) sec)
    have hstep := (hl1.trans (State.cacheStep_evict _ u.col sec)).trans (State.cacheStep_homeWrite _ sec (placeBytes off bs).1 (placeBytes off bs).2 none)
    have hown := (ho.evicted hlocal).homeWrite (State.slice?_evict ..) (placeBytes off bs).1 (placeBytes off bs).2
    rw [State.atomWrite_wide s u sec off bs h]
    refine ⟨hstep.only.sameRegisters, hstep.toAtSector, hown.1, fun line _ => congrArg (mapGet · line 0) hstep.only.marks, fun hwf => ?_⟩
    refine State.homeWrite_wf _ sec _ _ none (State.evict_wf _ u.col sec ?_)
    rw [State.dropL1, State.setL1_mem]
    exact hwf

omit hfits in
/-- The column sees the bytes written at once; at die scope or wider they stand at the home. -/
theorem State.atomWrite_byte (hlocal : isRemote (32 * sec) = false) {a : Nat} (ha : a / 32 = sec) (hin : off ≤ a % 32 ∧ a % 32 < off + bs.length) :
    (s.atomWrite u sec off bs sc).viewByte u.col a = bs[a % 32 - off]?.getD 0
    ∧ (4 ≤ sc → (s.atomWrite u sec off bs sc).homeByte a = bs[a % 32 - off]?.getD 0) := by
  have hi : a % 32 < 32 := Nat.mod_lt _ (by omega)
  have hmask : (placeBytes off bs).2.getLsbD (a % 32) = true := by rw [getLsbD_placeBytes_mask _ _ hi]; simpa using hin
  rw [← sectorByte_placeBytes off bs hi hin.1]
  by_cases h : sc < 4
  · refine ⟨?_, fun hge => absurd h (by omega)⟩
    rw [(s.sameBytes_atomWrite u sec off bs h).viewByte]
    exact State.viewByte_storeSector _ _ _ _ _ _ _ ha hmask
  · have hown := (ho.evicted (u := u) hlocal).homeWrite (State.slice?_evict ..) (placeBytes off bs).1 (placeBytes off bs).2
    have hhome : (s.atomWrite u sec off bs sc).homeByte a = sectorByte (placeBytes off bs).1 (a % 32) := by
      rw [State.atomWrite_wide s u sec off bs h, State.homeByte_homeWrite, if_pos ⟨ha, hmask⟩]
    refine ⟨?_, fun _ => hhome⟩
    rw [← hhome, State.atomWrite_wide s u sec off bs h, hown.1.viewByte ha, hown.2]
    rfl

/-- Below die scope every other byte of the sector is seen as before. -/
theorem State.atomWrite_other (h : sc < 4) {a : Nat} (ha : a / 32 = sec) (hout : ¬ (off ≤ a % 32 ∧ a % 32 < off + bs.length)) :
    (s.atomWrite u sec off bs sc).viewByte u.col a = s.viewByte u.col a := by
  have hmask : (placeBytes off bs).2.getLsbD (a % 32) = false := by rw [getLsbD_placeBytes_mask _ _ (Nat.mod_lt _ (by omega))]; simpa using hout
  rw [(s.sameBytes_atomWrite u sec off bs h).viewByte]
  exact State.viewByte_storeSector_unmasked ho.alone _ _ _ _ (hfits h) (fun x hx => (ho.slice x hx).2) ha hmask
end

end Sys2Proof.Machine
end

section
/-! A whole atomic at a place of near memory (R184, R187 to R190, R289). -/

namespace Sys2Proof.Machine

/-- The mark that a release leaves on the line of an atomic (R289). -/
def State.markAtomic (s : State) (line : Nat) (release : Option Nat) : State :=
  match release with
  | some x => if 3 ≤ x then s.setMark line (some (max x (mapGet s.marks line 0))) else s
  | none => s

theorem State.sameBytes_markAtomic (s : State) (line : Nat) (release : Option Nat) : SameBytes s (s.markAtomic line release) := by
  unfold State.markAtomic
  split
  · split
    · exact s.sameBytes_setMark ..
    · exact SameBytes.refl s
  · exact SameBytes.refl s

theorem State.sameRegisters_markAtomic (s : State) (line : Nat) (release : Option Nat) : SameRegisters s (s.markAtomic line release) := by
  unfold State.markAtomic
  split
  · split
    · exact s.sameRegisters_setMark ..
    · exact SameRegisters.refl s
  · exact SameRegisters.refl s

theorem State.marks_markAtomic (s : State) {line other : Nat} (release : Option Nat) (h : other ≠ line) :
    mapGet (s.markAtomic line release).marks other 0 = mapGet s.marks other 0 := by
  have hset : ∀ x, mapGet (s.setMark line (some x)).marks other 0 = mapGet s.marks other 0 := fun x => by
    unfold State.setMark
    dsimp only
    split
    · exact (mapGet_mapSet ..).trans (if_neg h)
    · rw [mapGet, mapGet, mapGet?_mapErase, if_neg h]
  unfold State.markAtomic
  split
  · split
    · exact hset _
    · rfl
  · rfl

/-- The scope an atomic at a place of a given one has, by the release mark of its line (R289). -/
def placeScope (s : State) (scope k : Nat) : Nat := max scope (mapGet s.marks (k / 128) 0)

section
variable {s : State} {u : MemUnit} {k n scope : Nat} (release : Option Nat) (op : Nat → Option Nat) (hin : k % 32 + n ≤ 32) (hnear : k < 0x8000000000)
  (ho : OwnSector s u.col (k / 32)) (hfits : placeScope s scope k < 4 → Fits s u.col (k / 32))
include hin hnear ho hfits

/-- An atomic finds the value at its point, and writes there what its operation stores. -/
theorem State.localAtomic_eq : s.localAtomic u k n scope release op =
    (atomSeen s u (placeScope s scope k) k n, match op (atomSeen s u (placeScope s scope k) k n) with
      | some v => ((s.atomStart u (k / 32) (placeScope s scope k) k n).atomWrite u (k / 32) (k % 32) (leBytes n v) (placeScope s scope k)).markAtomic (k / 128)
        release
      | none => s.atomStart u (k / 32) (placeScope s scope k) k n) := by
  have hline : k / 32 / 4 = k / 128 := by omega
  have hscope : s.atomScope (k / 32 / 4) scope = placeScope s scope k := by rw [hline]; rfl
  have hold : leNat (sectorBytes ((s.atomOpen u (k / 32) (placeScope s scope k)).atomView u (k / 32) (placeScope s scope k)).1 (k % 32) n)
      = atomSeen s u (placeScope s scope k) k n := by
    refine congrArg leNat (List.map_congr_left fun i hi => ?_)
    have hlt := List.mem_range.1 hi
    have hmod : (k + i) % 32 = k % 32 + i := by omega
    rw [← hmod]
    exact (State.atomView_open ho hfits (by omega)).2
  unfold State.localAtomic
  rw [isWindow_of_near hnear, if_neg nofun]
  dsimp only
  rw [hscope, hold]
  cases op (atomSeen s u (placeScope s scope k) k n) with
  | none => rfl
  | some v =>
    dsimp only
    rw [hline]
    cases release <;> rfl

theorem State.localAtomic_old : (s.localAtomic u k n scope release op).1 = atomSeen s u (placeScope s scope k) k n := by
  rw [State.localAtomic_eq release op hin hnear ho hfits]

theorem State.localAtomic_step : AtomStep u (k / 32) s (s.localAtomic u k n scope release op).2 := by
  obtain ⟨-, hstart⟩ := State.atomStart_keeps k n ho hfits
  rw [State.localAtomic_eq release op hin hnear ho hfits]
  cases op (atomSeen s u (placeScope s scope k) k n) with
  | none => exact hstart
  | some v =>
    dsimp only
    have hline : k / 32 / 4 = k / 128 := by omega
    have hwrite := State.atomStep_atomWrite (off := k % 32) (bs := leBytes n v) hstart.own (fun h => hstart.at_.fits (hfits h))
      (isRemote_of_near (by omega))
    have hmark := State.sameBytes_markAtomic ((s.atomStart u (k / 32) (placeScope s scope k) k n).atomWrite u (k / 32) (k % 32) (leBytes n v)
      (placeScope s scope k)) (k / 128) release
    refine ⟨(hstart.regs.trans hwrite.regs).trans (State.sameRegisters_markAtomic ..), (hstart.at_.trans hwrite.at_).trans (hmark.atSector _),
      (hmark.sectorSame _).own hwrite.own, fun line hl => ?_, fun hwf => ?_⟩
    · rw [State.marks_markAtomic _ _ (hline ▸ hl), hwrite.marks line hl, hstart.marks line hl]
    · rw [hmark.mem]
      exact hwrite.wf (hstart.wf hwf)

/-- The column sees the result at once; at die scope or wider it stands at the home. -/
theorem State.localAtomic_byte {v : Nat} (hop : op (atomSeen s u (placeScope s scope k) k n) = some v) {i : Nat} (hi : i < n) :
    (s.localAtomic u k n scope release op).2.viewByte u.col (k + i) = BitVec.ofNat 8 (v / 256 ^ i)
    ∧ (4 ≤ placeScope s scope k → (s.localAtomic u k n scope release op).2.homeByte (k + i) = BitVec.ofNat 8 (v / 256 ^ i)) := by
  obtain ⟨-, hstart⟩ := State.atomStart_keeps k n ho hfits
  obtain ⟨hview, hhome⟩ := State.atomWrite_byte (sc := placeScope s scope k) (bs := leBytes n v) (off := k % 32) hstart.own
    (isRemote_of_near (by omega)) (a := k + i) (by omega) (by rw [leBytes_length]; omega)
  have hidx : (k + i) % 32 - k % 32 = i := by omega
  have hbyte : (leBytes n v)[i]?.getD 0 = BitVec.ofNat 8 (v / 256 ^ i) := by
    rw [leBytes_getElem? n v i hi]
    rfl
  rw [hidx, hbyte] at hview hhome
  have hmark := State.sameBytes_markAtomic ((s.atomStart u (k / 32) (placeScope s scope k) k n).atomWrite u (k / 32) (k % 32) (leBytes n v)
    (placeScope s scope k)) (k / 128) release
  rw [State.localAtomic_eq release op hin hnear ho hfits, hop]
  exact ⟨(hmark.viewByte ..).trans hview, fun h => (hmark.homeByte _).trans (hhome h)⟩

/-- Below die scope every other byte is seen as before. -/
theorem State.localAtomic_other (hsc : placeScope s scope k < 4) {a : Nat} (ha : ¬ (k ≤ a ∧ a < k + n)) :
    (s.localAtomic u k n scope release op).2.viewByte u.col a = s.viewByte u.col a := by
  obtain ⟨hkeeps, hstart⟩ := State.atomStart_keeps k n ho hfits
  by_cases hsec : a / 32 = k / 32
  · have hview := ((hkeeps ho).2 a hsec).1
    rw [State.localAtomic_eq release op hin hnear ho hfits]
    cases op (atomSeen s u (placeScope s scope k) k n) with
    | none => exact hview
    | some v =>
      have hmark := State.sameBytes_markAtomic ((s.atomStart u (k / 32) (placeScope s scope k) k n).atomWrite u (k / 32) (k % 32) (leBytes n v)
        (placeScope s scope k)) (k / 128) release
      refine (hmark.viewByte ..).trans (Eq.trans ?_ hview)
      exact State.atomWrite_other hstart.own (fun h => hstart.at_.fits (hfits h)) hsc hsec (by rw [leBytes_length]; omega)
  · exact (State.localAtomic_step release op hin hnear ho hfits).at_.viewByte u.col hsec

/-- An operation that stores nothing leaves every byte the column sees. -/
theorem State.localAtomic_none (hop : op (atomSeen s u (placeScope s scope k) k n) = none) (a : Nat) :
    (s.localAtomic u k n scope release op).2.viewByte u.col a = s.viewByte u.col a := by
  by_cases hsec : a / 32 = k / 32
  · obtain ⟨hkeeps, -⟩ := State.atomStart_keeps k n ho hfits
    rw [State.localAtomic_eq release op hin hnear ho hfits, hop]
    exact ((hkeeps ho).2 a hsec).1
  · exact (State.localAtomic_step release op hin hnear ho hfits).at_.viewByte u.col hsec
end

theorem atomSeen_congr {s t : State} {u : MemUnit} {k n : Nat} (sc : Nat) (hin : k % 32 + n ≤ 32) (h : SectorSame (k / 32) s t) :
    atomSeen t u sc k n = atomSeen s u sc k n := by
  refine congrArg leNat (List.map_congr_left fun i hi => ?_)
  have hlt := List.mem_range.1 hi
  rw [h.viewByte u.col (by omega), h.peekByte u.col (by omega)]

/-! ### Atomics of several lanes, one after another -/

/-- Places of atomics of one length, each in a sector of the column's own, with room for them where any may be performed in the slice. -/
structure AtomPlaces (s : State) (u : MemUnit) (scope n : Nat) (l : List Nat) : Prop where
  own : ∀ k ∈ l, k % 32 + n ≤ 32 ∧ k < 0x8000000000 ∧ OwnSector s u.col (k / 32)
  room : 4 ≤ scope ∨ Room s u.col l.length

theorem AtomPlaces.head {s : State} {u : MemUnit} {scope n k : Nat} {l : List Nat} (h : AtomPlaces s u scope n (k :: l)) :
    k % 32 + n ≤ 32 ∧ k < 0x8000000000 ∧ OwnSector s u.col (k / 32) ∧ (placeScope s scope k < 4 → Fits s u.col (k / 32)) := by
  obtain ⟨hin, hnear, ho⟩ := h.own k (List.mem_cons_self ..)
  refine ⟨hin, hnear, ho, fun hsc => ?_⟩
  rcases h.room with hwide | hroom
  · unfold placeScope at hsc
    omega
  · exact hroom.fits (by simp) _

theorem AtomPlaces.tail {s t : State} {u : MemUnit} {scope n k : Nat} {l : List Nat} (h : AtomPlaces s u scope n (k :: l)) (hstep : AtomStep u (k / 32) s t) :
    AtomPlaces t u scope n l := by
  refine ⟨fun j hj => ?_, h.room.imp id fun hroom => hstep.at_.room_step hroom⟩
  obtain ⟨hin, hnear, ho⟩ := h.own j (List.mem_cons_of_mem _ hj)
  refine ⟨hin, hnear, ?_⟩
  by_cases hsec : j / 32 = k / 32
  · exact hsec ▸ hstep.own
  · exact (hstep.at_.sectorSame hsec).own ho

/-- Atomics performed one after another, each finding the old value given. -/
def InTurn {α : Type} (u : MemUnit) (scope : Nat) (n : α → Nat) (rel : α → Option Nat) (op : α → Nat → Option Nat) (place old : α → Nat) :
    State → List α → State → Prop
  | s, [], t => t = s
  | s, a :: r, t => (s.localAtomic u (place a) (n a) scope (rel a) (op a)).1 = old a
      ∧ InTurn u scope n rel op place old (s.localAtomic u (place a) (n a) scope (rel a) (op a)).2 r t

theorem atomsInTurn_iff {u : MemUnit} {scope : Nat} {rel : LaneView → Option Nat} {act : LaneView → AtomDo} {place old : LaneView → Nat} {s t : State}
    {l : List LaneView} : AtomsInTurn u scope rel act place old s l t ↔ InTurn u scope (fun lv => (act lv).n) rel (fun lv => (act lv).op) place old s l t := by
  induction l generalizing s with
  | nil => rfl
  | cons lv l ih => exact and_congr Iff.rfl ih

theorem meldsInTurn_iff {u : MemUnit} {op scope : Nat} {rel : Nat → Option Nat} {place total old : Nat → Nat} {s t : State} {l : List Nat} :
    MeldsInTurn u op scope rel place total old s l t
      ↔ InTurn u scope (fun _ => atomBytes op) rel (fun a o => some (atomNew op o (total a))) place old s l t := by
  induction l generalizing s with
  | nil => rfl
  | cons a l ih => exact and_congr Iff.rfl ih

section
variable {α : Type} {u : MemUnit} {scope : Nat} {rel : α → Option Nat} {op : α → Nat → Option Nat} {place : α → Nat}

theorem inTurn_congr {n : α → Nat} {old old' : α → Nat} {s t : State} {l : List α} (hold : ∀ a ∈ l, old' a = old a)
    (h : InTurn u scope n rel op place old s l t) : InTurn u scope n rel op place old' s l t := by
  induction l generalizing s with
  | nil => exact h
  | cons a l ih =>
    obtain ⟨hread, hrest⟩ := h
    exact ⟨hread.trans (hold a (List.mem_cons_self ..)).symm, ih (fun x hx => hold x (List.mem_cons_of_mem _ hx)) hrest⟩

/-- Atomics at places of the column's own sectors find some old values. One whose line no other names finds what was seen at first, and its result is
what the column sees at the end. -/
theorem exists_inTurn {n : Nat} (key : α → Nat) {l : List α} (hkey : (l.map key).Nodup) {s : State} (hl : AtomPlaces s u scope n (l.map place)) :
    ∃ t old, InTurn u scope (fun _ => n) rel op place old s l t ∧ SameRegisters s t
      ∧ (∀ sec, (∀ b ∈ l, place b / 32 ≠ sec) → SectorSame sec s t)
      ∧ ∀ a ∈ l, (∀ b ∈ l, key b ≠ key a → place b / 128 ≠ place a / 128) →
        old a = atomSeen s u (placeScope s scope (place a)) (place a) n
        ∧ ∀ v, op a (old a) = some v → ∀ i, i < n → t.viewByte u.col (place a + i) = BitVec.ofNat 8 (v / 256 ^ i) := by
  induction l generalizing s with
  | nil => exact ⟨s, fun _ => 0, rfl, SameRegisters.refl s, fun sec _ => SectorSame.refl sec s, fun a ha => by cases ha⟩
  | cons a l ih =>
    obtain ⟨hhead, htail⟩ := List.nodup_cons.1 hkey
    obtain ⟨hin, hnear, ho, hfits⟩ := hl.head
    have hstep := State.localAtomic_step (rel a) (op a) hin hnear ho hfits
    have hread := State.localAtomic_old (rel a) (op a) hin hnear ho hfits
    set s2 := (s.localAtomic u (place a) n scope (rel a) (op a)).2 with hs2
    obtain ⟨t, old, hrun, hregs, hsame, hlone⟩ := ih htail (hl.tail hstep)
    have hne : ∀ b ∈ l, key b ≠ key a := fun b hb heq => hhead (List.mem_map.2 ⟨b, hb, heq⟩)
    refine ⟨t, fun x => if key x = key a then atomSeen s u (placeScope s scope (place a)) (place a) n else old x, ⟨?_, ?_⟩, hstep.regs.trans hregs,
      fun sec hsec => ?_, fun b hb hlines => ?_⟩
    · exact hread.trans (if_pos rfl).symm
    · exact inTurn_congr (fun x hx => if_neg (hne x hx)) hrun
    · have hother : sec ≠ place a / 32 := fun heq => hsec a (List.mem_cons_self ..) heq.symm
      exact (hstep.at_.sectorSame hother).trans (hsame sec fun b hb => hsec b (List.mem_cons_of_mem _ hb))
    · dsimp only
      rcases List.mem_cons.1 hb with rfl | hmem
      · rw [if_pos rfl]
        refine ⟨rfl, fun v hv i hi => ?_⟩
        have hafter := hsame (place b / 32) fun c hc heq => hlines c (List.mem_cons_of_mem _ hc) (hne c hc) (by omega)
        rw [hafter.viewByte u.col (by omega)]
        exact (State.localAtomic_byte (rel b) (op b) hin hnear ho hfits hv hi).1
      · have hline : place b / 128 ≠ place a / 128 := fun heq => hlines a (List.mem_cons_self ..) (Ne.symm (hne b hmem)) heq.symm
        obtain ⟨hold, hview⟩ := hlone b hmem fun c hc => hlines c (List.mem_cons_of_mem _ hc)
        have hscope : placeScope s2 scope (place b) = placeScope s scope (place b) := by
          unfold placeScope
          rw [hstep.marks _ (by omega)]
        have hsec : place b / 32 ≠ place a / 32 := fun heq => hline (by omega)
        rw [if_neg (hne b hmem)]
        refine ⟨?_, hview⟩
        rw [hold, hscope]
        exact atomSeen_congr _ (hl.own _ (List.mem_map_of_mem (List.mem_cons_of_mem _ hmem))).1 (hstep.at_.sectorSame hsec)
end

end Sys2Proof.Machine
end

section
/-! The atomics of one instruction performed at local places (R190, R191). -/

namespace Sys2Proof.Machine

/-! ### Steps of a run -/

/-- An access that takes parts that another brought, or its own. -/
def RAccess.filledBy (a : RAccess) (parts : List RPart) : RAccess := { a with late := none, parts := parts }

/-- The one part of a local atomic. -/
def oldPart (n old : Nat) : List RPart := [⟨0, 0, n, none, some (.bytes (leBytes n old) [])⟩]

section
variable {u : MemUnit} {inTurn : Bool} {all : List (RAccess × Option Nat)} {accs : List RAccess} {s : State} {a : RAccess} {l : LateAtom} {k : Nat}
  (hlate : a.late = some l)
include hlate

/-- An access at a local place that shares no other's atomic is performed. -/
theorem AtomRun.next_performs (hlocal : isRemote k = false) (hshare : accs.find? (fun b => a.melded && b.vaddr == a.vaddr && b.late.isNone) = none) :
    AtomRun.next ⟨accs, s, [], false⟩ u inTurn all a (some k)
      = ⟨accs ++ [a.filledBy (oldPart (atomWidth l.kind)
            (s.localAtomic u k (atomWidth l.kind) l.scope l.release (fun old => atomResult l.kind l.operand l.compare old)).1)],
          (s.localAtomic u k (atomWidth l.kind) l.scope l.release (fun old => atomResult l.kind l.operand l.compare old)).2, [], false⟩ := by
  unfold AtomRun.next
  rw [hlate]
  dsimp only
  rw [List.find?_nil, hshare, hlocal]
  rfl

/-- An access of an address of a `meld` whose atomic is performed takes its bytes. -/
theorem AtomRun.next_shares {b : RAccess} (hshare : accs.find? (fun b => a.melded && b.vaddr == a.vaddr && b.late.isNone) = some b) :
    AtomRun.next ⟨accs, s, [], false⟩ u inTurn all a (some k) = ⟨accs ++ [a.filledBy b.parts], s, [], false⟩ := by
  unfold AtomRun.next
  rw [hlate]
  dsimp only
  rw [List.find?_nil, hshare]
  rfl
end

/-- Where every place is local no job waits for another. -/
theorem laterJobs_local (e : Env) {jobs : List AtomJob} (meld : Bool) (h : ∀ j ∈ jobs, isRemote j.place = false) : laterJobs e jobs meld = [] := by
  have hrefused : ∀ j ∈ jobs, refusedAtHome j.place = false := fun j hj => by simp [refusedAtHome, h j hj]
  have htied : ∀ j : AtomJob, j.tied e jobs meld = false := fun j => by
    unfold AtomJob.tied
    have h1 : (jobs.filter (fun x => x.tidx / e.unit == j.tidx / e.unit)).any (fun x => refusedAtHome x.place) = false :=
      List.any_eq_false.2 fun x hx => by simp [hrefused x (List.mem_of_mem_filter hx)]
    have h2 : (jobs.filter (fun x => x.tidx / e.unit == j.tidx / e.unit)).any (fun x => isRemote x.place) = false :=
      List.any_eq_false.2 fun x hx => by simp [h x (List.mem_of_mem_filter hx)]
    dsimp only
    rw [h1, h2]
    simp
  have hrun : ∀ l : List AtomJob, l.foldl (fun (acc : List Nat × List Nat) j =>
      if j.tied e jobs meld || acc.2.contains j.place then (acc.1 ++ [j.pos], acc.2 ++ [j.place]) else acc) ([], []) = ([], []) := fun l => by
    induction l with
    | nil => rfl
    | cons j l ih =>
      rw [List.foldl_cons, htied j]
      exact ih
  rw [laterJobs, hrun]

/-- The run of an instruction's jobs at local places: its accesses in turn, each with its place. -/
theorem runAtoms_local (s : State) (u : MemUnit) (e : Env) (f : Fields) {jobs : List AtomJob} (meld : Bool) (share : RAccess → List RAccess)
    (h : ∀ j ∈ jobs, isRemote j.place = false) : ∃ all, s.runAtoms u e f jobs meld share =
      let run := jobs.foldl (fun run j => (share (j.access f)).foldl (fun (r : AtomRun) a => r.next u meld all a (some j.place)) run) ⟨[], s, [], false⟩
      (run.accs, run.st) := by
  refine ⟨jobs.flatMap (fun j => (share (j.access f)).map (fun a => (a, some j.place))), ?_⟩
  unfold State.runAtoms State.startAtoms
  rw [laterJobs_local e meld h]
  simp only [List.contains_nil, Bool.false_eq_true, if_false, List.foldl_flatMap, List.foldl_map]

section
variable {α : Type} (u : MemUnit) (f : Fields) (meld : Bool) (all : List (RAccess × Option Nat)) (job : α → AtomJob) {old : α → Nat}

/-- The atomics of jobs that stand each for itself. -/
theorem foldl_single (huse : ∀ a, ((job a).access f).melded = false) {l : List α} (hlocal : ∀ a ∈ l, isRemote (job a).place = false) {s t : State}
    (h : InTurn u (memScope f) (fun a => atomWidth (job a).act.kind) (fun a => (job a).release) (fun a => (job a).act.op) (fun a => (job a).place) old s l t)
    (accs : List RAccess) :
    l.foldl (fun run a => [(job a).access f].foldl (fun (r : AtomRun) x => r.next u meld all x (some (job a).place)) run) ⟨accs, s, [], false⟩
      = ⟨accs ++ l.map (fun a => ((job a).access f).filledBy (oldPart (atomWidth (job a).act.kind) (old a))), t, [], false⟩ := by
  induction l generalizing s accs with
  | nil => cases h; simp
  | cons a l ih =>
    obtain ⟨hold, hrest⟩ := h
    have hnext := AtomRun.next_performs (u := u) (inTurn := meld) (all := all) (accs := accs) (s := s) (a := (job a).access f) rfl
      (hlocal a (List.mem_cons_self ..)) (List.find?_eq_none.2 fun b _ => by simp [huse a])
    rw [List.foldl_cons, List.foldl_cons, List.foldl_nil, hnext]
    erw [hold, ih (fun x hx => hlocal x (List.mem_cons_of_mem _ hx)) hrest]
    rw [List.append_assoc]
    rfl

/-- Further accesses of an address whose atomic is performed take its bytes. -/
theorem foldl_shares {b : RAccess} {v : D64} {k : Nat} {s : State} {xs : List RAccess}
    (hxs : ∀ x ∈ xs, x.vaddr = v ∧ x.melded = true ∧ x.late.isSome = true) {accs : List RAccess}
    (hb : accs.find? (fun b => b.vaddr == v && b.late.isNone) = some b) :
    xs.foldl (fun (r : AtomRun) x => r.next u meld all x (some k)) ⟨accs, s, [], false⟩ = ⟨accs ++ xs.map (·.filledBy b.parts), s, [], false⟩ := by
  induction xs generalizing accs with
  | nil => simp
  | cons x xs ih =>
    obtain ⟨hv, hmeld, hlate⟩ := hxs x (List.mem_cons_self ..)
    obtain ⟨l, hl⟩ := Option.isSome_iff_exists.1 hlate
    have hfind : accs.find? (fun b => x.melded && b.vaddr == x.vaddr && b.late.isNone) = some b := by
      rw [hmeld, hv]
      simpa using hb
    rw [List.foldl_cons, AtomRun.next_shares hl hfind, ih (fun y hy => hxs y (List.mem_cons_of_mem _ hy))
      (by rw [List.find?_append, hb]; rfl)]
    simp

/-- The atomics of addresses of a `meld`: one for each, shared by the accesses of its lanes. -/
theorem foldl_shared {share : RAccess → List RAccess} {l : List α}
    (hshare : ∀ a ∈ l, share ((job a).access f) ≠ [] ∧ ∀ x ∈ share ((job a).access f), x.vaddr = (job a).va ∧ x.melded = true
      ∧ x.late = ((job a).access f).late)
    (hlocal : ∀ a ∈ l, isRemote (job a).place = false) (hvas : (l.map (fun a => (job a).va)).Nodup) {s t : State}
    (h : InTurn u (memScope f) (fun a => atomWidth (job a).act.kind) (fun a => (job a).release) (fun a => (job a).act.op) (fun a => (job a).place) old s l t)
    {accs : List RAccess} (haccs : ∀ b ∈ accs, ∀ a ∈ l, b.vaddr ≠ (job a).va) :
    l.foldl (fun run a => (share ((job a).access f)).foldl (fun (r : AtomRun) x => r.next u meld all x (some (job a).place)) run) ⟨accs, s, [], false⟩
      = ⟨accs ++ l.flatMap (fun a => (share ((job a).access f)).map (·.filledBy (oldPart (atomWidth (job a).act.kind) (old a)))), t, [], false⟩ := by
  induction l generalizing s accs with
  | nil => cases h; simp
  | cons a l ih =>
    obtain ⟨hold, hrest⟩ := h
    obtain ⟨hhead, htail⟩ := List.nodup_cons.1 hvas
    obtain ⟨hne, hall⟩ := hshare a (List.mem_cons_self ..)
    obtain ⟨x, xs, hxs⟩ := List.exists_cons_of_ne_nil hne
    rw [hxs] at hall
    obtain ⟨hv, hmeld, hlate⟩ := hall x (List.mem_cons_self ..)
    have hnone : accs.find? (fun b => x.melded && b.vaddr == x.vaddr && b.late.isNone) = none :=
      List.find?_eq_none.2 fun b hb => by simp [hv, haccs b hb a (List.mem_cons_self ..)]
    have hnext := AtomRun.next_performs (u := u) (inTurn := meld) (all := all) (s := s) (hlate.trans rfl) (hlocal a (List.mem_cons_self ..)) hnone
    have hone : (accs ++ [x.filledBy (oldPart (atomWidth (job a).act.kind) (old a))]).find? (fun b => b.vaddr == (job a).va && b.late.isNone)
        = some (x.filledBy (oldPart (atomWidth (job a).act.kind) (old a))) := by
      rw [List.find?_append, List.find?_eq_none.2 fun b hb => by simp [haccs b hb a (List.mem_cons_self ..)]]
      simp [RAccess.filledBy, hv]
    have hfirst : (share ((job a).access f)).foldl (fun (r : AtomRun) x => r.next u meld all x (some (job a).place)) ⟨accs, s, [], false⟩
        = ⟨accs ++ (share ((job a).access f)).map (·.filledBy (oldPart (atomWidth (job a).act.kind) (old a))),
            (s.localAtomic u (job a).place (atomWidth (job a).act.kind) (memScope f) (job a).release (job a).act.op).2, [], false⟩ := by
      rw [hxs, List.foldl_cons, hnext]
      erw [hold, foldl_shares u meld all (fun y hy => ?_) hone]
      · simp [RAccess.filledBy]; rfl
      · obtain ⟨hyv, hym, hyl⟩ := hall y (List.mem_cons_of_mem _ hy)
        exact ⟨hyv, hym, by rw [hyl]; rfl⟩
    rw [List.foldl_cons, hfirst, ih (fun b hb => hshare b (List.mem_cons_of_mem _ hb)) (fun b hb => hlocal b (List.mem_cons_of_mem _ hb)) htail hrest
      (fun b hb c hc => ?_)]
    · rw [List.flatMap_cons, List.append_assoc]
    · rcases List.mem_append.1 hb with hold2 | hnew
      · exact haccs b hold2 c (List.mem_cons_of_mem _ hc)
      · obtain ⟨y, hy, rfl⟩ := List.mem_map.1 hnew
        rw [hxs] at hy
        have hyv : (y.filledBy (oldPart (atomWidth (job a).act.kind) (old a))).vaddr = (job a).va := (hall y hy).1
        rw [hyv]
        exact fun heq => hhead (List.mem_map.2 ⟨c, hc, heq.symm⟩)
end

/-! ### What a lane takes -/

theorem gather_oldPart (n old : Nat) : gather 0 (oldPart n old) = .bytes (leBytes n old) := gather_one (leBytes_length n old)

theorem filledBy_oldPart_result (a : RAccess) (n old : Nat) (e : Env) (lv : LaneView) :
    (a.filledBy (oldPart n old)).arrived = true ∧ (a.filledBy (oldPart n old)).result e lv = some (.ok (a.deliver (leBytes n old) lv) 0) := by
  have hgather : gather 0 (a.filledBy (oldPart n old)).parts = .bytes (leBytes n old) := gather_oldPart n old
  refine ⟨arrived_of_gather hgather, ?_⟩
  rw [RAccess.result, hgather]
  rfl

/-- The register an atomic of so many bytes writes. -/
def putOld (f : Fields) (n v : Nat) (lv : LaneView) : LaneView := if n = 8 then setD64 lv f (BitVec.ofNat 64 v) else setD lv f (BitVec.ofNat 32 v)

theorem putOld_mod {f : Fields} {n : Nat} (v : Nat) (lv : LaneView) (hn : n = 4 ∨ n = 8) : putOld f n (v % 256 ^ n) lv = putOld f n v lv := by
  unfold putOld
  rcases hn with rfl | rfl
  · rw [if_neg (by decide), if_neg (by decide)]
    exact congrArg (setD lv f) (BitVec.eq_of_toNat_eq (by rw [BitVec.toNat_ofNat, BitVec.toNat_ofNat]; exact Nat.mod_mod _ _))
  · rw [if_pos rfl, if_pos rfl]
    exact congrArg (setD64 lv f) (BitVec.eq_of_toNat_eq (by rw [BitVec.toNat_ofNat, BitVec.toNat_ofNat]; exact Nat.mod_mod _ _))

section
variable {f : Fields} {ls : List LaneView} (hown : OwnPositions ls)
include hown

/-- The lanes that perform, in any order, take a result each; a helper's D takes 0 (R35). -/
theorem State.finishMem_performed (s : State) (r : Row) (e : Env) {l : List LaneView} (hl : ∀ lv, lv ∈ l ↔ lv ∈ storing f ls)
    (out : LaneView → LaneView) :
    s.finishMem r f e ls (resAt (helperZeros r f (ls.filter (laneActive f)) ++ l.map fun lv => (lv.pos, LRes.ok (out lv) 0)))
      = s.commit e (laneOut f ls fun lv => if lv.helper then zeroDest r lv f else out lv) (wordsOf f) := by
  have hsub : ∀ x ∈ l, x ∈ ls := fun x hx => (mem_storing.1 ((hl x).1 hx)).1
  refine s.finishMem_eq (fun lv hlv ha => ?_) (fun lv hlv ha => ?_)
  · rw [resAt_append, resAt_helperZeros hown r hlv]
    cases hh : lv.helper with
    | false =>
      rw [if_neg (by simp), resAt_lanes_of_mem hown hsub ((hl lv).2 (mem_storing.2 ⟨hlv, ha, hh⟩))]
      simp only [Option.none_or, hh, Bool.false_eq_true, if_false, helperRes_ok]
    | true =>
      rw [if_pos ⟨ha, rfl⟩]
      simp only [Option.some_or, hh, if_true, helperRes_ok]
  · rw [resAt_append, resAt_helperZeros hown r hlv, resAt_lanes_of_not_mem hown hsub hlv fun hm => by simp [(mem_storing.1 ((hl lv).1 hm)).2.1] at ha]
    simp [ha]
end

end Sys2Proof.Machine
end

section
/-! Global atomics (R173, R187 to R190, R286, R291). -/

namespace Sys2Proof.Machine

/-! ### The instruction -/

theorem putOld_eq_mod (f : Fields) (n v : Nat) (lv : LaneView) : putOld f n v lv
    = if n = 8 then setD64 lv f (BitVec.ofNat 64 (v % 2 ^ 64)) else setD lv f (BitVec.ofNat 32 (v % 2 ^ 32)) := by
  unfold putOld
  split
  · exact congrArg (setD64 lv f) (BitVec.eq_of_toNat_eq (by rw [BitVec.toNat_ofNat, BitVec.toNat_ofNat, Nat.mod_mod]))
  · exact congrArg (setD lv f) (BitVec.eq_of_toNat_eq (by rw [BitVec.toNat_ofNat, BitVec.toNat_ofNat, Nat.mod_mod]))

section
variable {i : Instr} {r : Row} {f : Fields} {s : State} {e : Env} {ls : List LaneView} (hi : Issues i r f s e ls) (hown : OwnPositions ls)
  (hne : storing f ls ≠ []) (hwait : s.mustWait (s.memCtx e) f = false)
include hne hwait

/-- The atomics of an instruction whose lanes all pass their checks. -/
theorem doAtoms_runs {segs : LaneView → List Seg} {checks : Checked} (hchecks : checks = (storing f ls).map fun lv => (lv, AccRes.segs (segs lv)))
    (mk : State → List (LaneView × List Seg) → List AtomJob) (meld : Bool) (share : RAccess → List RAccess) :
    s.doAtoms r f e ls (ls.filter (laneActive f)) (s.memCtx e) checks mk meld share =
      let run := ((s.leaveWalks e.who (s.memCtx e).unit.col).releaseOpt (s.memCtx e).unit (releaseOf f)).runAtoms (s.memCtx e).unit e f
        (mk s ((storing f ls).map fun lv => (lv, segs lv))) meld share
      (run.2.endFences e f (storing f ls)).endAccess r f e ls (s.memCtx e) (helperZeros r f (ls.filter (laneActive f))) run.1 := by
  have hgo : ((storing f ls).map fun lv => (lv, segs lv)).isEmpty = false := by simpa using hne
  subst hchecks
  unfold State.doAtoms
  rw [performing_segs, failList_segs]
  dsimp only
  rw [map_fst_segs, hgo, hwait]
  rfl

/-- The job of a lane's atomic. -/
def laneJob (mk : Row → Fields → List LaneView → LaneView → AtomDo) (r : Row) (f : Fields) (s : State) (e : Env) (ls : List LaneView)
    (segs : LaneView → List Seg) (lv : LaneView) : AtomJob :=
  ⟨lv.pos, lv.tidx, firstPlace (segs lv), mk r f ls lv, s.releaseScope e f lv, f.dS, f.d.toNat, .fetched (mk r f ls lv).n, BitVec.ofNat 64 (globalEa ls lv f)⟩

variable {mk : Row → Fields → List LaneView → LaneView → AtomDo} (hwidth : ∀ lv, atomWidth (mk r f ls lv).kind = (mk r f ls lv).n)
  (hn : ∀ lv, (mk r f ls lv).n = 4 ∨ (mk r f ls lv).n = 8)
include hi hown hwidth hn

/-- Atomics at local places, lane after lane: D takes the old value, a helper's D takes 0. -/
theorem runMem_atomic {segs : LaneView → List Seg} (hchecks : ∀ lv ∈ storing f ls, s.checkForm (s.memCtx e) e (globalEa ls lv f) (mk r f ls lv).n .atomic
      (some (memScope f)) true = .segs (segs lv)) (hlocal : ∀ lv ∈ storing f ls, isRemote (firstPlace (segs lv)) = false) {old : LaneView → Nat} {t : State}
    (ht : InTurn (s.memCtx e).unit (memScope f) (fun lv => (mk r f ls lv).n) (s.releaseScope e f) (fun lv => (mk r f ls lv).op)
      (fun lv => firstPlace (segs lv)) old ((s.leaveWalks e.who (s.memCtx e).unit.col).releaseOpt (s.memCtx e).unit (releaseOf f)) (storing f ls) t) :
    runMem i (atomBody mk) s = ((t.endFences e f (storing f ls)).acquireOpt (s.memCtx e).unit (acquireOf f)).commit e
      (laneOut f ls fun lv => if lv.helper then zeroDest r lv f else putOld f (mk r f ls lv).n (old lv) lv) (wordsOf f) := by
  have hmap : ((storing f ls).map fun lv => (lv, s.checkForm (s.memCtx e) e (globalEa ls lv f) (mk r f ls lv).n .atomic (some (memScope f)) true))
      = (storing f ls).map fun lv => (lv, AccRes.segs (segs lv)) := List.map_congr_left fun lv hlv => by rw [hchecks lv hlv]
  have hlocal2 : ∀ j ∈ (storing f ls).map (laneJob mk r f s e ls segs), isRemote j.place = false := fun j hj => by
    obtain ⟨lv, hlv, rfl⟩ := List.mem_map.1 hj
    exact hlocal lv hlv
  set s2 := (s.leaveWalks e.who (s.memCtx e).unit.col).releaseOpt (s.memCtx e).unit (releaseOf f)
  obtain ⟨all, hrun⟩ := runAtoms_local s2 (s.memCtx e).unit e f false (fun a => [a]) hlocal2
  have hfold := foldl_single (s.memCtx e).unit f false all (laneJob mk r f s e ls segs) (old := old) (s := s2) (t := t) (fun _ => rfl) hlocal
    (by
      have hwidths : (fun lv => atomWidth (laneJob mk r f s e ls segs lv).act.kind) = fun lv => (mk r f ls lv).n := funext hwidth
      rw [hwidths]
      exact ht) []
  rw [List.nil_append] at hfold
  have haccs : List.Forall₂ (fun (lv : LaneView) (a : RAccess) => a.lane = lv.pos ∧ a.arrived = true
        ∧ a.result e lv = some (.ok (putOld f (mk r f ls lv).n (old lv) lv) 0)) (storing f ls)
      ((storing f ls).map fun lv => ((laneJob mk r f s e ls segs lv).access f).filledBy (oldPart (atomWidth (laneJob mk r f s e ls segs lv).act.kind) (old lv))) := by
    refine List.forall₂_map_right_iff.2 (List.forall₂_same.2 fun lv _ => ⟨rfl, ?_⟩)
    obtain ⟨harrived, hresult⟩ := filledBy_oldPart_result ((laneJob mk r f s e ls segs lv).access f) (atomWidth (laneJob mk r f s e ls segs lv).act.kind) (old lv) e lv
    refine ⟨harrived, hresult.trans (congrArg (fun x => some (LRes.ok x 0)) ?_)⟩
    have hdeliver : ((laneJob mk r f s e ls segs lv).access f).deliver (leBytes (atomWidth (laneJob mk r f s e ls segs lv).act.kind) (old lv)) lv
        = putOld f (mk r f ls lv).n (leNat (leBytes (atomWidth (laneJob mk r f s e ls segs lv).act.kind) (old lv))) lv := rfl
    have hw : atomWidth (laneJob mk r f s e ls segs lv).act.kind = (mk r f ls lv).n := hwidth lv
    rw [hdeliver, leNat_leBytes, hw, putOld_mod _ _ (hn lv)]
  rw [runMem_issues _ hi]
  simp only [atomBody]
  erw [hmap, walksOf_segs]
  dsimp only
  rw [doAtoms_runs hne hwait rfl]
  dsimp only
  rw [List.map_map]
  erw [hrun]
  rw [List.foldl_map]
  erw [hfold]
  rw [State.endAccess_arrived hown _ r e (s.memCtx e) _ (fun lv hlv => (mem_storing.1 hlv).1) haccs, if_neg (by simpa using hne)]
  exact State.finishMem_performed hown _ r e (fun _ => Iff.rfl) _
end

theorem atomBytes_cases (m : Nat) : atomBytes m = 4 ∨ atomBytes m = 8 := by
  unfold atomBytes
  split
  · exact .inr rfl
  · exact .inl rfl

/-- `atom` and `atomc` take as many bytes as their kind says: 4 or 8. -/
theorem atomDo_width {mk : Row → Fields → List LaneView → LaneView → AtomDo} (h : mk = atomDo ∨ mk = atomcDo) (r : Row) (f : Fields) (ls : List LaneView)
    (lv : LaneView) : atomWidth (mk r f ls lv).kind = (mk r f ls lv).n ∧ ((mk r f ls lv).n = 4 ∨ (mk r f ls lv).n = 8) := by
  rcases h with rfl | rfl
  · exact ⟨rfl, atomBytes_cases _⟩
  · refine ⟨rfl, ?_⟩
    simp only [atomcDo]
    split
    · exact .inr rfl
    · exact .inl rfl

end Sys2Proof.Machine
end

section
/-! Atomics at places of near memory that their column alone holds (R187 to R192), by conditions on the state alone. -/

namespace Sys2Proof.Machine

/-! ### The checks -/

/-- An access is as far into a frame of 64 KiB as into its page. -/
theorem Reaches.mod_page {s : State} {m : MemCtx} {kind : AccKind} {ea n k : Nat} (h : Reaches s m kind ea n k) : k % 2 ^ 16 = ea % 2 ^ 16 := by
  have hmap := h.map
  cases hx : m.xl with
  | physical c =>
    rw [hx] at hmap
    rw [hmap.1]
  | tables u asid root user =>
    rw [hx] at hmap
    obtain ⟨-, t, -, -, rfl, -⟩ := hmap
    have hframe : 2 ^ 16 ∣ pteFrame t.leaf := Dvd.intro_left _ rfl
    have hpage : 2 ^ 16 ∣ pageBytes t.size := by
      unfold pageBytes
      split_ifs <;> decide
    rw [Nat.add_mod, Nat.mod_eq_zero_of_dvd hframe, Nat.zero_add, Nat.mod_mod, Nat.mod_mod_of_dvd _ hpage]

/-- An aligned word or pair lies in one sector. -/
theorem Reaches.in_sector {s : State} {m : MemCtx} {kind : AccKind} {ea n k : Nat} (h : Reaches s m kind ea n k) (hn : n = 4 ∨ n = 8) (hal : ea % n = 0) :
    k % 32 + n ≤ 32 := by
  have := h.mod_page
  rcases hn with rfl | rfl <;> omega

/-- An atomic at a sector that its column alone holds passes step 3 of its checks (R177). -/
theorem accPoison_atomic {s : State} {u : MemUnit} {scope k : Nat} (n : Nat) (hnear : k < 0x8000000000) (ho : OwnSector s u.col (k / 32))
    (hfits : Fits s u.col (k / 32)) : s.accPoison u (some scope) .atomic n k = false := by
  unfold State.accPoison
  rw [isRemote_of_near hnear, if_neg nofun]
  dsimp only
  unfold State.atomPoisoned
  rw [isWindow_of_near hnear, if_neg nofun]
  exact (State.atomView_open (a := k) ho (fun _ => hfits) rfl).1

section
variable {f : Fields} {s : State} {e : Env} {ls : List LaneView}

/-- What a release leaves for the atomics that follow: the sectors that the column alone holds, and room for as many lanes. -/
theorem atomPlaces_release {n : Nat} {l : List Nat} (h : ∀ k ∈ l, k % 32 + n ≤ 32 ∧ k < 0x8000000000 ∧ OwnSector s (s.memCtx e).unit.col (k / 32))
    (hroom : Room s (s.memCtx e).unit.col l.length) :
    AtomPlaces ((s.leaveWalks e.who (s.memCtx e).unit.col).releaseOpt (s.memCtx e).unit (releaseOf f)) (s.memCtx e).unit (memScope f) n l := by
  set u := (s.memCtx e).unit
  have hleave := s.sameBytes_leaveWalks e.who u.col
  refine ⟨fun k hk => ?_, ?_⟩
  · obtain ⟨hin, hnear, ho⟩ := h k hk
    exact ⟨hin, hnear, (((hleave.keeps u.col (k / 32)).trans (State.keeps_releaseOpt _ u (releaseOf f) u.col (k / 32))) ho).1⟩
  · rcases Nat.lt_or_ge (memScope f) 4 with hlt | hge
    · refine .inr ?_
      cases hrel : releaseOf f with
      | none => exact hleave.room hroom
      | some x =>
        have hx : x = memScope f := by
          unfold releaseOf at hrel
          split at hrel <;> simp_all
        exact State.room_releaseAct u (by omega) (hleave.room hroom)
    · exact .inl hge

/-- A release changes nothing that an atomic finds at its place. -/
theorem atomSeen_release {n k : Nat} (hin : k % 32 + n ≤ 32) (ho : OwnSector s (s.memCtx e).unit.col (k / 32)) :
    let t := (s.leaveWalks e.who (s.memCtx e).unit.col).releaseOpt (s.memCtx e).unit (releaseOf f)
    atomSeen t (s.memCtx e).unit (placeScope t (memScope f) k) k n = atomSeen s (s.memCtx e).unit (placeScope s (memScope f) k) k n := by
  intro t
  set u := (s.memCtx e).unit
  have hmarks : t.marks = s.marks := (State.quietly_releaseOpt (s.leaveWalks e.who u.col) u (releaseOf f)).marks.trans rfl
  have hkeeps := (((s.sameBytes_leaveWalks e.who u.col).keeps u.col (k / 32)).trans (State.keeps_releaseOpt _ u (releaseOf f) u.col (k / 32))) ho
  unfold placeScope
  rw [hmarks]
  refine congrArg leNat (List.map_congr_left fun i hi => ?_)
  have hlt := List.mem_range.1 hi
  obtain ⟨hview, hpeek⟩ := hkeeps.2 (k + i) (by omega)
  rw [hview, hpeek]

theorem sameRegisters_release : SameRegisters s ((s.leaveWalks e.who (s.memCtx e).unit.col).releaseOpt (s.memCtx e).unit (releaseOf f)) :=
  (s.sameRegisters_leaveWalks e.who (s.memCtx e).unit.col).trans (State.quietly_releaseOpt _ (s.memCtx e).unit (releaseOf f)).regs

theorem length_storing_le : (storing f ls).length ≤ ls.length := (List.filter_sublist.trans List.filter_sublist).length_le
end

/-! ### `atom` and `atomc` -/

theorem atomDo_n {mk : Row → Fields → List LaneView → LaneView → AtomDo} (h : mk = atomDo ∨ mk = atomcDo) (r : Row) (f : Fields) (ls : List LaneView)
    (lv lv2 : LaneView) : (mk r f ls lv).n = (mk r f ls lv2).n := by
  rcases h with rfl | rfl <;> rfl

section
variable {i : Instr} {r : Row} {f : Fields} {s : State} {e : Env} {ls : List LaneView} {place : LaneView → Nat}
  {mk : Row → Fields → List LaneView → LaneView → AtomDo} (hi : Issues i r f s e ls) (hown : OwnPositions ls) (hne : storing f ls ≠ [])
  (hmk : mk = atomDo ∨ mk = atomcDo)
include hi hown hne hmk

theorem runMem_atomic_completes (hreach : ∀ lv ∈ storing f ls, Reaches s (s.memCtx e) .atomic (globalEa ls lv f) (mk r f ls lv).n (place lv)
      ∧ globalEa ls lv f % (mk r f ls lv).n = 0 ∧ OwnSector s (s.memCtx e).unit.col (place lv / 32))
    (hroom : Room s (s.memCtx e).unit.col (2 * ls.length)) (hwait : s.mustWait (s.memCtx e) f = false) :
    ∃ (t : State) (old : LaneView → Nat), runMem i (atomBody mk) s = ((t.endFences e f (storing f ls)).acquireOpt (s.memCtx e).unit (acquireOf f)).commit e
        (laneOut f ls fun lv => if lv.helper then zeroDest r lv f else putOld f (mk r f ls lv).n (old lv) lv) (wordsOf f)
      ∧ SameRegisters s t
      ∧ ∀ lv ∈ storing f ls, (∀ l2 ∈ storing f ls, l2.pos ≠ lv.pos → place l2 / 128 ≠ place lv / 128) →
        old lv = atomSeen s (s.memCtx e).unit (placeScope s (memScope f) (place lv)) (place lv) (mk r f ls lv).n
        ∧ ∀ v, (mk r f ls lv).op (old lv) = some v → ∀ i, i < (mk r f ls lv).n →
          t.viewByte (s.memCtx e).unit.col (place lv + i) = BitVec.ofNat 8 (v / 256 ^ i) := by
  set u := (s.memCtx e).unit
  have hn := fun lv => (atomDo_width hmk r f ls lv).2
  have hcount := length_storing_le (f := f) (ls := ls)
  obtain ⟨first, hfirst⟩ := List.exists_mem_of_ne_nil _ hne
  have hpos := List.length_pos_of_mem (mem_storing.1 hfirst).1
  have hchecks : ∀ lv, lv ∈ storing f ls → ∃ cr, s.checkForm (s.memCtx e) e (globalEa ls lv f) (mk r f ls lv).n .atomic (some (memScope f)) true
      = .segs [⟨globalEa ls lv f, (mk r f ls lv).n, place lv, cr⟩] := fun lv hlv => by
    obtain ⟨hr, hal, ho⟩ := hreach lv hlv
    exact hr.checkForm nofun e (fun _ => hal) (accPoison_atomic _ hr.lt ho (hroom.fits (by omega) _))
  choose! cr hcr using hchecks
  set n := (mk r f ls first).n with hfirstn
  have hwidth : ∀ lv, (mk r f ls lv).n = n := fun lv => atomDo_n hmk r f ls lv first
  have hplaces : ∀ lv ∈ storing f ls, place lv % 32 + n ≤ 32 ∧ place lv < 0x8000000000 ∧ OwnSector s u.col (place lv / 32) := fun lv hlv => by
    obtain ⟨hr, hal, ho⟩ := hreach lv hlv
    exact ⟨hwidth lv ▸ hr.in_sector (hn lv) hal, hr.lt, ho⟩
  obtain ⟨t, old, hrun, hregs, -, hlone⟩ := exists_inTurn (rel := s.releaseScope e f) (op := fun lv => (mk r f ls lv).op) (fun lv => lv.pos)
    (ownPositions_storing (f := f) hown) (atomPlaces_release (f := f) (l := (storing f ls).map place)
      (fun k hk => by obtain ⟨lv, hlv, rfl⟩ := List.mem_map.1 hk; exact hplaces lv hlv) (hroom.mono (by rw [List.length_map]; omega)))
  refine ⟨t, old, ?_, sameRegisters_release.trans hregs, fun lv hlv hlines => ?_⟩
  · refine runMem_atomic hi hown hne hwait (fun lv => (atomDo_width hmk r f ls lv).1) hn hcr
      (fun lv hlv => isRemote_of_near (hreach lv hlv).1.lt) ?_
    rw [show (fun lv => (mk r f ls lv).n) = fun _ => n from funext hwidth]
    exact hrun
  · obtain ⟨hold, hview⟩ := hlone lv hlv hlines
    rw [hwidth lv]
    exact ⟨hold.trans (atomSeen_release (hplaces lv hlv).1 (hplaces lv hlv).2.2), hview⟩
end

end Sys2Proof.Machine
end

section
/-! `meld`: one atomic for each address that its lanes name (R191, R192). -/

namespace Sys2Proof.Machine

/-! ### The addresses, in rising order -/

theorem sorted_insNat (x : Nat) {l : List Nat} (h : l.Pairwise (· < ·)) : (insNat x l).Pairwise (· < ·) := by
  induction l with
  | nil => simp [insNat]
  | cons y l ih =>
    obtain ⟨hy, hl⟩ := List.pairwise_cons.1 h
    unfold insNat
    split_ifs with hlt heq
    · refine List.pairwise_cons.2 ⟨fun z hz => ?_, h⟩
      rcases List.mem_cons.1 hz with rfl | hz
      · exact hlt
      · exact hlt.trans (hy z hz)
    · exact h
    · refine List.pairwise_cons.2 ⟨fun z hz => ?_, ih hl⟩
      rcases mem_insNat.1 hz with rfl | hz
      · omega
      · exact hy z hz

theorem sorted_meldAddrs (l : List Nat) : (meldAddrs l).Pairwise (· < ·) :=
  List.foldlRecOn l _ List.Pairwise.nil fun _ h x _ => sorted_insNat x h

theorem nodup_meldAddrs (l : List Nat) : (meldAddrs l).Nodup := (sorted_meldAddrs l).imp Nat.ne_of_lt

theorem mem_meldAddrs {a : Nat} {l : List Nat} : a ∈ meldAddrs l ↔ a ∈ l := by
  have hfold : ∀ (l acc : List Nat), a ∈ l.foldl (fun acc x => insNat x acc) acc ↔ a ∈ l ∨ a ∈ acc := fun l => by
    induction l with
    | nil => simp
    | cons x l ih =>
      intro acc
      rw [List.foldl_cons, ih, mem_insNat, List.mem_cons]
      tauto
  exact (hfold l []).trans (by simp)

theorem length_meldAddrs_le (l : List Nat) : (meldAddrs l).length ≤ l.length :=
  ((nodup_meldAddrs l).subperm fun _ ha => mem_meldAddrs.1 ha).length_le

/-- The operation takes as much of its operand as its width holds. -/
theorem atomNew_mod (m old b : Nat) : atomNew m old (b % 2 ^ 64) = atomNew m old b := by
  have hw : BitVec.ofNat 32 (b % 2 ^ 64) = BitVec.ofNat 32 b :=
    BitVec.eq_of_toNat_eq (by rw [BitVec.toNat_ofNat, BitVec.toNat_ofNat, Nat.mod_mod_of_dvd _ (by decide)])
  unfold atomNew
  rw [hw]
  dsimp only
  split <;> simp

/-! ### The lanes of an address -/

/-- The lanes that perform and name an address. -/
def meldLanes (f : Fields) (ls : List LaneView) (a : Nat) : List LaneView := (storing f ls).filter (fun lv => globalEa ls lv f == a)

/-- The inclusive results of the lanes of an address. -/
def meldScanned (r : Row) (f : Fields) (ls : List LaneView) (a : Nat) : List (Option Nat) :=
  meldScan f.modx.toNat (meldVals r ls f (atomBytes f.modx.toNat) (meldLanes f ls a))

/-- What the one atomic of an address takes as its operand. -/
def meldTotal (r : Row) (f : Fields) (ls : List LaneView) (a : Nat) : Nat := ((meldScanned r f ls a)[lastLane (meldLanes f ls a)]?).join.getD 0

/-- The scope of its release. -/
def meldRelease (f : Fields) (s : State) (e : Env) (ls : List LaneView) (a : Nat) : Option Nat :=
  (meldLanes f ls a).foldl (fun b lv => widest b (s.releaseScope e f lv)) none

/-- The addresses of the lanes that perform. -/
def meldNamed (f : Fields) (ls : List LaneView) : List Nat := meldAddrs ((storing f ls).map (globalEa ls · f))

/-- The job of an address at a place. -/
def addrJob (r : Row) (f : Fields) (s : State) (e : Env) (ls : List LaneView) (place : Nat → Nat) (a : Nat) : AtomJob :=
  ⟨lowLane (meldLanes f ls a), ((meldLanes f ls a).head?.map (·.tidx)).getD 0, place a,
    ⟨atomBytes f.modx.toNat, .rmw f.modx.toNat, BitVec.ofNat 64 (meldTotal r f ls a), 0⟩, meldRelease f s e ls a, f.dS, f.d.toNat,
    .meld f.modx.toNat none, BitVec.ofNat 64 a⟩

/-- What a lane combines with the old value: nothing for the lowest of its address, else the inclusive result of the lane before it. -/
def meldBefore (r : Row) (f : Fields) (ls : List LaneView) (lv : LaneView) : Option D64 :=
  if lv.pos = lowLane (meldLanes f ls (globalEa ls lv f)) then none
  else ((meldScanned r f ls (globalEa ls lv f))[lv.pos - 1]?).join.map (BitVec.ofNat 64)

/-- The value a lane takes where the atomic of its address found an old one. -/
def meldValue (r : Row) (f : Fields) (ls : List LaneView) (old : Nat → Nat) (lv : LaneView) : Nat :=
  match meldBefore r f ls lv with
  | some p => atomNew f.modx.toNat (old (globalEa ls lv f) % 256 ^ atomBytes f.modx.toNat) p.toNat
  | none => old (globalEa ls lv f) % 256 ^ atomBytes f.modx.toNat

section
variable {f : Fields} {ls : List LaneView}

theorem mem_meldLanes {lv : LaneView} {a : Nat} : lv ∈ meldLanes f ls a ↔ lv ∈ storing f ls ∧ globalEa ls lv f = a := by
  simp [meldLanes]

theorem mem_meldNamed {a : Nat} : a ∈ meldNamed f ls ↔ ∃ lv ∈ storing f ls, globalEa ls lv f = a := by
  rw [meldNamed, mem_meldAddrs, List.mem_map]

theorem meldLanes_ne_nil {a : Nat} (h : a ∈ meldNamed f ls) : meldLanes f ls a ≠ [] := by
  obtain ⟨lv, hlv, ha⟩ := mem_meldNamed.1 h
  exact List.ne_nil_of_mem (mem_meldLanes.2 ⟨hlv, ha⟩)

theorem lt_of_mem_meldNamed {a : Nat} (h : a ∈ meldNamed f ls) : a < 2 ^ 64 := by
  obtain ⟨lv, -, rfl⟩ := mem_meldNamed.1 h
  exact BitVec.isLt _

theorem toNat_of_mem_meldNamed {a : Nat} (h : a ∈ meldNamed f ls) : (BitVec.ofNat 64 a).toNat = a := by
  rw [BitVec.toNat_ofNat, Nat.mod_eq_of_lt (lt_of_mem_meldNamed h)]

theorem nodup_addresses : ((meldNamed f ls).map (BitVec.ofNat 64)).Nodup :=
  (nodup_meldAddrs _).map_on fun a ha b hb hab => by rw [← toNat_of_mem_meldNamed ha, hab, toNat_of_mem_meldNamed hb]

/-- The lanes of the addresses are those that perform. -/
theorem mem_flatMap_meldLanes {lv : LaneView} : lv ∈ (meldNamed f ls).flatMap (meldLanes f ls) ↔ lv ∈ storing f ls := by
  simp only [List.mem_flatMap, mem_meldLanes]
  exact ⟨fun ⟨_, _, h, _⟩ => h, fun h => ⟨_, mem_meldNamed.2 ⟨lv, h, rfl⟩, h, rfl⟩⟩

theorem lowLane_iff {l : List LaneView} {lv : LaneView} (h : lv ∈ l) : lv.pos = lowLane l ↔ l.all (fun x => lv.pos ≤ x.pos) = true := by
  obtain ⟨m, hm, ⟨b, hb, rfl⟩, hle⟩ := minOf_spec (fun lv : LaneView => lv.pos) h
  have hlow : lowLane l = b.pos := by rw [lowLane, hm]; rfl
  have hall : l.all (fun x => lv.pos ≤ x.pos) = true ↔ ∀ x ∈ l, lv.pos ≤ x.pos := by simp
  rw [hlow, hall]
  exact ⟨fun heq x hx => heq ▸ hle x hx, fun hmin => Nat.le_antisymm (hmin b hb) (hle lv h)⟩
end

section
variable (r : Row) {f : Fields} (s : State) (e : Env) {ls : List LaneView} {segs : LaneView → List Seg} {place : Nat → Nat}

/-- The job that the model makes of an address. -/
theorem meldJob_eq {a : Nat} (ha : a ∈ meldNamed f ls) (hplace : ∀ lv ∈ storing f ls, firstPlace (segs lv) = place (globalEa ls lv f)) :
    meldJob s r f e ls ((storing f ls).map fun lv => (lv, segs lv)) a = some (addrJob r f s e ls place a) := by
  have hmine : ((storing f ls).map fun lv => (lv, segs lv)).filter (fun p => globalEa ls p.1 f == a) = (meldLanes f ls a).map fun lv => (lv, segs lv) := by
    rw [List.filter_map]
    rfl
  obtain ⟨first, rest, hcons⟩ := List.exists_cons_of_ne_nil (meldLanes_ne_nil ha)
  obtain ⟨hfirst, hea⟩ := mem_meldLanes.1 (hcons ▸ List.mem_cons_self : first ∈ meldLanes f ls a)
  unfold meldJob
  dsimp only
  rw [hmine, map_fst_segs]
  simp only [addrJob, meldTotal, meldScanned, meldRelease, hcons, List.map_cons, List.head?_cons, Option.map_some, Option.getD_some, hplace first hfirst, hea]

theorem filterMap_meldJob (hplace : ∀ lv ∈ storing f ls, firstPlace (segs lv) = place (globalEa ls lv f)) :
    (meldAddrs (((storing f ls).map fun lv => (lv, segs lv)).map fun p => globalEa ls p.1 f)).filterMap
        (meldJob s r f e ls ((storing f ls).map fun lv => (lv, segs lv))) = (meldNamed f ls).map (addrJob r f s e ls place) := by
  rw [List.map_map]
  refine Eq.trans (List.filterMap_congr fun a ha => meldJob_eq r s e ha hplace) ?_
  exact congrFun List.filterMap_eq_map _

/-- The access of a lane, its atomic still to be performed. -/
def meldAccess (place : Nat → Nat) (ls : List LaneView) (f : Fields) (lv : LaneView) : RAccess :=
  { (addrJob r f s e ls place (globalEa ls lv f)).access f with lane := lv.pos, use := .meld f.modx.toNat (meldBefore r f ls lv) }

/-- The accesses that share an address's atomic are those of its lanes. -/
theorem meldShare_eq {a : Nat} (ha : a ∈ meldNamed f ls) :
    meldShare r f ls (storing f ls) ((addrJob r f s e ls place a).access f) = (meldLanes f ls a).map (meldAccess r s e place ls f) := by
  have hva : ((addrJob r f s e ls place a).access f).vaddr.toNat = a := toNat_of_mem_meldNamed ha
  unfold meldShare
  dsimp only
  rw [hva]
  refine List.map_congr_left fun lv hlv => ?_
  obtain ⟨-, rfl⟩ := mem_meldLanes.1 hlv
  rfl

theorem meldAccess_result (old : Nat → Nat) (lv : LaneView) :
    let a := (meldAccess r s e place ls f lv).filledBy (oldPart (atomBytes f.modx.toNat) (old (globalEa ls lv f)))
    a.lane = lv.pos ∧ a.arrived = true ∧ a.result e lv = some (.ok (putOld f (atomBytes f.modx.toNat) (meldValue r f ls old lv) lv) 0) := by
  intro a
  obtain ⟨harrived, hresult⟩ := filledBy_oldPart_result (meldAccess r s e place ls f lv) (atomBytes f.modx.toNat) (old (globalEa ls lv f)) e lv
  refine ⟨rfl, harrived, hresult.trans (congrArg (fun x => some (LRes.ok x 0)) ?_)⟩
  rw [meldValue, ← leNat_leBytes (atomBytes f.modx.toNat) (old (globalEa ls lv f))]
  rfl
end

/-! ### The instruction -/

section
variable {r : Row} {f : Fields} {s : State} {e : Env} {ls : List LaneView} (hi : Issues (.meld f) r f s e ls) (hown : OwnPositions ls)
  (hne : storing f ls ≠ []) (hwait : s.mustWait (s.memCtx e) f = false)
include hi hown hne hwait

/-- A `meld` at local places: each lane of an address takes its value from the one atomic there, a helper's D takes 0. -/
theorem runMem_meld {segs : LaneView → List Seg} {place : Nat → Nat}
    (hchecks : ∀ lv ∈ storing f ls, s.checkForm (s.memCtx e) e (globalEa ls lv f) (atomBytes f.modx.toNat) .atomic (some (memScope f)) true = .segs (segs lv))
    (hplace : ∀ lv ∈ storing f ls, firstPlace (segs lv) = place (globalEa ls lv f) ∧ isRemote (place (globalEa ls lv f)) = false)
    {old : Nat → Nat} {t : State}
    (ht : InTurn (s.memCtx e).unit (memScope f) (fun _ => atomBytes f.modx.toNat) (meldRelease f s e ls)
      (fun a o => some (atomNew f.modx.toNat o (meldTotal r f ls a))) place old
      ((s.leaveWalks e.who (s.memCtx e).unit.col).releaseOpt (s.memCtx e).unit (releaseOf f)) (meldNamed f ls) t) :
    runMem (.meld f) meldBody s = ((t.endFences e f (storing f ls)).acquireOpt (s.memCtx e).unit (acquireOf f)).commit e
      (laneOut f ls fun lv => if lv.helper then zeroDest r lv f else putOld f (atomBytes f.modx.toNat) (meldValue r f ls old lv) lv) (wordsOf f) := by
  have hmap : ((storing f ls).map fun lv => (lv, s.checkForm (s.memCtx e) e (globalEa ls lv f) (atomBytes f.modx.toNat) .atomic (some (memScope f)) true))
      = (storing f ls).map fun lv => (lv, AccRes.segs (segs lv)) := List.map_congr_left fun lv hlv => by rw [hchecks lv hlv]
  set u := (s.memCtx e).unit
  set s2 := (s.leaveWalks e.who u.col).releaseOpt u (releaseOf f)
  have hlocal : ∀ a ∈ meldNamed f ls, isRemote (addrJob r f s e ls place a).place = false := fun a ha => by
    obtain ⟨lv, hlv, rfl⟩ := mem_meldNamed.1 ha
    exact (hplace lv hlv).2
  obtain ⟨all, hrun⟩ := runAtoms_local s2 u e f (jobs := (meldNamed f ls).map (addrJob r f s e ls place)) true (meldShare r f ls (storing f ls))
    fun j hj => by obtain ⟨a, ha, rfl⟩ := List.mem_map.1 hj; exact hlocal a ha
  have hops : (fun a => (addrJob r f s e ls place a).act.op) = fun a o => some (atomNew f.modx.toNat o (meldTotal r f ls a)) :=
    funext fun a => funext fun o => by
      change some (atomNew f.modx.toNat o (BitVec.ofNat 64 (meldTotal r f ls a)).toNat) = _
      rw [BitVec.toNat_ofNat, atomNew_mod]
  have hfold := foldl_shared u f true all (addrJob r f s e ls place) (share := meldShare r f ls (storing f ls)) (old := old) (s := s2) (t := t)
    (l := meldNamed f ls) (fun a ha => by
      rw [meldShare_eq r s e ha]
      refine ⟨by simpa using meldLanes_ne_nil ha, fun x hx => ?_⟩
      obtain ⟨lv, hlv, rfl⟩ := List.mem_map.1 hx
      obtain ⟨-, rfl⟩ := mem_meldLanes.1 hlv
      exact ⟨rfl, rfl, rfl⟩) hlocal nodup_addresses (by rw [hops]; exact ht) (accs := []) (fun b hb => nomatch hb)
  have haccs : (meldNamed f ls).flatMap (fun a => (meldShare r f ls (storing f ls) ((addrJob r f s e ls place a).access f)).map
        (·.filledBy (oldPart (atomWidth (addrJob r f s e ls place a).act.kind) (old a))))
      = ((meldNamed f ls).flatMap (meldLanes f ls)).map fun lv =>
        (meldAccess r s e place ls f lv).filledBy (oldPart (atomBytes f.modx.toNat) (old (globalEa ls lv f))) := by
    rw [List.map_flatMap]
    refine List.flatMap_congr fun a ha => ?_
    rw [meldShare_eq r s e ha, List.map_map]
    refine List.map_congr_left fun lv hlv => ?_
    obtain ⟨-, rfl⟩ := mem_meldLanes.1 hlv
    rfl
  rw [List.nil_append, haccs] at hfold
  have hlanes : ((meldNamed f ls).flatMap (meldLanes f ls)).isEmpty = false := by
    obtain ⟨first, hfirst⟩ := List.exists_mem_of_ne_nil _ hne
    simpa using List.ne_nil_of_mem (mem_flatMap_meldLanes.2 hfirst)
  rw [runMem_issues _ hi]
  simp only [meldBody]
  erw [hmap, walksOf_segs]
  dsimp only
  rw [doAtoms_runs hne hwait rfl]
  dsimp only
  rw [performing_segs, map_fst_segs, filterMap_meldJob r s e fun lv hlv => (hplace lv hlv).1]
  erw [hrun]
  rw [List.foldl_map]
  erw [hfold]
  rw [State.endAccess_arrived hown _ r e (s.memCtx e) _ (fun lv hlv => (mem_storing.1 (mem_flatMap_meldLanes.1 hlv)).1)
    (List.forall₂_map_right_iff.2 (List.forall₂_same.2 fun lv _ => meldAccess_result r s e old lv)), hlanes]
  exact State.finishMem_performed hown _ r e (fun _ => mem_flatMap_meldLanes) _
end

end Sys2Proof.Machine
end

section
/-! The obligation on global atomics (R187 to R192). -/

namespace Sys2Proof.Machine

/-! ### `meld` by conditions on the state alone -/

section
variable {r : Row} {f : Fields} {s : State} {e : Env} {ls : List LaneView} {place : Nat → Nat} (hi : Issues (.meld f) r f s e ls) (hown : OwnPositions ls)
  (hne : storing f ls ≠ [])
include hi hown hne

theorem runMem_meld_completes (hreach : ∀ lv ∈ storing f ls, Reaches s (s.memCtx e) .atomic (globalEa ls lv f) (atomBytes f.modx.toNat)
        (place (globalEa ls lv f)) ∧ globalEa ls lv f % atomBytes f.modx.toNat = 0 ∧ OwnSector s (s.memCtx e).unit.col (place (globalEa ls lv f) / 32))
    (hroom : Room s (s.memCtx e).unit.col (2 * ls.length)) (hwait : s.mustWait (s.memCtx e) f = false) :
    ∃ (t : State) (old : Nat → Nat), runMem (.meld f) meldBody s = ((t.endFences e f (storing f ls)).acquireOpt (s.memCtx e).unit (acquireOf f)).commit e
        (laneOut f ls fun lv => if lv.helper then zeroDest r lv f else putOld f (atomBytes f.modx.toNat) (meldValue r f ls old lv) lv) (wordsOf f)
      ∧ SameRegisters s t
      ∧ ∀ a ∈ meldNamed f ls, (∀ b ∈ meldNamed f ls, b ≠ a → place b / 128 ≠ place a / 128) →
        old a = atomSeen s (s.memCtx e).unit (placeScope s (memScope f) (place a)) (place a) (atomBytes f.modx.toNat)
        ∧ ∀ i, i < atomBytes f.modx.toNat → t.viewByte (s.memCtx e).unit.col (place a + i)
          = BitVec.ofNat 8 (atomNew f.modx.toNat (old a) (meldTotal r f ls a) / 256 ^ i) := by
  set n := atomBytes f.modx.toNat
  have hcount : (meldNamed f ls).length ≤ ls.length :=
    (length_meldAddrs_le _).trans (by rw [List.length_map]; exact length_storing_le)
  obtain ⟨first, hfirst⟩ := List.exists_mem_of_ne_nil _ hne
  have hpos := List.length_pos_of_mem (mem_storing.1 hfirst).1
  have hchecks : ∀ lv, lv ∈ storing f ls → ∃ cr, s.checkForm (s.memCtx e) e (globalEa ls lv f) n .atomic (some (memScope f)) true
      = .segs [⟨globalEa ls lv f, n, place (globalEa ls lv f), cr⟩] := fun lv hlv => by
    obtain ⟨hr, hal, ho⟩ := hreach lv hlv
    exact hr.checkForm nofun e (fun _ => hal) (accPoison_atomic _ hr.lt ho (hroom.fits (by omega) _))
  choose! cr hcr using hchecks
  have hplaces : ∀ a ∈ meldNamed f ls, place a % 32 + n ≤ 32 ∧ place a < 0x8000000000 ∧ OwnSector s (s.memCtx e).unit.col (place a / 32) := fun a ha => by
    obtain ⟨lv, hlv, rfl⟩ := mem_meldNamed.1 ha
    obtain ⟨hr, hal, ho⟩ := hreach lv hlv
    exact ⟨hr.in_sector (atomBytes_cases _) hal, hr.lt, ho⟩
  obtain ⟨t, old, hrun, hregs, -, hlone⟩ := exists_inTurn (rel := meldRelease f s e ls)
    (op := fun a o => some (atomNew f.modx.toNat o (meldTotal r f ls a))) id (by rw [List.map_id]; exact nodup_meldAddrs _)
    (atomPlaces_release (f := f) (l := (meldNamed f ls).map place)
      (fun k hk => by obtain ⟨a, ha, rfl⟩ := List.mem_map.1 hk; exact hplaces a ha) (hroom.mono (by rw [List.length_map]; omega)))
  refine ⟨t, old, ?_, sameRegisters_release.trans hregs, fun a ha hlines => ?_⟩
  · exact runMem_meld hi hown hne hwait hcr (fun lv hlv => ⟨rfl, isRemote_of_near (hreach lv hlv).1.lt⟩) hrun
  · obtain ⟨hold, hview⟩ := hlone a ha hlines
    exact ⟨hold.trans (atomSeen_release (hplaces a ha).1 (hplaces a ha).2.2), hview _ rfl⟩
end

/-- Whether a lane is the lowest of its address decides what it takes. -/
theorem meldValue_eq {f : Fields} {ls : List LaneView} {lv : LaneView} (r : Row) (old : Nat → Nat) (h : lv ∈ storing f ls) :
    meldValue r f ls old lv = if (meldLanes f ls (globalEa ls lv f)).all (fun x => lv.pos ≤ x.pos) then
        old (globalEa ls lv f) % 256 ^ atomBytes f.modx.toNat
      else match ((meldScanned r f ls (globalEa ls lv f))[lv.pos - 1]?).join with
        | some p => atomNew f.modx.toNat (old (globalEa ls lv f) % 256 ^ atomBytes f.modx.toNat) (p % 2 ^ 64)
        | none => old (globalEa ls lv f) % 256 ^ atomBytes f.modx.toNat := by
  have hlow := lowLane_iff (mem_meldLanes.2 ⟨h, rfl⟩ : lv ∈ meldLanes f ls (globalEa ls lv f))
  unfold meldValue meldBefore
  by_cases hlv : lv.pos = lowLane (meldLanes f ls (globalEa ls lv f))
  · rw [if_pos hlv, if_pos (hlow.1 hlv)]
  · rw [if_neg hlv, if_neg fun hall => hlv (hlow.2 hall)]
    cases ((meldScanned r f ls (globalEa ls lv f))[lv.pos - 1]?).join with
    | none => rfl
    | some p => simp only [Option.map_some, BitVec.toNat_ofNat]

/-! ### The operations -/

/-- What the operations of words store (R187). -/
theorem atomNew_word (x y : W) : let v := fun m => atomNew m x.toNat y.toNat
    v 0 = (x + y).toNat ∧ v 2 = (if x.toInt ≤ y.toInt then x else y).toNat ∧ v 3 = (if x.toInt ≤ y.toInt then y else x).toNat
    ∧ v 4 = min x.toNat y.toNat ∧ v 5 = max x.toNat y.toNat ∧ v 6 = (x &&& y).toNat ∧ v 7 = (x ||| y).toNat ∧ v 8 = (x ^^^ y).toNat ∧ v 9 = y.toNat := by
  have hx : BitVec.ofNat 32 x.toNat = x := BitVec.eq_of_toNat_eq (by rw [BitVec.toNat_ofNat, Nat.mod_eq_of_lt x.isLt])
  have hy : BitVec.ofNat 32 y.toNat = y := BitVec.eq_of_toNat_eq (by rw [BitVec.toNat_ofNat, Nat.mod_eq_of_lt y.isLt])
  simp only [atomNew, hx, hy, true_and, and_true]
  constructor <;> split <;> omega

/-- What the operations of pairs store. -/
theorem atomNew_pair (x y : D64) : atomNew 10 x.toNat y.toNat = (x + y).toNat ∧ atomNew 11 x.toNat y.toNat = y.toNat :=
  ⟨(BitVec.toNat_add x y).symm, Nat.mod_eq_of_lt y.isLt⟩

/-- `atomc` of a word stores where the old value is the one compared with (R188). -/
theorem atomcDo_word (r : Row) {f : Fields} (ls : List LaneView) (lv : LaneView) (h : f.modx = 0) : (atomcDo r f ls lv).n = 4
    ∧ ∀ old, (atomcDo r f ls lv).op old = if old = (lv.read f.dS f.d.toNat).toNat then some (srcB r ls lv f).toNat else none := by
  have hnot : ¬ f.modx = 1 := by rw [h]; decide
  simp only [atomcDo, AtomDo.op, atomResult, if_neg hnot, BitVec.toNat_setWidth_of_le (show 32 ≤ 64 by decide), true_and, implies_true]

/-- `atomc` of a pair. -/
theorem atomcDo_pair (r : Row) {f : Fields} (ls : List LaneView) (lv : LaneView) (h : f.modx = 1) : (atomcDo r f ls lv).n = 8
    ∧ ∀ old, (atomcDo r f ls lv).op old = if old = (lv.read64 f.dS f.d.toNat).toNat then some (srcB64 r ls lv f).toNat else none := by
  simp only [atomcDo, AtomDo.op, atomResult, if_pos h, true_and, implies_true]

/-! ### The obligation -/

/-- `atom` and `atomc` where every lane's checks are passed. -/
theorem runMem_atomic_checked {i : Instr} {r : Row} {f : Fields} {s t : State} {e : Env} {ls : List LaneView} {segs : LaneView → Seg × List Seg}
    {mk : Row → Fields → List LaneView → LaneView → AtomDo} {old : LaneView → Nat} (hi : Issues i r f s e ls) (hown : OwnPositions ls)
    (hne : storing f ls ≠ []) (hmk : mk = atomDo ∨ mk = atomcDo)
    (hchecks : ∀ lv ∈ storing f ls, s.checkForm (s.memCtx e) e (globalEa ls lv f) (mk r f ls lv).n .atomic (some (memScope f)) true
      = .segs ((segs lv).1 :: (segs lv).2))
    (hlocal : ∀ lv ∈ storing f ls, isRemote (segs lv).1.place = false) (hwait : s.mustWait (s.memCtx e) f = false)
    (ht : AtomsInTurn (s.memCtx e).unit (memScope f) (s.releaseScope e f) (fun lv => mk r f ls lv) (fun lv => (segs lv).1.place) old
      ((s.leaveWalks e.who (s.memCtx e).unit.col).releaseOpt (s.memCtx e).unit (releaseOf f)) (storing f ls) t) :
    runMem i (atomBody mk) s = ((t.endFences e f (storing f ls)).acquireOpt (s.memCtx e).unit (acquireOf f)).commit e (laneOut f ls (fun lv =>
      if lv.helper then zeroDest r lv f
      else if (mk r f ls lv).n = 8 then setD64 lv f (BitVec.ofNat 64 (old lv % 2 ^ 64)) else setD lv f (BitVec.ofNat 32 (old lv % 2 ^ 32)))) (wordsOf f) := by
  rw [runMem_atomic hi hown hne hwait (fun lv => (atomDo_width hmk r f ls lv).1) (fun lv => (atomDo_width hmk r f ls lv).2) hchecks hlocal
    (atomsInTurn_iff.1 ht)]
  simp only [putOld_eq_mod]

/-- Settles O30: atomics at local places run lane after lane, those of a `meld` address after address; where the column alone holds each sector, the
value found is the one seen at first, and a result stands until the sector's next atomic. -/
theorem globalAtomics : Obligations.GlobalAtomics := by
  unfold Obligations.GlobalAtomics
  refine ⟨?checked, ?one, ?near, ⟨atomNew_word, atomNew_pair, fun r f ls lv => atomcDo_word r ls lv, fun r f ls lv => atomcDo_pair r ls lv⟩, ?meld, ?meldNear⟩
  case checked =>
    intro p hp r f s t e ls segs old hi hown hne m act hchecks hlocal hwait ht
    simp only [List.mem_cons, List.not_mem_nil, or_false] at hp
    rcases hp with rfl | rfl
    · exact congrArg Host.Outcome.next (runMem_atomic_checked hi hown hne (.inl rfl) hchecks hlocal hwait ht)
    · exact congrArg Host.Outcome.next (runMem_atomic_checked hi hown hne (.inr rfl) hchecks hlocal hwait ht)
  case one =>
    intro s u k n scope release op hin hpos hnear ho hroom sc r
    have hlt : k < 0x8000000000 := by omega
    have hfits : placeScope s scope k < 4 → Fits s u.col (k / 32) := fun _ => hroom.fits (Nat.le_refl 1) _
    have hstep := State.localAtomic_step release op hin hlt ho hfits
    have hold := State.localAtomic_old release op hin hlt ho hfits
    refine ⟨hold, fun v hv => ⟨fun i hi => State.localAtomic_byte release op hin hlt ho hfits (hold ▸ hv) hi,
      fun a ha c => hstep.at_.viewByte c ha, fun hsc a ha => State.localAtomic_other release op hin hlt ho hfits hsc ha⟩,
      fun hnone a => State.localAtomic_none release op hin hlt ho hfits (hold ▸ hnone) a, hstep.wf⟩
  case near =>
    intro p hp r f s e ls place hi hown hne m act hreach hroom hwait
    simp only [List.mem_cons, List.not_mem_nil, or_false] at hp
    rcases hp with rfl | rfl
    · obtain ⟨t, old, hrun, hrest⟩ := runMem_atomic_completes hi hown hne (.inl rfl) hreach hroom hwait
      exact ⟨t, old, congrArg Host.Outcome.next hrun, hrest⟩
    · obtain ⟨t, old, hrun, hrest⟩ := runMem_atomic_completes hi hown hne (.inr rfl) hreach hroom hwait
      exact ⟨t, old, congrArg Host.Outcome.next hrun, hrest⟩
  case meld =>
    intro r f s t e ls segs place old hi hown hne hpos m op n ea mine scan last hchecks hplace hwait ht
    have hrun := runMem_meld hi hown hne hwait (segs := fun lv => (segs lv).1 :: (segs lv).2) hchecks hplace (meldsInTurn_iff.1 ht)
    refine congrArg Host.Outcome.next (hrun.trans (congrArg (fun x => State.commit _ e x _) (laneRes_congr fun lv hlv ha => ?_)))
    cases hh : lv.helper with
    | true => simp only [hh, if_true]
    | false =>
      dsimp only
      rw [meldValue_eq r old (mem_storing.2 ⟨hlv, ha, hh⟩)]
      rfl
  case meldNear =>
    intro r f s e ls place hi hown hne hpos m op n ea hreach hroom hwait
    obtain ⟨t, old, hrun, hregs, hlone⟩ := runMem_meld_completes hi hown hne hreach hroom hwait
    refine ⟨t, _, congrArg Host.Outcome.next hrun, hregs, fun lv _ hh => if_pos hh, fun lv hlv hall => ?_⟩
    intro sc was vals total
    have hnamed : ∀ b ∈ meldNamed f ls, b = ea lv := fun b hb => by
      obtain ⟨l2, hl2, rfl⟩ := mem_meldNamed.1 hb
      exact (hall l2 hl2).1
    have hlanes : meldLanes f ls (ea lv) = storing f ls := List.filter_eq_self.2 fun l2 hl2 => by simpa using (hall l2 hl2).1
    obtain ⟨hold, hview⟩ := hlone (ea lv) (mem_meldNamed.2 ⟨lv, hlv, rfl⟩) fun b hb hne2 => absurd (hnamed b hb) hne2
    have htotal : meldTotal r f ls (ea lv) = total := by
      unfold meldTotal meldScanned
      rw [hlanes]
      rfl
    have hlow : (meldLanes f ls (globalEa ls lv f)).all (fun x => lv.pos ≤ x.pos) = true := by
      rw [hlanes]
      simpa using fun l2 hl2 => (hall l2 hl2).2
    refine ⟨?_, fun i hin => ?_⟩
    · rw [if_neg (by simp [(mem_storing.1 hlv).2.2]), meldValue_eq r old hlv, if_pos hlow, putOld_mod _ _ (atomBytes_cases _), hold]
      rfl
    · rw [hview i hin, hold, htotal]
      rfl

end Sys2Proof.Machine
end
